-- ==== Sys2Proof/Word.lean ====
section
/-! DEFINITION. The word types of the block (R10: little-endian, bit 0 least significant) and their plainest arithmetic. -/

namespace Sys2Proof

/-- One byte of any memory of the block. -/
abbrev Byte := BitVec 8

/-- One 64-bit register word (every set-up register is 64 bits, R392). -/
abbrev Word := BitVec 64

/-- An 8-bit status code (R13). -/
abbrev Status := BitVec 8

end Sys2Proof
end

