-- ==== Sys2Proof/Machine/Types.lean ====
section
/-! DEFINITION. The plain data that commands carry: ports, the environment of one step (what the host wrote and
which storage errors struck), Forset packets and flits, sensor readings, management bindings. -/

namespace Sys2Proof

/-- The two host ports (R387). -/
inductive PortId where
  | a | b
  deriving DecidableEq, Repr, Inhabited

/-- A storage error that strikes just before a step looks at the storage (Table 13-1). -/
inductive Upset where
  /-- Bytes of a sector that take errors, as masks: data bytes 0 to 63, check bytes 64 to 71 of a sealed sector. In a worked sector
  the nine bits of a byte of `odd` take an odd number of errors, those of a byte of `even` an even number. -/
  | dram (stack sector odd even : Nat)
  /-- An aligned 8-byte scratchpad word of cluster `cl` takes a double-bit error. -/
  | spadDouble (cl off : Nat)
  /-- An aligned 8-byte scratchpad word takes a single-bit error. -/
  | spadSingle (cl off : Nat)
  /-- A broadcast-buffer word takes a double-bit error. -/
  | bbufDouble (stack off : Nat)
  /-- A broadcast-buffer word takes a single-bit error. -/
  | bbufSingle (stack off : Nat)
  /-- The word at place `i` from the front of a drawer takes a double-bit or a single-bit error. -/
  | drawer (cl k i : Nat) (double : Bool)
  /-- A parity error in a line of the instruction cache (`instr`) or the data cache of a jig (R175). -/
  | jigCache (cl j line : Nat) (instr : Bool)
  /-- A parity error in a register that the next bundle reads (R175). -/
  | jigReg (cl j : Nat)
  /-- The array finds a parity error in the registers, the accumulators or the staging of an active slot (Table 13-1). -/
  | benchReg (stack slot : Nat)
  /-- The mitre tile loses parity in pass `pass` of the running TRANSPOSE; `second` when the repeat fails too (R205). -/
  | mitre (region pass : Nat) (second : Bool)
  /-- A transfer on an internal path is repeated (corrected), Table 13-1. -/
  | pathCorrected
  /-- A write transfer is lost: its target sector is poisoned under R76. -/
  | pathWrite (stack sector : Nat)
  /-- A read transfer is lost: the reading step meets poison without a list entry. -/
  | pathRead
  /-- An error in the data of a sector (0 to 3) of a region-cache line. -/
  | regionCache (region line sector : Nat) (uncorrectable : Bool)
  /-- A parity error in the tag of a region-cache line. -/
  | regionTag (region line : Nat)
  /-- Uncorrectable walker-table or peg SRAM of a compute die. -/
  | dieSram (d : Nat)
  /-- Uncorrectable hub SRAM. -/
  | hubSram
  deriving DecidableEq, Repr, Inhabited

/-- What the outside did between the last step and this one. -/
structure Env where
  /-- Bytes the host wrote into its own memory: port, host address, byte. -/
  hostWrites : List (PortId × Nat × Byte) := []
  /-- 64-byte host lines (port, address / 64) whose reads return poisoned data or an error completion (R398). -/
  hostBad : List (PortId × Nat) := []
  /-- Storage errors that struck. -/
  upsets : List Upset := []
  deriving DecidableEq, Repr, Inhabited

/-- A Forset packet (Table 12-4) with its data. -/
structure Packet where
  typ : BitVec 4
  locked : Bool
  detoured : Bool
  plane : BitVec 2
  epoch : BitVec 8
  tag : BitVec 16
  reqDie : BitVec 2
  detours : BitVec 2
  dst : BitVec 18
  length : BitVec 11
  hops : BitVec 3
  src : BitVec 18
  fkey : BitVec 16
  route : BitVec 12
  pegOp : BitVec 2
  addr : BitVec 46
  dropBy : BitVec 64
  data : List Byte
  deriving DecidableEq, Repr, Inhabited

/-- The fields of a received flit (Table 12-2) that every kind carries, and what its codewords were like (R314): `errors`, the symbols in
error of each codeword that ended since the flit before it; `tainted`, whether it overlaps a lost codeword counted elsewhere. -/
structure FlitHead where
  ack : BitVec 12
  cvc : BitVec 3
  credits : BitVec 11
  epoch : BitVec 8
  crc : BitVec 64
  errors : List Nat
  tainted : Bool
  deriving DecidableEq, Repr, Inhabited

/-- The pins that the boundary register covers: the sideband and low-speed pins of the signal connector (Table 17-3) and the
thermal-sensing pins, a diode or thermistor each (R418). -/
inductive Pin where
  | refclkA | refclkB | perstA | perstB | smbClk | smbDat | addrSel0 | addrSel1 | pwrEn | pwrOk | thermtrip
  | thermal (sensor : Nat)
  deriving DecidableEq, Repr, Inhabited

/-- What a boundary-scan instruction does to the pins: nothing, the register's levels (EXTEST, CLAMP), or floating (HIGHZ). -/
inductive PinDrive where
  | normal | levels | floating
  deriving DecidableEq, Repr, Inhabited

/-- What MSIX_UNMASK writes: the mask bit of a vector, cleared, or the Message Control word of the capability (R403). -/
inductive MsixWrite where
  | vector (v : Nat)
  | control (enable funcMask : Bool)
  deriving DecidableEq, Repr, Inhabited

/-- Why an end declares its link DOWN: it sees no progress itself, or the other end has stopped and nothing arrives any more (R317). -/
inductive LinkLoss where
  | noProgress (link : Nat)
  | stopped (link : Nat)
  deriving DecidableEq, Repr, Inhabited

/-- What the boot finds on the flash besides bad slots: a calibration record that fails (R411), and addresses that do not read (R419). -/
structure BootReads where
  calBad : Bool := false
  errors : List (BitVec 64) := []
  deriving DecidableEq, Repr, Inhabited

/-- One sensor reading (R368): sensor 0 to 28 a diode, 29 the inlet and 30 the outlet thermistor. -/
structure SensorReading where
  sensor : Nat
  /-- 0 none, 1 OPEN, 2 SHORT, as the measuring circuit finds. -/
  circuit : BitVec 2
  raw : BitVec 32
  /-- Temperature in millionths of a degree Celsius. -/
  microC : Int
  deriving DecidableEq, Repr, Inhabited

/-- The MCTP bindings (Table 16-1). -/
inductive Binding where
  | smbus | vdmA | vdmB
  deriving DecidableEq, Repr, Inhabited

/-- How a training attempt of a Forset link ended on the lanes and at the peer (R315, R319). -/
structure TrainResult where
  /-- Bit i: lane i trained. -/
  lanes : BitVec 8
  peerNode : BitVec 18
  peerDie : BitVec 2
  peerDir : BitVec 3
  delayNs : BitVec 16
  deriving DecidableEq, Repr, Inhabited

/-- The four timestamps of one TIME exchange (R337). -/
structure TimeStamps where
  t1 : BitVec 64
  t2 : BitVec 64
  t3 : BitVec 64
  t4 : BitVec 64
  deriving DecidableEq, Repr, Inhabited

end Sys2Proof
end

