-- ==== Sys2Proof/Syntax.lean ====
section
/-! DEFINITION. The commands of the block: one constructor per row of spec/opcode_table.json, with the operands the
rule of the row gives it. Indices are those of R8 and R9; `p` is the host port, `env` the outside of the step. -/

namespace Sys2Proof

/-- The commands and events of Pleldara (spec/opcode_table.json). -/
inductive Instr where
  -- bring-up, power and pins
  | auxPowerUp (addrSel : BitVec 2)
  | firmwareBootEnd (badSlots : List Nat) (reads : BootReads)
  | mainPowerOn (millivolts : Nat) (pwrEn : Bool)
  | mainReady (trainErr : BitVec 8)
  | mainPowerLoss (millivolts : Nat) (pwrEn : Bool)
  | mainInputDipTimeout (millivolts : Nat)
  | auxPowerLoss
  | perstAssert (p : PortId)
  | perstDeassert (p : PortId)
  | cablePresenceChange (link : Nat) (high : Bool)
  | trstAssert
  | hostLinkDown (p : PortId)
  | hostLinkUp (p : PortId)
  | hostD3hotEntry (p : PortId)
  | heartbeatWrite (p : PortId) (value : Word)
  | heartbeatLapse (p : PortId)
  | hubAliveTick
  -- set-up registers and ports
  | registerWrite (p : PortId) (off size : Nat) (value : Word)
  | portViseClaim (p : PortId) (code : BitVec 8)
  | portViseRelease (p : PortId)
  | lockHost (p : PortId)
  | lockRings (p : PortId)
  | lockFabric (p : PortId)
  | lockReset (p : PortId)
  | modeWrite (p : PortId) (mode : BitVec 2)
  | partitionLock (p : PortId) (part : Nat) (value : Word)
  | partitionLockDone (part : Nat) (env : Env)
  | ringConfigWrite (p : PortId) (ring : Nat) (value : Word)
  | msixUnmask (p : PortId) (what : MsixWrite)
  | bar4Read (p : PortId) (off size : Nat) (env : Env)
  | bar4Write (p : PortId) (off : Nat) (data : List Byte) (env : Env)
  | evtHeadWrite (p : PortId) (value : Word)
  -- rings
  | sqTail (p : PortId) (ring : Nat) (value : Word)
  | cqHead (p : PortId) (ring : Nat) (value : Word)
  | start (p : PortId) (ring : Nat)
  | stop (p : PortId) (ring : Nat)
  | abort (p : PortId) (ring : Nat)
  | graphFetch (ring : Nat) (env : Env)
  | graphEnter (ring : Nat)
  | stepAdmission (graph : Nat) (env : Env)
  | swapCopyEnd (part seq : Nat) (env : Env)
  -- walkers and tasks
  | taskPlace (task : Nat)
  | releaseAll (p : PortId) (d : Nat)
  | jigTaskStart (cl : Nat) (env : Env)
  | benchTaskActivate (i : Nat) (env : Env)
  | layoutChainStart (region : Nat) (env : Env)
  | maintTaskStart (i : Nat) (env : Env)
  | taskComplete (task : Nat) (env : Env)
  | taskTimeLimit (task : Nat)
  | waitLimit (task : Nat)
  | hostFlushReadComplete (p : PortId)
  -- jigs and presses
  | bundleExecute (cl j : Nat) (env : Env)
  | jigHaltReq (p : PortId) (cl j : Nat)
  | jigResume (p : PortId) (cl j : Nat)
  | jigStep (p : PortId) (cl j : Nat) (env : Env)
  | jigDbgDataWrite (p : PortId) (cl j : Nat) (value : Word)
  | pressOpStart (cl press : Nat) (env : Env)
  | pressOpRetire (cl press : Nat)
  | notePush (cl press : Nat)
  | shimLoadStop (cl press : Nat)
  -- benches and layout
  | benchOperationStart (i : Nat) (env : Env)
  | benchOperationEnd (i : Nat) (env : Env)
  | layoutCallEnd (region : Nat) (env : Env)
  -- stacks
  | stackModeWrite (p : PortId) (i : Nat) (sharded : Bool)
  | stackConfigLock (p : PortId) (i : Nat)
  | stackFillEnd (i : Nat)
  | retrain (p : PortId) (i : Nat) (value : Word)
  | retrainEnd (i : Nat) (repaired : Bool)
  | maintTaskEnd (i : Nat)
  | conversionResume (i : Nat) (env : Env)
  | correctedWriteback (i sector : Nat)
  | mirrorReadReturn (i sector : Nat) (env : Env)
  | scrubTick (i : Nat) (env : Env)
  | spareCopyEnd (i : Nat) (unreadable : List Nat)
  | refreshCommand (i : Nat)
  | forcedRefresh (i : Nat)
  -- Forset links
  | linkTrainEnd (link : Nat) (r : TrainResult)
  | linkTrainRetry (link : Nat)
  | nodeEnable (p : PortId) (value : Word)
  | syncEnable (p : PortId) (value : Word)
  | recal (p : PortId) (link : Nat)
  | disable (p : PortId) (link : Nat)
  | enable (p : PortId) (link : Nat)
  | linkDrainEnd (link : Nat)
  | dataFlit (link : Nat) (h : FlitHead) (seq : BitVec 12) (payload : List Byte)
  | idleFlit (link : Nat) (h : FlitHead)
  | replayFlit (link : Nat) (h : FlitHead) (seq : BitVec 12)
  | timeFlit (link : Nat) (h : FlitHead) (root : BitVec 18) (ts : TimeStamps) (parentLocked : Bool)
  | replayTimeout (link : Nat)
  | linkDownTimeout (loss : LinkLoss)
  | packetSend (link vc : Nat)
  | packetRoute (d : Nat)
  | putPacket (d : Nat) (env : Env)
  | getPacket (d : Nat) (env : Env)
  | addPacket (d : Nat) (env : Env)
  | pegPacket (d : Nat)
  | ack (d : Nat) (pkt : Packet)
  | dataResponse (d : Nat) (pkt : Packet)
  | resultResponse (d : Nat) (pkt : Packet)
  | nak (d : Nat) (pkt : Packet)
  | remoteRequestTimeout (d : Nat) (tag : BitVec 16)
  | ingressAgeDrop (d : Nat)
  | timeExchange
  | holdoverEntry
  | holdoverLimit
  -- faults, resets, watchdogs
  | dieEdgeFailure (edge : Nat)
  | dieEdgeRetrainEnd (edge : Nat)
  | clusterReset (p : PortId) (index : Nat)
  | regionReset (p : PortId) (index : Nat)
  | computeDieReset (p : PortId) (index : Nat)
  | stackLogicReset (p : PortId) (index : Nat)
  | linkReset (p : PortId) (index : Nat)
  | packageWarmReset (p : PortId)
  | resetDrainEnd (domain index : Nat)
  | domainServeAgain (domain index : Nat)
  | resetEscalation (domain index : Nat)
  | clusterWatchdog (cl : Nat)
  | layoutWatchdog (region : Nat)
  | benchWatchdog (i : Nat)
  | walkerWatchdog (d : Nat)
  | hubWatchdog
  | activationReady
  | activationTimeout
  -- power and heat
  | thermalModelUpdate (milliwatts : List (Nat × Nat))
  | sensorRead (readings : List SensorReading)
  | noSourceTimeout (n : Nat)
  | powerWindow (avgW shimW energyMj shimMj : Nat) (unpreventable : Bool)
  | restore (p : PortId) (n : Nat)
  -- management and trust
  | setEndpointId (b : Binding) (eid : BitVec 8)
  | getEndpointId (b : Binding)
  | getEndpointUuid (b : Binding)
  | getMctpVersionSupport (b : Binding) (typ : BitVec 8)
  | getMessageTypeSupport (b : Binding)
  | getVendorDefinedMsgSupport (b : Binding)
  | mctpUnsupported (b : Binding) (typ command : BitVec 8)
  | setTid (b : Binding) (tid : BitVec 8)
  | getTid (b : Binding)
  | getPldmVersion (b : Binding) (typ : BitVec 8)
  | getPldmTypes (b : Binding)
  | getPldmCommands (b : Binding) (typ : BitVec 8)
  | getPdrRepositoryInfo (b : Binding)
  | getPdr (b : Binding) (record : Nat)
  | getSensorReading (b : Binding) (id : Nat)
  | getStateSensorReadings (b : Binding) (id : Nat)
  | getNumericEffecterValue (b : Binding) (id : Nat)
  | setNumericEffecterValue (b : Binding) (id value : Nat)
  | setEventReceiver (b : Binding) (receiver : Option (BitVec 8))
  | platformEventMessage
  | platformEventRetry
  | queryDeviceIdentifiers (b : Binding)
  | getFirmwareParameters (b : Binding)
  | requestUpdate (b : Binding)
  | passComponentTable (b : Binding) (classifier : BitVec 16) (component : Nat)
  | updateComponent (b : Binding) (component : Nat) (size : Nat)
  | requestFirmwareData (b : Binding) (bytes : Nat)
  | transferComplete (b : Binding)
  | verifyComplete (b : Binding) (version : BitVec 32) (svn : BitVec 8) (sigOk : Bool)
  | applyComplete (b : Binding)
  | activateFirmware (b : Binding) (selfContained : Bool)
  | getStatus (b : Binding)
  | cancelUpdateComponent (b : Binding)
  | cancelUpdate (b : Binding)
  | getVersion (b : Binding)
  | getCapabilities (b : Binding)
  | negotiateAlgorithms (b : Binding)
  | getDigests (b : Binding)
  | getCertificate (b : Binding) (slot offset length : Nat)
  | challenge (b : Binding) (slot : Nat) (nonce : List Byte)
  | getMeasurements (b : Binding) (index : Nat) (signed : Bool) (nonce : List Byte)
  | viseClaim (b : Binding)
  | viseRelease (b : Binding)
  | regRead (b : Binding) (off : Nat)
  | regWrite (b : Binding) (off : Nat) (value : Word)
  | resetRequest (b : Binding) (domain index : Nat)
  | getFuseMap (b : Binding)
  | getCalibration (b : Binding)
  -- boundary scan
  | idcode
  | bypass
  | samplePreload (pins : List Bool)
  | extest
  | clamp
  | highz
  -- added rows
  | platformEventMessageResponse (ok : Bool)
  | flashOperationEnd (ok : Bool) (address : BitVec 64)
  | maintGranuleDone (i : Nat) (env : Env)
  | routerAgeDrop (d : Nat) (index : Nat)
  | resizableBarWrite (p : PortId) (log2GiB : Nat)
  | portReturnToD0 (p : PortId)
  | trstDeassert
  | bar0Read (p : PortId) (off size : Nat)
  deriving DecidableEq, Repr, Inhabited

end Sys2Proof
end

