-- ==== Sys2Proof/Config.lean ====
section
/-! DEFINITION. What the spec leaves free (R12): values that nothing in the model constrains. -/

namespace Sys2Proof.Config

/-- The n-th free value: what the spec calls unspecified or undefined, or on which it is silent, takes the next one
(log entry 8). No body: every statement holds whatever it is. -/
opaque freeNat : Nat → Nat

/-- The bytes of the free value number `n`, by offset, where a whole region of storage is left undefined (R176). -/
opaque freeByte : Nat → Nat → Byte

/-- Entry `i` of the free list number `n`, where a whole list of choices is left open (R176, R195). -/
opaque freeAt : Nat → Nat → Nat

/-- Contents of the identity data that the spec names without stating (signatures, digests, certificates, keys, Table 16-8,
R407, R416): document `n`, byte `i`. -/
opaque identityByte : Nat → Nat → Byte

/-- Byte `i` of the SHA-384 digest of a document (R410, R416). -/
opaque digestByte : List Byte → Nat → Byte

/-- Length of the device identity chain in certificate slot 0, in bytes (R416). -/
opaque chainLength : Nat

/-- Code of a boundary-scan instruction: 0 IDCODE, 1 BYPASS, 2 SAMPLE/PRELOAD, 3 EXTEST, 4 CLAMP, 5 HIGHZ (R418 gives none). -/
opaque tapCode : Nat → BitVec 8

/-- Harzeing's PCI-SIG identifier, the Vendor ID of both functions (R387 gives no number). -/
opaque vendorId : BitVec 16

/-- What a data register shows in its listed fields while its selector, given second, names nothing: register 0
`RST.EPOCH_DATA`, 1 `MGT.IMG_A`, 2 `MGT.IMG_B`, 3 `MGT.SVN` (the spec states no value; log entry 8). -/
opaque selWord : Nat → Nat → Nat

/-- Where in its score area ATTN_BLOCK holds its probabilities: whether all rows' lie together, by the record (R138 names no place;
equal records take the same, R48). -/
opaque probsTogether : List Byte → Bool

/-- The page size of a KV region at a channel offset of a stack, where no resident sequence tells it (R281 gives the record none). -/
opaque pageBytesAt : Nat → Nat → Nat

end Sys2Proof.Config
end

