-- ==== Sys2Proof/Machine/State.lean ====
section
/-! DEFINITION. The state of the block: every register, memory, queue, counter, mode and pin that spec/ names, as plain
data, and the queue of waiting commands. A comment behind a field gives its width, the rule that names it and where its
reset value comes from: `spec`, or `DC5` (the spec gives none, log entry 5), or `own` (the model's own field). -/

namespace Sys2Proof.Machine

/-- A sparse table: keys strictly rising, no entry that holds the table's default value (kept by every operation). -/
abbrev Tab (α : Type) := List (Nat × α)

/-- A byte memory in the canonical form: an unlisted address reads as 0 (log entry 6). -/
abbrev Memory := List Host.Cell

/-! ## Small records -/

/-- Where the boot stands (`HUB.BOOT.STAGE`, Table 15-4). -/
inductive Stage where
  | reset | auxReady | mainReady | fault
  deriving DecidableEq, Repr, Inhabited

/-- Something that left the block: an MSI-X message, data of a read, a management message, a flit, a refusal of BAR4. -/
inductive Output where
  | msix (p : PortId) (vector : Nat)
  | bar0Data (p : PortId) (value : Word)
  | bar4Data (p : PortId) (bytes : List Byte) (ep : Bool)
  | mgmt (b : Binding) (typ command : BitVec 8) (code : BitVec 8) (body : List Byte)
  | platformEvent (receiver : BitVec 8) (body : List Byte)
  | flit (link : Nat) (kind : BitVec 2) (seq ack : BitVec 12) (cvc : BitVec 3) (credits : BitVec 11) (epoch : BitVec 8)
      (payload : List Byte) (crc : BitVec 64)
  /-- A code block of RS(544,514) on a lane (R314). -/
  | codeword (link lane : Nat) (symbols : List Nat)
  /-- What an end sends during training (R319). -/
  | training (link : Nat) (node : BitVec 18) (die : BitVec 2) (dir : BitVec 3)
  | flushRead (p : PortId)
  | tap (instruction : BitVec 8) (bits : Word)
  /-- What the boundary register puts on its pins: a level, or none where a pin floats; an empty list where it drives nothing (R418). -/
  | pins (levels : List (Pin × Option Bool))
  deriving DecidableEq, Repr, Inhabited

/-- An event record (Table 13-2). -/
structure Event where
  time : BitVec 64 := 0
  seq : BitVec 32 := 0
  cls : BitVec 8 := 0
  sev : BitVec 2 := 0
  status : Status := 0
  kind : BitVec 4 := 0
  index : BitVec 12 := 0
  epoch : BitVec 8 := 0
  d0 : BitVec 32 := 0
  d1 : BitVec 64 := 0
  deriving DecidableEq, Repr, Inhabited

/-- A declared range (Table 8-7). -/
structure Range where
  channel : Bool := false
  stack : Nat := 0
  start : Nat := 0
  len : Nat := 0
  deriving DecidableEq, Repr, Inhabited

/-! ## Stacks and benches -/

/-- A granule's kind, state, mirror role, partner and POISON_ALL (Table 3-5). -/
structure Gran where
  worked : Bool := false -- KIND, 1 bit; R69; spec (sealed at cold)
  state : BitVec 2 := 0 -- STATE, 2 bits; R69; spec
  role : BitVec 2 := 0 -- MIRROR_ROLE, 2 bits; R69; spec
  partner : Nat := 0 -- PARTNER, 5 bits; R69; spec
  poisonAll : Bool := false -- POISON_ALL, 1 bit; R69; spec
  deriving DecidableEq, Repr, Inhabited

/-- A poison-list entry (Table 3-9); VALID is whether the list index is listed. -/
structure Poison where
  worked : Bool := false -- SOURCE, 1 bit; R76; spec
  sector : Nat := 0 -- SECTOR, 30 bits; R76; spec
  deriving DecidableEq, Repr, Inhabited

/-- A write that an operation holds until it may be made: into DRAM, a broadcast buffer, bench registers or a scratchpad. -/
inductive Store where
  | dram (addr : Nat) (bytes : List Byte)
  | bbuf (addr : Nat) (bytes : List Byte)
  | breg (addr : Nat) (bytes : List Byte)
  deriving DecidableEq, Repr, Inhabited

/-- A bench task in an active slot (R104 to R108). -/
structure BenchTask where
  task : Nat := 0 -- task in the slot; R106; own default
  prog : List Byte := [] -- program as fetched at activation, up to 8,224 bytes; R104, R105; own default
  next : Nat := 0 -- next operation record, 0 to 256; R107; own default
  regs : Memory := [] -- b0 to b31 of 64 benches, 1,024 bits each; R95; spec (read zero at activation)
  staged : List Store := [] -- output staging, 16 KiB; R123; own default
  clamped : Bool := false -- an index was clamped; R108; own default
  nan : Bool := false -- a NaN was zeroed; R108; own default
  failed : Status := 0 -- status of the failed operation; R108; own default
  deriving DecidableEq, Repr, Inhabited

/-- The operation that the bench array runs (R99). -/
structure BenchRun where
  slot : Nat := 0 -- slot whose operation runs, 0 to 3; R107; own default
  stores : List Store := [] -- results not yet made; R120; own default
  status : Status := 0 -- status the operation will give; R108; own default
  banks : List Nat := [] -- banks that hold the rows it reads, of which its bank set is a part; R121; own default
  deriving DecidableEq, Repr, Inhabited

/-- A running stack-maintenance operation (R70 to R72). -/
structure Maint where
  task : Nat := 0 -- MAINT task; R230; own default
  op : BitVec 8 := 0 -- OP; R70; own default
  partner : Nat := 0 -- PARTNER; R70; own default
  next : Nat := 0 -- next granule of the range; R71; own default
  last : Nat := 0 -- first granule past the range; R71; own default
  active : Bool := false -- the base die has started on `next`; R71; own default
  changed : Nat := 0 -- granules changed; R72; own default
  poisoned : Nat := 0 -- sectors newly poisoned; R72; own default
  deriving DecidableEq, Repr, Inhabited

/-- One Apdon stack with its base die and bench array. -/
structure Stack where
  sharded : Bool := false -- STK.CONFIG.MODE, 1 bit; R59, Table 3-15; spec
  correct2 : Bool := false -- STK.CONFIG.ECC_MODE, 2 bits of which 0b00 and 0b01 are held; Table 3-15; spec
  lock : Bool := false -- STK.CONFIG.LOCK, 1 bit; Table 3-15; spec
  extSlots : BitVec 5 := 8 -- STK.ARB.EXT_SLOTS, 5 bits; Table 3-16; spec
  maintSlots : BitVec 5 := 2 -- STK.ARB.MAINT_SLOTS, 5 bits; Table 3-16; spec
  periodH : BitVec 16 := 24 -- STK.SCRUB.PERIOD_H, 16 bits; Table 3-16; spec
  ceThreshold : BitVec 32 := 4096 -- STK.SPARE.CE_THRESHOLD, 32 bits; Table 3-16; spec
  initBusy : Bool := true -- STK.STATUS.INIT_BUSY, 1 bit; Table 3-17; spec (1 during cold initialisation)
  writeHold : Bool := false -- STK.STATUS.WRITE_HOLD, 1 bit; Table 3-17; spec
  refresh2x : Bool := false -- STK.STATUS.REFRESH_2X, 1 bit; Table 3-17; spec
  tempUntrusted : Bool := false -- STK.STATUS.TEMP_UNTRUSTED, 1 bit; Table 3-17; spec
  sparesUsed : BitVec 2 := 0 -- STK.STATUS.SPARES_USED, 2 bits; Table 3-17; spec
  chAbsent : BitVec 64 := 0 -- STK.CH_ABSENT and the repair record, 64 bits; Table 3-14, R82; DC5 (no channel mapped out at manufacture)
  spare0 : BitVec 8 := 0xFF -- STK.SPARE_MAP [7:0], 8 bits; Table 3-14; spec (free)
  spare1 : BitVec 8 := 0xFF -- STK.SPARE_MAP [15:8], 8 bits; Table 3-14; spec (free)
  sparing : Option (Nat × Nat) := none -- spare copy in progress: logical channel and spare; R81; spec (none)
  spareAsked : List Nat := [] -- channels that have asked while their corrected errors stay above the threshold; R81; own
  spareWanted : List Nat := [] -- channels over their limit that wait for a running copy to end; R81; own
  exhausted : List Nat := [] -- channels whose missing spare has been logged; R82; own
  granSel : BitVec 15 := 0 -- STK.GRAN_SEL, 15 bits; Table 3-14; DC5
  poisonSel : BitVec 12 := 0 -- STK.POISON_SEL, 12 bits; Table 3-14; DC5
  ceSel : BitVec 6 := 0 -- STK.CE_COUNT [21:16], 6 bits; Table 3-14; DC5
  ceEvents : List (Nat × Nat) := [] -- corrected errors (channel, device time), from which STK.CE_COUNT reads; R68, R81; DC5
  ueEvents : List (Nat × Nat) := [] -- uncorrectable events (channel, device time); R81; DC5
  forcedRefresh : BitVec 32 := 0 -- STK.BENCH_STATUS.FORCED_REFRESH, 32 bits; Table 4-12; spec
  owed : Nat := 0 -- refresh commands owed, 0 to 4; R84; DC5
  nextBank : BitVec 6 := 0 -- next bank due for refresh; R83; DC5
  refreshed : Nat := 0 -- refresh commands issued; R83; own
  retrainBusy : Bool := false -- STK.RETRAIN.BUSY, 1 bit; Table 3-18; spec
  retrainChannel : BitVec 6 := 0 -- STK.RETRAIN.CHANNEL, 6 bits; Table 3-18; spec
  retrainStatus : Status := 0 -- STK.RETRAIN.LAST_CMD_STATUS, 8 bits; Table 3-18; spec
  retrainHeld : BitVec 6 := 0 -- channel of the running retrain; R92; own
  opStart : Nat := 0 -- device time at which the bench array's latest operation started; R370; own
  restUntil : Nat := 0 -- device time until which the array's duty holds it idle; R370; own
  granules : Tab Gran := [] -- granule table, 32,768 (24,576) entries; R69; spec (sealed, IDLE, no role)
  poison : Tab (Option Poison) := [] -- poison list, 4,096 entries; R76; spec (no entry)
  latent : Tab Nat := [] -- sectors that hold errors in the DRAM array, with a mask of their bad bytes: data bytes 0 to 63, check bytes 64 to 71; R65; own (the physical store)
  writeback : List Nat := [] -- corrected sectors waiting to be written back; R68; spec (none)
  mirrorPending : List Nat := [] -- PRIMARY sectors waiting to be rewritten from the COPY; R75; spec (none)
  scrubPos : Nat := 0 -- next sector of the patrol; R80; DC5
  maintPlaced : Option Nat := none -- MAINT task placed and not started; R229; spec (none)
  maint : Option Maint := none -- running maintenance operation; R71; spec (none)
  maintDone : Bool := false -- its last granule is done; R72; own
  conversion : List (Nat × Bool) := [] -- interrupted conversions, oldest first: granule, target worked; R73; spec (none)
  benchQueue : List Nat := [] -- bench tasks queued and not active; R106; spec (empty)
  slots : Tab (Option BenchTask) := [] -- active slots 0 to 3; R107; spec (empty)
  rotation : Nat := 0 -- slot whose turn comes next; R107; DC5
  running : Option BenchRun := none -- operation in the array; R99; spec (none)
  ceCount : Nat := 0 -- corrected broadcast-buffer words counted with the stack's corrected errors; R101; DC5
  bbufBad : List Nat := [] -- uncorrectable words of the broadcast buffer; R101; spec (none)
  bbufSoft : List Nat := [] -- words of it that hold a single-bit error; R101; own (the physical store)
  deriving DecidableEq, Repr, Inhabited

/-! ## Caches, jigs, presses, clusters -/

/-- A cache line: a 256-byte region-cache line (R90), or a 64-byte jig-cache line that uses sector 0 only (Table 6-9). -/
structure CacheLine where
  line : Nat := 0 -- address divided by the line size; R90, Table 6-9
  valid : BitVec 4 := 0 -- sectors held whole; R90
  dirty : Nat := 0 -- dirty mask per byte, 256 bits; R90
  data : Memory := [] -- bytes held, by offset in the line; R90
  keep : Bool := false -- KEEP replacement; Table 3-13
  keepAge : Nat := 0 -- order in which the lines of a set became KEEP; Table 3-13; own
  writers : List (Nat × Nat) := [] -- sectors and the tasks whose writes they hold dirty; R91, R252 (own bookkeeping)
  around : List Byte × List Byte := ([], []) -- of a code line: the lines before and behind it as they stood when it was fetched; R181; own
  deriving DecidableEq, Repr, Inhabited

/-- What an outstanding ticket stands for (R168). -/
inductive TicketKind where
  | lcall | rput | rget | radd | rpeg
  deriving DecidableEq, Repr, Inhabited

/-- A ticket of a jig (R168, R169). -/
structure Ticket where
  kind : TicketKind := .lcall
  finished : Bool := false
  status : Status := 0
  result : Word := 0
  dest : List (Nat × Nat) := []
  left : Nat := 0
  flush : List (PortId × Nat) := []
  deriving DecidableEq, Repr, Inhabited

/-- A jig core with its debug block. -/
structure Jig where
  s : Tab Word := [] -- s0 to s31, 64 bits each; Table 6-1, R153; spec (read zero)
  v : Tab (BitVec 512) := [] -- v0 to v31, 512 bits each; Table 6-1, R153; spec (read zero)
  p : BitVec 8 := 0 -- p0 to p7 (p0 always reads 1); Table 6-1, R153; spec
  pc : BitVec 46 := 0 -- program counter, 46 bits; Table 6-1; spec (JIG.PC resets to 0)
  bundles : BitVec 48 := 0 -- bundle counter, JIG.BUNDLES, 48 bits; Table 6-12; spec
  icache : List CacheLine := [] -- instruction cache, 64 KiB; R174; spec (empty)
  dcache : List CacheLine := [] -- data cache, 64 KiB; R174; spec (empty)
  tickets : Tab (Option Ticket) := [] -- 16 tickets; R168; spec (free)
  halted : Bool := false -- JIG.DBG_STATUS.HALTED, 1 bit; Table 6-14; spec
  haltCode : Status := 0 -- halt code; R156; own default
  brkInsnEn : Bool := false -- JIG.DBG_CTRL.BRK_INSN_EN; Table 6-13; spec
  holdLimit : Bool := false -- JIG.DBG_CTRL.HOLD_LIMIT; Table 6-13; spec
  stopBoth : Bool := false -- JIG.DBG_CTRL.STOP_BOTH; Table 6-13; spec
  brkTagEn : Bool := false -- JIG.DBG_CTRL.BRK_TAG_EN; Table 6-13; spec
  brkCountEn : Bool := false -- JIG.DBG_CTRL.BRK_COUNT_EN; Table 6-13; spec
  stopped : Bool := false -- JIG.DBG_STATUS.STOPPED, 1 bit; Table 6-14; spec
  cause : BitVec 3 := 0 -- JIG.DBG_STATUS.CAUSE, 3 bits; Table 6-14; spec
  stepping : Bool := false -- a single step has been asked for and its bundle has not retired; R179; own
  skipBreak : Bool := false -- the next bundle runs without the break it has already taken; R179; own
  starts : List Nat := [] -- addresses that the task's control flow has reached; R176; own
  astray : Bool := false -- the program counter has been written to an address that it has not reached; R176; own
  hostPorts : List PortId := [] -- ports that the jig's host-window writes used since its last REL read them home; R249, R172; own
  flushOut : List (PortId × Nat) := [] -- reads that its REL waits for; R249; spec (none)
  relFail : Status := 0 -- the first of its host-window writes to fail; R252, R355; own
  brkCount : BitVec 48 := 0 -- JIG.BRK_COUNT.COUNT, 48 bits; Table 6-12; DC5
  brkTag : BitVec 32 := 0 -- JIG.BRK_TAG.TAG, 32 bits; Table 6-12; DC5
  dbgSel : BitVec 11 := 0 -- JIG.DBG_SEL FILE, REG, WORD, 11 bits; Table 6-15; spec
  cacheCe : BitVec 32 := 0 -- JIG.CACHE_ERR.CE, 32 bits; Table 6-12; DC5
  cacheUe : BitVec 32 := 0 -- JIG.CACHE_ERR.UE, 32 bits; Table 6-12; DC5
  deriving DecidableEq, Repr, Inhabited

/-- A press operation held by a cluster (R131 to R142). -/
structure PressOp where
  press : Nat := 0
  jig : Nat := 0
  record : List Byte := []
  reads : List (Nat × Nat) := []
  writes : List (Nat × Nat) := []
  running : Bool := false
  stores : List (Nat × List Byte) := []
  nan : Bool := false
  deriving DecidableEq, Repr, Inhabited

/-- A drawer (R144 to R150). -/
structure Drawer where
  words : List Word := [] -- words held, at most 1,024 of 64 bits; R144; spec (empty)
  packet : Bool := false -- PACKET mode; R145; spec (WORD)
  threshold : Nat := 0 -- cut-through threshold T, 0 to 1,024; R145; spec
  openBy : Nat := 0 -- producer of the open packet; R148; own
  openLeft : Nat := 0 -- payload words of the open packet not yet pushed; R148; spec (none)
  headLeft : Nat := 0 -- payload words not yet popped of the packet whose header has been popped; R148; own
  marks : List (Nat × Bool) := [] -- words in error by place from the front, true where uncorrectable; R144; own (the physical store)
  deriving DecidableEq, Repr, Inhabited

/-- A completion note not yet pushed (R149). -/
structure Note where
  press : Nat := 0
  drawer : Nat := 0
  word : Word := 0
  deriving DecidableEq, Repr, Inhabited

/-- One cluster. -/
structure Cluster where
  task : Option Nat := none -- CLU.STATUS.TASK_ACTIVE: the owning task; Table 5-10; spec
  begun : Bool := false -- the jigs have been started on their program; R155; own
  ended : Status := 0 -- the status that ended the task early; R156; own
  jig0 : Jig := {}
  jig1 : Jig := {}
  queue : List PressOp := [] -- press queue, up to 32 operations, in issue order; R131; spec (empty)
  drawers : Tab Drawer := [] -- drawers 0 to 7; R144; spec (empty, WORD, 0)
  notes : List Note := [] -- completion notes not yet pushed, up to 4 for each press; R149; spec (none)
  notesDropped : BitVec 16 := 0 -- CLU.STATUS.NOTES_DROPPED, 16 bits; Table 5-10; spec
  shim : BitVec 4 := 0 -- CLU.STATUS.SHIM, 4 bits; Table 5-10; spec
  spCe : BitVec 32 := 0 -- CLU.SP_ECC.CE, 32 bits; Table 5-9; DC5
  spUe : BitVec 32 := 0 -- CLU.SP_ECC.UE, 32 bits; Table 5-9; DC5
  spBad : Option (BitVec 22) := none -- CLU.SP_BAD VALID and offset; Table 5-9; DC5
  dwCe : BitVec 32 := 0 -- CLU.DRAWER_ECC.CE, 32 bits; Table 5-9; DC5
  dwUe : BitVec 32 := 0 -- CLU.DRAWER_ECC.UE, 32 bits; Table 5-9; DC5
  retired : BitVec 64 := 0 -- CLU.PRESS_RETIRED, 64 bits; Table 5-9; DC5
  badWords : List Nat := [] -- uncorrectable scratchpad words by offset; R130; spec (none)
  softWords : List Nat := [] -- scratchpad words that hold a single-bit error; R130; own (the physical store)
  nanZeroed : Bool := false -- a VPENC of the task zeroed a NaN; R156; own
  limitHeldSince : Option Nat := none -- device time since which a stopped jig with HOLD_LIMIT holds the limit; R179; own
  putFailed : Bool := false -- a remote put of the task failed; R156; own
  deriving DecidableEq, Repr, Inhabited

/-! ## Layout engines -/

/-- Who submitted a layout chain (R182): a task, a jig's ticket, or the KV manager's swap (R277). -/
inductive ChainOwner where
  | task (t : Nat)
  | ticket (cl j t : Nat)
  | swap (part seq : Nat)
  deriving DecidableEq, Repr, Inhabited

/-- A chain held by an engine (R183, R184). -/
structure Chain where
  owner : ChainOwner := .task 0
  task : Nat := 0
  addr : Nat := 0
  calls : Nat := 0
  started : Bool := false
  busy : Bool := false
  next : Nat := 0
  transposing : Bool := false
  hint : Nat := 0
  stores : List Store := []
  passes : List Nat := []
  clamps : Nat := 0
  pow2 : Nat := 0
  nans : Nat := 0
  status : Status := 0
  /-- Ports that the chain's own host-window writes used, and the first of those writes to fail (R249, R252). -/
  hostPorts : List PortId := []
  relFail : Status := 0
  /-- The chain's own wait for write hold-offs: since when, of which stacks, and how long it has waited past its task's limit (R357). -/
  stallSince : Option Nat := none
  stallOn : List Nat := []
  stallNs : Nat := 0
  deriving DecidableEq, Repr, Inhabited

/-- One region: its layout engine and `LAY` block, and its region cache. -/
structure Region where
  chains : List Chain := [] -- chains running and queued, up to 64; R183; spec (none)
  waiting : List Chain := [] -- LCALL chains waiting for a place; R183; spec (none)
  calls : BitVec 64 := 0 -- LAY.CALLS, 64 bits; Table 7-9; DC5
  mitreUe : BitVec 32 := 0 -- LAY.ERRORS.MITRE_UE, 32 bits; Table 7-10; spec
  mitreCe : BitVec 32 := 0 -- LAY.ERRORS.MITRE_CE, 32 bits; Table 7-10; spec
  mitreFail : Option Nat := none -- the pass of the running TRANSPOSE that has failed twice; R205; own (environment)
  mitreAgain : List Nat := [] -- the passes of the running TRANSPOSE that have been repeated; R205; own (environment)
  cache : List CacheLine := [] -- region cache, 65,536 lines of 256 bytes, most recently used first; R90; spec (contents lost)
  deriving DecidableEq, Repr, Inhabited

/-! ## Rings, graphs, tasks -/

/-- A peg wait (Table 8-8). -/
structure PegWait where
  peg : Nat := 0
  value : BitVec 32 := 0
  met : Bool := false
  deriving DecidableEq, Repr, Inhabited

/-- A peg operation on completion (Table 8-9). -/
structure PegOp where
  addr : BitVec 64 := 0
  value : BitVec 32 := 0
  remote : Bool := false
  when_ : BitVec 2 := 0
  add : Bool := false
  deriving DecidableEq, Repr, Inhabited

/-- A task descriptor as the front end keeps it (Table 8-6). -/
structure TaskDesc where
  kind : Nat := 0
  priority : Nat := 0
  onFail : Bool := false
  affinity : Nat := 0
  pin : Bool := false
  place : Nat := 0
  predCount : Nat := 0
  ins : List Range := []
  outs : List Range := []
  timeLimitUs : Nat := 0
  code : Nat := 0
  tag : BitVec 64 := 0
  deadline : BitVec 64 := 0
  succs : List Nat := []
  waitLimitMs : Nat := 0
  waits : List PegWait := []
  pegOps : List PegOp := []
  deriving DecidableEq, Repr, Inhabited

/-- Task states (Table 8-11). -/
inductive TaskState where
  | pending | waiting | ready | held | placed | running | completed
  deriving DecidableEq, Repr, Inhabited

/-- The parts of a task's work that a write hold-off can keep back (R357): a jig's bundle, the bytes that answer a remote read, the
running call of an engine, the release. -/
inductive Staller where
  | jig (j : Nat) | answer | engine (r : Nat) | release
  deriving DecidableEq, Repr, Inhabited

/-- A task in a walker's table (R227). -/
structure Task where
  graph : Nat := 0
  index : Nat := 0
  die : Nat := 0
  part : Nat := 0
  desc : TaskDesc := {}
  state : TaskState := .pending
  preds : Nat := 0
  predFailed : Bool := false
  waitSince : Nat := 0
  started : Bool := false
  startTime : Nat := 0
  endTime : Nat := 0
  unit : Option Nat := none
  workDone : Bool := false
  status : Status := 0
  result : Word := 0
  hostPorts : List PortId := []
  flushOut : List (PortId × Nat) := []
  remoteSent : Bool := false
  remoteLeft : Nat := 0
  limitHit : Bool := false
  stopped : Bool := false
  relFail : Status := 0
  relFailAt : Nat := 0 -- device time of that failure (R253)
  pausedNs : Nat := 0
  stallSince : Option Nat := none
  stallOn : List (Staller × Nat) := [] -- the parts of its work that wait for write hold-offs, each with a stack (R357)
  stallNs : Nat := 0
  recorded : Bool := false
  mirrors : List Nat := [] -- the partner stacks that its mirror operation uses (R82)
  pegNews : List (Nat × BitVec 32) := [] -- values of pegs on their way to its waits over a die edge that retrains (R18, R238)
  entry : Bool := true -- it holds an entry of its walker's table, which a reset of the die loses (R246, Table 13-6)
  deriving DecidableEq, Repr, Inhabited

/-- A graph that has passed its checks (R223), waiting to enter or handed over. -/
structure Graph where
  ring : Nat := 0
  part : Nat := 0
  sqCount : BitVec 32 := 0
  userTag : BitVec 64 := 0
  resultAddr : Nat := 0
  stepAddr : Nat := 0
  tasks : List TaskDesc := []
  dies : List Nat := []
  left : Nat := 0
  failed : Nat := 0
  skipped : Nat := 0
  firstFail : Option (Nat × Nat × Status) := none
  stepFail : Option (Nat × Nat × Status) := none
  best : Status := 0
  bestTask : Nat := 0
  dropped : Option Nat := none
  admitted : Bool := true
  endTime : Nat := 0
  admitStart : Option Word := none -- the device time t0 at which its step's admission began (R298)
  heldDies : List Nat := [] -- dies to which the word of its admission is on its way over an edge that retrains (R18)
  deriving DecidableEq, Repr, Inhabited

/-- Ring states (R217). -/
inductive RingState where
  | stopped | running | stopping
  deriving DecidableEq, Repr, Inhabited

/-- A completion held in the hub (R215). -/
structure Completion where
  userTag : BitVec 64 := 0
  endTime : BitVec 64 := 0
  sqCount : BitVec 32 := 0
  failed : BitVec 16 := 0
  skipped : BitVec 16 := 0
  firstValid : Bool := false
  firstTask : BitVec 14 := 0
  status : Status := 0
  dropped : Option Nat := none
  deriving DecidableEq, Repr, Inhabited

/-- A ring's registers and counters. -/
structure Ring where
  sqBase : BitVec 40 := 0 -- RING.SQ_BASE.ADDR [45:6], 40 bits; Table 8-16; DC5
  cqBase : BitVec 40 := 0 -- RING.CQ_BASE.ADDR [45:6], 40 bits; Table 8-16; DC5
  irqEn : Bool := false -- RING.CONFIG.IRQ_EN; Table 8-17; spec
  vector : BitVec 11 := 0 -- RING.CONFIG.VECTOR, 11 bits; Table 8-17; spec
  assigned : Bool := false -- RING.CONFIG.ASSIGNED; Table 8-17; spec
  part : BitVec 4 := 0 -- RING.CONFIG.PARTITION, 4 bits; Table 8-17; spec
  portB : Bool := false -- RING.CONFIG.PORT; Table 8-17; spec
  cqLog2 : BitVec 5 := 4 -- RING.CONFIG.CQ_LOG2, 5 bits; Table 8-17; spec
  sqLog2 : BitVec 5 := 4 -- RING.CONFIG.SQ_LOG2, 5 bits; Table 8-17; spec
  lastCmd : Status := 0 -- RING.STATUS.LAST_CMD_STATUS, 8 bits; Table 8-17; spec
  state : RingState := .stopped -- RING.STATUS.STATE; Table 8-17; spec
  sqHead : BitVec 32 := 0 -- RING.STATUS.SQ_HEAD, 32 bits; Table 8-17; spec
  sqTail : BitVec 32 := 0 -- submission tail, 32 bits; R211; DC5
  cqHead : BitVec 32 := 0 -- RING.CQ_STATE.CQ_HEAD, 32 bits; Table 8-16; DC5
  cqTail : BitVec 32 := 0 -- RING.CQ_STATE.CQ_TAIL, 32 bits; Table 8-16; DC5
  held : List Completion := [] -- completions held in the hub; R215; spec (none)
  graphs : Nat := 0 -- RING.GRAPHS, 11 bits; Table 8-16; DC5
  waiting : Option Graph := none -- checked graph waiting to enter; R225; spec (none)
  waitSeq : Nat := 0 -- age of the waiting graph; R225; own
  deriving DecidableEq, Repr, Inhabited

/-- A walker's registers. -/
structure Walker where
  lastCmd : Status := 0 -- WLK.STATUS.LAST_CMD_STATUS, 8 bits; Table 8-18; spec
  waitLimitMs : BitVec 16 := 100 -- WLK.LIMITS.WAIT_LIMIT_MS, 16 bits; Table 8-18; spec
  taskLimitUs : BitVec 32 := 1000000 -- WLK.LIMITS.TASK_LIMIT_US, 32 bits; Table 8-18; spec
  brkEn : Bool := false -- WLK.BRK.EN; Table 8-18; spec
  brkTag : BitVec 32 := 0 -- WLK.BRK.TAG, 32 bits; Table 8-18; spec
  startedCount : BitVec 64 := 0 -- WLK.STARTED.COUNT, 64 bits; Table 8-18; spec
  deriving DecidableEq, Repr, Inhabited

/-! ## Partitions, KV, veneers, serving steps -/

/-- A window register pair (Table 15-8). -/
structure Window where
  en : Bool := false -- PART.WIN_BASE.EN; Table 15-8; spec
  write : Bool := false -- PART.WIN_BASE.WRITE; Table 15-8; spec
  base : BitVec 34 := 0 -- PART.WIN_BASE.BASE [45:12], 34 bits; Table 15-8; spec
  limit : BitVec 34 := 0 -- PART.WIN_LIMIT.LIMIT [45:12], 34 bits; Table 15-8; spec
  deriving DecidableEq, Repr, Inhabited

/-- States of a sequence (Table 10-4). -/
inductive KvState where
  | free | resident | swappingOut | swapped | swappingIn
  deriving DecidableEq, Repr, Inhabited

/-- The KV manager's own copy of a sequence (R273), with its serving marks (R296, R302). -/
structure KvSeq where
  state : KvState := .free -- STATE, 3 bits; R272, R273; DC5 (FREE)
  poison : Bool := false -- POISON; R272; DC5
  home : Nat := 0 -- HOME, 5 bits; R272; DC5
  pageLog2 : Nat := 0 -- PAGE_LOG2_USED, 4 bits; R272; DC5
  layout : Bool := false -- LAYOUT as latched; R273; DC5
  fmt : Nat := 0 -- KV_FMT as latched, 4 bits; R273; DC5
  kvh : Nat := 0 -- KVH as latched, 8 bits; R273; DC5
  d : Nat := 0 -- D as latched, 8 bits; R273; DC5
  layers : Nat := 0 -- LAYERS as latched, 8 bits; R273; DC5
  base : Nat := 0 -- BASE, 30 bits; R272; DC5
  slabs : Nat := 0 -- SLABS, 32 bits; R272; DC5
  pageBytes : Nat := 0 -- PAGE_BYTES, 64 bits; R272; DC5
  capacity : Nat := 0 -- CAPACITY, 32 bits; R272; DC5
  maxTokens : Nat := 0 -- MAX_TOKENS as latched, 32 bits; R273; DC5
  swapAddr : Nat := 0 -- SWAP_ADDR as latched, 46 bits; R273; DC5
  length : Nat := 0 -- LENGTH as read when a swap is checked, 32 bits; R276; own
  reportDue : Bool := false -- a POISON flag that its descriptor does not show yet; R284, R273; own
  cancelled : Bool := false -- cancel mark; R296; spec (none)
  step : Option Nat := none -- step in flight that holds the sequence; R298; spec (none)
  swapGraph : Option (Nat × Nat) := none -- step and command that wait for the swap; R295; own
  swapStatus : Status := 0 -- status of the running copy so far; R278; own
  swapPoison : Bool := false -- a chain of the running copy has met poison; R278; own
  swapLeft : Nat := 0 -- layout chains of the copy still running; R277; own
  swapFlush : List (PortId × Nat) := [] -- the flushing read that a SWAP_OUT waits for; R277; spec (none)
  deriving DecidableEq, Repr, Inhabited

/-- The hub's own copy of a veneer slot (Table 11-9). -/
structure Veneer where
  curGen : BitVec 32 := 0 -- CUR_GEN, 32 bits; Table 11-9; DC5 (none)
  curVco : BitVec 32 := 0xFFFFFFFF -- CUR_VCO, 32 bits; Table 11-9; DC5 (none)
  retGen : BitVec 32 := 0 -- RET_GEN, 32 bits; Table 11-9; DC5 (none)
  retVco : BitVec 32 := 0xFFFFFFFF -- RET_VCO, 32 bits; Table 11-9; DC5 (none)
  retPins : BitVec 32 := 0 -- RET_PINS, 32 bits; Table 11-9; DC5
  curPins : BitVec 32 := 0 -- CUR_PINS, 32 bits; Table 11-9; DC5
  lastGen : BitVec 32 := 0 -- last generation number given; R308; DC5
  deriving DecidableEq, Repr, Inhabited

/-- A request entry of a step (Table 11-2). -/
structure Request where
  fill : Bool := false
  seq : Nat := 0
  venEn : Bool := false
  veneer : Nat := 0
  priority : Nat := 0
  keep : Bool := false
  stack : Nat := 0
  newTokens : Nat := 0
  deadline : BitVec 64 := 0
  user : BitVec 64 := 0
  deriving DecidableEq, Repr, Inhabited

/-- A request with what admission decided (R298 to R303). -/
structure Admitted where
  req : Request := {}
  active : Bool := false
  filled : Bool := false
  late : Bool := false
  status : Status := 0
  length : Nat := 0
  gen : BitVec 32 := 0
  poisoned : Bool := false
  cancelled : Bool := false
  deriving DecidableEq, Repr, Inhabited

/-- The state of a command of a step (R295): its status, and whether its swap still runs. -/
structure StepCmd where
  op : BitVec 8 := 0
  index : Nat := 0
  status : Status := 0
  gen : BitVec 32 := 0
  running : Bool := false
  deriving DecidableEq, Repr, Inhabited

/-- A serving step in flight (R298 to R305). -/
structure Step where
  part : Nat := 0
  outAddr : Nat := 0
  resultAddr : Nat := 0
  entries : List Admitted := []
  cmds : List StepCmd := []
  finals : Option (List Status) := none
  deriving DecidableEq, Repr, Inhabited

/-- A partition's `PART` block, its latched table headers, sequences, veneers and pause queue. -/
structure Part where
  locked : Bool := false -- PART.CONFIG.LOCK and PART.STATUS.LOCKED; Table 15-8; spec
  valid : Bool := false -- PART.CONFIG.VALID; Table 15-8; spec
  privileged : Bool := false -- PART.CONFIG.PRIVILEGED; Table 15-8; spec
  fkey : BitVec 16 := 0 -- PART.CONFIG.FKEY, 16 bits; Table 15-8; spec
  lastCmd : Status := 0 -- PART.STATUS.LAST_CMD_STATUS, 8 bits; Table 15-8; spec
  failedCheck : BitVec 8 := 0 -- PART.STATUS.FAILED_CHECK, 8 bits; Table 15-8; spec
  busy : Bool := false -- PART.STATUS.BUSY; Table 15-8; spec
  lockAge : Nat := 0 -- place of the lock attempt in arrival order; R401; own
  clusters : Tab Word := [] -- PART.CLUSTERS_D0 to _D3, 64 bits each; Table 15-8; spec
  stackTab : BitVec 24 := 0 -- PART.STACKS, 24 bits; Table 15-7; spec (R400: as reset)
  pegCount : BitVec 17 := 0 -- PART.PEGS.COUNT, 17 bits; Table 15-8; spec
  pegFirst : BitVec 16 := 0 -- PART.PEGS.FIRST, 16 bits; Table 15-8; spec
  kvTable : BitVec 40 := 0 -- PART.KV_TABLE.ADDR [45:6], 40 bits; Table 15-8; spec
  venTable : BitVec 40 := 0 -- PART.VEN_TABLE.ADDR [45:6], 40 bits; Table 15-8; spec
  windows : Tab Window := [] -- PART.WIN_BASE and PART.WIN_LIMIT 0 to 7; Table 15-8; spec
  seqCount : Nat := 0 -- SEQ_COUNT as latched, 15 bits; R271; spec (no table)
  pools : Tab (Option (Nat × Nat)) := [] -- pool of each stack: POOL_FIRST, POOL_SLABS; R271; spec (disabled)
  seqs : Tab KvSeq := [] -- the KV manager's copies of the sequences; R273
  venSlots : Nat := 0 -- SLOT_COUNT as latched, 15 bits; R307; spec (no table)
  venLayers : Nat := 0 -- LAYERS as latched, 8 bits; R307; spec (no table)
  venBytes : Nat := 0 -- LAYER_BYTES as latched, 32 bits; R307; spec (no table)
  venFirst : Nat := 0 -- STACK_FIRST as latched, 5 bits; R307; spec (no table)
  venCount : Nat := 0 -- STACK_COUNT as latched, 5 bits; R307; spec (no table)
  veneers : Tab Veneer := [] -- veneer slots; R307
  paused : List Request := [] -- pause queue, up to 4,096 entries in order; R302; spec (empty)
  deriving DecidableEq, Repr, Inhabited

/-! ## Forset links and remote operations -/

/-- Link states (Table 12-1). -/
inductive LinkState where
  | down | training | up | degraded
  deriving DecidableEq, Repr, Inhabited

/-- A DATA flit kept for replay (R317). -/
structure SentFlit where
  seq : BitVec 12 := 0
  payload : List Byte := []
  deriving DecidableEq, Repr, Inhabited

/-- One Forset link's `FLK` block, link layer and output queue. -/
structure Link where
  state : LinkState := .down -- FLK.STATUS.STATE; Table 12-14; spec
  disabled : Bool := false -- FLK.STATUS.DISABLED; Table 12-14; spec
  lastCmd : Status := 0 -- FLK.STATUS.LAST_CMD_STATUS, 8 bits; Table 12-14; spec
  peerDie : BitVec 2 := 0 -- FLK.STATUS.PEER_DIE, 2 bits; Table 12-14; spec
  peer : BitVec 18 := 0 -- FLK.STATUS.PEER, 18 bits; Table 12-14; spec
  laneMask : BitVec 8 := 0 -- FLK.STATUS.LANE_MASK, 8 bits; Table 12-14; spec
  epoch : BitVec 8 := 0 -- FLK.STATUS.LINK_EPOCH, 8 bits; Table 12-14; spec
  replays : BitVec 32 := 0 -- FLK.ERRORS.REPLAYS, 32 bits; Table 12-14; spec
  fecUncorr : BitVec 32 := 0 -- FLK.ERRORS.FEC_UNCORR, 32 bits; Table 12-14; spec
  fecCorr : BitVec 64 := 0 -- FLK.FEC_CORR.SYMBOLS, 64 bits; Table 12-14; spec
  delayNs : BitVec 16 := 0 -- FLK.DELAY.ONE_WAY_NS, 16 bits; Table 12-14; spec
  cableHigh : Bool := false -- CBL_PRSNT# reads high; R426; DC5 (cable present)
  failures : Nat := 0 -- failed training attempts in a row; R315; DC5
  draining : Option Bool := none -- RECAL (false) or DISABLE (true) waiting for the drain; R341; spec (none)
  txSeq : BitVec 12 := 0 -- SEQ of the next DATA flit, 12 bits; R316; DC5
  rxSeq : BitVec 12 := 0 -- SEQ of the next DATA flit expected, 12 bits; R317; DC5
  replayBuf : List SentFlit := [] -- replay buffer, up to 512 flits; R317; spec (empty)
  futileAsked : Nat := 0 -- REPLAY flits sent since a DATA flit was last accepted; R317; DC5
  futileAnswered : Nat := 0 -- REPLAY flits answered since an ACK last advanced; R317; DC5
  futileTimed : Nat := 0 -- replays of the 2 µs timeout since an ACK last advanced; R317; DC5
  ackAt : Nat := 0 -- device time at which an ACK last advanced, or the wait for one began; R317; own
  errorSince : Option Nat := none -- device time of the first unrecovered error; R317; spec (none)
  credits : Tab Nat := [] -- credits spent on each virtual channel, in 16-byte units; R318; spec (none spent)
  rxBytes : List Byte := [] -- bytes of a packet received in part; R316; spec (none)
  txq : Tab (List Packet) := [] -- packets waiting for credits, by virtual channel; R318; spec (none)
  t1 : Option (BitVec 64) := none -- start of the exchange under way; R337; spec (none)
  stream : Nat := 0 -- bits sent and not yet in a code block, the first lowest; R314; spec (none)
  streamLen : Nat := 0 -- how many they are; R314; spec (none)
  blocks : Nat := 0 -- code blocks sent since the link came up; R314; DC5
  deriving DecidableEq, Repr, Inhabited

/-- A packet inside the package, with the link and virtual channel whose receive buffer it holds (R318). -/
structure Transit where
  pkt : Packet := default
  held : Option (Nat × Nat) := none
  deriving DecidableEq, Repr, Inhabited

/-- Who waits for the answer to a remote request: a ticket of a jig, the completion of a task, or nobody, since a reset of
the cluster took the ticket (Table 13-6). -/
inductive Requester where
  | ticket (cl j t : Nat)
  | completion (task : Nat)
  | nobody
  deriving DecidableEq, Repr, Inhabited

/-- A request packet sent and not yet answered, or waiting to be sent (R327). -/
structure Outstanding where
  die : Nat := 0
  tag : BitVec 16 := 0
  pkt : Packet := default
  who : Requester := .completion 0
  local_ : Nat := 0
  retried : Bool := false
  deriving DecidableEq, Repr, Inhabited

/-- Time states (R338). -/
inductive TimeState where
  | freeRun | acquiring | locked | holdover
  deriving DecidableEq, Repr, Inhabited

/-- The `FST` block, the requesters' tables and the routers. -/
structure Fst where
  en : Bool := false -- FST.NODE.EN; Table 12-10; spec
  node : BitVec 18 := 0 -- FST.NODE.NODE, 18 bits; Table 12-10; spec
  nx : BitVec 7 := 1 -- FST.TORUS.NX, 7 bits; Table 12-10; spec
  ny : BitVec 7 := 1 -- FST.TORUS.NY, 7 bits; Table 12-10; spec
  nz : BitVec 7 := 1 -- FST.TORUS.NZ, 7 bits; Table 12-10; spec
  getRetry : Bool := false -- FST.TIMEOUT.GET_RETRY; Table 12-10; spec
  e2eUs : BitVec 32 := 2000 -- FST.TIMEOUT.E2E_US, 32 bits; Table 12-10; spec
  timeState : TimeState := .freeRun -- FST.TIME.STATE; Table 12-11; spec
  parentDir : BitVec 3 := 0 -- FST.TIME.PARENT_DIR, 3 bits; Table 12-11; spec
  offsetNs : BitVec 8 := 0 -- FST.TIME.OFFSET_NS, 8 bits; Table 12-11; spec
  syncEn : Bool := false -- FST.TIME.SYNC_EN; Table 12-11; spec
  root : BitVec 18 := 0 -- FST.TIME.ROOT_NODE, 18 bits; Table 12-11; spec
  sysOffset : BitVec 64 := 0 -- FST.SYS_OFFSET, 64 bits; Table 12-9; DC5
  everLocked : Bool := false -- SYS_OFFSET has been set at a first lock; R338; spec
  lastExchange : Nat := 0 -- device time of the last successful exchange; R338; own
  holdSince : Nat := 0 -- device time at which HOLDOVER began; R338; own
  carryLocked : Bool := false -- packets carry LOCKED; R333, R338; spec
  holdExpired : Bool := false -- a holdover of 10 ms has ended and LOCKED has not been reached since; R338; own
  rate : Int := 0 -- rate correction in ppm, -100 to 100; R338; DC5
  rateSum : Int := 0 -- what the correction has gathered, in 10^-6 ns; R338; own
  detours : Tab (BitVec 16) := [] -- FST.DETOUR, six entries of 16 bits; Table 12-13; spec
  failReason : Status := 0 -- FST.LAST_FAIL.REASON, 8 bits; Table 12-12; spec
  failTag : BitVec 16 := 0 -- FST.LAST_FAIL.TAG, 16 bits; Table 12-12; spec
  failDie : BitVec 2 := 0 -- FST.LAST_FAIL.DIE, 2 bits; Table 12-12; spec
  failDst : BitVec 18 := 0 -- FST.LAST_FAIL.DST, 18 bits; Table 12-12; spec
  late : BitVec 32 := 0 -- FST.DROPS.LATE, 32 bits; Table 12-9; DC5
  aged : BitVec 32 := 0 -- FST.DROPS.AGED, 32 bits; Table 12-9; DC5
  naksSent : BitVec 32 := 0 -- FST.NAKS.SENT, 32 bits; Table 12-9; DC5
  naksReceived : BitVec 32 := 0 -- FST.NAKS.RECEIVED, 32 bits; Table 12-9; DC5
  unroutable : BitVec 32 := 0 -- FST.UNROUTABLE, 32 bits; Table 12-9; DC5
  requests : List Outstanding := [] -- requests sent and not answered, up to 8,192 for each die; R327; spec (none)
  unsent : List Outstanding := [] -- requests waiting for the bound; R327; spec (none)
  nextTag : BitVec 16 := 0 -- next tag tried; R325; DC5
  retiredTags : List (Nat × BitVec 16 × Nat) := [] -- tags retired by a timeout (die, tag, device time); R335; spec (none)
  routers : Tab (List Transit) := [] -- packets waiting in the router of each die; R321; spec (none)
  ingress : Tab (List Transit) := [] -- requests waiting at the target engine of each die; R329; spec (none)
  arrived : List Packet := [] -- responses absorbed into the space that their requesters reserved, whose data waits to be written; R318; spec (none)
  deriving DecidableEq, Repr, Inhabited

/-! ## Power, resets, events, management -/

/-- Temperature sources (R369). -/
inductive Source where
  | model | diode | none
  deriving DecidableEq, Repr, Inhabited

/-- Thermal domain states (R370). -/
inductive ThermState where
  | normal | throttle | floor | shutdown
  deriving DecidableEq, Repr, Inhabited

/-- A diode or thermistor (R368). Temperatures are in millionths of a degree Celsius. -/
structure Sensor where
  microC : Int := 0 -- latest reading, PWR.COOLANT.INLET and OUTLET; Table 14-10; spec (reads 0); DC5 for diodes
  raw : BitVec 32 := 0 -- latest raw code; R368; DC5
  same : Nat := 0 -- consecutive readings with an unchanged code; R368; DC5
  refTemp : Int := 0 -- model temperature (power for a thermistor) when the code last changed; R368; own
  moved : Bool := false -- that temperature or power has moved beyond the bound since; R368; own
  fault : BitVec 4 := 0 -- PWR.DOM_STATUS.DIODE_FAULT or PWR.COOLANT fault, 4 bits; Table 14-10; spec
  good : Nat := 0 -- consecutive readings free of fault; R368; DC5
  deriving DecidableEq, Repr, Inhabited

/-- One thermal domain of numbers 0 to 28 (R366 to R374). -/
structure Domain where
  th0 : Int := 0 -- stage state th[0]; R367; spec (0)
  th1 : Int := 0 -- stage state th[1]; R367; spec (0)
  th2 : Int := 0 -- stage state th[2]; R367; spec (0)
  tm : Int := 0 -- model temperature Tm, PWR.DOM_STATUS.TEMP under MODEL; Table 14-10; spec (reads 0)
  diode : Sensor := {} -- the domain's diode; R368
  telemetry : Nat := 0 -- device time of the last telemetry; R369; own
  diverged : Bool := false -- the model has diverged; R369; spec
  agree : Nat := 0 -- consecutive readings within 4 degrees; R369; own
  divergence : BitVec 8 := 0 -- PWR.DOM_STATUS.DIVERGENCE, 8 bits; Table 14-10; spec
  gap : Int := 0 -- last diode reading less Tm, signed; R384; DC5
  source : Source := .model -- PWR.DOM_STATUS.SOURCE; Table 14-10; spec
  state : ThermState := .normal -- PWR.DOM_STATUS.STATE; Table 14-10; spec
  floorSensor : Bool := false -- PWR.DOM_STATUS.FLOOR_CAUSE [43]; Table 14-10; spec
  floorRate : Bool := false -- FLOOR_CAUSE [42]; Table 14-10; spec
  floorNone : Bool := false -- FLOOR_CAUSE [41]; Table 14-10; spec
  floorPackage : Bool := false -- FLOOR_CAUSE [40]; Table 14-10; spec
  throttled : Bool := false -- above the throttle threshold and not yet released; R370; spec
  down : Bool := false -- in SHUTDOWN; R373; spec
  rate : Int := 0 -- PWR.DOM_STATUS.RATE before saturation, degrees per second; R372; spec
  rateAlert : Bool := false -- rate above 10 degrees per second; R372; spec
  rateQuiet : Nat := 0 -- consecutive 10 ms computations with a rate below 10; R372; own
  history : List Int := [] -- last values of Ts, newest first; R372; DC5
  noneSince : Nat := 0 -- device time at which the source became NONE; R371; own
  powers : List Nat := [] -- the power samples of the last 1 ms in mW, newest first, for PWR.DOM_STATUS.POWER_W; Table 14-10; spec (reads 0)
  ceiling : Nat := 2100 -- cluster clock ceiling in MHz; R370; spec (R21)
  ceilingAt : Nat := 0 -- device time of its last change; R370; own
  duty : Nat := 8 -- bench duty in eighths, 1 to 8; R370; spec
  dutyAt : Nat := 0 -- device time of its last change; R370; own
  shimBudgetW : Nat := 0 -- shim budget of a compute die in W; R379; DC5
  shimHeld : Bool := false -- shim load ran on the die when the last window ended; R379; own
  shimTopW : Nat := 0 -- the level in W that the die's shim budget may take within the window: the armed one, or the shim load as the window began; R379; own
  deriving DecidableEq, Repr, Inhabited

/-- The `PWR` block and the controller's state. -/
structure Pwr where
  capW : BitVec 13 := 5000 -- PWR.CAP.CAP_W, 13 bits; Table 14-9; spec
  rampEn : Bool := false -- PWR.RAMP.EN; Table 14-9; spec
  downW : BitVec 9 := 500 -- PWR.RAMP.DOWN_W_MS, 9 bits; Table 14-9; spec
  upW : BitVec 9 := 500 -- PWR.RAMP.UP_W_MS, 9 bits; Table 14-9; spec
  lastCmd : Status := 0 -- PWR.STATUS.LAST_CMD_STATUS, 8 bits; Table 14-9; spec
  powerW : BitVec 16 := 0 -- PWR.STATUS.POWER_W, 16 bits; Table 14-9; spec
  budgetW : BitVec 16 := 0 -- PWR.STATUS.BUDGET_W, 16 bits; Table 14-9; spec
  shimW : BitVec 16 := 0 -- PWR.STATUS.SHIM_W, 16 bits; Table 14-9; spec
  packageFloor : Bool := false -- PWR.STATUS.FLOOR; Table 14-9; spec
  capLimited : Bool := false -- PWR.STATUS.CAP_LIMITED; Table 14-9; spec
  upLimited : Bool := false -- PWR.STATUS.UP_LIMITED; Table 14-9; spec
  shimActive : Bool := false -- PWR.STATUS.SHIM_ACTIVE; Table 14-9; spec
  energyMj : BitVec 64 := 0 -- PWR.ENERGY, 64 bits; Table 14-8; spec (since package cold)
  shimMj : BitVec 64 := 0 -- PWR.SHIM_ENERGY, 64 bits; Table 14-8; spec (since package cold)
  violDown : BitVec 32 := 0 -- PWR.RAMP_VIOL.DOWN, 32 bits; Table 14-8; DC5
  violUp : BitVec 32 := 0 -- PWR.RAMP_VIOL.UP, 32 bits; Table 14-8; DC5
  domSel : BitVec 5 := 0 -- PWR.DOM_SEL.DOMAIN, 5 bits; Table 14-8; DC5
  inlet : Sensor := {} -- inlet thermistor, PWR.COOLANT; R368
  outlet : Sensor := {} -- outlet thermistor, PWR.COOLANT; R368
  inletHigh : Bool := false -- inlet alert in force; R383; spec
  riseHigh : Bool := false -- rise alert in force; R383; spec
  inletQuiet : Nat := 1000 -- readings since the inlet condition was absent; R383; own
  riseQuiet : Nat := 1000 -- readings since the rise condition was absent; R383; own
  hot : Bool := false -- inlet above 45 degrees and not yet below 43; R383; spec
  domains : Tab Domain := [] -- domains 0 to 28; R366
  violSince : Nat := 0 -- windows counted since the last RAMP_VIOLATION event; Table 14-7; own
  violStep : Nat := 0 -- largest step since that event; Table 14-7; own
  violAt : Option Nat := none -- device time of that event; R381; own
  capCeiling : Nat := 2100 -- cluster clock ceiling set by the cap and the ramp, MHz; R377; DC5
  capDuty : Nat := 8 -- bench duty set by the cap, in eighths; R377; DC5
  flashHeld : Bool := false -- a flash write is held by its temperature range; R375; spec
  fuseHeld : List Nat := [] -- domains whose fuse write is held; R375; spec
  meanMw : Nat := 0 -- power of all domains in mW, averaged over the last window; R379; own
  capApproach : Bool := false -- a cap written below present power has not been reached yet; R377; own
  deriving DecidableEq, Repr, Inhabited

/-- A reset in progress (R349 to R353). -/
structure Resetting where
  domain : Nat := 0
  index : Nat := 0
  cause : BitVec 8 := 0
  drained : Bool := false
  ended : List Nat := [] -- the tasks that it ended
  started : Nat := 0
  deriving DecidableEq, Repr, Inhabited

/-- The `RST` block, the epochs and the resets in progress. -/
structure Rst where
  lastCmd : Status := 0 -- RST.STATUS.LAST_CMD_STATUS, 8 bits; Table 13-13; spec
  warmCause : BitVec 8 := 0 -- RST.STATUS.LAST_WARM_CAUSE, 8 bits; Table 13-13; spec
  staleDrops : BitVec 32 := 0 -- RST.STATUS.STALE_DROPS, 32 bits; Table 13-13; spec
  epochSel : BitVec 16 := 0 -- RST.EPOCH_SEL DOMAIN and INDEX, 16 bits; Table 13-13; spec
  benchUs : BitVec 32 := 1000 -- RST.WDOG.BENCH_US, 32 bits; Table 13-13; spec
  jigUs : BitVec 16 := 100 -- RST.WDOG.JIG_US, 16 bits; Table 13-13; spec
  layoutUs : BitVec 16 := 100 -- RST.WDOG.LAYOUT_US, 16 bits; Table 13-13; spec
  periodA : BitVec 16 := 0 -- RST.HB_CFG.PERIOD_A, 16 bits; Table 13-13; spec
  periodB : BitVec 16 := 0 -- RST.HB_CFG.PERIOD_B, 16 bits; Table 13-13; spec
  alive : BitVec 64 := 0 -- RST.ALIVE.COUNT, 64 bits; Table 13-13; spec
  pathUe : BitVec 32 := 0 -- RST.PATH_ERR.UE, 32 bits; Table 13-13; spec
  pathCe : BitVec 32 := 0 -- RST.PATH_ERR.CE, 32 bits; Table 13-13; spec
  pathLost : Bool := false -- the next read transfer on an internal path is lost; Table 13-1; own (environment)
  rcUe : BitVec 32 := 0 -- RST.RC_ERR.UE, 32 bits; Table 13-13; spec
  rcCe : BitVec 32 := 0 -- RST.RC_ERR.CE, 32 bits; Table 13-13; spec
  epochs : Tab (BitVec 8) := [] -- epoch of each domain, 8 bits, by domain code times 4,096 plus index; R356; spec (0 at cold)
  resetting : List Resetting := [] -- resets in progress; R351; spec (none)
  fatal : Bool := false -- FATAL state; R353; spec (not)
  edgeDown : List Nat := [] -- die edges that retrain, traffic held; Table 13-1; spec (none)
  edgeFailed : Tab (Option Nat) := [] -- device time of each die edge's last failure; Table 13-1; spec (none)
  deriving DecidableEq, Repr, Inhabited

/-- The `EVT` block and the event log. -/
structure Evt where
  lost : BitVec 32 := 0 -- EVT.STATUS.LOST, 32 bits; Table 13-14; spec
  head : BitVec 32 := 0 -- EVT.HEAD, 32 bits; Table 13-14; spec
  tail : BitVec 32 := 0 -- EVT.TAIL, 32 bits; Table 13-14; spec
  irqEn : Bool := false -- EVT.IRQ.EN; Table 13-14; spec
  irqPortB : Bool := false -- EVT.IRQ.PORT; Table 13-14; spec
  irqVector : BitVec 11 := 0 -- EVT.IRQ.VECTOR, 11 bits; Table 13-14; spec
  minSev : BitVec 2 := 2 -- EVT.IRQ.MIN_SEVERITY, 2 bits; Table 13-14; spec
  seq : BitVec 32 := 0 -- count of events, 32 bits; Table 13-2; spec
  log : Tab Event := [] -- EVT.LOG, 8,192 records of 32 bytes; R348; DC5 (zero)
  deriving DecidableEq, Repr, Inhabited

/-- A firmware image slot (Tables 16-4 and 16-9). -/
structure Image where
  version : BitVec 32 := 0 -- MGT.IMG VERSION, 32 bits; Table 16-9; DC5
  svn : BitVec 8 := 0 -- MGT.IMG SVN, 8 bits; Table 16-9; DC5
  valid : Bool := true -- MGT.IMG VALID; Table 16-9; DC5 (R435: signed firmware in both slots)
  pendingSlot : Bool := false -- marked pending in the directory; R413; DC5
  content : Nat := 0 -- which contents the slot holds, 0 as shipped; R410; own
  deriving DecidableEq, Repr, Inhabited

/-- The `MGT` block, the management complex and the update session. -/
structure Mgt where
  eid : BitVec 8 := 0 -- MGT.STATUS.EID, 8 bits; Table 16-9; spec
  smbusAddr : BitVec 7 := 0x4F -- MGT.STATUS.SMBUS_ADDR, 7 bits; Table 16-9; spec (strapped; R432: open straps pull high)
  updateState : BitVec 8 := 0 -- MGT.STATUS.UPDATE_STATE, 8 bits; Table 16-9; spec
  updateComponent : BitVec 4 := 0 -- MGT.STATUS.UPDATE_COMPONENT, 4 bits; Table 16-9; spec
  heldFrom : BitVec 8 := 0 -- UPDATE_STATE before the hold; R375; own
  svnAuto : Bool := false -- MGT.CTRL.SVN_AUTO; Table 16-9; spec
  vdmB : Bool := true -- MGT.CTRL.VDM_B; Table 16-9; spec
  vdmA : Bool := true -- MGT.CTRL.VDM_A; Table 16-9; spec
  evtMin : BitVec 2 := 2 -- MGT.CTRL.EVT_MIN, 2 bits; Table 16-9; spec
  imgSel : BitVec 4 := 1 -- MGT.IMG_SEL.COMPONENT, 4 bits; Table 16-9; spec
  images : Tab Image := [] -- image slots, component times 2 plus 0 for A and 1 for B; Table 16-4; DC5
  activeB : Tab Bool := [] -- whether slot B of each component is active; R411; DC5 (A)
  svnCounter : Tab (BitVec 8) := [] -- MGT.SVN.COUNTER of each component, 8 bits; Table 16-9; DC5
  svnUsed : Tab Nat := [] -- increments of each counter used, 0 to 64; R415; DC5
  svnWait : List Nat := [] -- components whose counter waits for the fuse range; R415; spec (none)
  calBad : Bool := false -- the calibration record failed verification; R411; DC5 (good)
  tid : BitVec 8 := 0 -- PLDM terminus ID, 8 bits; Table 16-2; DC5
  receiver : Option (BitVec 8) := none -- event receiver; R409; spec (not set)
  nextEvent : BitVec 32 := 0 -- log counter of the next event to send; R409; DC5
  awaiting : Nat := 0 -- 0 no message out, 1 first try out, 2 retry out; R409; spec (none)
  sentAt : Nat := 0 -- device time of the last try; R409; own
  session : Bool := false -- an update session is open; R413; spec (none)
  table : List Nat := [] -- components named by PassComponentTable; R413; spec (none)
  updateVia : Binding := .smbus -- binding of the update agent's last command; R413; own
  flashOp : Nat := 0 -- flash operation that runs: 0 none, 1 erase, 2 program; R375, R413; spec (none)
  flashWant : Nat := 0 -- flash operation not yet started: 0 none, 1 erase, 2 program, 3 the pending mark; R375; spec (none)
  flashStale : Bool := false -- the running operation belongs to a cancelled component; R375, R413; own
  erasesLeft : Nat := 0 -- 64 KiB erases of the slot not yet done; R413; own
  piece : Nat := 0 -- bytes of the image piece under program; R413; own
  imageSize : Nat := 0 -- size of the image under transfer; R413; own
  imageDone : Nat := 0 -- bytes of it programmed; R413; own
  sessionPending : List Nat := [] -- components that this session has marked pending; R413; spec (none)
  activating : List Nat := [] -- components still to activate, the first one running; R413, R414; spec (none)
  unit : Nat := 0 -- unit of the running activation; R414; own
  unitDone : List Nat := [] -- units of it already on the new image; R414; own
  unitSince : Nat := 0 -- device time at which the running unit began to activate; R360; own
  channel : Nat := 0 -- first channel of the running stack that has not got its tables; R360; own
  channelRuns : Bool := false -- that channel is being retrained for them; R360; own
  tapReset : Bool := true -- TRST# is low; R433; spec (R432: pulled to GND)
  tapInstr : BitVec 8 := 0 -- instruction of the TAP controller; R418; DC5
  boundary : List Bool := [] -- boundary register, a bit for each pin of `boundaryPins`; R418; DC5 (zeros)
  tapPins : PinDrive := .normal -- what the boundary register does to its pins; R418; spec (nothing)
  tapWants : PinDrive := .normal -- what the loaded instruction does to the pins where it may; R418; spec (nothing)
  tapRefused : Bool := false -- its load has made its TAP_REFUSED event; R418; own
  deriving DecidableEq, Repr, Inhabited

/-! ## The hub, its ports and pins -/

/-- A message-table entry of MSI-X (R403). -/
structure MsixEntry where
  addr : BitVec 64 := 0 -- message address, 64 bits; R403; PRESUMED (PCIe: 0)
  data : BitVec 32 := 0 -- message data, 32 bits; R403; PRESUMED (PCIe: 0)
  masked : Bool := true -- vector control mask bit; R403; PRESUMED (PCIe: 1)
  pend : Bool := false -- pending bit; R403; PRESUMED (PCIe: 0)
  deriving DecidableEq, Repr, Inhabited

/-- What a port holds because an earlier BAR4 write of it still waits (R87, R259): BAR4 writes by local address, and
doorbells behind them. -/
inductive HeldWrite where
  | bar4 (addr : Nat) (bytes : List Byte)
  | bell (ring off : Nat) (value : Word)
  deriving DecidableEq, Repr, Inhabited

/-- One host port. -/
structure Port where
  hostBase : BitVec 52 := 0 -- HUB.WIN HOST_BASE [63:12], 52 bits; Table 15-4; spec
  winEn : Bool := false -- HUB.WIN EN; Table 15-4; spec
  bar4Base : BitVec 16 := 0 -- HUB.BAR4_MAP BASE [45:30], 16 bits; Table 15-4; spec
  bar4En : Bool := false -- HUB.BAR4_MAP EN; Table 15-4; spec
  bar4All : Bool := false -- HUB.BAR4_MAP ALL; Table 15-4; spec
  bar4Part : BitVec 4 := 0 -- HUB.BAR4_MAP PART, 4 bits; Table 15-4; spec
  bar4Log2 : Nat := 6 -- BAR4 size, log2 of GiB, 0 to 6; R389; spec (64 GiB)
  linkUp : Bool := false -- the port's PCIe link is up; R355; DC5 (down)
  perst : Bool := true -- PERST# is asserted; R433; spec (unconnected reads asserted)
  d3hot : Bool := false -- the function is in D3hot; R387; PRESUMED (PCIe: D0)
  lapsed : Bool := false -- the heartbeat has lapsed; R355; spec (not)
  lastBeat : Nat := 0 -- device time of the last heartbeat write; R358; own
  funcMask : Bool := false -- MSI-X function mask; R403; PRESUMED (PCIe: 0)
  msixEnable : Bool := false -- MSI-X Enable of the capability; R403; PRESUMED (PCIe: 0)
  maxPayload : BitVec 3 := 0 -- Max Payload Size of the configuration space, 128 bytes times 2 to this power; R387; PRESUMED (PCIe: 0)
  maxRead : BitVec 3 := 2 -- Max Read Request Size of the configuration space, coded alike; R387; PRESUMED (PCIe: 2)
  aerUncorr : BitVec 32 := 0 -- AER uncorrectable error status; R387; PRESUMED (PCIe: 0)
  msix : Tab MsixEntry := [] -- MSI-X table and pending bits, 2,048 vectors; R403
  mem : Memory := [] -- the host's memory as reached through the port; R398; own (the outside)
  badLines : List Nat := [] -- host lines that read as poisoned data; R398; own (the outside)
  latched : List (Nat × Nat × Word) := [] -- doorbells (ring, offset, value) latched while hub firmware is activated, oldest first; R360; spec (none)
  held : List HeldWrite := [] -- BAR4 writes that wait (64 KiB buffer) and doorbells behind them, oldest first; R87, R259; spec (none)
  flushSent : Nat := 0 -- flushing reads issued; R249; own
  flushDone : Nat := 0 -- flushing reads whose completion has returned, or that have failed; R249, R355; own
  deriving DecidableEq, Repr, Inhabited

/-- The `HUB` block's own registers and the module's pins. -/
structure Hub where
  ident : BitVec 64 := 0x2464461010104004 -- HUB.IDENT, 64 bits; R5; DC4 (fused; PL-2464F)
  fuseStacks : BitVec 24 := 0xFFFFFF -- HUB.FUSE_STACKS.PRESENT, 24 bits; R3; spec (fused)
  fusedOff : Tab Word := [] -- clusters fused off on each die (complement of HUB.FUSE_CLUSTERS_Dd), 64 bits each; R6; DC4 (none)
  vise : BitVec 8 := 0 -- HUB.VISE.HOLDER, 8 bits; Table 15-4; spec
  claims : BitVec 16 := 0 -- HUB.VISE.CLAIM_COUNT, 16 bits; Table 15-4; spec
  lockHost : Bool := false -- HUB.LOCK.HOST; Table 15-4; spec
  lockRings : Bool := false -- HUB.LOCK.RINGS; Table 15-4; spec
  lockFabric : Bool := false -- HUB.LOCK.FABRIC; Table 15-4; spec
  lockReset : Bool := false -- HUB.LOCK.RESET; Table 15-4; spec
  mode : BitVec 2 := 0 -- HUB.MODE.MODE, 2 bits; Table 15-4; spec
  bootErr : BitVec 8 := 0 -- HUB.BOOT.BOOT_ERR, 8 bits; Table 15-4; spec
  fwImageB : Bool := false -- HUB.BOOT.FW_IMAGE; Table 15-4; DC5 (A)
  fallback : Bool := false -- the running hub firmware is the fallback image; R411; DC5 (not)
  mainPg : Bool := false -- HUB.BOOT.MAIN_PG and PWR_OK; Table 15-4, R427; spec
  stage : Stage := .reset -- HUB.BOOT.STAGE; Table 15-4; spec
  auxOn : Bool := false -- AUX_3V3 within its range; R427; spec (cold)
  millivolts : Nat := 0 -- 50V_IN in mV; R427; DC5
  pwrEn : Bool := false -- PWR_EN; R427, R433; spec (unconnected reads low)
  straps : BitVec 2 := 3 -- ADDR_SEL as sampled; R433; spec (R432: open straps read 1)
  thermtrip : Bool := false -- THERMTRIP# driven low; R431; spec (not)
  rotation : Nat := 0 -- ring whose turn comes next at the front end; R213; DC5
  trained : Bool := false -- the stacks and die edges have trained since the main rails came on; R404; own
  romOnly : Bool := false -- no hub image has passed: the ROM-resident services alone run; R411; own
  abortsHeld : List Nat := [] -- tasks to which an ABORT is on its way over a die edge that retrains; R18, R217; own
  deriving DecidableEq, Repr, Inhabited

/-- The whole state. -/
structure State where
  pending : List Instr := [] -- the queue of waiting commands, first in first out; own
  time : BitVec 64 := 0 -- device time, 64 bits; R22; spec (0)
  hub : Hub := {}
  portA : Port := {}
  portB : Port := {}
  evt : Evt := {}
  rst : Rst := {}
  pwr : Pwr := {}
  fst : Fst := {}
  mgt : Mgt := {}
  links : Tab Link := [] -- links 6d + k, 24; R312
  rings : Tab Ring := [] -- rings 0 to 63; R209
  parts : Tab Part := [] -- partitions 0 to 15; R23
  walkers : Tab Walker := [] -- walkers 0 to 3; R246
  regions : Tab Region := [] -- regions 8d + g, 32; R182
  clusters : Tab Cluster := [] -- clusters by flat number, 256; R126
  stackTab : Tab Stack := [] -- stacks 0 to 23; R54
  graphs : Tab (Option Graph) := [] -- graphs handed over and not completed, up to 1,024, by order of entry; R243; spec (none)
  tasks : Tab (Option Task) := [] -- walker tables, 4 of 16,384 tasks, by graph times 16,384 plus index; R227; spec (none)
  steps : Tab (Option Step) := [] -- serving steps in flight, by graph; R298; spec (none)
  admitQueue : List Nat := [] -- graphs waiting for admission, in order; R298; spec (none)
  nextGraph : Nat := 0 -- number of the next graph entered; R226; own
  dram : Memory := [] -- stacks' contents by local address; Table 3-2; spec (zero-filled at cold, Table 3-17)
  spad : Memory := [] -- scratchpads by local address; Table 3-2; spec (zero, R129)
  bbuf : Memory := [] -- broadcast buffers, 2 MiB of each stack, by stack times 2 MiB plus offset; R100; DC6
  pegs : Tab (BitVec 32) := [] -- pegs 0 to 65,535, 32 bits each; R236; spec (zero)
  out : List Output := [] -- what has left the block, oldest first; own
  freeCtr : Nat := 0 -- how many free values have been taken; own (log entry 8)
  deriving DecidableEq, Repr, Inhabited

/-- The block as it stands cold, before the auxiliary rail has come up (R404, R429). -/
def State.reset : State := {}

/-- Why the block's run stops. No step raises either: see NOTES.md. -/
inductive Fault where
  /-- Raised by no meaning: the spec gives the block no stop of its own (FATAL of R353 is a state). Safe. -/
  | none
  deriving DecidableEq, Repr, Inhabited

/-- Why a command has no meaning. -/
inductive Refusal where
  /-- Raised by an arm of `exec` whose command has not been given its meaning. Safe: the model stops. -/
  | notModelled (mnemonic : String)
  deriving DecidableEq, Repr, Inhabited

end Sys2Proof.Machine
end

