-- ==== Sys2Proof/Machine/Map.lean ====
section
/-! DEFINITION. Sparse tables and byte memories in their canonical form, and the little-endian reads and writes over them
(R10). A table holds no entry equal to its default and its keys rise strictly. -/

namespace Sys2Proof.Machine
open Sys2Proof

/-- The value at key `i`, or the default `d` where nothing is listed. -/
def tget {α : Type} (d : α) : Tab α → Nat → α
  | [], _ => d
  | (k, v) :: t, i => if i = k then v else if i < k then d else tget d t i

/-- Writing `v` at key `i`: an entry equal to the default is removed. -/
def tset {α : Type} [DecidableEq α] (d : α) : Tab α → Nat → α → Tab α
  | [], i, v => if v = d then [] else [(i, v)]
  | (k, w) :: t, i, v =>
    if i = k then (if v = d then t else (i, v) :: t)
    else if i < k then (if v = d then (k, w) :: t else (i, v) :: (k, w) :: t)
    else (k, w) :: tset d t i v

/-- Whether every key of a table is at least `lo`, keys rise, and no entry is the default. -/
def twfFrom {α : Type} [DecidableEq α] (d : α) : Nat → Tab α → Bool
  | _, [] => true
  | lo, (k, v) :: t => decide (lo ≤ k) && decide (v ≠ d) && twfFrom d (k + 1) t

/-- The canonical form of a table. -/
def twf {α : Type} [DecidableEq α] (d : α) (t : Tab α) : Bool := twfFrom d 0 t

/-- The entries with a key in `[lo, hi)` removed: each of these keys reads as the default again. -/
def tclear {α : Type} (lo hi : Nat) (t : Tab α) : Tab α := t.filter (fun e => e.1 < lo || hi ≤ e.1)

/-- Changing one entry. -/
def tmod {α : Type} [DecidableEq α] (d : α) (t : Tab α) (i : Nat) (f : α → α) : Tab α := tset d t i (f (tget d t i))

/-- Changing every entry by `f`, which keeps the default: what becomes the default is no longer listed. -/
def tmapAll {α : Type} [DecidableEq α] (d : α) (f : α → α) (t : Tab α) : Tab α :=
  (t.map (fun e => (e.1, f e.2))).filter (fun e => decide (e.2 ≠ d))

/-- One byte of a memory (an unlisted address reads as 0). -/
def mget (m : Memory) (a : Nat) : Byte := tget 0 m a

/-- Writing one byte. -/
def mset (m : Memory) (a : Nat) (b : Byte) : Memory := tset 0 m a b

/-- The canonical form of a memory. -/
def Memory.wf (m : Memory) : Bool := twf (0 : Byte) m

/-- `n` bytes upwards from `a`. -/
def mbytes (m : Memory) (a : Nat) : Nat → List Byte
  | 0 => []
  | n + 1 => mget m a :: mbytes m (a + 1) n

/-- Writing bytes upwards from `a`. -/
def mwrite (m : Memory) (a : Nat) : List Byte → Memory
  | [] => m
  | b :: bs => mwrite (mset m a b) (a + 1) bs

/-- The number that bytes spell, the first byte least significant. -/
def leNat : List Byte → Nat
  | [] => 0
  | b :: bs => b.toNat + 256 * leNat bs

/-- `n` bytes of a number, the first least significant. -/
def leBytes : Nat → Nat → List Byte
  | 0, _ => []
  | n + 1, v => BitVec.ofNat 8 v :: leBytes n (v / 256)

/-- Bits [hi:lo] of a number (R10). -/
def fld (v hi lo : Nat) : Nat := (v >>> lo) % 2 ^ (hi + 1 - lo)

/-- Bit `i` of a number. -/
def bit (v i : Nat) : Bool := v.testBit i

/-- Bits `off` to `off + n - 1`. -/
def maskBits (off n : Nat) : Nat := (2 ^ n - 1) <<< off

/-- `m` with bits set, and with bits cleared. -/
def orBits (m off n : Nat) : Nat := m ||| maskBits off n
def dropBits (m off n : Nat) : Nat := m - (m &&& maskBits off n)

/-- A flag as a bit. -/
def b2n (b : Bool) : Nat := if b then 1 else 0

/-- A 64-bit word as signed. -/
def toI64 (w : Word) : Int := w.toInt

/-- The little-endian field of `n` bytes at offset `off` of a byte string; bytes past its end read as 0. -/
def at_ (bs : List Byte) (off n : Nat) : Nat := leNat ((bs.drop off).take n)

/-- Replacing bytes from an offset of a byte string. -/
def putAt (bs : List Byte) (off : Nat) (new : List Byte) : List Byte :=
  bs.take off ++ new ++ bs.drop (off + new.length)

/-- A byte string of zeros. -/
def zeros (n : Nat) : List Byte := List.replicate n 0

/-- Numbers `lo` to `lo + n - 1`, in order. -/
def upFrom (lo n : Nat) : List Nat := (List.range n).map (lo + ·)

/-- The largest of a list of numbers, 0 for none. -/
def maxOf (l : List Nat) : Nat := l.foldl Nat.max 0

end Sys2Proof.Machine
end

