-- ==== Sys2Proof/Machine/Flags.lean ====
section
/-! DEFINITION. Status codes (R13 to R15), the parts of the state by index, event records (R344 to R348), MSI-X (R403)
and free values. -/

namespace Sys2Proof.Machine
open Sys2Proof

/-! ## Status codes -/

namespace Code
def ok : Status := 0x00
def clamped : Status := 0x01
def late : Status := 0x02
def nanZeroed : Status := 0x03
def unitAbsent : Status := 0x10
def stateConflict : Status := 0x11
def descriptorInvalid : Status := 0x12
def strideAlias : Status := 0x13
def graphCycle : Status := 0x14
def unitOffline : Status := 0x15
def waitTimeout : Status := 0x20
def skipped : Status := 0x21
def runTimeout : Status := 0x22
def unitReset : Status := 0x23
def poisoned : Status := 0x30
def sealedWrite : Status := 0x31
def windowFault : Status := 0x32
def mirrorCopyWrite : Status := 0x33
def hostUnreachable : Status := 0x34
def remoteTimeout : Status := 0x40
def preempted : Status := 0x50
def paused : Status := 0x51
def cancelled : Status := 0x52
def admitLate : Status := 0x53
def kvFull : Status := 0x54
end Code

/-- R15: a status whose upper digit is 0 counts as success. -/
def isSuccess (st : Status) : Bool := decide (st.toNat < 16)

/-- CLAMPED stands before NAN_ZEROED, and either replaces OK only (Table 2-6). -/
def qualify (st : Status) (clamp nan : Bool) : Status :=
  if st = Code.ok then (if clamp then Code.clamped else if nan then Code.nanZeroed else st) else st

/-- A later status replaces a success and leaves a failure standing (R252, R253). -/
def demote (st bad : Status) : Status := if isSuccess st && decide (bad ≠ Code.ok) then bad else st

/-! ## Parts of the state by index -/

def stk (s : State) (i : Nat) : Stack := tget {} s.stackTab i
def modStk (s : State) (i : Nat) (f : Stack → Stack) : State := { s with stackTab := tmod {} s.stackTab i f }
def clu (s : State) (i : Nat) : Cluster := tget {} s.clusters i
def modClu (s : State) (i : Nat) (f : Cluster → Cluster) : State := { s with clusters := tmod {} s.clusters i f }
def reg (s : State) (i : Nat) : Region := tget {} s.regions i
def modReg (s : State) (i : Nat) (f : Region → Region) : State := { s with regions := tmod {} s.regions i f }
def ring (s : State) (i : Nat) : Ring := tget {} s.rings i
def modRing (s : State) (i : Nat) (f : Ring → Ring) : State := { s with rings := tmod {} s.rings i f }
def prt (s : State) (i : Nat) : Part := tget {} s.parts i
def modPrt (s : State) (i : Nat) (f : Part → Part) : State := { s with parts := tmod {} s.parts i f }
def wlk (s : State) (i : Nat) : Walker := tget {} s.walkers i
def modWlk (s : State) (i : Nat) (f : Walker → Walker) : State := { s with walkers := tmod {} s.walkers i f }
def lnk (s : State) (i : Nat) : Link := tget {} s.links i
def modLnk (s : State) (i : Nat) (f : Link → Link) : State := { s with links := tmod {} s.links i f }
def dom (s : State) (i : Nat) : Domain := tget {} s.pwr.domains i
def modDom (s : State) (i : Nat) (f : Domain → Domain) : State :=
  { s with pwr := { s.pwr with domains := tmod {} s.pwr.domains i f } }
def port (s : State) : PortId → Port
  | .a => s.portA
  | .b => s.portB
def modPort (s : State) (p : PortId) (f : Port → Port) : State :=
  match p with
  | .a => { s with portA := f s.portA }
  | .b => { s with portB := f s.portB }
def jig (s : State) (cl j : Nat) : Jig := if j = 0 then (clu s cl).jig0 else (clu s cl).jig1
def modJig (s : State) (cl j : Nat) (f : Jig → Jig) : State :=
  modClu s cl (fun c => if j = 0 then { c with jig0 := f c.jig0 } else { c with jig1 := f c.jig1 })
def taskAt (s : State) (t : Nat) : Option Task := tget none s.tasks t
def modTask (s : State) (t : Nat) (f : Task → Task) : State :=
  match taskAt s t with
  | none => s
  | some x => { s with tasks := tset none s.tasks t (some (f x)) }
def graphAt (s : State) (g : Nat) : Option Graph := tget none s.graphs g
def modGraph (s : State) (g : Nat) (f : Graph → Graph) : State :=
  match graphAt s g with
  | none => s
  | some x => { s with graphs := tset none s.graphs g (some (f x)) }
def stepAt (s : State) (g : Nat) : Option Step := tget none s.steps g
def modStep (s : State) (g : Nat) (f : Step → Step) : State :=
  match stepAt s g with
  | none => s
  | some x => { s with steps := tset none s.steps g (some (f x)) }

def portCode : PortId → BitVec 8
  | .a => 0x41
  | .b => 0x42

def portIdx : PortId → Nat
  | .a => 0
  | .b => 1

def portOf (b : Bool) : PortId := if b then .b else .a

/-- Device time in nanoseconds as a number (R22). -/
def now (s : State) : Nat := s.time.toNat

/-- A counter of `w` bits that saturates (R363). -/
def satInc {w : Nat} (c : BitVec w) (n : Nat) : BitVec w := BitVec.ofNat w (Nat.min (c.toNat + n) (2 ^ w - 1))

/-- Something leaves the block. -/
def emit (s : State) (o : Output) : State := { s with out := s.out ++ [o] }

/-! ## Free values (R12; log entry 8) -/

/-- The next free value below `n`, and the state that has taken it. -/
def freeBelow (s : State) (n : Nat) : Nat × State :=
  (Config.freeNat s.freeCtr % n, { s with freeCtr := s.freeCtr + 1 })

/-- `n` free bytes. -/
def freeBytes (s : State) (n : Nat) : List Byte × State :=
  ((List.range n).map (Config.freeByte s.freeCtr), { s with freeCtr := s.freeCtr + 1 })

/-! ## Interrupts (R403) -/

def msixAt (p : Port) (v : Nat) : MsixEntry := tget {} p.msix v

/-- Whether requests of a port reach the hub: its link is up and its function is in D0 (R387). -/
def portTalks (s : State) (p : PortId) : Bool := (port s p).linkUp && !(port s p).d3hot

/-- A message is sent, or its pending bit set while the vector or the function is masked; it is lost on a port without link. -/
def raiseMsix (s : State) (p : PortId) (v : Nat) : State :=
  let q := port s p
  let e := msixAt q v
  if !q.msixEnable || q.funcMask || e.masked then modPort s p (fun q => { q with msix := tset {} q.msix v { e with pend := true } })
  else if portTalks s p then emit s (.msix p v) else s

/-! ## Epochs (R356) -/

/-- The key of a domain in the epoch table: domain code of `RST.CTRL` (8 for the package) and unit index. -/
def epochKey (domain index : Nat) : Nat := domain * 4096 + index

/-- The epoch of a domain; that of a link is its LINK_EPOCH (Table 13-8). -/
def epochOf (s : State) (domain index : Nat) : BitVec 8 :=
  if domain = 5 then (lnk s index).epoch else tget 0 s.rst.epochs (epochKey domain index)

/-- Advancing a domain's epoch by 1, modulo 256 (R356). -/
def advanceEpoch (s : State) (domain index : Nat) : State :=
  if domain = 5 then modLnk s index (fun l => { l with epoch := l.epoch + 1 })
  else { s with rst := { s.rst with epochs := tset 0 s.rst.epochs (epochKey domain index) (epochOf s domain index + 1) } }

/-- Unit kinds (Table 13-3). -/
def unitEpoch (s : State) (kind index : Nat) : BitVec 8 :=
  match kind with
  | 1 => epochOf s 3 index
  | 2 => epochOf s 2 index
  | 3 => epochOf s 1 index
  | 4 => epochOf s 1 (index / 2)
  | 5 => epochOf s 4 index
  | 6 => epochOf s 4 (index / 64)
  | 7 => epochOf s 5 index
  | 10 => if index < 4 then epochOf s 3 index else if index < 28 then epochOf s 4 (index - 4) else epochOf s 8 0
  | _ => epochOf s 8 0

/-! ## Event records (R344 to R348) -/

namespace Cls
def setupIgnored : BitVec 8 := 0x10
def doorbellIgnored : BitVec 8 := 0x11
def absentAccess : BitVec 8 := 0x12
def poisonNew : BitVec 8 := 0x20
def poisonListHigh : BitVec 8 := 0x21
def poisonAll : BitVec 8 := 0x22
def mirrorRepair : BitVec 8 := 0x23
def spareUsed : BitVec 8 := 0x24
def sparesExhausted : BitVec 8 := 0x25
def writeHold : BitVec 8 := 0x26
def linkDown : BitVec 8 := 0x30
def linkTrainFail : BitVec 8 := 0x31
def linkMiswired : BitVec 8 := 0x32
def timeRootMismatch : BitVec 8 := 0x33
def hostLinkDown : BitVec 8 := 0x38
def hostWriteDropped : BitVec 8 := 0x39
def heartbeatLost : BitVec 8 := 0x3A
def jigStop : BitVec 8 := 0x40
def walkerHeld : BitVec 8 := 0x41
def kvPoolDisabled : BitVec 8 := 0x48
def veneerFreed : BitVec 8 := 0x49
def reset : BitVec 8 := 0x50
def updateActivated : BitVec 8 := 0x58
def updateFailed : BitVec 8 := 0x59
end Cls

/-- Records held and not yet freed (`EVT.STATUS.HELD`). -/
def evtHeld (e : Evt) : Nat := (e.tail - e.head).toNat

/-- R348: whether a new record of class `cls` and severity `sev` is stored. -/
def evtStores (e : Evt) (cls : BitVec 8) (sev : BitVec 2) : Bool :=
  decide (evtHeld e < 8128) || (decide (evtHeld e < 8192) && (decide (cls = Cls.reset) || decide (sev = 3)))

/-- An event record is made (R344): stored and reported, or counted as lost (R348). -/
def logEvent (s : State) (cls : BitVec 8) (sev : BitVec 2) (st : Status) (kind index d0 d1 : Nat) : State :=
  let e := s.evt
  let r : Event := {
    time := s.time, seq := e.seq, cls := cls, sev := sev, status := st, kind := BitVec.ofNat 4 kind,
    index := BitVec.ofNat 12 index, epoch := unitEpoch s kind index,
    d0 := BitVec.ofNat 32 d0, d1 := BitVec.ofNat 64 d1 }
  if evtStores e cls sev then
    let e' : Evt := { e with seq := e.seq + 1, tail := e.tail + 1, log := tset {} e.log (e.tail.toNat % 8192) r }
    let s := { s with evt := e' }
    if e.irqEn && decide (e.minSev.toNat ≤ sev.toNat) then raiseMsix s (portOf e.irqPortB) e.irqVector.toNat else s
  else { s with evt := { e with seq := e.seq + 1, lost := satInc e.lost 1 } }

/-- SETUP_IGNORED (Table 13-4). -/
def setupIgnored (s : State) (off : Nat) (value : Word) : State :=
  logEvent s Cls.setupIgnored 0 0 0 0 off value.toNat

/-- ABSENT_ACCESS (Table 13-4): the port and the address. -/
def absentAccess (s : State) (p : PortId) (addr : Nat) : State := logEvent s Cls.absentAccess 0 0 0 0 (portIdx p) addr

/-- The 32 bytes of a record (Table 13-2). -/
def eventBytes (r : Event) : List Byte :=
  leBytes 8 r.time.toNat ++ leBytes 4 r.seq.toNat ++ leBytes 1 r.cls.toNat ++ leBytes 1 (r.sev.toNat * 64)
    ++ leBytes 1 r.status.toNat ++ [0] ++ leBytes 2 (r.kind.toNat * 4096 + r.index.toNat) ++ leBytes 1 r.epoch.toNat ++ [0]
    ++ leBytes 4 r.d0.toNat ++ leBytes 8 r.d1.toNat

/-! ## Actions: steps that read and write storage -/

/-- Why an action ends early: with a status (what it did before stands), or because it must wait (nothing happens yet). -/
inductive Stop where
  | fail (st : Status)
  | wait
  deriving DecidableEq, Repr, Inhabited

/-- An action over the state. -/
abbrev Act (α : Type) := ExceptT Stop (StateM State) α

/-- Running an action. -/
def runAct {α : Type} (a : Act α) (s : State) : Except Stop α × State := a.run.run s

/-- Changing the state inside an action. -/
def edit (f : State → State) : Act Unit := modify f

/-- Ending an action with a status unless a condition holds. -/
def need (b : Bool) (st : Status) : Act Unit := if b then pure () else throw (.fail st)

/-- Waiting unless a condition holds. -/
def needReady (b : Bool) : Act Unit := if b then pure () else throw .wait

/-- Running an action on each element in turn. -/
def eachAct {α : Type} (f : α → Act Unit) : List α → Act Unit
  | [] => pure ()
  | x :: xs => do
    f x
    eachAct f xs

/-- Running an action on each element and keeping the results. -/
def mapAct {α β : Type} (f : α → Act β) : List α → Act (List β)
  | [] => pure []
  | x :: xs => do
    let y ← f x
    let ys ← mapAct f xs
    pure (y :: ys)

/-- An action whose failure is its result; waiting still holds the whole command. -/
def attempt {α : Type} (a : Act α) : Act (Except Status α) := do
  let s ← get
  match runAct a s with
  | (.ok x, t) => do
    set t
    pure (.ok x)
  | (.error (.fail e), t) => do
    set t
    pure (.error e)
  | (.error .wait, _) => throw .wait

/-- A command that is an action: where it must wait, nothing happens (log entry 2); otherwise `k` sees how it ended. -/
def settle {α : Type} (a : Act α) (s : State) (k : Except Status α → State → State) : State :=
  match runAct a s with
  | (.ok x, t) => k (.ok x) t
  | (.error (.fail st), t) => k (.error st) t
  | (.error .wait, _) => s

end Sys2Proof.Machine
end

