-- ==== Sys2Proof/Machine/Ops.lean ====
section
/-! DEFINITION. The operations that every engine shares: the address map (R56), partition windows (R400), the stacks with
their codes, poison and mirrors (R59 to R82), scratchpads (R130), host windows (R398), reads and writes of homes (R248). -/

namespace Sys2Proof.Machine
open Sys2Proof

/-! ## The module's build (R1 to R6) -/

/-- Whether cluster `n` (flat number) is present (R6). -/
def clusterPresent (s : State) (n : Nat) : Bool := !bit (tget 0 s.hub.fusedOff (n / 64)).toNat (n % 64)

def stackPresent (s : State) (i : Nat) : Bool := bit s.hub.fuseStacks.toNat i

/-- Capacity of a logical channel: 1 GiB, or 768 MiB in the 12-high grade (Table 3-1). -/
def channelBytes (s : State) : Nat := if fld s.hub.ident.toNat 23 16 = 0x0C then 805306368 else 1073741824

/-- Granules of a stack (Table 3-1). -/
def granuleCount (s : State) : Nat := 32 * (channelBytes s / 1048576)

/-! ## The local address map (Table 3-2) -/

/-- What a local address names. -/
inductive Place where
  | stack (s off : Nat)
  | spad (cl off : Nat)
  | peg (m lane : Nat)
  | host (p : PortId) (off : Nat)
  | outside
  deriving DecidableEq, Repr, Inhabited

def stackBase (i : Nat) : Nat := i * 0x1000000000
def spadBase (n : Nat) : Nat := 0x100000000000 + n * 0x400000
def pegBase : Nat := 0x200000000000
def hostABase : Nat := 0x300000000000
def hostBBase : Nat := 0x380000000000

/-- Table 3-2. -/
def placeOf (a : Nat) : Place :=
  if a < 0x18000000000 then .stack (a / 0x1000000000) (a % 0x1000000000)
  else if 0x100000000000 ≤ a ∧ a < 0x100040000000 then .spad ((a - 0x100000000000) / 0x400000) ((a - 0x100000000000) % 0x400000)
  else if 0x200000000000 ≤ a ∧ a < 0x200000040000 then .peg ((a - 0x200000000000) / 4) ((a - 0x200000000000) % 4)
  else if 0x300000000000 ≤ a ∧ a < 0x380000000000 then .host .a (a - 0x300000000000)
  else if 0x380000000000 ≤ a ∧ a < 0x400000000000 then .host .b (a - 0x380000000000)
  else .outside

/-- The row of Table 3-2 that holds an address: 1 stacks, 2 scratchpads, 3 pegs, 4 and 5 host windows, 0 none. -/
def rowOf (a : Nat) : Nat :=
  match placeOf a with
  | .stack _ _ => 1
  | .spad _ _ => 2
  | .peg _ _ => 3
  | .host .a _ => 4
  | .host .b _ => 5
  | .outside => 0

/-! ## Die edges (R18) -/

/-- The die that a local address belongs to: 0 to 3 compute dies, 4 the hub. -/
def dieOf (a : Nat) : Nat :=
  match placeOf a with
  | .stack i _ => i / 6
  | .spad n _ => n / 64
  | .peg m _ => m / 16384
  | _ => 4

/-- The edges crossed between two dies: 0 and 1 join 0–1 and 2–3, 2 and 3 join 0–2 and 1–3, 4 and 5 join the hub with 0 and
1. A diagonal takes the row edge first; the hub reaches die 2 through die 0 and die 3 through die 1 (R18). -/
def edgePath (a b : Nat) : List Nat :=
  match a, b with
  | 0, 1 => [0]
  | 1, 0 => [0]
  | 2, 3 => [1]
  | 3, 2 => [1]
  | 0, 2 => [2]
  | 2, 0 => [2]
  | 1, 3 => [3]
  | 3, 1 => [3]
  | 0, 3 => [0, 3]
  | 1, 2 => [0, 2]
  | 2, 1 => [1, 3]
  | 3, 0 => [1, 2]
  | 4, 0 => [4]
  | 0, 4 => [4]
  | 4, 1 => [5]
  | 1, 4 => [5]
  | 4, 2 => [4, 2]
  | 2, 4 => [2, 4]
  | 4, 3 => [5, 3]
  | 3, 4 => [3, 5]
  | _, _ => []

/-- Whether no edge between two dies is held by a retraining (Table 13-1). -/
def pathUp (s : State) (a b : Nat) : Bool := (edgePath a b).all (fun e => !s.rst.edgeDown.contains e)

/-- Whether a question and its answer can pass between two dies: the two ways differ on a diagonal. -/
def bothWays (s : State) (a b : Nat) : Bool := pathUp s a b && pathUp s b a

/-- A write from die `d` to the home of `a` waits while an edge of its path retrains. -/
def writePath (d a : Nat) : Act Unit := do
  let s ← get
  needReady (pathUp s d (dieOf a))

/-- A read from die `d` waits while an edge retrains on the way to the home of `a`, or on the way back. -/
def readPath (d a : Nat) : Act Unit := do
  let s ← get
  needReady (bothWays s d (dieOf a))

/-! ## Partition windows (R400) -/

/-- The end of the longest run from `a` that one window of the list permits; `a` itself when none holds it. -/
def windowEnd (ws : List Window) (write : Bool) (a : Nat) : Nat :=
  ws.foldl (fun e w =>
    if w.en && (!write || w.write) && decide (w.base.toNat * 4096 ≤ a) && decide (a < (w.limit.toNat + 1) * 4096)
    then Nat.max e ((w.limit.toNat + 1) * 4096) else e) a

/-- Whether partition `q` owns cluster `n`. -/
def ownsCluster (s : State) (q n : Nat) : Bool := bit (tget 0 (prt s q).clusters (n / 64)).toNat (n % 64) && clusterPresent s n

def ownsStack (s : State) (q i : Nat) : Bool := bit (prt s q).stackTab.toNat i

/-- The end of the run from `a` that the partition's windows and own scratchpads permit (R400). -/
def permitEnd (s : State) (q : Nat) (write : Bool) (a : Nat) : Nat :=
  let e := windowEnd ((List.range 8).map (tget {} (prt s q).windows)) write a
  match placeOf a with
  | .spad n _ => if ownsCluster s q n then Nat.max e (spadBase (n + 1)) else e
  | _ => e

/-- Whether [a, hi) is covered by permitted runs; every run but the last of an access ends where another begins. -/
def permitted (s : State) (q : Nat) (write : Bool) : Nat → Nat → Nat → Bool
  | 0, _, _ => false
  | fuel + 1, a, hi =>
    if hi ≤ a then true
    else
      let e := permitEnd s q write a
      if e ≤ a then false else permitted s q write fuel e hi

/-- R400: every byte of the access lies in some window that permits it, and R56: inside Table 3-2. -/
def inWindows (s : State) (q : Nat) (write : Bool) (a n : Nat) : Bool :=
  decide (rowOf a ≠ 0) && decide (rowOf (a + n - 1) ≠ 0) && permitted s q write 300 a (a + n)

/-! ## Stack geometry (R59 to R64) -/

/-- The channels of a stack that are not mapped out, ascending. -/
def activeChannels (st : Stack) : List Nat := (List.range 64).filter (fun h => !bit st.chAbsent.toNat h)

/-- Whether offset `o` of a stack lies in its absent range (R61, R62). -/
def absentOff (s : State) (i o : Nat) : Bool :=
  let st := stk s i
  let c := channelBytes s
  !stackPresent s i ||
    (if st.sharded then decide (64 * c ≤ o) || bit st.chAbsent.toNat (o / c)
     else decide ((activeChannels st).length * c ≤ o))

/-- Logical channel and channel offset of a present offset (R61, R62). -/
def channelOf (s : State) (i o : Nat) : Nat × Nat :=
  let st := stk s i
  if st.sharded then (o / channelBytes s, o % channelBytes s)
  else
    let a := activeChannels st
    let k := o / 256
    (a.getD (k % a.length) 0, k / a.length * 256 + o % 256)

/-- The stack offset of a channel offset: the inverse of `channelOf`. -/
def offsetOf (s : State) (i h co : Nat) : Nat :=
  let st := stk s i
  if st.sharded then h * channelBytes s + co
  else
    let a := activeChannels st
    (co / 256 * a.length + a.idxOf h) * 256 + co % 256

/-- Row, bank, sector in row and byte of a channel offset (R63). -/
def bankOf (co : Nat) : Nat × Nat × Nat × Nat :=
  (fld co 29 17, Nat.xor (fld co 16 11) (fld co 22 17), fld co 10 6, fld co 5 0)

def granOf (o : Nat) : Nat := o / 2097152
def sectorOf (o : Nat) : Nat := o / 64
def gran (s : State) (i g : Nat) : Gran := tget {} (stk s i).granules g
def modGran (s : State) (i g : Nat) (f : Gran → Gran) : State :=
  modStk s i (fun st => { st with granules := tmod {} st.granules g f })

/-- Whether the logic of a stack is being reset (R349): its DRAM is held in self-refresh. -/
def stackHeld (s : State) (i : Nat) : Bool := s.rst.resetting.any (fun r => decide (r.domain = 4 ∧ r.index = i))

/-- Whether a granule is not IDLE: maintenance or a zero fill works on it (R71). -/
def granWorked (s : State) (i g : Nat) : Bool := (stk s i).initBusy || decide ((gran s i g).state ≠ 0)

/-- Whether accesses to a granule wait: it is not IDLE, or a fill covers it (R60, R71), or its stack's logic is being reset. -/
def granBusy (s : State) (i g : Nat) : Bool := granWorked s i g || stackHeld s i

/-! ## Poison (R76 to R79) -/

/-- The list index that holds a sector, if any. -/
def poisonIndex (st : Stack) (sec : Nat) : Option Nat :=
  (st.poison.find? (fun e => match e.2 with
    | some p => p.sector = sec
    | none => false)).map Prod.fst

def poisonCount (st : Stack) : Nat := st.poison.length

/-- Whether a sector counts as poisoned (R76, R77). -/
def isPoisoned (s : State) (i sec : Nat) : Bool :=
  (gran s i (sec / 32768)).poisonAll || (poisonIndex (stk s i) sec).isSome

/-- The lowest key from `k` upwards that a table does not list. -/
def lowestFree {α : Type} : Nat → Tab α → Nat
  | k, [] => k
  | k, (i, _) :: t => if i = k then lowestFree (k + 1) t else k

/-- A port is lost while its link is down, its function is in D3hot, or its heartbeat has lapsed (R355, R387). -/
def portLost (p : Port) : Bool := !p.linkUp || p.d3hot || p.lapsed

/-- The host address of offset `off` of a window. -/
def hostAddr (p : Port) (off : Nat) : Nat := p.hostBase.toNat * 4096 + off

/-- The checks of R398 on a host-window access of `n` bytes. -/
def hostCheck (s : State) (q : PortId) (off n : Nat) : Option Status :=
  let p := port s q
  if !p.winEn || decide (2 ^ 64 < hostAddr p off + n) then some Code.windowFault
  else if portLost p then some Code.hostUnreachable
  else none

/-- Whether a stack, or a compute die, is in SHUTDOWN (R373). -/
def stackDown (s : State) (i : Nat) : Bool := (dom s (4 + i)).down
def dieDown (s : State) (d : Nat) : Bool := (dom s d).down

/-- The bytes of a sector, data and check, in a mask of the store. -/
def maskCount (m : Nat) : Nat := ((List.range 72).filter (bit m)).length

def badMask (s : State) (i sec : Nat) : Nat := tget 0 (stk s i).latent sec

def badBytes (s : State) (i sec : Nat) : Nat := maskCount (badMask s i sec)

/-- The port whose window holds a swap area. -/
def swapPort (k : KvSeq) : PortId := if rowOf k.swapAddr = 5 then .b else .a

/-- How many bytes of every channel a region occupies, from its BASE: ROWS_R page rows (R265), ROWS_R = CAPACITY / (64 P). -/
def regionBytes (k : KvSeq) : Nat := k.capacity / (64 * 2 ^ k.pageLog2) * k.pageBytes

/-- Whether the region of a resident sequence on stack `i` holds one of `n` channel offsets from `co` (R265). -/
def seqHolds (i co n : Nat) (k : KvSeq) : Bool :=
  decide (k.state = .resident) && decide (k.home = i) && decide (k.base < co + n) && decide (co < k.base + regionBytes k)

/-- Bytes put into the cells of the stacks, and of the scratchpads, with no check. -/
def pokeDram (s : State) (a : Nat) (bs : List Byte) : State := { s with dram := mwrite s.dram a bs }
def pokeSpad (s : State) (a : Nat) (bs : List Byte) : State := { s with spad := mwrite s.spad a bs }

/-- STATE as the descriptor codes it. -/
def kvStateCode : KvState → Nat
  | .free => 0
  | .resident => 1
  | .swappingOut => 2
  | .swapped => 3
  | .swappingIn => 4

/-- The device fields of a descriptor as the KV manager reports them (R273, Table 10-4): offset and bytes. -/
def reportFields (k : KvSeq) : List (Nat × List Byte) :=
  [(0, leBytes 1 (b2n k.poison * 128 + kvStateCode k.state) ++ leBytes 1 k.home), (3, leBytes 1 k.pageLog2),
    (16, leBytes 4 k.base ++ leBytes 4 k.slabs), (32, leBytes 8 k.pageBytes ++ leBytes 4 k.capacity)]

/-- The address of a sequence's descriptor (R271). -/
def descAddr (s : State) (q n : Nat) : Nat := (prt s q).kvTable.toNat * 64 + 256 + 64 * n

/-- Whether a retraining holds the channel of a stack offset (R361). -/
def chanHeld (s : State) (i o : Nat) : Bool :=
  (stk s i).retrainBusy && decide ((channelOf s i o).1 = (stk s i).retrainHeld.toNat)

/-- Whether a sector of a stack cannot be written now: its granule is busy, its channel is held by a retraining, the stack is in
write hold-off (R86), or the sector needs a correction first (R67). -/
def pokeWaits (s : State) (i o : Nat) : Bool :=
  granBusy s i (granOf o) || (stk s i).writeHold || decide (badBytes s i (sectorOf o) ≠ 0) || chanHeld s i o

/-- Fields at offsets from an address, put into a memory. -/
def putFields (m : Memory) (a : Nat) (fs : List (Nat × List Byte)) : Memory := fs.foldl (fun m f => mwrite m (a + f.1) f.2) m

/-- Fields of one 64-byte record that the hub writes to their home beside what a command does: in both halves of a mirrored pair
(R74), and lost where a write is refused or not made (an absent or shut-down home, a COPY, a poisoned sector, a host window that
R398 turns away). None while the write has to wait, or its sector or words to be corrected first. -/
def pokeHome (s : State) (a : Nat) (fs : List (Nat × List Byte)) : Option State :=
  match placeOf a with
  | .stack i o =>
    let g := gran s i (granOf o)
    if absentOff s i o || stackDown s i || decide (g.role = 2) || isPoisoned s i (sectorOf o) then some s
    else if pokeWaits s i o || (decide (g.role = 1) && (pokeWaits s g.partner o || !bothWays s (i / 6) (g.partner / 6))) ||
        !pathUp s 4 (i / 6) then none
    else
      let d := putFields s.dram a fs
      some { s with dram := if g.role = 1 then putFields d (stackBase g.partner + o) fs else d }
  | .spad c o =>
    let mine (w : Nat) : Bool := decide (o ≤ w ∧ w < o + 64)
    if !clusterPresent s c || dieDown s (c / 64) then some s
    else if (clu s c).badWords.any mine || (clu s c).softWords.any mine || !pathUp s 4 (c / 64) then none
    else some { s with spad := putFields s.spad a fs }
  | .host q o =>
    some (if (hostCheck s q o 64).isSome then s else modPort s q (fun p => { p with mem := putFields p.mem (hostAddr p o) fs }))
  | _ => some s

/-- Sequences that a condition on their copies picks out, and that have no POISON flag yet. -/
def unmarked (s : State) (p : KvSeq → Bool) : List (Nat × Nat) :=
  s.parts.flatMap (fun e => (e.2.seqs.filter (fun k => p k.2 && !k.2.poison)).map (fun k => (e.1, k.1)))

/-- A RESIDENT sequence gets the POISON flag in the KV manager's copy (R284). The device fields of its descriptor follow at once
(R273), or, where that write has to wait, in a later report of the sequence (DESIGN CHOICE, log entry 102). -/
def poisonSeq (s : State) (e : Nat × Nat) : State :=
  let mark (due : Bool) (s : State) : State := modPrt s e.1 (fun x => { x with
    seqs := tmod {} x.seqs e.2 (fun k => { k with poison := true, reportDue := due }) })
  match pokeHome s (descAddr s e.1 e.2) (reportFields { tget {} (prt s e.1).seqs e.2 with poison := true }) with
  | some t => mark false t
  | none => mark true s

/-- RESIDENT sequences that a condition picks out get the POISON flag. -/
def markPoison (s : State) (p : KvSeq → Bool) : State := (unmarked s p).foldl poisonSeq s

/-- The sequences whose regions hold one of `n` bytes from offset `o` of a stack lose part of them (R284). Regions lie in SHARDED
stacks, where a granule lies in one channel. -/
def markSeqs (s : State) (i o n : Nat) : State :=
  if (stk s i).sharded then markPoison s (seqHolds i (channelOf s i o).2 n) else s

/-- A granule becomes POISON_ALL: each of its sectors counts as poisoned (R77). The status that the event concerns (Table 13-2) is
POISONED (DEDUCED, log entry 29). -/
def poisonGranule (s : State) (i g : Nat) : State :=
  let s := modGran (markSeqs s i (g * 2097152) 2097152) i g (fun e => { e with poisonAll := true })
  logEvent s Cls.poisonAll 2 Code.poisoned 5 i g 0

/-- A sector becomes poisoned (R76), or its whole granule does when the list is full (R77). The status that the event concerns
(Table 13-2) is POISONED (DEDUCED, log entry 29). -/
def poisonSector (s : State) (i sec : Nat) (worked : Bool) : State :=
  if isPoisoned s i sec then s
  else
    let st := stk s i
    let ch := (channelOf s i (sec * 64)).1
    if poisonCount st < 4096 then
      let s := modStk (markSeqs s i (sec * 64) 64) i (fun st => { st with
        poison := tset none st.poison (lowestFree 0 st.poison) (some { worked := worked, sector := sec }) })
      let s := logEvent s Cls.poisonNew 2 Code.poisoned 6 (64 * i + ch) (b2n worked) (stackBase i + sec * 64)
      if poisonCount st = 3840 then logEvent s Cls.poisonListHigh 0 0 5 i 3841 0 else s
    else poisonGranule s i (sec / 32768)

/-- A list entry is cleared: no other entry moves (R76, R79). -/
def clearPoisonEntry (s : State) (i sec : Nat) : State :=
  match poisonIndex (stk s i) sec with
  | some k => modStk s i (fun st => { st with poison := tset none st.poison k none })
  | none => s

/-! ## Corrected and uncorrectable errors of channels, and sparing (R68, R81, R82) -/

/-- Events of a channel within the last 24 hours. -/
def recent (s : State) (l : List (Nat × Nat)) (h : Nat) : Nat :=
  (l.filter (fun e => e.1 = h ∧ now s < e.2 + 86400000000000)).length

/-- R81: the oldest channel over its limit takes a free spare if one remains, one copy at a time; R82: without a spare the
event is logged, once for each channel. DESIGN CHOICE: channels that ask while a copy runs wait their turn, and SPARE_MAP goes on to
show the channel for a spare that is itself replaced (log entry 117). -/
def spareServe (s : State) (i : Nat) : State :=
  let st := stk s i
  match st.spareWanted, st.sparing with
  | h :: rest, none =>
    let k := if st.spare0 = 0xFF then some 0 else if st.spare1 = 0xFF then some 1 else none
    match k with
    | some k =>
      let s := modStk s i (fun st => { st with
        spare0 := if k = 0 then BitVec.ofNat 8 h else st.spare0,
        spare1 := if k = 1 then BitVec.ofNat 8 h else st.spare1,
        sparesUsed := st.sparesUsed + 1, sparing := some (h, k), spareWanted := rest })
      logEvent s Cls.spareUsed 1 0 6 (64 * i + h) (64 + k) 0
    | none =>
      let s := modStk s i (fun st => { st with spareWanted := rest })
      if st.exhausted.contains h then s
      else
        let s := modStk s i (fun st => { st with exhausted := h :: st.exhausted })
        logEvent s Cls.sparesExhausted 2 0 6 (64 * i + h) 0 0
  | _, _ => s

/-- A channel asks for a spare when `over` holds at this event. -/
def spareAsk (s : State) (i h : Nat) (above : Bool) : State :=
  if above then
    let s := modStk s i (fun st => { st with
      spareWanted := if st.spareWanted.contains h then st.spareWanted else st.spareWanted ++ [h] })
    spareServe s i
  else s

/-- Whether the corrected errors of a channel within 24 hours lie above the threshold. -/
def overThreshold (s : State) (i h : Nat) : Bool := decide ((stk s i).ceThreshold.toNat < recent s (stk s i).ceEvents h)

/-- A channel whose count has passed the threshold asks for a spare, once while it stays above (R81). -/
def thresholdAsk (s : State) (i h : Nat) : State :=
  if overThreshold s i h && !(stk s i).spareAsked.contains h then
    spareAsk (modStk s i (fun st => { st with spareAsked := h :: st.spareAsked })) i h true
  else s

/-- A corrected error of a channel is counted (R68); passing the threshold within 24 hours asks for a spare (R81). -/
def noteCorrected (s : State) (i h : Nat) : State :=
  let s := if overThreshold s i h then s else modStk s i (fun st => { st with spareAsked := st.spareAsked.filter (· ≠ h) })
  thresholdAsk (modStk s i (fun st => { st with ceEvents := st.ceEvents ++ [(h, now s)] })) i h

/-- An uncorrectable event of a channel; the third within 24 hours asks for a spare (R81). -/
def noteUncorrectable (s : State) (i h : Nat) : State :=
  let s := modStk s i (fun st => { st with ueEvents := st.ueEvents ++ [(h, now s)] })
  spareAsk s i h (decide (recent s (stk s i).ueEvents h = 3))

/-! ## Sectors (R65 to R68, R74, R75) -/

/-- How many bad bytes the sealed code corrects (Table 3-4). -/
def correctable (st : Stack) : Nat := if st.correct2 then 2 else 4

def clearBad (s : State) (i sec : Nat) : State :=
  modStk s i (fun st => { st with
    latent := tset 0 st.latent sec 0, writeback := st.writeback.filter (· ≠ sec),
    mirrorPending := st.mirrorPending.filter (· ≠ sec) })

def sectorBytes (s : State) (i sec : Nat) : List Byte := mbytes s.dram (stackBase i + sec * 64) 64


/-- How a sector reads: its data, or poison. -/
inductive SectorView where
  | data
  | copy (partner : Nat)
  | poison
  deriving DecidableEq, Repr, Inhabited

/-- What the sealed code makes of a sector in error (Table 3-4). -/
inductive Decoded where
  | corrected
  | uncorrectable
  | miscorrected
  | unnoticed
  deriving DecidableEq, Repr, Inhabited

/-- Patterns that the code surely corrects or surely detects; of the others the spec says only that some are miscorrected (5 to
8 bad bytes with CORRECT4) or nothing at all, so a free value decides. A sector whose repair is pending has been detected. -/
def decodeSealed (s : State) (i sec : Nat) : Decoded × State :=
  let n := badBytes s i sec
  let sure := if (stk s i).correct2 then 6 else 4
  if n ≤ correctable (stk s i) then (.corrected, s)
  else if n ≤ sure || (stk s i).mirrorPending.contains sec then (.uncorrectable, s)
  else
    let (k, s) := freeBelow s (if n < 9 then 2 else 3)
    (if k = 0 then .uncorrectable else if k = 1 then .miscorrected else .unnoticed, s)

/-- A corrected read is counted, and the sector waits to be written back (R68). -/
def noteRepair (s : State) (i sec : Nat) : State :=
  modStk (noteCorrected s i (channelOf s i (sec * 64)).1) i (fun st => { st with
    writeback := if st.writeback.contains sec then st.writeback else st.writeback ++ [sec] })

/-- A sector takes bytes that nothing determines: its code gave a wrong answer. -/
def missData (s : State) (i sec left : Nat) : State :=
  let (bs, s) := freeBytes s 64
  modStk (pokeDram s (stackBase i + sec * 64) bs) i (fun st => { st with latent := tset 0 st.latent sec left })

/-- A sealed sector read from its own stack: whether its code gives data, and what the base die notes (R68). -/
def readSealed (s : State) (i sec : Nat) : Bool × State :=
  match decodeSealed s i sec with
  | (.corrected, s) => (true, noteRepair s i sec)
  | (.miscorrected, s) => (true, noteRepair (missData s i sec 1) i sec)
  | (.unnoticed, s) => (true, missData s i sec 0)
  | (.uncorrectable, s) => (false, noteUncorrectable s i (channelOf s i (sec * 64)).1)

/-- A sector read from its own stack alone: poison where it is listed, where a worked sector has a parity error, and where the
sealed code gives nothing (R76). -/
def readAlone (s : State) (i sec : Nat) : SectorView × State :=
  if isPoisoned s i sec then (.poison, s)
  else if badBytes s i sec = 0 then (.data, s)
  else if (gran s i (sec / 32768)).worked then
    (.poison, poisonSector (noteUncorrectable s i (channelOf s i (sec * 64)).1) i sec true)
  else
    let (ok, s) := readSealed s i sec
    if ok then (.data, s) else (.poison, poisonSector s i sec false)

/-- The outcome of reading a sector and the state after it: correction, service from the COPY, or poisoning (R68, R75, R76). A COPY
that gives nothing is itself poisoned under R76, as any sealed read is, and so is the PRIMARY; it is read also while its stack
is in SHUTDOWN or in reset (DEDUCED, log entry 94). -/
def readSector (s : State) (i sec : Nat) : SectorView × State :=
  let g := gran s i (sec / 32768)
  if isPoisoned s i sec || decide (badBytes s i sec = 0) || g.worked || decide (g.role ≠ 1) then readAlone s i sec
  else
    let (ok, s) := readSealed s i sec
    if ok then (.data, s)
    else
      let (v, s) := readAlone s g.partner sec
      if v = .poison then (.poison, poisonSector s i sec false)
      else (.copy g.partner, modStk s i (fun st => { st with
        mirrorPending := if st.mirrorPending.contains sec then st.mirrorPending else st.mirrorPending ++ [sec] }))

/-- Whether the other half of a mirror pair cannot be reached now: a retraining holds its channel (R361), or a die edge on the way
retrains (R18). -/
def pairHeld (s : State) (i j o : Nat) : Bool := chanHeld s j o || !bothWays s (i / 6) (j / 6)

/-- Whether a read of a sector turns to a COPY that cannot be reached now: it waits. -/
def copyHeld (s : State) (i sec : Nat) : Bool :=
  let g := gran s i (sec / 32768)
  decide (g.role = 1) && pairHeld s i g.partner (sec * 64) && !isPoisoned s i sec && decide (badBytes s i sec ≠ 0) &&
    !(readSealed s i sec).1

/-- The bytes of a sector as a reader sees them; poison ends the reading step (R78). -/
def loadSector (i sec : Nat) : Act (List Byte) := do
  let s ← get
  needReady (!copyHeld s i sec)
  let (v, t) := readSector s i sec
  set t
  match v with
  | .data => pure (sectorBytes t i sec)
  | .copy j => pure (sectorBytes t j sec)
  | .poison => throw (.fail Code.poisoned)

/-- Bytes put into a broadcast buffer's cells with no check. -/
def pokeBbuf (s : State) (a : Nat) (bs : List Byte) : State := { s with bbuf := mwrite s.bbuf a bs }

/-- The cells of [lo, hi) read zero again: of the stacks, of the scratchpads, of the broadcast buffers. -/
def wipeDram (s : State) (lo hi : Nat) : State := { s with dram := tclear lo hi s.dram }
def wipeSpad (s : State) (lo hi : Nat) : State := { s with spad := tclear lo hi s.spad }
def wipeBbuf (s : State) (lo hi : Nat) : State := { s with bbuf := tclear lo hi s.bbuf }

/-- A whole sector is written under its granule's code: its errors and its list entry go (R79). -/
def writeWhole (s : State) (i sec : Nat) (bs : List Byte) : State :=
  clearPoisonEntry (clearBad (pokeDram s (stackBase i + sec * 64) bs) i sec) i sec

/-- The parity errors of the bytes of a worked sector that have been written are gone (R65). -/
def keepOthers (s : State) (i sec lo n : Nat) : State :=
  modStk s i (fun st => { st with latent := tset 0 st.latent sec (dropBits (tget 0 st.latent sec) lo n) })

/-- A write of `bs` at offset `o` of a stack, within one sector, from any path but a bench. Sealed parts of a sector are
merged as one step (R67); a PRIMARY's write is made to both stacks (R74), also while the COPY's stack is in SHUTDOWN or in reset
(log entry 94). -/
def storeSector (i o : Nat) (bs : List Byte) : Act Unit := do
  let s ← get
  let sec := sectorOf o
  let g := gran s i (sec / 32768)
  if bs.length = 64 then
    edit (fun s => writeWhole s i sec bs)
    if g.role = 1 then edit (fun s => writeWhole s g.partner sec bs)
  else if g.worked then
    edit (fun s => keepOthers (pokeDram s (stackBase i + o) bs) i sec (o % 64) bs.length)
  else
    let old ← loadSector i sec
    let new := putAt old (o % 64) bs
    edit (fun s => clearBad (pokeDram s (stackBase i + sec * 64) new) i sec)
    if g.role = 1 then edit (fun s => clearBad (pokeDram s (stackBase g.partner + sec * 64) new) g.partner sec)

/-! ## Cutting ranges -/

/-- The pieces of [a, a + n) between multiples of `k`: address and length. -/
def pieces (k : Nat) : Nat → Nat → Nat → List (Nat × Nat)
  | 0, _, _ => []
  | fuel + 1, a, n =>
    if n = 0 then []
    else
      let m := Nat.min n (k - a % k)
      (a, m) :: pieces k fuel (a + m) (n - m)

/-- Pieces of at most `k` bytes between multiples of `k`. -/
def cut (k a n : Nat) : List (Nat × Nat) := pieces k (n / k + 2) a n

/-! ## Scratchpads (R57, R128 to R130) -/

/-- The aligned 8-byte words that a range of a scratchpad touches. -/
def wordsOf (off n : Nat) : List Nat := (cut 8 off n).map (fun p => p.1 / 8 * 8)

/-- Whether a range of a scratchpad reads an uncorrectable word. -/
def spadBad (s : State) (cl off n : Nat) : Bool := (wordsOf off n).any ((clu s cl).badWords.contains ·)

/-- Every uncorrectable word that an access meets is counted, and the offset of the latest is kept (R130). -/
def noteSpadBad (s : State) (cl off n : Nat) : State :=
  ((wordsOf off n).filter ((clu s cl).badWords.contains ·)).foldl (fun s w =>
    modClu s cl (fun c => { c with spUe := satInc c.spUe 1, spBad := some (BitVec.ofNat 22 w) })) s

/-- Single-bit errors that an access meets are corrected, written back and counted (R130). -/
def correctSpad (s : State) (cl off n : Nat) : State :=
  ((wordsOf off n).filter ((clu s cl).softWords.contains ·)).foldl (fun s w =>
    modClu s cl (fun c => { c with spCe := satInc c.spCe 1, softWords := c.softWords.filter (· ≠ w) })) s

/-- Reading a scratchpad. -/
def loadSpad (cl off n : Nat) : Act (List Byte) := do
  edit (fun s => correctSpad s cl off n)
  let s ← get
  if spadBad s cl off n then do
    edit (fun s => noteSpadBad s cl off n)
    throw (.fail Code.poisoned)
  else pure (mbytes s.spad (spadBase cl + off) n)

/-- One piece within an 8-byte word: a whole word clears its error, a part of an uncorrectable word is not made (R130). -/
def storeSpadWord (cl off : Nat) (bs : List Byte) : Act Unit := do
  let w := off / 8 * 8
  if bs.length = 8 then
    edit (fun s => modClu (pokeSpad s (spadBase cl + off) bs) cl (fun c => { c with
      badWords := c.badWords.filter (· ≠ w), softWords := c.softWords.filter (· ≠ w) }))
  else do
    edit (fun s => correctSpad s cl off bs.length)
    let s ← get
    if (clu s cl).badWords.contains w then do
      edit (fun s => noteSpadBad s cl off bs.length)
      throw (.fail Code.poisoned)
    else edit (fun s => pokeSpad s (spadBase cl + off) bs)

/-- Writing a scratchpad, word by word. -/
def storeSpad (cl off : Nat) (bs : List Byte) : Act Unit :=
  eachAct (fun p => storeSpadWord cl p.1 ((bs.drop (p.1 - off)).take p.2)) (cut 8 off bs.length)

/-- Zero fill of a scratchpad (R129). -/
def zeroSpad (s : State) (cl : Nat) : State :=
  modClu (wipeSpad s (spadBase cl) (spadBase (cl + 1))) cl (fun c => { c with badWords := [], softWords := [] })

/-! ## Host windows (R398) and lost ports (R355) -/

def hostBad (p : Port) (a n : Nat) : Bool := (cut 64 a n).any (fun c => p.badLines.contains (c.1 / 64))

/-- The AER status bit of a poisoned TLP received (R387). PRESUMED from the PCIe specification (log entry 108). -/
def poisonedTlp : BitVec 32 := 0x1000

/-- A read of host memory (R260, R398); poisoned data is noted in the port's AER status. -/
def loadHost (q : PortId) (off n : Nat) : Act (List Byte) := do
  let s ← get
  match hostCheck s q off n with
  | some st => throw (.fail st)
  | none =>
    let p := port s q
    if hostBad p (hostAddr p off) n then do
      edit (fun s => modPort s q (fun p => { p with aerUncorr := p.aerUncorr ||| poisonedTlp }))
      throw (.fail Code.poisoned)
    else pure (mbytes p.mem (hostAddr p off) n)

/-- A port among those that writes have used. -/
def addPort (l : List PortId) (q : PortId) : List PortId := if l.contains q then l else l ++ [q]

/-- A posted write to host memory; the task that made it must flush the port before it completes (R249). -/
def storeHost (who : Option Nat) (q : PortId) (off : Nat) (bs : List Byte) : Act Unit := do
  let s ← get
  match hostCheck s q off bs.length with
  | some st => throw (.fail st)
  | none => edit (fun s =>
    let s := modPort s q (fun p => { p with mem := mwrite p.mem (hostAddr p off) bs })
    match who with
    | some t => modTask s t (fun x => { x with hostPorts := addPort x.hostPorts q })
    | none => s)

/-! ## Homes (R248): reads and writes by local address -/

/-- The clock ceiling of the clusters of a die in MHz: the most restrictive of what its state, its throttle and the cap ask
for (R370, R377, R380). -/
def dieCeiling (s : State) (d : Nat) : Nat :=
  if (dom s d).state = .floor then 600 else Nat.max 600 (Nat.min (dom s d).ceiling s.pwr.capCeiling)

/-- What precedes any access to a stack: presence (R64), SHUTDOWN (R373), then waiting for its granule (R71) and for a
retrain of the channel (R361). -/
def stackServes (s : State) (i o : Nat) : Act Unit := do
  need (!absentOff s i o) Code.unitAbsent
  need (!stackDown s i) Code.unitOffline
  needReady (!granBusy s i (granOf o))
  needReady (!chanHeld s i o)

/-- A scratchpad is accessed only on a present cluster of a die that is not in SHUTDOWN (R152, R373). -/
def spadServes (s : State) (c : Nat) : Act Unit := do
  need (clusterPresent s c) Code.unitAbsent
  need (!dieDown s (c / 64)) Code.unitOffline

/-- The checks on presence and waiting for a stack access of one piece (R64, R71, R86). -/
def stackReady (s : State) (i o : Nat) (write : Bool) : Act Unit := do
  stackServes s i o
  if write then do
    let g := gran s i (granOf o)
    need (g.role ≠ 2) Code.mirrorCopyWrite
    needReady (!(stk s i).writeHold)
    if g.role = 1 then needReady (!(stk s g.partner).writeHold && !granBusy s g.partner (granOf o) && !pairHeld s i g.partner o)

/-- A lost read transfer ends the reading step as poison does, once (Table 13-1). -/
def lostTransfer : Act Unit := do
  let s ← get
  if s.rst.pathLost then do
    edit (fun s => { s with rst := { s.rst with pathLost := false } })
    throw (.fail Code.poisoned)

/-- Reading one piece, within one sector of a stack, one word boundary of 64 bytes elsewhere. -/
def loadPiece (a n : Nat) : Act (List Byte) := do
  lostTransfer
  let s ← get
  match placeOf a with
  | .stack i o => do
    stackReady s i o false
    let b ← loadSector i (sectorOf o)
    pure ((b.drop (o % 64)).take n)
  | .spad c o => do
    spadServes s c
    loadSpad c o n
  | .host q o => loadHost q o n
  | _ => throw (.fail Code.windowFault)

/-- Reading `n` bytes of homes upwards from `a`: no window test. -/
def loadHome (a n : Nat) : Act (List Byte) := do
  let bs ← mapAct (fun p => loadPiece p.1 p.2) (cut 64 a n)
  pure bs.flatten

/-- The checks that precede any byte of a write: a refused write changes nothing. -/
def checkStore (p : Nat × Nat) : Act Unit := do
  let s ← get
  match placeOf p.1 with
  | .stack i o => stackReady s i o true
  | .spad c _ => spadServes s c
  | .host q o =>
    match hostCheck s q o p.2 with
    | some st => throw (.fail st)
    | none => pure ()
  | _ => throw (.fail Code.windowFault)

def storePiece (who : Option Nat) (a : Nat) (bs : List Byte) : Act Unit :=
  match placeOf a with
  | .stack i o => storeSector i o bs
  | .spad c o => storeSpad c o bs
  | .host q o => storeHost who q o bs
  | _ => throw (.fail Code.windowFault)

/-- Every piece is tried: the first failure is kept and the other pieces are still made (R252). -/
def storeAll (who : Option Nat) (a : Nat) (bs : List Byte) : List (Nat × Nat) → Status → Act Status
  | [], st => pure st
  | p :: ps, st => do
    let s ← get
    match runAct (storePiece who p.1 ((bs.drop (p.1 - a)).take p.2)) s with
    | (.ok _, t) => do
      set t
      storeAll who a bs ps st
    | (.error (.fail e), t) => do
      set t
      storeAll who a bs ps (if st = 0 then e else st)
    | (.error .wait, _) => throw .wait

/-- Writing bytes to homes upwards from `a`: no window test. -/
def storeHome (who : Option Nat) (a : Nat) (bs : List Byte) : Act Unit := do
  let ps := cut 64 a bs.length
  eachAct checkStore ps
  let st ← storeAll who a bs ps 0
  need (st = 0) st

/-- R56: the window test of partition `q` comes first. -/
def testWindows (q : Nat) (write : Bool) (a n : Nat) : Act Unit := do
  let s ← get
  need (inWindows s q write a n) Code.windowFault

/-- A read of homes from die `d`; die 4 is the hub. What lies between the first and the last byte of a range lies on their dies. -/
def loadFrom (d a n : Nat) : Act (List Byte) := do
  readPath d a
  readPath d (a + (n - 1))
  loadHome a n

/-- A write of homes from die `d`. -/
def storeFrom (d : Nat) (who : Option Nat) (a : Nat) (bs : List Byte) : Act Unit := do
  writePath d a
  writePath d (a + (bs.length - 1))
  storeHome who a bs

/-- A read of homes by partition `q` from die `d`. -/
def loadFor (d q a n : Nat) : Act (List Byte) := do
  testWindows q false a n
  loadFrom d a n

/-! ## Zero fill of stacks (R60) -/

/-- Every sector of a stack reads zero under the sealed code; roles, poison and errors are gone. The fill runs until
STACK_FILL_END. The halves that other stacks held of its pairs become ordinary sealed granules (DESIGN CHOICE, log entry 9). -/
def fillStack (s : State) (i : Nat) : State :=
  let pairs := (stk s i).granules.filter (fun e => e.2.role ≠ 0)
  let s := pairs.foldl (fun s e => modGran s e.2.partner e.1 (fun g => { g with role := 0, partner := 0 })) s
  modStk (wipeDram s (stackBase i) (stackBase (i + 1))) i (fun st => { st with
    granules := [], poison := [], latent := [], writeback := [], mirrorPending := [], scrubPos := 0, initBusy := true,
    conversion := [] })

end Sys2Proof.Machine
end

