-- ==== Sys2Proof/Machine/Cache.lean ====
section
/-! DEFINITION. Region caches with their hints (R90, R91), and the data and instruction caches of jigs (R174). -/

namespace Sys2Proof.Machine
open Sys2Proof

/-- Whether all of these bits are set. -/
def allBits (m off n : Nat) : Bool := decide (m &&& maskBits off n = maskBits off n)

/-- Runs of set bits of a mask among bits `off` upwards: start and length. -/
def runsFrom (m : Nat) : Nat → Nat → Option Nat → List (Nat × Nat)
  | 0, off, some b => [(b, off - b)]
  | 0, _, none => []
  | n + 1, off, some b => if m.testBit off then runsFrom m n (off + 1) (some b) else (b, off - b) :: runsFrom m n (off + 1) none
  | n + 1, off, none => runsFrom m n (off + 1) (if m.testBit off then some off else none)

/-- Runs of dirty bytes within each 64-byte sector of a line of `k` sectors. -/
def dirtyRuns (m k : Nat) : List (Nat × Nat) := (List.range k).flatMap (fun i => runsFrom m 64 (64 * i) none)

/-! ## Lines -/

def lineOf (ls : List CacheLine) (l : Nat) : Option CacheLine := ls.find? (fun x => x.line = l)
def without (ls : List CacheLine) (l : Nat) : List CacheLine := ls.filter (fun x => x.line ≠ l)

/-- Whether bytes `off` to `off + n - 1`, within one sector, are all held. -/
def holds (x : CacheLine) (off n : Nat) : Bool := bit x.valid.toNat (off / 64) || allBits x.dirty off n

/-- A sector fetched from below, with the dirty bytes of the line kept over it (R90). -/
def mergeSector (x : CacheLine) (sec : Nat) (bs : List Byte) : List Byte :=
  (List.range 64).map (fun k => if x.dirty.testBit (64 * sec + k) then mget x.data (64 * sec + k) else bs.getD k 0)

/-- The line holding sector `sec` whole. -/
def fillSector (x : CacheLine) (sec : Nat) (bs : List Byte) : CacheLine :=
  { x with valid := x.valid ||| BitVec.ofNat 4 (2 ^ sec), data := mwrite x.data (64 * sec) (mergeSector x sec bs) }

/-- The tasks whose writes a sector of a line holds dirty. -/
def writersOf (x : CacheLine) (sec : Nat) : List Nat := (x.writers.filter (fun e => decide (e.1 = sec))).map Prod.snd

/-- Whether a line holds dirty bytes of a task. -/
def writtenBy (t : Nat) (x : CacheLine) : Bool := x.writers.any (fun e => decide (e.2 = t))

/-- A line without the writers of sectors that hold no dirty byte. -/
def pruneWriters (x : CacheLine) : CacheLine :=
  { x with writers := x.writers.filter (fun e => decide (x.dirty / 2 ^ (64 * e.1) % 2 ^ 64 ≠ 0)) }

/-- Bytes written into a sector of a line and held dirty for a task. -/
def dirtyWrite (x : CacheLine) (who : Option Nat) (off : Nat) (bs : List Byte) : CacheLine :=
  { x with
    data := mwrite x.data off bs, dirty := orBits x.dirty off bs.length,
    writers := match who with
      | some t => if x.writers.contains (off / 64, t) then x.writers else x.writers ++ [(off / 64, t)]
      | none => x.writers }

/-- Bytes written through below: a held line is updated and those bytes are no longer dirty. -/
def throughWrite (x : CacheLine) (off : Nat) (bs : List Byte) : CacheLine :=
  pruneWriters { x with
    data := mwrite x.data off (if bit x.valid.toNat (off / 64) then bs else zeros bs.length),
    dirty := dropBits x.dirty off bs.length }

/-- A sector leaves its line. -/
def dropSector (x : CacheLine) (sec : Nat) : CacheLine :=
  pruneWriters { x with
    valid := x.valid &&& BitVec.ofNat 4 (15 - 2 ^ sec), dirty := dropBits x.dirty (64 * sec) 64,
    data := tclear (64 * sec) (64 * sec + 64) x.data }

def lineEmpty (x : CacheLine) : Bool := decide (x.valid = 0) && decide (x.dirty = 0)

/-! ## Release failures (R252) -/

/-- The first failure of a task's release comes with its time (R253). -/
def stampFail (s : State) (old new : Task) : Task :=
  if old.relFail = 0 ∧ new.relFail ≠ 0 then { new with relFailAt := now s } else new

/-- A write of these tasks could not reach its home: the first such failure is kept until the task completes. -/
def noteReleaseFailure (s : State) (ts : List Nat) (st : Status) : State :=
  ts.foldl (fun s t => modTask s t (fun x => stampFail s x { x with relFail := if x.relFail = 0 then st else x.relFail })) s

/-! ## Region caches -/

def rcLines (s : State) (r : Nat) : List CacheLine := (reg s r).cache
def setRc (s : State) (r : Nat) (ls : List CacheLine) : State := modReg s r (fun x => { x with cache := ls })

/-- The status under which bytes held for a stack are lost: once the stack is in SHUTDOWN they are writes not yet home of a domain
that is reset (R252, R386). -/
def lossStatus (s : State) (a : Nat) (st : Status) : Status :=
  match placeOf a with
  | .stack i _ => if stackDown s i then Code.unitReset else st
  | _ => st

/-- One run of dirty bytes of a sector written home; a failure falls on the tasks that wrote the sector, not on this step (R252). -/
def writeRun (r : Nat) (x : CacheLine) (run : Nat × Nat) : Act Unit := do
  writePath (r / 8) (x.line * 256)
  let s ← get
  match runAct (storeHome (writersOf x (run.1 / 64)).head? (x.line * 256 + run.1) (mbytes x.data run.1 run.2)) s with
  | (.ok _, t) => set t
  | (.error (.fail e), t) => set (noteReleaseFailure t (writersOf x (run.1 / 64)) (lossStatus t (x.line * 256) e))
  | (.error .wait, _) => throw .wait

/-- The dirty bytes of a line are written back. -/
def writeBack (r : Nat) (x : CacheLine) : Act Unit := eachAct (writeRun r x) (dirtyRuns x.dirty 4)

def cleanLine (x : CacheLine) : CacheLine :=
  { x with
    dirty := 0, writers := [],
    data := (List.range 4).foldl (fun d i => if bit x.valid.toNat i then d else tclear (64 * i) (64 * i + 64) d) x.data }

/-- Lines of a set of `sets`. -/
def inSet (sets l : Nat) (x : CacheLine) : Bool := decide (x.line % sets = l % sets)

/-- The last element satisfying a condition. -/
def lastWith (p : CacheLine → Bool) (ls : List CacheLine) : Option CacheLine := (ls.filter p).getLast?

/-- Room for a new line in its set: the line to replace, if the set is full (R90: NORMAL least recently used first). -/
def victim (sets ways l : Nat) (ls : List CacheLine) : Option CacheLine :=
  if (ls.filter (inSet sets l)).length < ways then none
  else
    match lastWith (fun x => inSet sets l x && !x.keep) ls with
    | some x => some x
    | none => lastWith (inSet sets l) ls

/-- The KEEP lines of a set. -/
def keepLines (l : Nat) (ls : List CacheLine) : List CacheLine := ls.filter (fun x => inSet 4096 l x && x.keep)

/-- The line that became KEEP first. -/
def oldestKeep : List CacheLine → Option CacheLine
  | [] => none
  | x :: xs => match oldestKeep xs with
    | none => some x
    | some y => if y.keepAge < x.keepAge then some y else some x

/-- The place in that order of a line that becomes KEEP now. -/
def nextKeepAge (l : Nat) (ls : List CacheLine) : Nat := (keepLines l ls).foldl (fun n x => Nat.max n (x.keepAge + 1)) 0

/-- A thirteenth KEEP line of a set demotes the oldest to NORMAL (Table 3-13). -/
def demoteKeep (l : Nat) (ls : List CacheLine) : List CacheLine :=
  if (keepLines l ls).length < 12 then ls
  else
    match oldestKeep (keepLines l ls) with
    | some v => ls.map (fun x => if x.line = v.line then { x with keep := false } else x)
    | none => ls

/-- Putting a line in front, making room first. -/
def rcInsert (r : Nat) (x : CacheLine) : Act Unit := do
  let s ← get
  let ls := without (rcLines s r) x.line
  match victim 4096 16 x.line ls with
  | some v => do
    writeBack r v
    edit (fun s => setRc s r (x :: without ls v.line))
  | none => edit (fun s => setRc s r (x :: ls))

/-- A line with its KEEP mark. DESIGN CHOICE: a KEEP access that hits a NORMAL line makes it KEEP, and a NORMAL access to a KEEP line leaves it
KEEP: Table 3-13 speaks of allocation alone (log entry 128). -/
def keepMark (r : Nat) (hint : Nat) (x : CacheLine) : Act CacheLine := do
  if hint = 2 && !x.keep then do
    edit (fun s => setRc s r (demoteKeep x.line (rcLines s r)))
    let s ← get
    pure { x with keep := true, keepAge := nextKeepAge x.line (rcLines s r) }
  else pure x

/-- Dropping a line after its dirty bytes have been written back (LAST_USE). -/
def rcDrop (r : Nat) (x : CacheLine) : Act Unit := do
  writeBack r x
  edit (fun s => setRc s r (without (rcLines s r) x.line))

/-- An access to an absent range of a stack, or to one in SHUTDOWN, ends before any cache is asked, whether or not it holds the bytes
(R64, R373), and one to a granule that is not IDLE waits (R71, R136). -/
def stackThere (a : Nat) : Act Unit := do
  let s ← get
  match placeOf a with
  | .stack i o => do
    need (!absentOff s i o) Code.unitAbsent
    need (!stackDown s i) Code.unitOffline
    needReady (!granWorked s i (granOf o))
  | _ => pure ()

/-- A read of one sector's bytes through a region cache (Table 3-13). -/
def rcRead (r hint a n : Nat) : Act (List Byte) := do
  stackThere a
  let s ← get
  let l := a / 256
  let off := a % 256
  let sec := off / 64
  let old := (lineOf (rcLines s r) l).getD { line := l }
  let hit := holds old off n
  if !hit then readPath (r / 8) a
  let whole ← if hit then pure [] else loadHome (l * 256 + sec * 64) 64
  let x := if hit then old else fillSector old sec whole
  let bs := mbytes x.data off n
  if hint = 3 then do
    if (lineOf (rcLines s r) l).isSome then rcDrop r x
    pure bs
  else if hint = 1 then do
    if hit then edit (fun s => setRc s r (old :: without (rcLines s r) l))
    pure bs
  else do
    let x ← keepMark r hint x
    rcInsert r x
    pure bs

/-- The checks on a cached store: what the stack would refuse, it refuses now (R64, R71, R74). -/
def cacheable (a : Nat) : Act Unit := do
  let s ← get
  match placeOf a with
  | .stack i o => do
    stackServes s i o
    need ((gran s i (granOf o)).role ≠ 2) Code.mirrorCopyWrite
  | _ => throw (.fail Code.windowFault)

/-- A write of bytes within one sector through a region cache (Table 3-13). -/
def rcWrite (r hint : Nat) (who : Option Nat) (a : Nat) (bs : List Byte) : Act Unit := do
  cacheable a
  let s ← get
  let l := a / 256
  let off := a % 256
  let old := lineOf (rcLines s r) l
  if hint = 1 || hint = 3 then do
    writePath (r / 8) a
    storeHome who a bs
    match old with
    | some x =>
      if hint = 3 then rcDrop r (throughWrite x off bs)
      else edit (fun s => setRc s r (throughWrite x off bs :: without (rcLines s r) l))
    | none => pure ()
  else do
    let x ← keepMark r hint (dirtyWrite (old.getD { line := l }) who off bs)
    rcInsert r x

/-- Reads and writes of any range of stacks through a region cache, sector by sector. -/
def rcLoad (r hint a n : Nat) : Act (List Byte) := do
  let bs ← mapAct (fun p => rcRead r hint p.1 p.2) (cut 64 a n)
  pure bs.flatten

def rcStore (r hint : Nat) (who : Option Nat) (a : Nat) (bs : List Byte) : Act Unit := do
  eachAct (fun p => cacheable p.1) (cut 64 a bs.length)
  eachAct (fun p => rcWrite r hint who p.1 ((bs.drop (p.1 - a)).take p.2)) (cut 64 a bs.length)

/-- A range read by an engine of a region: stacks through the region cache, everything else at its home. -/
def viaLoad (r hint a n : Nat) : Act (List Byte) :=
  match placeOf a with
  | .stack _ _ => rcLoad r hint a n
  | _ => do
    readPath (r / 8) a
    loadHome a n

/-- A write to a host window of a lost port by a task is dropped; the task completes with HOST_UNREACHABLE (R355). A write of
no task, which is a KV swap's, fails with that status (R278). -/
def hostStore (who : Option Nat) (a : Nat) (bs : List Byte) : Act Unit := do
  let s ← get
  match runAct (storeHome who a bs) s, who with
  | (.ok _, t), _ => set t
  | (.error (.fail st), t), some k =>
    if st = Code.hostUnreachable then set (noteReleaseFailure t [k] st)
    else do
      set t
      throw (.fail st)
  | (.error e, t), _ => do
    set t
    throw e

def viaStore (r hint : Nat) (who : Option Nat) (a : Nat) (bs : List Byte) : Act Unit :=
  match placeOf a with
  | .stack _ _ => rcStore r hint who a bs
  | .host _ _ => do
    writePath (r / 8) a
    hostStore who a bs
  | _ => do
    writePath (r / 8) a
    storeHome who a bs

/-! ## Flushing reads (R249) -/

/-- One flushing read on each of these ports: what waits for them, by port and number of the read. -/
def sendFlushes (s : State) : List PortId → List (PortId × Nat) × State
  | [] => ([], s)
  | p :: ps =>
    let n := (port s p).flushSent + 1
    let (l, s) := sendFlushes (emit (modPort s p (fun q => { q with flushSent := n })) (.flushRead p)) ps
    ((p, n) :: l, s)

/-- Host-window writes of one writer need to be home (R249): a read goes out on each port that they used. -/
def askHome (s : State) (ports : List PortId) : List (PortId × Nat) × State :=
  sendFlushes s (ports.filter (fun p => !portLost (port s p)))

/-- The writes of a lost port among them fail at once (R355). -/
def lostHome (s : State) (ports : List PortId) : Status :=
  if ports.any (fun p => portLost (port s p)) then Code.hostUnreachable else 0

/-- A failure that comes behind `old`: the first one counts (R252). -/
def firstFail (old new : Status) : Status := if old = 0 then new else old

/-- Whether every host-window write that a task has made is home. -/
def writesHome (x : Task) : Bool := x.hostPorts.isEmpty && x.flushOut.isEmpty

/-- A task needs its host-window writes home: one read goes out on each port that they used since the last; on a lost port it fails
at once (R249, R355). -/
def flushTask (s : State) (t : Nat) : State :=
  match taskAt s t with
  | none => s
  | some x =>
    let bad := lostHome s x.hostPorts
    let (l, s) := askHome s x.hostPorts
    modTask s t (fun x => stampFail s x { x with hostPorts := [], flushOut := x.flushOut ++ l, relFail := firstFail x.relFail bad })

/-- A host-window write that a jig has made, or that was dropped because its port is lost (R355): what a REL of that jig waits for
(R172). -/
def jigWrote (q : PortId) (lost : Bool) (g : Jig) : Jig :=
  if lost then { g with relFail := firstFail g.relFail Code.hostUnreachable } else { g with hostPorts := addPort g.hostPorts q }

/-- A REL of a jig needs the jig's own host-window writes home (R172, R249). -/
def flushJig (s : State) (cl j : Nat) : State :=
  let bad := lostHome s (jig s cl j).hostPorts
  let (l, s) := askHome s (jig s cl j).hostPorts
  modJig s cl j (fun g => { g with hostPorts := [], flushOut := g.flushOut ++ l, relFail := firstFail g.relFail bad })

/-- What an engine's own writes leave on their task while they are watched apart: the ports used and the first failure. -/
def watchTask (s : State) (t : Nat) : State := modTask s t (fun x => { x with hostPorts := [], relFail := 0 })

/-- The end of the watch: the task has what it had and what came, and the watched writes have what came. -/
def watchEnd (s0 s : State) (t : Nat) : State × List PortId × Status :=
  match taskAt s0 t, taskAt s t with
  | some a, some b =>
    (modTask s t (fun x => { x with
      hostPorts := b.hostPorts.foldl addPort a.hostPorts, relFail := firstFail a.relFail b.relFail,
      relFailAt := if a.relFail = 0 then b.relFailAt else a.relFailAt }),
      b.hostPorts, b.relFail)
  | _, _ => (s, [], 0)

/-- An action of a chain: its host-window writes, and its write failures, are the chain's as well as the task's (R249, R252). -/
def watched {α : Type} (c : Chain) (a : Act α) : Act (α × Chain) := do
  let s0 ← get
  edit (fun s => watchTask s c.task)
  let y ← a
  let s ← get
  let e := watchEnd s0 s c.task
  set e.1
  pure (y, { c with hostPorts := e.2.1.foldl addPort c.hostPorts, relFail := firstFail c.relFail e.2.2 })

/-- What still waits once read `n` of a port, and with it every earlier one, has ended. -/
def stillOut (p : PortId) (n : Nat) (l : List (PortId × Nat)) : List (PortId × Nat) :=
  l.filter (fun e => decide (e.1 ≠ p) || decide (n < e.2))

/-- A task whose reads on a port have ended; a failed one costs it its success (R252, R355). -/
def taskFlushed (p : PortId) (n : Nat) (ok : Bool) (x : Task) : Task :=
  let l := stillOut p n x.flushOut
  { x with flushOut := l,
           relFail := if ok || decide (l = x.flushOut) then x.relFail else firstFail x.relFail Code.hostUnreachable }

/-- An LCALL's ticket that waited for its task's host-window writes finishes with the last of those reads (R182). -/
def ticketFlushed (p : PortId) (n : Nat) (ok : Bool) (x : Ticket) : Ticket :=
  let l := stillOut p n x.flush
  if l = x.flush then x
  else { x with flush := l, finished := x.finished || l.isEmpty, status := if ok then x.status else demote x.status Code.hostUnreachable }

/-- A SWAP_OUT whose flushing read has ended (R277, R278). -/
def seqFlushed (p : PortId) (n : Nat) (ok : Bool) (k : KvSeq) : KvSeq :=
  let l := stillOut p n k.swapFlush
  { k with swapFlush := l,
           swapStatus := if ok || decide (l = k.swapFlush) || decide (k.swapStatus ≠ 0) then k.swapStatus else Code.hostUnreachable }

def jigFlushed (p : PortId) (n : Nat) (ok : Bool) (g : Jig) : Jig :=
  let l := stillOut p n g.flushOut
  { g with
    flushOut := l, relFail := if ok || decide (l = g.flushOut) then g.relFail else firstFail g.relFail Code.hostUnreachable,
    tickets := g.tickets.map (fun e => (e.1, e.2.map (ticketFlushed p n ok))) }

/-- The flushing reads of a port up to the `n`th have ended: with their completions, or because the port is lost (R249, R355). -/
def endFlush (s : State) (p : PortId) (n : Nat) (ok : Bool) : State :=
  modPort { s with
    tasks := s.tasks.map (fun e => (e.1, e.2.map (fun x => stampFail s x (taskFlushed p n ok x))))
    clusters := s.clusters.map (fun e => (e.1, { e.2 with
      jig0 := jigFlushed p n ok e.2.jig0, jig1 := jigFlushed p n ok e.2.jig1 }))
    parts := s.parts.map (fun e => (e.1, { e.2 with seqs := e.2.seqs.map (fun k => (k.1, seqFlushed p n ok k.2)) })) }
    p (fun q => { q with flushDone := n })

/-- Lines of a region that satisfy a condition are written back and become clean (R91). -/
def rcClean (r : Nat) (p : CacheLine → Bool) : Act Unit := do
  let s ← get
  eachAct (writeBack r) ((rcLines s r).filter p)
  edit (fun s => setRc s r (((rcLines s r).map (fun x => if p x then cleanLine x else x)).filter (fun x => !lineEmpty x)))

/-- R91: every dirty sector that the task wrote through the cache is written back. -/
def rcRelease (r t : Nat) : Act Unit := rcClean r (writtenBy t)

/-- A region cache holds a sector no longer. -/
def forgetSector (s : State) (r : Nat) (x : CacheLine) (sec : Nat) : State :=
  let y := dropSector x sec
  setRc s r (if lineEmpty y then without (rcLines s r) x.line
    else (rcLines s r).map (fun z => if z.line = x.line then y else z))

/-- The sector of a line is written back, then dropped (R254). -/
def rcDropSector (r a : Nat) : Act Unit := do
  let s ← get
  match lineOf (rcLines s r) (a / 256) with
  | none => pure ()
  | some x => do
    let sec := a % 256 / 64
    eachAct (writeRun r x) (runsFrom x.dirty 64 (64 * sec) none)
    edit (fun s => forgetSector s r x sec)

/-- Whether the sector at `a` of a line lies in one of the ranges (address, length). -/
def overlapsAny (rs : List (Nat × Nat)) (a n : Nat) : Bool := rs.any (fun q => decide (q.1 < a + n) && decide (a < q.1 + q.2))

/-- The sectors held by a region cache that declared ranges overlap are dropped: the acquire (R254). -/
def rcAcquire (r : Nat) (rs : List (Nat × Nat)) : Act Unit := do
  let s ← get
  let secs := (rcLines s r).flatMap (fun x => (List.range 4).map (fun k => x.line * 256 + 64 * k))
  eachAct (rcDropSector r) (secs.filter (fun a => overlapsAny rs a 64))

/-! ## Jig caches (Table 6-9, R174) -/

def regionOfCluster (n : Nat) : Nat := n / 8

def dLines (s : State) (cl j : Nat) : List CacheLine := (jig s cl j).dcache
def setD (s : State) (cl j : Nat) (ls : List CacheLine) : State := modJig s cl j (fun x => { x with dcache := ls })

/-- The dirty bytes of a data-cache line are written back into the region cache. -/
def dWriteBack (cl : Nat) (who : Option Nat) (x : CacheLine) : Act Unit :=
  eachAct (fun run => rcWrite (regionOfCluster cl) (if x.keep then 2 else 0) who (x.line * 64 + run.1)
    (mbytes x.data run.1 run.2)) (dirtyRuns x.dirty 1)

def dInsert (cl j : Nat) (who : Option Nat) (x : CacheLine) : Act Unit := do
  let s ← get
  let ls := without (dLines s cl j) x.line
  match victim 256 4 x.line (ls.map (fun y => { y with keep := false })) with
  | some v => do
    match lineOf ls v.line with
    | some w => dWriteBack cl who w
    | none => pure ()
    edit (fun s => setD s cl j (x :: without ls v.line))
  | none => edit (fun s => setD s cl j (x :: ls))

/-- A jig's read of `n` bytes within one 64-byte line of a stack. -/
def dRead (cl j hint : Nat) (who : Option Nat) (a n : Nat) : Act (List Byte) := do
  stackThere a
  let s ← get
  let l := a / 64
  let old := (lineOf (dLines s cl j) l).getD { line := l }
  let hit := holds old (a % 64) n
  let whole ← if hit then pure [] else rcRead (regionOfCluster cl) hint (l * 64) 64
  let x := if hit then old else fillSector old 0 whole
  let bs := mbytes x.data (a % 64) n
  if hint = 3 then do
    dWriteBack cl who x
    edit (fun s => setD s cl j (without (dLines s cl j) l))
  else if hint = 1 then do
    if hit then edit (fun s => setD s cl j (old :: without (dLines s cl j) l))
  else dInsert cl j who { x with keep := x.keep || hint = 2 }
  pure bs

/-- A jig's write within one 64-byte line of a stack: held dirty, or passed on when its hint does not allocate. -/
def dWrite (cl j hint : Nat) (who : Option Nat) (a : Nat) (bs : List Byte) : Act Unit := do
  cacheable a
  let s ← get
  let l := a / 64
  let old := lineOf (dLines s cl j) l
  if hint = 0 || hint = 2 then
    let x := dirtyWrite (old.getD { line := l }) who (a % 64) bs
    dInsert cl j who { x with keep := x.keep || hint = 2 }
  else do
    match old with
    | some x =>
      let y := throughWrite x (a % 64) bs
      if hint = 3 then do
        dWriteBack cl who y
        edit (fun s => setD s cl j (without (dLines s cl j) l))
      else edit (fun s => setD s cl j (y :: without (dLines s cl j) l))
    | none => pure ()
    rcWrite (regionOfCluster cl) hint who a bs

/-- One line written back: where that fails, the task keeps the failure and the other lines are still written (R252). -/
def dRelease (cl : Nat) (who : Option Nat) (x : CacheLine) : Act Unit := do
  let a ← attempt (dWriteBack cl who x)
  match a with
  | .ok _ => pure ()
  | .error e => edit (fun s => noteReleaseFailure s who.toList (lossStatus s (x.line * 64) e))

/-- All dirty lines of a jig's data cache are written back into the region cache and stay as clean copies. -/
def dFlush (cl j : Nat) (who : Option Nat) : Act Unit := do
  let s ← get
  eachAct (dRelease cl who) (dLines s cl j)
  edit (fun s => setD s cl j (((dLines s cl j).map cleanLine).filter (fun x => !lineEmpty x)))

/-- A line that keeps its dirty bytes only. -/
def dirtyOnly (x : CacheLine) : CacheLine := { x with valid := 0, data := x.data.filter (fun c => x.dirty.testBit c.1) }

/-- R257: of a jig's data cache within a range the clean lines are dropped; the dirty ones keep the bytes that the jig wrote, and its
loads of the rest return the call's writes. -/
def dDropClean (s : State) (cl j lo hi : Nat) : State :=
  setD s cl j (((dLines s cl j).map (fun x =>
    if x.line * 64 + 64 ≤ lo ∨ hi ≤ x.line * 64 then x else dirtyOnly x)).filter (fun x => !lineEmpty x))

/-- A line of code through the region cache with KEEP, or from the home of a scratchpad or host window (Table 6-9). -/
def codeLine (cl l : Nat) : Act (List Byte) :=
  match placeOf (l * 64) with
  | .stack _ _ => rcRead (regionOfCluster cl) 2 (l * 64) 64
  | _ => loadFrom (cl / 64) (l * 64) 64

/-- What a fetch of a line would give now; nothing where it would fail or wait. -/
def peekLine (s : State) (cl l : Nat) : List Byte :=
  match runAct (codeLine cl l) s with
  | (.ok bs, _) => bs
  | _ => []

/-- A 64-byte line of code for a jig: from its instruction cache, else fetched (R174). -/
def iLine (cl j l : Nat) : Act (List Byte) := do
  let s ← get
  match lineOf (jig s cl j).icache l with
  | some x => do
    edit (fun s => modJig s cl j (fun g => { g with icache := x :: without g.icache l }))
    pure (mbytes x.data 0 64)
  | none => do
    let bs ← codeLine cl l
    let x := fillSector { line := l, around := (peekLine s cl (l - 1), peekLine s cl (l + 1)) } 0 bs
    edit (fun s => modJig s cl j (fun g =>
      { g with icache := x :: (match victim 256 4 l g.icache with
        | some v => without g.icache v.line
        | none => g.icache) }))
    pure bs

end Sys2Proof.Machine
end

