-- ==== Sys2Proof/Machine/Pegs.lean ====
section
/-! DEFINITION. Pegs (R236 to R238) and how tasks become ready (R227, R228, R244). -/

namespace Sys2Proof.Machine
open Sys2Proof

/-- The key of task `i` of graph `g` in the walker tables; keys rise in submission order (R226). -/
def taskKey (g i : Nat) : Nat := g * 16384 + i

/-- Every task of the tables, in submission order. -/
def allTasks (s : State) : List (Nat × Task) :=
  s.tasks.filterMap (fun e => e.2.map (fun t => (e.1, t)))

def waitsMet (t : Task) : Bool := t.desc.waits.all (fun w => w.met)

/-- A task leaves for READY, or for HELD under a walker break, which is logged (R244). -/
def enterReady (s : State) (t : Nat) : State :=
  match taskAt s t with
  | none => s
  | some x =>
    let w := wlk s x.die
    if w.brkEn && decide (x.desc.tag.toNat % 2 ^ 32 = w.brkTag.toNat) then
      let s := modTask s t (fun x => { x with state := .held })
      logEvent s Cls.walkerHeld 0 0 1 x.die (x.desc.tag.toNat % 2 ^ 32)
        ((graphAt s x.graph).map (fun g => g.userTag.toNat) |>.getD 0)
    else modTask s t (fun x => { x with state := .ready })

/-- WAITING passes to READY when every wait is met (R227, R228) and the graph has been admitted (R298), of which the task's walker has
heard. -/
def tryReady (s : State) (t : Nat) : State :=
  match taskAt s t with
  | none => s
  | some x =>
    if x.state = .waiting && waitsMet x && ((graphAt s x.graph).map (fun g => g.admitted && !g.heldDies.contains x.die)).getD false && !x.workDone then
      enterReady s t
    else s

/-- A wait looks at a value that its peg takes (R238). -/
def meet (m : Nat) (v : BitVec 32) (w : PegWait) : PegWait :=
  if w.peg = m && decide (w.value.toNat ≤ v.toNat) then { w with met := true } else w

def meetTask (m : Nat) (v : BitVec 32) (t : Task) : Task :=
  { t with desc := { t.desc with waits := t.desc.waits.map (meet m v) } }

/-- Whether values of peg `m` reach the walker of die `d`: those of another die come through the hub (R238), and a die edge that retrains
holds them (R18, Table 13-1). -/
def newsReach (s : State) (m d : Nat) : Bool := decide (m / 16384 = d) || (pathUp s (m / 16384) 4 && pathUp s 4 d)

/-- A task hears of a value that peg `m` takes: at once, or after the retraining of an edge on the way. -/
def tellTask (s : State) (m : Nat) (v : BitVec 32) (t : Task) : Task :=
  if newsReach s m t.die then meetTask m v t
  else if t.desc.waits.any (fun w => decide (w.peg = m) && !w.met) then { t with pegNews := t.pegNews ++ [(m, v)] }
  else t

/-- The values that were on their way to a task and can reach it now, in the order in which they were taken. -/
def hearNews (s : State) (t : Task) : Task :=
  let come := t.pegNews.filter (fun e => newsReach s e.1 t.die)
  { come.foldl (fun t e => meetTask e.1 e.2 t) t with pegNews := t.pegNews.filter (fun e => !newsReach s e.1 t.die) }

/-- What a die edge has held on its way to the walkers arrives: values of pegs, and the word that a step has been admitted. -/
def walkersHear (s : State) : State :=
  let s := { s with
    tasks := s.tasks.map (fun e => (e.1, e.2.map (hearNews s))),
    graphs := s.graphs.map (fun e => (e.1, e.2.map (fun g => { g with heldDies := g.heldDies.filter (fun d => !pathUp s 4 d) }))) }
  ((allTasks s).map Prod.fst).foldl tryReady s

/-- Every waiting task looks at a value that peg `m` takes. -/
def meetAll (s : State) (m : Nat) (v : BitVec 32) : State :=
  let s := { s with tasks := s.tasks.map (fun e => (e.1, e.2.map (tellTask s m v))) }
  ((allTasks s).map Prod.fst).foldl tryReady s

def pegValue (s : State) (m : Nat) : BitVec 32 := tget 0 s.pegs m

/-- A peg takes a value (R237, R238). -/
def setPeg (s : State) (m : Nat) (v : BitVec 32) : State := meetAll { s with pegs := tset 0 s.pegs m v } m v

/-- ADD wraps modulo 2^32 (R237). -/
def addPeg (s : State) (m : Nat) (v : BitVec 32) : State := setPeg s m (pegValue s m + v)

/-- Whether peg `m` lies in a partition's range (R236). -/
def ownsPeg (s : State) (q m : Nat) : Bool :=
  let p := prt s q
  decide (p.pegFirst.toNat ≤ m) && decide (m < p.pegFirst.toNat + p.pegCount.toNat)

/-- The peg that a local address names, when it is the aligned word of one. -/
def pegAt (a : Nat) : Option Nat :=
  match placeOf a with
  | .peg m lane => if lane = 0 then some m else none
  | _ => none

/-- The last predecessor has completed: WAITING from now on (R227), or SKIPPED when one failed with ON_FAIL 0 (R233), which
is completed by the caller. -/
def startWaiting (s : State) (t : Nat) : State :=
  tryReady (modTask s t (fun x => { x with state := .waiting, waitSince := now s })) t

/-- Limits of a task (R235, R239): its own field, or the walker's default. -/
def taskLimitNs (s : State) (x : Task) : Nat :=
  1000 * (if x.desc.timeLimitUs = 0 then (wlk s x.die).taskLimitUs.toNat else x.desc.timeLimitUs)

def waitLimitNs (s : State) (x : Task) : Nat :=
  1000000 * (if x.desc.waitLimitMs = 0 then (wlk s x.die).waitLimitMs.toNat else x.desc.waitLimitMs)

/-- Whether the time limit of a started task has passed; time in which a stopped jig holds the limit does not count (R179). -/
def limitPassed (s : State) (x : Task) : Bool :=
  x.started && decide (x.startTime + taskLimitNs s x + x.pausedNs ≤ now s)

/-- A task starts (R230): its time is taken and counted. -/
def startTask (s : State) (t : Nat) : State :=
  match taskAt s t with
  | none => s
  | some x =>
    let s := modTask s t (fun x => { x with state := .running, started := true, startTime := now s })
    modWlk s x.die (fun w => { w with startedCount := w.startedCount + 1 })

/-- A task starts unless it has: its acquire, which counts within its time limit, may still have to wait (R255). -/
def startOnce (s : State) (t : Nat) : State :=
  match taskAt s t with
  | some x => if x.started then s else startTask s t
  | none => s

/-- A task's work has ended with a status: TASK_COMPLETE carries out the rest (R232). A status already fixed stands. -/
def endWork (s : State) (t : Nat) (st : Status) (result : Word) : State :=
  modTask s t (fun x => if x.workDone then x else { x with workDone := true, status := st, result := result })

/-- Channel offsets [lo, hi) of one 256-byte row of a STRIPED stack with `n` channels, as local ranges. -/
def stripeRow (base n lo hi : Nat) : List (Nat × Nat) :=
  if hi ≤ lo then [] else (List.range n).map (fun k => (base + (lo / 256 * n + k) * 256 + lo % 256, hi - lo))

/-- Channel offsets [start, start + len) of every logical channel of a stack, as local ranges (R254). -/
def channelRange (s : State) (i start len : Nat) : List (Nat × Nat) :=
  let st := stk s i
  let base := stackBase i
  if st.sharded then (List.range 64).map (fun h => (base + h * channelBytes s + start, len))
  else
    let n := (activeChannels st).length
    let hi := start + len
    let up := (start + 255) / 256
    let down := hi / 256
    if down < up then stripeRow base n start hi
    else stripeRow base n start (up * 256)
      ++ (if up < down then [(base + up * n * 256, (down - up) * n * 256)] else [])
      ++ stripeRow base n (down * 256) hi

/-- The ranges that an acquire drops: a CHANNEL range is taken as stack offsets h × C + co (R254). -/
def acquireRanges (s : State) (rs : List Range) : List (Nat × Nat) :=
  rs.flatMap (fun r =>
    if r.channel then (List.range 64).map (fun h => (stackBase r.stack + h * channelBytes s + r.start, r.len)) else [(r.start, r.len)])

/-- The declared ranges of a task in local form: a CHANNEL range as the local addresses of its channel offsets in every logical channel
(R220). -/
def localRanges (s : State) (rs : List Range) : List (Nat × Nat) :=
  rs.flatMap (fun r => if r.channel then channelRange s r.stack r.start r.len else [(r.start, r.len)])

/-- Whether every byte of [a, a + n) lies in some range of a list. -/
def coveredBy (rs : List (Nat × Nat)) : Nat → Nat → Nat → Bool
  | 0, _, _ => false
  | fuel + 1, a, hi =>
    if hi ≤ a then true
    else
      let e := rs.foldl (fun e r => if r.1 ≤ a ∧ a < r.1 + r.2 then Nat.max e (r.1 + r.2) else e) a
      if e ≤ a then false else coveredBy rs fuel e hi

def inRanges (rs : List (Nat × Nat)) (a n : Nat) : Bool := coveredBy rs (rs.length + 1) a (a + n)

end Sys2Proof.Machine
end

