-- ==== Sys2Proof/Machine/Net.lean ====
section
/-! DEFINITION. Requests to other packages and their answers (spec/12): packets, tags, tickets, timeouts. -/

namespace Sys2Proof.Machine
open Sys2Proof

/-! ## Time (R337, R338) -/

/-- System time: device time plus the offset. -/
def sysTime (s : State) : BitVec 64 := s.time + s.fst.sysOffset

/-- Whether the package behaves as LOCKED: in LOCKED, or in the first 10 ms of HOLDOVER (R333, R338). -/
def lockedNow (s : State) : Bool :=
  decide (s.fst.timeState = .locked) || (decide (s.fst.timeState = .holdover) && s.fst.carryLocked)

/-- One period of the oscillator: device time advances by 1 ns, and now and then by one more or one less as the rate correction gathers
(R22, R338); it never falls. -/
def tickClock (s : State) : State :=
  let sum := s.fst.rateSum + s.fst.rate
  let extra : Int := if 1000000 ≤ sum then 1 else if sum ≤ -1000000 then -1 else 0
  { s with
    time := s.time + BitVec.ofInt 64 (1 + extra),
    fst := { s.fst with rateSum := sum - extra * 1000000 } }

/-! ## Packets (Table 12-4) -/

namespace Pkt
def put : BitVec 4 := 0x1
def get : BitVec 4 := 0x2
def add : BitVec 4 := 0x3
def peg : BitVec 4 := 0x4
def ack : BitVec 4 := 0x8
def data : BitVec 4 := 0x9
def result : BitVec 4 := 0xA
def nak : BitVec 4 := 0xB
end Pkt

def isRequest (p : Packet) : Bool := decide (p.typ.toNat < 8)

/-- The data bytes that a packet carries behind its header, before padding: LENGTH, but for a GET, whose LENGTH is what it asks for
(Table 12-4). -/
def dataLen (p : Packet) : Nat := if p.typ = 2 then 0 else p.length.toNat

/-- Length of a packet in 16-byte units. -/
def packetUnits (p : Packet) : Nat := 2 + (dataLen p + 15) / 16

/-- The bytes of a packet: header of Table 12-4, data padded with zeros to a multiple of 16. -/
def packetBytes (p : Packet) : List Byte :=
  leBytes 1 (p.typ.toNat * 16 + b2n p.locked * 8 + b2n p.detoured * 4 + p.plane.toNat) ++ leBytes 1 p.epoch.toNat
    ++ leBytes 2 p.tag.toNat
    ++ leBytes 4 (p.reqDie.toNat * 2 ^ 30 + p.detours.toNat * 2 ^ 28 + p.dst.toNat)
    ++ leBytes 4 (p.length.toNat * 2 ^ 21 + p.hops.toNat * 2 ^ 18 + p.src.toNat)
    ++ leBytes 4 (p.fkey.toNat * 65536 + p.route.toNat)
    ++ leBytes 8 (p.pegOp.toNat * 2 ^ 62 + p.addr.toNat) ++ leBytes 8 p.dropBy.toNat
    ++ (p.data ++ zeros (16 * ((dataLen p + 15) / 16) - p.data.length))

/-- The packet whose header a byte string starts with; its data is taken from the bytes that follow. -/
def parsePacket (bs : List Byte) : Packet :=
  let p : Packet := {
    typ := BitVec.ofNat 4 (at_ bs 0 1 / 16), locked := bit (at_ bs 0 1) 3, detoured := bit (at_ bs 0 1) 2,
    plane := BitVec.ofNat 2 (at_ bs 0 1), epoch := BitVec.ofNat 8 (at_ bs 1 1), tag := BitVec.ofNat 16 (at_ bs 2 2),
    reqDie := BitVec.ofNat 2 (fld (at_ bs 4 4) 31 30), detours := BitVec.ofNat 2 (fld (at_ bs 4 4) 29 28),
    dst := BitVec.ofNat 18 (at_ bs 4 4), length := BitVec.ofNat 11 (fld (at_ bs 8 4) 31 21),
    hops := BitVec.ofNat 3 (fld (at_ bs 8 4) 20 18), src := BitVec.ofNat 18 (at_ bs 8 4),
    fkey := BitVec.ofNat 16 (fld (at_ bs 12 4) 31 16), route := BitVec.ofNat 12 (at_ bs 12 4),
    pegOp := BitVec.ofNat 2 (fld (at_ bs 16 8) 63 62), addr := BitVec.ofNat 46 (at_ bs 16 8),
    dropBy := BitVec.ofNat 64 (at_ bs 24 8), data := [] }
  { p with data := (bs.drop 32).take (dataLen p) }

/-! ## Ages (R333) -/

/-- Whether a LOCKED package must drop a LOCKED packet: its DROP_BY lies at least `slack` behind. -/
def tooOld (s : State) (p : Packet) (slack : Nat) : Bool :=
  p.locked && lockedNow s && decide (p.dropBy.toNat + slack ≤ (sysTime s).toNat)

/-- A packet dropped for its age is counted. -/
def countAged (s : State) : State := { s with fst := { s.fst with aged := satInc s.fst.aged 1 } }

/-! ## Tickets (R168, R169) -/

def ticketAt (s : State) (cl j t : Nat) : Option Ticket := tget none (jig s cl j).tickets t
def setTicket (s : State) (cl j t : Nat) (x : Option Ticket) : State :=
  modJig s cl j (fun g => { g with tickets := tset none g.tickets t x })

/-- A ticket's call has ended: its status and result word are fixed. -/
def finishTicket (s : State) (cl j t : Nat) (st : Status) (result : Word) : State :=
  match ticketAt s cl j t with
  | some x => setTicket s cl j t (some { x with finished := true, status := st, result := result })
  | none => s

/-- Whether every ticket that the jig holds has finished. -/
def ticketsDone (g : Jig) : Bool := g.tickets.all (fun e => (e.2.map (fun t => t.finished)).getD true)

/-! ## Requests (R325 to R327, R333) -/

/-- Requests of a die that have been sent and are unanswered. -/
def outstanding (s : State) (d : Nat) : Nat := (s.fst.requests.filter (fun o => o.die = d)).length

/-- Whether a tag may be taken by a die: no unanswered request holds it and it was not retired within 2 µs (R335). -/
def tagFree (s : State) (d : Nat) (tag : BitVec 16) : Bool :=
  !(s.fst.requests.any (fun o => o.die = d && o.tag = tag)) &&
    !(s.fst.retiredTags.any (fun r => r.1 = d && r.2.1 = tag && decide (now s < r.2.2 + 2000)))

/-- The first free tag from `tag` upwards. -/
def findTag (s : State) (d : Nat) : Nat → BitVec 16 → BitVec 16
  | 0, tag => tag
  | n + 1, tag => if tagFree s d tag then tag else findTag s d n (tag + 1)

def pushRouter (s : State) (d : Nat) (x : Transit) : State :=
  { s with fst := { s.fst with routers := tmod [] s.fst.routers d (· ++ [x]) } }

def pushIngress (s : State) (d : Nat) (x : Transit) : State :=
  { s with fst := { s.fst with ingress := tmod [] s.fst.ingress d (· ++ [x]) } }

/-- A request leaves its die: it takes a tag, the die's epoch and plane, and DROP_BY (R325, R333). -/
def launch (s : State) (o : Outstanding) : State :=
  let tag := findTag s o.die 65536 s.fst.nextTag
  let p := { o.pkt with
    tag := tag, epoch := epochOf s 3 o.die, reqDie := BitVec.ofNat 2 o.die, plane := BitVec.ofNat 2 o.die,
    src := s.fst.node, locked := lockedNow s, dropBy := sysTime s + BitVec.ofNat 64 (1000 * s.fst.e2eUs.toNat) }
  let f := { s.fst with nextTag := tag + 1, requests := s.fst.requests ++ [{ o with tag := tag, pkt := p }] }
  pushRouter { s with fst := f } o.die { pkt := p }

/-- A request is sent, or waits while its die has 8,192 unanswered (R327). -/
def submit (s : State) (o : Outstanding) : State :=
  if outstanding s o.die < 8192 && !(s.fst.unsent.any (fun u => u.die = o.die)) then launch s o
  else { s with fst := { s.fst with unsent := s.fst.unsent ++ [o] } }

/-- Waiting requests of a die go out while there is room. -/
def drainUnsent : Nat → State → Nat → State
  | 0, s, _ => s
  | n + 1, s, d =>
    match s.fst.unsent.find? (fun u => u.die = d) with
    | some u =>
      if outstanding s d < 8192 then
        drainUnsent n (launch { s with fst := { s.fst with unsent := s.fst.unsent.erase u } } u) d
      else s
    | none => s

/-- A blank request from a partition to a global address (R58). -/
def requestTo (s : State) (part : Nat) (typ : BitVec 4) (global : Nat) : Packet := {
  typ := typ, locked := false, detoured := false, plane := 0, epoch := 0, tag := 0, reqDie := 0, detours := 0,
  dst := BitVec.ofNat 18 (global / 2 ^ 46), length := 0, hops := 0, src := s.fst.node, fkey := (prt s part).fkey, route := 0,
  pegOp := 0, addr := BitVec.ofNat 46 global, dropBy := 0, data := [] }

/-- Whether the coordinates of a global address lie below the torus extents (R326). -/
def nodeLegal (s : State) (global : Nat) : Bool :=
  let n := global / 2 ^ 46
  decide (n % 64 < s.fst.nx.toNat) && decide (n / 64 % 64 < s.fst.ny.toNat) && decide (n / 4096 % 64 < s.fst.nz.toNat)

/-- `FST.LAST_FAIL` (R330). -/
def noteLastFail (s : State) (st : Status) (tag : BitVec 16) (d : Nat) (dst : BitVec 18) : State :=
  { s with fst := { s.fst with failReason := st, failTag := tag, failDie := BitVec.ofNat 2 d, failDst := dst } }

/-! ## Answers (R327, R330, R335) -/

/-- One packet of a ticket has been answered: the ticket finishes with its last packet. -/
def ticketAnswer (s : State) (o : Outstanding) (cl j t : Nat) (st : Status) (result : Word) : State :=
  match ticketAt s cl j t with
  | none => s
  | some x =>
    let x := { x with left := x.left - 1, status := if x.status = 0 then st else x.status, result := result }
    let s := if st ≠ 0 && decide (x.kind = .rput) then noteLastFail s st o.tag o.die o.pkt.dst else s
    let s := if st ≠ 0 && decide (x.kind = .rput) then modClu s cl (fun c => { c with putFailed := true }) else s
    let final := if x.status ≠ 0 && decide (x.kind = .rput) then Code.remoteTimeout else x.status
    setTicket s cl j t (some (if x.left = 0 then { x with finished := true, status := final } else x))

/-- A completion operation has been answered (R232, R330). -/
def completionAnswer (s : State) (o : Outstanding) (t : Nat) (st : Status) : State :=
  let s := if st ≠ 0 then noteLastFail s st o.tag o.die o.pkt.dst else s
  modTask s t (fun x =>
    { x with remoteLeft := x.remoteLeft - 1, status := if st ≠ 0 then demote x.status Code.remoteTimeout else x.status })

/-- A request is answered or given up: it leaves the table, and who waits for it hears. -/
def settleRequest (s : State) (o : Outstanding) (st : Status) (result : Word) : State :=
  let s := { s with fst := { s.fst with requests := s.fst.requests.erase o } }
  let s := drainUnsent 1 s o.die
  match o.who with
  | .ticket cl j t => ticketAnswer s o cl j t st result
  | .completion t => completionAnswer s o t st
  | .nobody => if st ≠ 0 && decide (o.pkt.typ = Pkt.put) then noteLastFail s st o.tag o.die o.pkt.dst else s

/-- The unanswered request that a response belongs to: its epoch and tag must be those of the die (R335). -/
def matching (s : State) (p : Packet) : Option Outstanding :=
  if p.epoch = epochOf s 3 p.reqDie.toNat then
    s.fst.requests.find? (fun o => o.die = p.reqDie.toNat && o.tag = p.tag)
  else none

/-- A late or stale response is dropped and counted (R335). -/
def dropLate (s : State) : State := { s with fst := { s.fst with late := satInc s.fst.late 1 } }

/-- Data of a GET is written through the region cache of the cluster that asked (R258); a ticket no longer held drops it. -/
def storeAnswer (o : Outstanding) (bs : List Byte) : Act Unit := do
  let s ← get
  match o.who with
  | .ticket cl j t =>
    if (ticketAt s cl j t).isSome then do
      viaStore (regionOfCluster cl) 0 (clu s cl).task o.local_ bs
      match placeOf o.local_ with
      | .host q _ => edit (fun s => modJig s cl j (jigWrote q (portLost (port s q))))
      | _ => pure ()
    else pure ()
  | .completion _ => pure ()
  | .nobody => pure ()

/-- A response is dealt with at the requesting die; a write that fails gives the ticket its status. -/
def takeResponse (p : Packet) : Act Unit := do
  let s ← get
  match matching s p with
  | none => edit dropLate
  | some o =>
    if p.typ = Pkt.nak then
      edit (fun s => settleRequest { s with fst := { s.fst with naksReceived := satInc s.fst.naksReceived 1 } } o
        (BitVec.ofNat 8 p.addr.toNat) 0)
    else if p.typ = Pkt.data then do
      let r ← attempt (storeAnswer o (p.data.take o.pkt.length.toNat))
      edit (fun s => settleRequest s o (match r with
        | .ok _ => 0
        | .error st => st) 0)
    else if p.typ = Pkt.result then
      edit (fun s => settleRequest s o 0 (BitVec.ofNat 64 (leNat (p.data.take 8))))
    else edit (fun s => settleRequest s o 0 0)

/-- The response to a request, sent on the plane of the die that serves it (R321, R325). -/
def responseTo (p : Packet) (d : Nat) (typ : BitVec 4) (len addr : Nat) (data : List Byte) (locked : Bool) : Packet :=
  { p with
    typ := typ, dst := p.src, src := p.dst, plane := BitVec.ofNat 2 d, detoured := false, detours := 0, hops := 0, route := 0,
    length := BitVec.ofNat 11 len, pegOp := 0, addr := BitVec.ofNat 46 addr, data := data, locked := locked }

def respond (s : State) (d : Nat) (p : Packet) (typ : BitVec 4) (len addr : Nat) (data : List Byte) : State :=
  pushRouter s d { pkt := { responseTo p d typ len addr data p.locked with src := s.fst.node } }

/-- A refusal of a request (R328). -/
def sendNak (s : State) (d : Nat) (p : Packet) (st : Status) : State :=
  let s := { s with fst := { s.fst with naksSent := satInc s.fst.naksSent 1 } }
  respond s d p Pkt.nak 0 st.toNat []

/-! ## Remote peg operations of completions (R232, R350) -/

/-- Whether a completion operation applies to a status (Table 8-9). -/
def applies (op : PegOp) (st : Status) : Bool :=
  op.when_ = 0 || (decide (op.when_ = 1) && isSuccess st) || (decide (op.when_ = 2) && !isSuccess st)

/-- The die that sends a task's remote operations: its own, or the lowest other die while its own is being reset (R350). -/
def sendingDie (s : State) (d : Nat) : Nat :=
  if s.rst.resetting.any (fun r => r.domain = 3 && r.index = d) then (if d = 0 then 1 else 0) else d

def pegPacketFor (s : State) (part : Nat) (op : PegOp) : Packet :=
  { requestTo s part Pkt.peg op.addr.toNat with
    length := 16, pegOp := if op.add then 2 else 1, data := leBytes 16 op.value.toNat }

/-- Whether a remote operation is refused at issue (R326). -/
def remoteRefused (s : State) (part global : Nat) : Bool := !nodeLegal s global || decide ((prt s part).fkey = 0)

/-- Step 2 of R232: each remote operation whose WHEN applies is sent; one that is refused at issue fails. -/
def sendRemoteOps (s : State) (t : Nat) : State :=
  match taskAt s t with
  | none => s
  | some x =>
    let ops := x.desc.pegOps.filter (fun op => op.remote && applies op x.status)
    let s := modTask s t (fun x => { x with remoteSent := true })
    ops.foldl (fun s op =>
      if remoteRefused s x.part op.addr.toNat then
        let s := noteLastFail s Code.descriptorInvalid 0 x.die (BitVec.ofNat 18 (op.addr.toNat / 2 ^ 46))
        modTask s t (fun x => { x with status := demote x.status Code.remoteTimeout })
      else
        let s := modTask s t (fun x => { x with remoteLeft := x.remoteLeft + 1 })
        submit s { die := sendingDie s x.die, pkt := pegPacketFor s x.part op, who := .completion t }) s

end Sys2Proof.Machine
end

