-- ==== Sys2Proof/Machine/Units.lean ====
section
/-! DEFINITION. The queues of the units and how work leaves them: layout chains (R183), jig stops (R178, R179), the end of a
cluster's task (R126, R156, R166), tasks that end before they have started (R217, R239, R350). -/

namespace Sys2Proof.Machine
open Sys2Proof

/-! ## Kinds of task (Table 8-6) -/

namespace Kind
def nop : Nat := 0
def jig : Nat := 1
def bench : Nat := 2
def layout : Nat := 3
def maint : Nat := 4
end Kind

/-! ## Limits (R179, R235) -/

/-- The time of a task in which its limit has been held, up to now (R179). -/
def pausedOf (s : State) (x : Task) : Nat :=
  let held := if x.desc.kind = Kind.jig then (x.unit.bind (fun cl => (clu s cl).limitHeldSince)) else none
  x.pausedNs + (held.map (fun t0 => now s - t0)).getD 0

/-- Whether the time limit of a task has passed, with the time in which it is held left out (R179, R235). -/
def limitReached (s : State) (x : Task) : Bool := limitPassed s { x with pausedNs := pausedOf s x }

/-! ## Work that a write hold-off stalls (R357) -/

/-- When the limit of a task passes, and its watchdog's allowance starts. -/
def limitEnd (s : State) (x : Task) : Nat := x.startTime + taskLimitNs s x + pausedOf s x

/-- The part of a task's allowance in which some work has been stalled by a write hold-off: what has been kept, and what has passed since. -/
def stallTime (s : State) (x : Task) (since : Option Nat) (kept : Nat) : Nat :=
  kept + (since.map (fun t0 => now s - Nat.max t0 (limitEnd s x))).getD 0

def stalledNs (s : State) (x : Task) : Nat := stallTime s x x.stallSince x.stallNs
def chainStalledNs (s : State) (x : Task) (c : Chain) : Nat := stallTime s x c.stallSince c.stallNs

/-- Part `by_` of a task's work waits for the end of write hold-offs: of any of the stacks `on`, which it is to write. -/
def markStall (s : State) (t : Nat) (by_ : Staller) (on : List Nat) : State :=
  modTask s t (fun x => { x with
    stallSince := some (x.stallSince.getD (now s)),
    stallOn := x.stallOn ++ (on.map (fun j => (by_, j))).filter (fun e => !x.stallOn.contains e) })

/-- The waits of a task that go on; with the last of them its stall ends, and its time is kept. -/
def keepStalls (s : State) (p : Staller × Nat → Bool) (x : Task) : Task :=
  let l := x.stallOn.filter p
  if l.isEmpty then { x with stallNs := stalledNs s x, stallSince := none, stallOn := [] } else { x with stallOn := l }

/-- Parts of a task's work have been stopped: they wait for nothing any more. -/
def dropStalls (s : State) (t : Nat) (p : Staller → Bool) : State := modTask s t (keepStalls s (fun e => !p e.1))

/-- The same for the chain of an engine, whose own waits count for its watchdog. -/
def keepChainStall (s : State) (c : Chain) : Chain :=
  let l := c.stallOn.filter (fun j => (stk s j).writeHold)
  if l.isEmpty then { c with
    stallNs := ((taskAt s c.task).map (fun x => chainStalledNs s x c)).getD 0, stallSince := none, stallOn := [] }
  else { c with stallOn := l }

/-- A hold-off has ended: work that waits for no other one is stalled no longer. -/
def endStalls (s : State) : State :=
  { s with
    tasks := s.tasks.map (fun e => (e.1, e.2.map (keepStalls s (fun w => (stk s w.2).writeHold)))),
    regions := s.regions.map (fun e => (e.1, { e.2 with chains := e.2.chains.map (keepChainStall s) })) }

/-- Whether an attempt must wait. -/
def waits {α : Type} (a : Act α) (s : State) : Bool :=
  match runAct a s with
  | (.error .wait, _) => true
  | _ => false

/-- No stack in write hold-off. -/
def withoutHold (s : State) : State :=
  { s with stackTab := s.stackTab.map (fun e => (e.1, { e.2 with writeHold := false })) }

/-- Whether an attempt waits, and would not wait without the write hold-offs. -/
def heldOff {α : Type} (a : Act α) (s : State) : Bool := waits a s && !waits a (withoutHold s)

/-- The stacks whose write hold-off alone would keep an attempt. -/
def keepers {α : Type} (a : Act α) (s : State) : List Nat :=
  (List.range 24).filter (fun j => waits a (modStk (withoutHold s) j (fun st => { st with writeHold := true })))

/-- Part of a task's work is tried: where only a hold-off keeps it, the stall is noted. -/
def settleWork (t : Nat) (by_ : Staller) (a : Act Unit) (s : State) : State :=
  if heldOff a s then markStall s t by_ (keepers a s) else settle a s (fun _ u => u)

/-- The chain in front of an engine waits for write hold-offs: for its watchdog, and with it its task. A swap belongs to no task. -/
def markChain (s : State) (r : Nat) (c : Chain) (on : List Nat) : State :=
  match c.owner with
  | .swap _ _ => s
  | _ => modReg (markStall s c.task (.engine r) on) r (fun x => { x with chains := x.chains.modify 0 (fun c => { c with
      stallSince := some (c.stallSince.getD (now s)), stallOn := (c.stallOn ++ on).eraseDups }) })

/-- A step of the chain in front of an engine is tried. -/
def settleChain (r : Nat) (c : Chain) (a : Act Unit) (s : State) : State :=
  if heldOff a s then markChain s r c (keepers a s) else settle a s (fun _ u => u)

/-! ## Layout engines (R183) -/

/-- Waiting LCALL chains enter while a place is free, in issue order. -/
def admitChains : Nat → State → Nat → State
  | 0, s, _ => s
  | n + 1, s, r =>
    match (reg s r).waiting with
    | c :: rest =>
      if (reg s r).chains.length < 64 then
        admitChains n (modReg s r (fun x => { x with chains := x.chains ++ [c], waiting := rest })) r
      else s
    | [] => s

/-- A chain comes to its engine: it waits outside while 64 are held. -/
def submitChain (s : State) (r : Nat) (c : Chain) : State :=
  admitChains 1 (modReg s r (fun x => { x with waiting := x.waiting ++ [c] })) r

/-- What is left of a task's waits when its chain has left engine `r`. -/
def leaveEngine (s : State) (r : Nat) (c : Chain) : State :=
  match c.owner with
  | .swap _ _ => s
  | _ => dropStalls s c.task (fun b => decide (b = .engine r))

/-- The chains that satisfy a condition leave their engine without a word. -/
def dropChains (s : State) (r : Nat) (p : Chain → Bool) : State :=
  if ((reg s r).chains ++ (reg s r).waiting).any p then
    let s := ((reg s r).chains.filter p).foldl (fun s c => leaveEngine s r c) s
    let s := modReg s r (fun x => { x with
      chains := x.chains.filter (fun c => !p c), waiting := x.waiting.filter (fun c => !p c) })
    admitChains 64 s r
  else s

def ownedByTask (t : Nat) (c : Chain) : Bool := decide (c.owner = .task t)

def ownedByCluster (cl : Nat) (c : Chain) : Bool :=
  match c.owner with
  | .ticket k _ _ => k = cl
  | _ => false

/-! ## Jigs and their debug stops (R156, R178, R179) -/

/-- Whether a jig is in the course of its task: it has been started, has not halted and the task has not been ended. -/
def jigActive (s : State) (cl j : Nat) : Bool :=
  let c := clu s cl
  c.task.isSome && c.begun && decide (c.ended = 0) && !(jig s cl j).halted

/-- The tag of the task on a cluster. -/
def clusterTag (s : State) (cl : Nat) : Nat :=
  (((clu s cl).task.bind (taskAt s)).map (fun x => x.desc.tag.toNat)).getD 0

/-- Whether the time limit is held: a jig of the cluster is stopped and HOLD_LIMIT is set (R179). -/
def limitHeld (c : Cluster) : Bool :=
  c.task.isSome && (c.jig0.stopped || c.jig1.stopped) && (c.jig0.holdLimit || c.jig1.holdLimit)

/-- Time during which the limit is held is kept apart. -/
def refreshHold (s : State) (cl : Nat) : State :=
  let c := clu s cl
  match c.limitHeldSince, limitHeld c with
  | none, true => modClu s cl (fun c => { c with limitHeldSince := some (now s) })
  | some t0, false =>
    let s := modClu s cl (fun c => { c with limitHeldSince := none })
    match c.task with
    | some t => modTask s t (fun x => { x with pausedNs := x.pausedNs + (now s - t0) })
    | none => s
  | _, _ => s

/-- Parts of the work of a cluster's task have been stopped. -/
def unstall (s : State) (cl : Nat) (p : Staller → Bool) : State :=
  match (clu s cl).task with
  | some t => dropStalls s t p
  | none => s

/-- One jig stops; the stop is logged with cause, program counter and task tag (R178). -/
def stopOne (s : State) (cl j : Nat) (cause : BitVec 3) : State :=
  if jigActive s cl j && !(jig s cl j).stopped then
    let s := modJig s cl j (fun g => { g with stopped := true, cause := cause, stepping := false })
    let s := unstall s cl (fun b => decide (b = .jig j))
    logEvent s Cls.jigStop 0 0 4 (2 * cl + j) (clusterTag s cl % 2 ^ 32) (cause.toNat * 2 ^ 61 + (jig s cl j).pc.toNat)
  else s

/-- A jig stops, and with STOP_BOTH the other one too (R178). -/
def stopJig (s : State) (cl j : Nat) (cause : BitVec 3) : State :=
  if jigActive s cl j && !(jig s cl j).stopped then
    let s := stopOne s cl j cause
    let s := if (jig s cl j).stopBoth then stopOne s cl (1 - j) 6 else s
    refreshHold s cl
  else s

/-! ## Shim load (R379) -/

/-- Operations of a press in the queues of its cluster. -/
def pressLoad (c : Cluster) (p : Nat) : Nat := (c.queue.filter (fun o => o.press = p)).length

/-- A press whose queue empties while its die has shim budget, in state NORMAL, runs shim load (R379, R380). -/
def startShim (s : State) (cl press : Nat) : State :=
  let d := dom s (cl / 64)
  if pressLoad (clu s cl) press = 0 ∧ 0 < d.shimBudgetW ∧ d.state = .normal then
    modClu s cl (fun c => { c with shim := c.shim ||| (1#4 <<< press) })
  else s

/-- The queued operations that have not started are discarded; a press whose queue empties by that may run shim load. -/
def discardQueued (s : State) (cl : Nat) : State :=
  let c := clu s cl
  let s := modClu s cl (fun c => { c with queue := c.queue.filter (fun o => o.running) })
  ((List.range 4).filter (fun p => decide (0 < pressLoad c p))).foldl (fun s p => startShim s cl p) s

/-! ## The end of a cluster's task -/

/-- Whether a jig's bundle is what waits. -/
def ofJig : Staller → Bool
  | .jig _ => true
  | _ => false

/-- A task is ended early (R133, R166, R151): both jigs stop, press operations that have not started are discarded, running
ones go on to retirement, tickets run to their end, and the jigs' bundles wait for nothing any more. The first such status stands. -/
def endJigTask (s : State) (cl : Nat) (st : Status) : State :=
  if (clu s cl).task.isSome && decide ((clu s cl).ended = 0) then
    refreshHold (discardQueued (modClu (unstall s cl ofJig) cl (fun c => { c with ended := st })) cl) cl
  else s

/-- A halt code as R156 takes it. -/
def haltCode (c : Status) : Status :=
  if c = Code.ok || c = Code.clamped || c = Code.nanZeroed || c = Code.descriptorInvalid then c else Code.descriptorInvalid

/-- The status of a cluster's task, once its jigs have stopped (R156). -/
def jigTaskStatus (c : Cluster) : Status :=
  if c.ended ≠ 0 then c.ended
  else if c.putFailed then Code.remoteTimeout
  else
    let code := if c.jig0.haltCode ≠ 0 then c.jig0.haltCode else c.jig1.haltCode
    if code = 0 && c.nanZeroed then Code.nanZeroed else code

/-- Whether the cluster's own part of a task has ended: both jigs have halted or the task was ended early, every press
operation has retired and every ticket has finished (R126). -/
def clusterQuiet (c : Cluster) : Bool :=
  c.task.isSome && (decide (c.ended ≠ 0) || (c.begun && c.jig0.halted && c.jig1.halted)) && c.queue.isEmpty
    && ticketsDone c.jig0 && ticketsDone c.jig1

/-- A jig between tasks: tickets and caches are gone, the debug set-up stays. DESIGN CHOICE: CAUSE keeps the value of the last stop, though STOPPED
reads 0, and HALTED and BUNDLES go on to show the last task (log entry 110). -/
def idleJig (g : Jig) : Jig :=
  { g with tickets := [], icache := [], dcache := [], stopped := false, stepping := false, skipBreak := false }

/-- The cluster becomes free: drawer words and undelivered notes are discarded (R126). -/
def freeCluster (s : State) (cl : Nat) : State :=
  modClu (refreshHold (modClu s cl (fun c => { c with jig0 := idleJig c.jig0, jig1 := idleJig c.jig1 })) cl) cl (fun c => { c with
    task := none, begun := false, ended := 0, queue := [], notes := [], drawers := [], nanZeroed := false, putFailed := false,
    limitHeldSince := none })

/-- What a jig keeps at a reset of its cluster (R180). -/
def keptJig (g : Jig) : Jig := { cacheCe := g.cacheCe, cacheUe := g.cacheUe }

/-- What a cluster keeps at its reset (R152): the rest returns to its reset value. -/
def keptCluster (c : Cluster) : Cluster :=
  { badWords := c.badWords, softWords := c.softWords, spCe := c.spCe, spUe := c.spUe, dwCe := c.dwCe, dwUe := c.dwUe, jig0 := keptJig c.jig0, jig1 := keptJig c.jig1 }

/-! ## Tasks that have not started -/

/-- A task that has been placed and has not started leaves its unit. -/
def unplace (s : State) (t : Nat) (x : Task) : State :=
  match x.unit with
  | none => s
  | some u =>
    if x.desc.kind = Kind.jig then
      (if (clu s u).task = some t then modClu s u (fun c => { c with task := none }) else s)
    else if x.desc.kind = Kind.bench then modStk s u (fun st => { st with benchQueue := st.benchQueue.filter (· ≠ t) })
    else if x.desc.kind = Kind.layout then dropChains s u (ownedByTask t)
    else if x.desc.kind = Kind.maint then
      modStk s u (fun st => { st with maintPlaced := if st.maintPlaced = some t then none else st.maintPlaced })
    else s

/-- A task that has not started completes with a status: it leaves its unit, and TASK_COMPLETE does the rest (R232). -/
def endUnstarted (s : State) (t : Nat) (st : Status) : State :=
  match taskAt s t with
  | none => s
  | some x =>
    if x.started || x.workDone then s
    else endWork (unplace s t x) t st 0

/-- Whether a task has not yet completed. -/
def unfinished (x : Task) : Bool := decide (x.state ≠ .completed)

end Sys2Proof.Machine
end

