-- ==== Sys2Proof/Machine/Fec.lean ====
section
/-! DEFINITION. What a link puts on its lanes: flits and their CRC (R316, Table 12-2), and the code blocks of RS(544,514) (R314). The
conventions that the spec leaves to the codes' own standards are those of log entry 107. -/

namespace Sys2Proof.Machine
open Sys2Proof

-- Flit kinds (Table 12-2).
namespace FlitKind
def data : BitVec 2 := 0
def idle : BitVec 2 := 1
def replay : BitVec 2 := 2
def time : BitVec 2 := 3
end FlitKind

/-! ## The CRC of a flit (R316) -/

/-- `n` bits through the CRC register, the polynomial 0x42F0_E1EB_A9EA_3693: a register of which the top bit is not set moves up, one of
which it is set also takes the polynomial. The match on the register keeps it a numeral while the kernel evaluates. -/
def crcShift : Nat → Nat → Nat
  | 0, c => c
  | n + 1, c =>
    match c with
    | 0 => 0
    | k + 1 => crcShift n (Nat.xor ((k + 1) * 2 % 2 ^ 64) ((k + 1) / 2 ^ 63 * 0x42F0E1EBA9EA3693))

/-- A byte string through the register `c`. -/
def crcBytes : List Byte → Nat → Nat
  | [], c => c
  | b :: bs, c =>
    match crcShift 8 (Nat.xor c (b.toNat * 2 ^ 56)) with
    | 0 => crcBytes bs 0
    | k + 1 => crcBytes bs (k + 1)

/-- The CRC of a byte string, most significant bit first, from 0. PRESUMED (log entry 107). -/
def crc64 (bs : List Byte) : BitVec 64 := BitVec.ofNat 64 (crcBytes bs 0)

/-- Bytes 0 to 311 of a flit; RSVD is zero, and a payload is filled up with zeros. -/
def flitBody (kind : BitVec 2) (seq ack : BitVec 12) (cvc : BitVec 3) (credits : BitVec 11) (epoch : BitVec 8)
    (payload : List Byte) : List Byte :=
  leBytes 8 (kind.toNat * 2 ^ 62 + seq.toNat * 2 ^ 50 + ack.toNat * 2 ^ 38 + cvc.toNat * 2 ^ 35 + credits.toNat * 2 ^ 24 + epoch.toNat)
    ++ (payload ++ zeros (304 - payload.length)).take 304

/-! ## RS(544,514) over GF(2^10) (R314) -/

/-- The product in GF(2^10), modulo x^10 + x^3 + 1. PRESUMED (log entry 107). -/
def gfMul (a b : Nat) : Nat :=
  let p := (List.range 10).foldl (fun acc k => if bit b k then Nat.xor acc (a * 2 ^ k) else acc) 0
  [8, 7, 6, 5, 4, 3, 2, 1, 0].foldl (fun acc k => if bit acc (10 + k) then Nat.xor acc (0x409 * 2 ^ k) else acc) p

/-- The polynomial with one more root `r`; coefficients from the highest power down. -/
def addRoot (g : List Nat) (r : Nat) : List Nat :=
  List.zipWith Nat.xor (g ++ [0]) (0 :: g.map (gfMul r))

/-- The first `n` powers of the primitive element 2. -/
def gfPowers : Nat → Nat → List Nat
  | 0, _ => []
  | n + 1, a => a :: gfPowers n (gfMul a 2)

/-- The generator polynomial without its leading 1: its roots are the powers 0 to 29. -/
def rsTaps : List Nat := ((gfPowers 30 1).foldl addRoot [1]).drop 1

/-- One symbol through the encoder. -/
def rsStep (taps reg : List Nat) (m : Nat) : List Nat :=
  let fb := Nat.xor m (reg.headD 0)
  List.zipWith Nat.xor (reg.drop 1 ++ [0]) (taps.map (gfMul fb))

/-- The 30 parity symbols of a block. -/
def rsParity (block : List Nat) : List Nat := block.foldl (rsStep rsTaps) (List.replicate 30 0)

/-- A codeword: the 514 symbols of its block, then its parity. -/
def codeword (block : List Nat) : List Nat := block ++ rsParity block

/-- The first 514 symbols of a bit stream. -/
def symbolsOf (bits : Nat) : List Nat := (List.range 514).map (fun k => bits / 2 ^ (10 * k) % 1024)

/-- The active lanes of a link, in order. -/
def activeLanes (l : Link) : List Nat := (List.range 8).filter (bit l.laneMask.toNat)

/-- A whole block of the stream leaves as a codeword: codeword i on active lane i mod W. -/
def sendBlock (s : State) (i : Nat) : State :=
  let l := lnk s i
  if l.streamLen < 5140 then s
  else
    let lanes := activeLanes l
    let s := modLnk s i (fun l => { l with
      stream := l.stream / 2 ^ 5140, streamLen := l.streamLen - 5140, blocks := l.blocks + 1 })
    { s with out := s.out ++ [.codeword i (lanes.getD (l.blocks % Nat.max 1 lanes.length) 0) (codeword (symbolsOf l.stream))] }

/-- A flit leaves: its 320 bytes with their CRC, and their bits behind the stream of the link's direction. -/
def sendFlit (s : State) (i : Nat) (kind : BitVec 2) (seq : BitVec 12) (cvc : BitVec 3) (credits : BitVec 11)
    (payload : List Byte) : State :=
  let l := lnk s i
  let ack := l.rxSeq - 1
  let body := flitBody kind seq ack cvc credits l.epoch payload
  let crc := crc64 body
  let s := emit s (.flit i kind seq ack cvc credits l.epoch payload crc)
  let bytes := body ++ leBytes 8 crc.toNat
  sendBlock (modLnk s i (fun l => { l with
    stream := l.stream + leNat bytes * 2 ^ l.streamLen, streamLen := l.streamLen + 2560 })) i

/-! ## Received flits -/

/-- Symbols that the decoder corrects: a codeword with at most 15 in error (R314). -/
def correctedSymbols (errors : List Nat) : Nat := (errors.filter (fun n => decide (n ≤ 15))).foldl (· + ·) 0

/-- Codewords that the decoder cannot correct. -/
def lostCodewords (errors : List Nat) : Nat := (errors.filter (fun n => decide (15 < n))).length

/-- Whether a received flit is good: no codeword that it overlaps is lost, and its CRC fits (R314, R316). -/
def flitGood (h : FlitHead) (kind : BitVec 2) (seq : BitVec 12) (payload : List Byte) : Bool :=
  !h.tainted && decide (lostCodewords h.errors = 0) &&
    decide (h.crc = crc64 (flitBody kind seq h.ack h.cvc h.credits h.epoch payload))

end Sys2Proof.Machine
end

