-- ==== Sys2Proof/Machine/LinkOps.lean ====
section
/-! DEFINITION. What links share: credits (R318), the states of Table 12-1, and a link that goes down (R317). -/

namespace Sys2Proof.Machine
open Sys2Proof

/-- The direction code of a link: X+, X−, Y+, Y−, Z+, Z− (Table 12-4). -/
def linkDir (i : Nat) : Nat := i % 6

/-- The extent of a dimension of the torus (R319). -/
def extentOf (f : Fst) (dim : Nat) : Nat :=
  match dim with
  | 0 => f.nx.toNat
  | 1 => f.ny.toNat
  | _ => f.nz.toNat

/-- Whether a link carries packets. -/
def linkUsable (l : Link) : Bool := decide (l.state = .up) || decide (l.state = .degraded)

/-- Whether a link may train: the node is enabled, the link is not disabled, its connector is fitted and its dimension has
a neighbour (R319, R320, R341, R426). -/
def mayTrain (s : State) (i : Nat) : Bool :=
  s.fst.en && !(lnk s i).disabled && !(lnk s i).cableHigh && decide (1 < extentOf s.fst (linkDir i / 2))

/-- Training begins: LINK_EPOCH advances by 1 (Table 12-1), and the end sends its node, die and direction (R319). -/
def beginTraining (s : State) (i : Nat) : State :=
  emit (modLnk s i (fun l => { l with state := .training, epoch := l.epoch + 1, draining := none }))
    (.training i s.fst.node (BitVec.ofNat 2 (i / 6)) (BitVec.ofNat 3 (linkDir i)))

/-- An IDLE flit that returns credits and acknowledges what has been received (Table 12-2). -/
def sendIdle (s : State) (i vc units : Nat) : State :=
  if linkUsable (lnk s i) then
    sendFlit s i FlitKind.idle 0 (BitVec.ofNat 3 vc) (BitVec.ofNat 11 units) []
  else s

/-- The receive buffer that a packet held is freed, and its credits go back (R318). -/
def releaseHeld (s : State) (x : Transit) : State :=
  match x.held with
  | some (i, vc) => sendIdle s i vc (packetUnits x.pkt)
  | none => s

/-- The credits of a link mean nothing any more: no packet holds its buffers. -/
def forgetHeld (i : Nat) (x : Transit) : Transit :=
  match x.held with
  | some (k, _) => if k = i then { x with held := none } else x
  | none => x

def forgetAll (i : Nat) (t : Tab (List Transit)) : Tab (List Transit) := t.map (fun e => (e.1, e.2.map (forgetHeld i)))

/-- A link loses its link-layer state: both replay buffers and the credits (R317), LANE_MASK and PEER (R340); packets that
waited for credits return to the router. A DISABLE that waited for the drain holds the link DOWN (R341). -/
def clearLink (s : State) (i : Nat) (state : LinkState) : State :=
  let q := (lnk s i).txq.flatMap Prod.snd
  let s := modLnk s i (fun l => { l with
    state := state, disabled := l.disabled || decide (l.draining = some true), draining := none, txSeq := 0, rxSeq := 0,
    replayBuf := [], futileAsked := 0, futileAnswered := 0, futileTimed := 0, errorSince := none, credits := [], rxBytes := [],
    txq := [], t1 := none, laneMask := 0, peer := 0, stream := 0, streamLen := 0, blocks := 0 })
  let s := { s with fst := { s.fst with routers := forgetAll i s.fst.routers, ingress := forgetAll i s.fst.ingress } }
  q.foldl (fun s p => pushRouter s (i / 6) { pkt := p }) s

/-- A link is declared DOWN (R317): a LINK_DOWN event of its own, and the reset of its domain (Table 13-6), with cause 8. -/
def linkDown (s : State) (i : Nat) : State :=
  let s := logEvent s Cls.linkDown 2 0 7 i (lnk s i).epoch.toNat 0
  let s := advanceEpoch s 5 i
  let s := logEvent s Cls.reset 0 0 7 i (0x08 + 5 * 256) 0
  clearLink s i .down

end Sys2Proof.Machine
end

