-- ==== Sys2Proof/Machine/Thermal.lean ====
section
/-! DEFINITION. Source temperatures (R369) and the writes that wait for a temperature range (R375). Temperatures are in
millionths of a degree Celsius. -/

namespace Sys2Proof.Machine
open Sys2Proof

def degree : Int := 1000000

/-- The source temperature of a domain; none under NONE (R369). -/
def sourceTemp (d : Domain) : Option Int :=
  match d.source with
  | .model => some d.tm
  | .diode => some d.diode.microC
  | .none => none

/-- A temperature in sixteenths of a degree, as a two's complement word (R384). -/
def tempWord (t : Int) : Nat := ((t * 16 / degree) % 2 ^ 64).toNat

def sourceWord (s : State) (n : Nat) : Nat := ((sourceTemp (dom s n)).map tempWord).getD 0

/-- Unit kind of thermal-domain events (R366). -/
def thermalKind : Nat := 0xA

/-- An event of a thermal domain (Table 14-7). -/
def logThermal (s : State) (cls : BitVec 8) (sev : BitVec 2) (n d0 d1 : Nat) : State := logEvent s cls sev 0 thermalKind n d0 d1

/-- Whether an erase or program may start: 10 °C to 85 °C, or 12 °C to 83 °C once it has been held (R375). -/
def writeRange (t : Option Int) (held : Bool) : Bool :=
  match t with
  | none => false
  | some t =>
    if held then decide (12 * degree ≤ t ∧ t ≤ 83 * degree) else decide (10 * degree ≤ t ∧ t ≤ 85 * degree)

/-- Whether a fuse write of domain `n` may start. -/
def fuseReady (s : State) (n : Nat) : Bool := writeRange (sourceTemp (dom s n)) (s.pwr.fuseHeld.contains n)

/-- A fuse write of domain `n` is held: WRITE_RANGE is raised once. -/
def holdFuse (s : State) (n : Nat) : State :=
  if s.pwr.fuseHeld.contains n then s
  else logThermal { s with pwr := { s.pwr with fuseHeld := n :: s.pwr.fuseHeld } } 0x69 0 n 1 (sourceWord s n)

/-- A held fuse write goes on. -/
def freeFuse (s : State) (n : Nat) : State := { s with pwr := { s.pwr with fuseHeld := s.pwr.fuseHeld.filter (· ≠ n) } }

end Sys2Proof.Machine
end

