-- ==== Sys2Proof/Machine/Resets.lean ====
section
/-! DEFINITION. Reset domains (R349 to R354), epochs (R356) and what each reset loses and keeps (Table 13-6). -/

namespace Sys2Proof.Machine
open Sys2Proof

-- Domain codes of `RST.CTRL` (Table 13-13).
namespace Dom
def cluster : Nat := 1
def region : Nat := 2
def die : Nat := 3
def stack : Nat := 4
def link : Nat := 5
def warm : Nat := 7
end Dom

-- RESET causes (Table 13-7).
namespace Cause
def command : BitVec 8 := 0
def unitWatchdog : BitVec 8 := 1
def walkerWatchdog : BitVec 8 := 2
def hubWatchdog : BitVec 8 := 3
def sram : BitVec 8 := 4
def escalation : BitVec 8 := 5
def fatal : BitVec 8 := 6
def management : BitVec 8 := 7
end Cause

/-- Whether domain (`d`, `i`) lies inside domain (`D`, `I`), or is the same (Table 13-6). -/
def inside (d i D I : Nat) : Bool :=
  decide (d = D ∧ i = I) || decide (D = Dom.warm) ||
    (decide (d = Dom.cluster) && ((decide (D = Dom.region) && decide (i / 8 = I)) || (decide (D = Dom.die) && decide (i / 64 = I)))) ||
    (decide (d = Dom.region) && decide (D = Dom.die) && decide (i / 8 = I))

/-- Whether a domain is being reset, by itself or inside a larger one. -/
def inReset (s : State) (d i : Nat) : Bool := s.rst.resetting.any (fun r => inside d i r.domain r.index)

/-- How many units a domain code counts (Table 13-3). -/
def domainCount (d : Nat) : Nat :=
  match d with
  | 1 => 256
  | 2 => 32
  | 3 => 4
  | 4 => 24
  | 5 => 24
  | _ => 1

/-- Unit kind of a domain's RESET event (Table 13-3). -/
def domainUnit (d : Nat) : Nat :=
  match d with
  | 1 => 3
  | 2 => 2
  | 3 => 1
  | 4 => 5
  | 5 => 7
  | _ => 0

/-! ## Epochs -/

/-- The domains whose epochs a reset advances: itself and those inside it (R349, R351). -/
def innerDomains (d i : Nat) : List (Nat × Nat) :=
  match d with
  | 1 => [(1, i)]
  | 2 => (2, i) :: (upFrom (8 * i) 8).map (fun n => (1, n))
  | 3 => (3, i) :: (upFrom (8 * i) 8).map (fun n => (2, n)) ++ (upFrom (64 * i) 64).map (fun n => (1, n))
  | 4 => [(4, i)]
  | 5 => [(5, i)]
  | _ => (8, 0) :: (upFrom 0 256).map (fun n => (1, n)) ++ (upFrom 0 32).map (fun n => (2, n)) ++
    (upFrom 0 4).map (fun n => (3, n)) ++ (upFrom 0 24).map (fun n => (4, n)) ++ (upFrom 0 24).map (fun n => (5, n))

def advanceAll (s : State) (d i : Nat) : State := (innerDomains d i).foldl (fun s e => advanceEpoch s e.1 e.2) s

/-! ## Tasks that a reset ends (R350) -/

/-- A task held by the domain ends: SKIPPED if it had not started, UNIT_RESET if it had. -/
def resetTask (s : State) (t : Nat) : State :=
  match taskAt s t with
  | none => s
  | some x =>
    if x.state = .completed then s
    else if x.started then modTask s t (fun x => { x with workDone := true, status := Code.unitReset, result := 0 })
    else endUnstarted s t Code.skipped

def resetTasks (s : State) (ts : List Nat) : State := ts.foldl resetTask s

/-- Unfinished tasks that satisfy a condition. -/
def tasksWhere (s : State) (p : Nat → Task → Bool) : List Nat :=
  ((allTasks s).filter (fun e => unfinished e.2 && p e.1 e.2)).map Prod.fst

/-- Tasks whose dirty lines a region cache still holds: their release is lost with it (R365). -/
def hasDirty (s : State) (r t : Nat) : Bool := (rcLines s r).any (writtenBy t)

/-- The tasks that a domain holds (R350). -/
def tasksHeld (s : State) (d i : Nat) : List Nat :=
  match d with
  | 1 => (clu s i).task.toList
  | 2 => tasksWhere s (fun t x =>
      (decide (x.desc.kind = Kind.jig) && (upFrom (8 * i) 8).any (fun n => decide ((clu s n).task = some t))) ||
      (decide (x.desc.kind = Kind.layout) && decide (x.unit = some i) && !x.workDone) || hasDirty s i t)
  | 3 => tasksWhere s (fun _ x => decide (x.die = i))
  | 4 => tasksWhere s (fun _ x =>
      (decide (x.desc.kind = Kind.bench) || decide (x.desc.kind = Kind.maint)) && decide (x.unit = some i) && !x.workDone)
  | 5 => []
  | _ => tasksWhere s (fun _ _ => true)

/-! ## Units that stop -/

/-- A chain that a reset ends: its ticket or its swap hears of it. -/
def chainReset (s : State) (c : Chain) : State :=
  match c.owner with
  | .ticket cl j t => finishTicket s cl j t Code.unitReset 0
  | .swap q n => modPrt s q (fun p => { p with
      seqs := tmod {} p.seqs n (fun k => { k with
        swapLeft := k.swapLeft - 1, swapStatus := Code.unitReset, swapPoison := k.swapPoison || decide (c.status = Code.poisoned) }) })
  | .task _ => s

/-- Whether a request was sent for a ticket of a cluster's jigs. -/
def askedByCluster (n : Nat) (o : Outstanding) : Bool :=
  match o.who with
  | .ticket k _ _ => k = n
  | .completion _ => false
  | .nobody => false

/-- The tickets of a cluster are lost: its requests that have been sent keep their tags, and nobody waits for their answers;
those that wait to be sent are dropped (R351). -/
def forgetTickets (s : State) (n : Nat) : State :=
  { s with fst := { s.fst with
    requests := s.fst.requests.map (fun o => if askedByCluster n o then { o with who := .nobody } else o),
    unsent := s.fst.unsent.filter (fun o => !askedByCluster n o) } }

/-- A cluster stops: the chains that its jigs submitted are dropped (R351; log entry 10), and so are its tickets. -/
def stopCluster (s : State) (n : Nat) : State :=
  let s := (List.range 32).foldl (fun s r => dropChains s r (ownedByCluster n)) s
  modClu (forgetTickets s n) n keptCluster

/-- A region stops: its cache, its chains and its clusters are lost. The writes of a running call are made at its end, so that a
reset meets it before its first one (DESIGN CHOICE, log entry 116: R207 leaves open which have been made). -/
def stopRegion (s : State) (r : Nat) : State :=
  let cs := (reg s r).chains ++ (reg s r).waiting
  let s := cs.foldl chainReset s
  let s := modReg s r (fun x => { mitreUe := x.mitreUe, mitreCe := x.mitreCe })
  (upFrom (8 * r) 8).foldl stopCluster s

/-- The active tasks of a bench array. -/
def activeTasks (st : Stack) : List Nat := st.slots.filterMap (fun e => e.2.map (fun b => b.task))

/-- Whether an array has made the writes of all its operations. -/
def arrayQuiet (st : Stack) : Bool := st.running.isNone && st.slots.all (fun e => (e.2.map (fun b => b.staged.isEmpty)).getD true)

/-- The active tasks that a die reset ends complete with UNIT_RESET once the array has finished its current operation and the writes are
home (R350). -/
def endReset (s : State) (i : Nat) : State :=
  if arrayQuiet (stk s i) then
    (stk s i).slots.foldl (fun s e =>
      match e.2 with
      | some b =>
        if b.failed = Code.unitReset then
          endWork (modStk s i (fun y => { y with slots := tset none y.slots e.1 none })) b.task Code.unitReset 0
        else s
      | none => s) s
  else s

/-- A die reset reaches the bench arrays: queued tasks leave, active tasks end behind the current operation (R350). -/
def stopActive (s : State) (i : Nat) : State :=
  endReset (modStk s i (fun st => { st with
    benchQueue := [], slots := st.slots.map (fun e => (e.1, e.2.map (fun b => { b with failed := Code.unitReset }))) })) i

/-- The task that the running operation of a stack belongs to. -/
def runningTask (st : Stack) : Option Nat := st.running.bind (fun r => (tget none st.slots r.slot).map (fun b => b.task))

/-- Requests of a die lose their tags (R350, R351): completions that wait for them hear of it. -/
def dropRequests (s : State) (d : Nat) : State :=
  let lost := s.fst.requests.filter (fun o => o.die = d) ++ s.fst.unsent.filter (fun o => o.die = d)
  let s := { s with fst := { s.fst with
    requests := s.fst.requests.filter (fun o => o.die ≠ d), unsent := s.fst.unsent.filter (fun o => o.die ≠ d) } }
  lost.foldl (fun s o => match o.who with
    | .completion t => completionAnswer s o t Code.remoteTimeout
    | .ticket _ _ _ => s
    | .nobody => s) s

/-- The Forset ingress queue of a die is lost; its buffers are free again. -/
def dropIngress (s : State) (d : Nat) : State :=
  let q := tget [] s.fst.ingress d
  q.foldl releaseHeld { s with fst := { s.fst with ingress := tset [] s.fst.ingress d [] } }

/-- A compute die stops (Table 13-6). MAINT tasks that run finish their granule first (R350, R73). -/
def stopDie (s : State) (d : Nat) : State :=
  let s := (upFrom (8 * d) 8).foldl stopRegion s
  let s := (upFrom (6 * d) 6).foldl (fun s i => modStk (stopActive s i) i (fun st => { st with maintPlaced := none })) s
  let s := modWlk { s with tasks := s.tasks.map (fun e => (e.1, e.2.map (fun x => if x.die = d then { x with entry := false } else x))) }
    d (fun _ => {})
  dropIngress (dropRequests s d) d

/-- A stack's logic stops (Table 13-6): an interrupted conversion is recorded (R73), other operations leave their granule. A granule
that an operation leaves as it is stays IDLE, and no conversion of it is interrupted. DESIGN CHOICE: of a running bench operation, whose
writes come at its end, none has been made (R120, log entry 123); the granule of a SET_MIRROR or CLEAR_POISON is IDLE again with nothing of it
done (log entry 129). -/
def stopStack (s : State) (i : Nat) : State :=
  let st := stk s i
  let conv := st.maint.bind (fun m =>
    if m.active && decide ((gran s i m.next).state = 1) then some (m.next, decide (m.op = 2)) else none)
  let s := freeFuse s (4 + i)
  let s := match st.maint with
    | some m =>
      if m.active && conv.isNone then
        let s := modGran s i m.next (fun g => { g with state := 0 })
        if m.op = 3 then modGran s m.partner m.next (fun g => { g with state := 0 }) else s
      else s
    | none => s
  let s := wipeBbuf s (i * 2097152) ((i + 1) * 2097152)
  modStk s i (fun st => { st with
    benchQueue := [], slots := [], running := none, rotation := 0, maintPlaced := none, maint := none, maintDone := false,
    conversion := st.conversion ++ conv.toList, bbufBad := [], bbufSoft := [], owed := 0, forcedRefresh := 0,
    retrainBusy := false, retrainChannel := 0, retrainStatus := 0 })

/-! ## Package warm (R352) -/

/-- What a port keeps: its PCIe link, configuration space and MSI-X structures. -/
def warmPort (p : Port) : Port :=
  { bar4Log2 := p.bar4Log2, linkUp := p.linkUp, perst := p.perst, d3hot := p.d3hot, funcMask := p.funcMask, msixEnable := p.msixEnable,
    maxPayload := p.maxPayload, maxRead := p.maxRead, aerUncorr := p.aerUncorr, msix := p.msix,
    mem := p.mem, badLines := p.badLines, lastBeat := p.lastBeat }

/-- What a stack keeps: contents and everything about them (Tables 3-15 to 3-17, 13-6); set-up returns to reset values. DESIGN CHOICE: the history
of uncorrectable events (`ueEvents`, `spareAsked`, R81) is not kept (log entry 127). -/
def warmStack (st : Stack) : Stack := {
  sharded := st.sharded, correct2 := st.correct2, initBusy := st.initBusy, writeHold := st.writeHold,
  refresh2x := st.refresh2x, tempUntrusted := st.tempUntrusted, sparesUsed := st.sparesUsed, chAbsent := st.chAbsent,
  spare0 := st.spare0, spare1 := st.spare1, sparing := st.sparing, spareWanted := st.spareWanted, exhausted := st.exhausted,
  granules := st.granules, poison := st.poison, latent := st.latent, writeback := st.writeback,
  mirrorPending := st.mirrorPending, scrubPos := st.scrubPos, conversion := st.conversion, nextBank := st.nextBank,
  refreshed := st.refreshed }

/-- What the `FST` block keeps (R339). -/
def warmFst (f : Fst) : Fst :=
  { f with late := 0, aged := 0, naksSent := 0, naksReceived := 0, unroutable := 0, requests := [], unsent := [], routers := [],
           ingress := [], arrived := [], retiredTags := [] }

/-- What the `RST` block keeps (R363). -/
def warmRst (r : Rst) (cause : BitVec 8) : Rst := {
  warmCause := cause, staleDrops := r.staleDrops, alive := r.alive, pathUe := r.pathUe, pathCe := r.pathCe, rcUe := r.rcUe,
  rcCe := r.rcCe, epochs := r.epochs, resetting := r.resetting, fatal := r.fatal, edgeDown := r.edgeDown,
  edgeFailed := r.edgeFailed }

/-- Every link loses its link-layer state, its counters, STATE, LANE_MASK and PEER (R340), and is DOWN until it trains again. -/
def warmLink (l : Link) : Link :=
  { epoch := l.epoch, cableHigh := l.cableHigh, disabled := l.disabled || decide (l.draining = some true), lastCmd := l.lastCmd,
    peerDie := l.peerDie, delayNs := l.delayNs }

/-- The hub restarts its firmware: identity and pins stay, the rest returns to reset values (R404, R394, R395, R397). -/
def warmHub (h : Hub) : Hub := {
  ident := h.ident, fuseStacks := h.fuseStacks, fusedOff := h.fusedOff, mode := if h.fallback then 3 else 0,
  fwImageB := h.fwImageB, fallback := h.fallback, mainPg := h.mainPg, trained := h.trained, stage := .auxReady, auxOn := h.auxOn,
  millivolts := h.millivolts, pwrEn := h.pwrEn, straps := h.straps, thermtrip := h.thermtrip }

/-- What the power controller keeps: it keeps running (Table 14-11); commands and selections are gone. -/
def warmPwr (p : Pwr) : Pwr := { p with lastCmd := 0, violDown := 0, violUp := 0, domSel := 0 }

/-- The management complex keeps its block; a running activation ends with the image that was active before, and its slot
stays pending (R360, R421). -/
def warmMgt (m : Mgt) : Mgt :=
  if m.activating.isEmpty then m
  else { m with activating := [], unit := 0, unitDone := [], updateState := 5 }

/-- Whether the controller holds shim load on the presses of a cluster: its die has shim budget and is NORMAL (R379, R380). -/
def holdsShim (s : State) (n : Nat) : Bool :=
  clusterPresent s n && decide (0 < (dom s (n / 64)).shimBudgetW) && decide ((dom s (n / 64)).state = .normal)

/-- Clusters after a warm reset: shim load is held on the presses of every present one, within the budgets (Table 14-11). -/
def warmClusters (s : State) : Tab Cluster :=
  ((List.range 256).filter (holdsShim s)).map (fun n => (n, { shim := 0xF }))

/-- The state of the package at a warm reset (R352). -/
def warmState (s : State) (cause : BitVec 8) : State :=
  let s := (List.range 24).foldl stopStack s
  { s with
    hub := warmHub s.hub, portA := warmPort s.portA, portB := warmPort s.portB, rst := warmRst s.rst cause,
    pwr := warmPwr s.pwr, fst := warmFst s.fst, mgt := warmMgt s.mgt,
    links := tmapAll {} warmLink s.links, rings := [], parts := [], walkers := [], regions := [],
    clusters := warmClusters s, stackTab := tmapAll {} warmStack s.stackTab, graphs := [], tasks := [], steps := [],
    admitQueue := [], spad := [], bbuf := [], pegs := [] }

/-! ## Starting and finishing a reset -/

/-- Whether boundary-scan instructions may drive the pins: in TEST mode, or before MAIN_READY unless the mode is SERVICE (R418,
Table 15-6). -/
def tapAllowed (s : State) : Bool :=
  decide (s.hub.mode = 2) || (decide (s.hub.stage ≠ .mainReady) && decide (s.hub.mode ≠ 1))

/-- The boundary register lets go of the pins that it has driven. -/
def letGo (s : State) : State :=
  if s.mgt.tapPins = .normal then s else emit { s with mgt := { s.mgt with tapPins := .normal } } (.pins [])

/-- The boundary register's pins in the order of the register (DESIGN CHOICE, log entry 111: the spec gives none): the sideband and
low-speed pins of the signal connector, its reference clocks among them (R432), and the thermal-sensing pins (R418). -/
def boundaryPins : List Pin :=
  [.refclkA, .refclkB, .perstA, .perstB, .smbClk, .smbDat, .addrSel0, .addrSel1, .pwrEn, .pwrOk, .thermtrip] ++
    (List.range 31).map Pin.thermal

/-- Bits as the boundary register holds them: one for each pin. -/
def boundaryBits (bits : List Bool) : List Bool := (bits ++ List.replicate boundaryPins.length false).take boundaryPins.length

/-- What the pins get from the boundary register (R418). -/
def pinLevels (m : Mgt) : List (Pin × Option Bool) :=
  match m.tapPins with
  | .normal => []
  | .levels => boundaryPins.zip ((boundaryBits m.boundary).map some)
  | .floating => boundaryPins.map (fun p => (p, none))

/-- The loaded instruction drives or floats its pins. -/
def drivePins (s : State) : State :=
  let s := { s with mgt := { s.mgt with tapPins := s.mgt.tapWants } }
  emit s (.pins (pinLevels s.mgt))

/-- The loaded instruction acts as BYPASS: TAP_REFUSED, once for its load (R418). -/
def refuseTap (s : State) : State :=
  let s := letGo s
  if s.mgt.tapRefused then s
  else logEvent { s with mgt := { s.mgt with tapRefused := true } } 0x75 0 0 0 0 s.mgt.tapInstr.toNat 0

/-- The mode or the stage has changed while EXTEST, CLAMP or HIGHZ is loaded: it drives its pins from the moment it may, and acts as
BYPASS from the moment it may not (R397, R418). -/
def tapGate (s : State) : State :=
  if s.mgt.tapWants = .normal then s
  else if tapAllowed s then (if s.mgt.tapPins = .normal then drivePins s else s)
  else if s.mgt.tapPins = .normal then s else refuseTap s

/-- The units of a domain stop, and its tasks end; the task of a running bench operation ends with that operation. -/
def stopDomain (s : State) (d i : Nat) (cause : BitVec 8) : State :=
  match d with
  | 1 => stopCluster (resetTasks s (tasksHeld s 1 i)) i
  | 2 => stopRegion (resetTasks s (tasksHeld s 2 i)) i
  | 3 =>
    let busy := (upFrom (6 * i) 6).flatMap (fun k => activeTasks (stk s k)) ++
      (upFrom (6 * i) 6).filterMap (fun k => (stk s k).maint.map (fun m => m.task))
    let s := busy.foldl (fun s t => modTask s t (fun x => { x with stopped := true })) s
    stopDie (resetTasks s ((tasksHeld s 3 i).filter (fun t => !busy.contains t))) i
  | 4 => stopStack (resetTasks s (tasksHeld s 4 i)) i
  | 5 =>
    let s := modLnk (clearLink s i .down) i (fun l => { l with failures := 0 })
    if mayTrain s i then beginTraining s i else s
  | _ => tapGate (warmState s cause)

/-- The RESET event of a domain (R354). -/
def logReset (s : State) (d i : Nat) (cause : BitVec 8) (ended : Nat) : State :=
  logEvent s Cls.reset (if cause = Cause.fatal then 3 else 0) 0 (domainUnit d) i (cause.toNat + d * 256) ended

/-- Resets of a domain, or inside it, that have not drained when a SHUTDOWN takes them in: their events are made then (DEDUCED, log
entry 66). -/
def logMerged (s : State) (d i : Nat) : State :=
  (s.rst.resetting.filter (fun r => inside r.domain r.index d i && !r.drained)).foldl
    (fun s r => logReset s r.domain r.index r.cause r.ended.length) s

/-- A reset starts (R351): the epochs advance, the units stop, and the tasks that the domain held end. Inside a larger
domain that is being reset it merges with that one (R365). One inside it that has not drained becomes part of it: the one event is that
of the larger domain, and it counts the tasks that both have ended (R354; DEDUCED, log entry 66). -/
def beginReset (s : State) (d i : Nat) (cause : BitVec 8) : State :=
  if inReset s d i then s
  else
    let merged := s.rst.resetting.filter (fun r => inside r.domain r.index d i && !r.drained)
    let ended := (merged.flatMap Resetting.ended ++ tasksHeld s d i).eraseDups
    let s := stopDomain (advanceAll s d i) d i cause
    let entry : Resetting := { domain := d, index := i, cause := cause, ended := ended, started := now s }
    { s with rst := { s.rst with
      resetting := s.rst.resetting.filter (fun r => !inside r.domain r.index d i) ++ [entry] } }

/-- FATAL (R353). -/
def goFatal (s : State) : State :=
  if s.rst.fatal then s
  else logReset { s with rst := { s.rst with fatal := true } } Dom.warm 0 Cause.fatal 0

/-- What is lost at the end of the drain: scratchpads are filled with zeros and pegs read zero (R129, R236). -/
def wipeDomain (s : State) (d i : Nat) : State :=
  match d with
  | 1 => zeroSpad s i
  | 2 => (upFrom (8 * i) 8).foldl zeroSpad s
  | 3 => { (upFrom (64 * i) 64).foldl zeroSpad s with pegs := tclear (16384 * i) (16384 * (i + 1)) s.pegs }
  | _ => s

def resettingOf (s : State) (d i : Nat) : Option Resetting :=
  s.rst.resetting.find? (fun r => r.domain = d ∧ r.index = i)

/-- Whether a domain is held in its reset by a SHUTDOWN (R373). -/
def heldDown (s : State) (d i : Nat) : Bool :=
  (decide (d = Dom.die) && dieDown s i) || (decide (d = Dom.stack) && stackDown s i)

/-- After a package warm reset the domains in SHUTDOWN are still held in reset (Table 14-11). -/
def holdDown (s : State) : State :=
  let mine (d n : Nat) : List Resetting :=
    ((List.range n).filter (fun i => heldDown s d i)).map (fun i => { domain := d, index := i, drained := true, started := now s })
  { s with rst := { s.rst with resetting := s.rst.resetting ++ mine Dom.die 4 ++ mine Dom.stack 24 } }

/-- The hub serves again: MAIN_READY where stacks and die edges have trained since the main rails came on, else AUX_READY (R404); a FAULT of the boot stands (R411). -/
def serveHub (s : State) : State :=
  tapGate (holdDown { s with hub := { s.hub with
    stage := if s.hub.stage = .fault then .fault else if s.hub.trained then .mainReady else .auxReady } })

def execResetDrainEnd (domain index : Nat) (s : State) : Host.Outcome State Fault Refusal :=
  .next (match resettingOf s domain index with
    | some r =>
      if r.drained then s
      else
        let s := wipeDomain s domain index
        let s := if heldDown s domain index then s else logReset s domain index r.cause r.ended.length
        { s with rst := { s.rst with
          resetting := s.rst.resetting.map (fun q => if q = r then { q with drained := true } else q) } }
    | none => s)

/-- The domain on which the running unit of an activation lies (Table 13-11). -/
def activationDomain (m : Mgt) : Option (Nat × Nat) :=
  match m.activating.head? with
  | some 1 => some (Dom.warm, 0)
  | some 2 => some (Dom.die, m.unit)
  | some 3 => some (Dom.stack, m.unit)
  | some 4 => some (Dom.link, m.unit)
  | some 5 => some (Dom.stack, m.unit)
  | _ => none

/-- An activation that has waited for a domain to serve again goes on from there (R365). -/
def resumeActivation (s : State) (d i : Nat) : State :=
  if (activationDomain s.mgt).any (fun e => inside e.1 e.2 d i) then
    { s with mgt := { s.mgt with unitSince := now s, channelRuns := false } }
  else s

def execDomainServeAgain (domain index : Nat) (s : State) : Host.Outcome State Fault Refusal :=
  .next (match resettingOf s domain index with
    | some r =>
      if r.drained && !heldDown s domain index then
        let s := resumeActivation { s with rst := { s.rst with resetting := s.rst.resetting.filter (fun q => q ≠ r) } } domain index
        if domain = Dom.warm then serveHub s else s
      else s
    | none => s)

/-- The domain to which a reset escalates (R353); none for a link, which stays DOWN. -/
def escalatesTo (d i : Nat) : Option (Nat × Nat) :=
  match d with
  | 1 => some (2, i / 8)
  | 2 => some (3, i / 8)
  | 3 => some (7, 0)
  | 4 => some (7, 0)
  | _ => none

/-- Four times the time of Table 13-6, in nanoseconds. -/
def escalationNs (d : Nat) : Nat :=
  match d with
  | 1 => 40000
  | 2 => 160000
  | 3 => 8000000
  | 4 => 20000000
  | 5 => 240000000
  | _ => 1600000000

def execResetEscalation (domain index : Nat) (s : State) : Host.Outcome State Fault Refusal :=
  .next (match resettingOf s domain index with
    | some r =>
      if r.started + escalationNs domain ≤ now s ∧ !heldDown s domain index then
        match escalatesTo domain index with
        | some e => beginReset s e.1 e.2 Cause.escalation
        | none => if domain = Dom.warm then goFatal s else s
      else s
    | none => s)

end Sys2Proof.Machine
end

