-- ==== Sys2Proof/Machine/Env.lean ====
section
/-! DEFINITION. What the outside does between two steps (log entry 7): the host writes its own memory, reads of host lines
fail (R398), and storage errors strike (Table 13-1). -/

namespace Sys2Proof.Machine
open Sys2Proof

/-- A byte of host memory that its host writes. -/
def hostWrite (s : State) (w : PortId × Nat × Byte) : State := modPort s w.1 (fun p => { p with mem := mset p.mem w.2.1 w.2.2 })

/-- The host lines that read as poisoned data from now on. -/
def setBadLines (s : State) (l : List (PortId × Nat)) : State :=
  let of (q : PortId) : List Nat := (l.filter (fun e => e.1 = q)).map Prod.snd
  { s with portA := { s.portA with badLines := of .a }, portB := { s.portB with badLines := of .b } }

/-- The bytes of a mask below `n`, ascending. -/
def maskBytes (m n : Nat) : List Nat := (List.range n).filter (bit m)

/-- Bytes of a sector take errors (R65). An even number of bad bits in a byte of a worked sector is not detected: the byte reads as a
value that nothing determines, and so does one that a second odd strike leaves with an even number of bad bits. -/
def dramUpset (s : State) (i sec odd even : Nat) : State :=
  if absentOff s i (sec * 64) then s
  else
    let mark (s : State) (m : Nat) : State := modStk s i (fun st => { st with latent := tset 0 st.latent sec (tget 0 st.latent sec ||| m) })
    if (gran s i (sec / 32768)).worked then
      let old := badMask s i sec
      let (bs, s) := freeBytes s 64
      let s := (maskBytes (even ||| (odd &&& old)) 64).foldl (fun s k => pokeDram s (stackBase i + sec * 64 + k) [bs.getD k 0]) s
      modStk s i (fun st => { st with latent := tset 0 st.latent sec (old ^^^ odd % 2 ^ 64) })
    else mark s ((odd ||| even) % 2 ^ 72)

/-- The home of a dirty sector whose bytes a region cache has lost is poisoned (Table 13-1). -/
def poisonHome (s : State) (a : Nat) : State :=
  match placeOf a with
  | .stack i o => poisonSector s i (sectorOf o) (gran s i (granOf o)).worked
  | _ => s

/-- Whether a sector of a cache line is dirty. -/
def sectorDirty (x : CacheLine) (k : Nat) : Bool := decide (x.dirty &&& maskBits (64 * k) 64 ≠ 0)

/-- Sectors of a region-cache line are lost, and the homes of its dirty ones are poisoned (Table 13-1). -/
def loseSectors (s : State) (r line : Nat) (poisoned : Bool) (ks : List Nat) : State :=
  ks.foldl (fun s k => match lineOf (rcLines s r) line with
    | some x =>
      let s := if poisoned && sectorDirty x k then poisonHome s (line * 256 + 64 * k) else s
      forgetSector s r x k
    | none => s) s

/-- Lost sectors of a line: a clean line is dropped and counts as corrected; with a dirty sector among them the error is
uncorrectable (Table 13-1). -/
def lineLost (s : State) (r : Nat) (x : CacheLine) (ks : List Nat) : State :=
  if ks.any (sectorDirty x) then
    loseSectors { s with rst := { s.rst with rcUe := satInc s.rst.rcUe 1 } } r x.line true ks
  else
    loseSectors { s with rst := { s.rst with rcCe := satInc s.rst.rcCe 1 } } r x.line false
      (if x.dirty = 0 then List.range 4 else ks)

/-- A parity error in a jig cache (R175). -/
def jigCacheUpset (s : State) (cl j line : Nat) (instr : Bool) : State :=
  if instr then
    match lineOf (jig s cl j).icache line with
    | some _ => modJig s cl j (fun g => { g with icache := without g.icache line, cacheCe := satInc g.cacheCe 1 })
    | none => s
  else
    match lineOf (jig s cl j).dcache line with
    | some x =>
      if x.dirty = 0 then modJig s cl j (fun g => { g with dcache := without g.dcache line, cacheCe := satInc g.cacheCe 1 })
      else
        let s := modJig s cl j (fun g => { g with dcache := without g.dcache line, cacheUe := satInc g.cacheUe 1 })
        endJigTask s cl Code.poisoned
    | none => s

def notePathUe (s : State) : State := { s with rst := { s.rst with pathUe := satInc s.rst.pathUe 1 } }

/-- A word put into a list once. -/
def addWord (l : List Nat) (w : Nat) : List Nat := if l.contains w then l else w :: l

/-- A single-bit error in a scratchpad word; a second one makes the word uncorrectable. -/
def spadSoft (c : Cluster) (w : Nat) : Cluster :=
  if c.badWords.contains w || c.softWords.contains w then
    { c with badWords := addWord c.badWords w, softWords := c.softWords.filter (· ≠ w) }
  else { c with softWords := w :: c.softWords }

/-- The same in a broadcast buffer. -/
def bbufSingle (st : Stack) (w : Nat) : Stack :=
  if st.bbufBad.contains w || st.bbufSoft.contains w then
    { st with bbufBad := addWord st.bbufBad w, bbufSoft := st.bbufSoft.filter (· ≠ w) }
  else { st with bbufSoft := w :: st.bbufSoft }

/-- A drawer word takes an error. -/
def markWord (d : Drawer) (i : Nat) (double : Bool) : Drawer :=
  if d.words.length ≤ i then d
  else
    let hard := double || d.marks.any (fun m => m.1 = i)
    { d with marks := (i, hard) :: d.marks.filter (fun m => m.1 ≠ i) }

/-- An active bench task loses its registers or its staged outputs (Table 13-1): it ends with POISONED, and nothing staged is
written. -/
def benchLoss (s : State) (i k : Nat) : State :=
  match tget none (stk s i).slots k with
  | none => s
  | some b =>
    let s := notePathUe s
    if (stk s i).running.any (fun r => r.slot = k) then
      modStk s i (fun st => { st with
        running := st.running.map (fun r => { r with status := Code.poisoned, stores := [] }) })
    else endWork (modStk s i (fun st => { st with slots := tset none st.slots k none })) b.task Code.poisoned 0

/-- The mitre tile loses parity in a pass while a TRANSPOSE runs (R205): the pass is repeated once, which is counted. An error of a pass
that has been repeated, or of both its attempts at once, ends the call, so it counts once in a call, at the earliest pass that has one, and
later passes are not made. -/
def mitreUpset (s : State) (r pass : Nat) (second : Bool) : State :=
  if (reg s r).chains.head?.any (fun c => c.busy && c.transposing) && (reg s r).mitreFail.all (fun p => decide (pass ≤ p)) then
    modReg s r (fun x =>
      let again := x.mitreAgain.contains pass
      let x := if again then x else { x with mitreCe := satInc x.mitreCe 1, mitreAgain := pass :: x.mitreAgain }
      if second || again then { x with
        mitreUe := if x.mitreFail.isSome then x.mitreUe else satInc x.mitreUe 1, mitreFail := some pass }
      else x)
  else s

/-- One storage error strikes (Table 13-1). -/
def strike (s : State) (u : Upset) : State :=
  match u with
  | .dram i sec odd even => dramUpset s i sec odd even
  | .spadDouble cl off => modClu s cl (fun c => { c with
      badWords := addWord c.badWords (off / 8 * 8), softWords := c.softWords.filter (· ≠ off / 8 * 8) })
  | .spadSingle cl off => modClu s cl (fun c => spadSoft c (off / 8 * 8))
  | .bbufDouble i off => modStk s i (fun st => { st with
      bbufBad := addWord st.bbufBad (off / 8 * 8), bbufSoft := st.bbufSoft.filter (· ≠ off / 8 * 8) })
  | .bbufSingle i off => modStk s i (fun st => bbufSingle st (off / 8 * 8))
  | .drawer cl k i double => modClu s cl (fun c => { c with drawers := tmod {} c.drawers k (fun d => markWord d i double) })
  | .jigCache cl j line instr => jigCacheUpset s cl j line instr
  | .jigReg cl j =>
    if jigActive s cl j then
      endJigTask (modJig s cl j (fun g => { g with cacheUe := satInc g.cacheUe 1 })) cl Code.poisoned
    else s
  | .benchReg i k => benchLoss s i k
  | .mitre r pass second => mitreUpset s r pass second
  | .pathCorrected => { s with rst := { s.rst with pathCe := satInc s.rst.pathCe 1 } }
  | .pathWrite i sec => poisonSector (notePathUe s) i sec (gran s i (sec / 32768)).worked
  | .pathRead => let s := notePathUe s; { s with rst := { s.rst with pathLost := true } }
  | .regionCache r line k uncorrectable =>
    match lineOf (rcLines s r) line with
    | some x => if uncorrectable then lineLost s r x [k % 4] else { s with rst := { s.rst with rcCe := satInc s.rst.rcCe 1 } }
    | none => s
  | .regionTag r line =>
    match lineOf (rcLines s r) line with
    | some x => lineLost s r x (List.range 4)
    | none => s
  | .dieSram d => if d < 4 then beginReset (notePathUe s) Dom.die d Cause.sram else s
  | .hubSram => beginReset (notePathUe s) Dom.warm 0 Cause.sram

/-- The outside of a step: host writes, bad host lines, then the storage errors in order. -/
def applyEnv (env : Env) (s : State) : State := env.upsets.foldl strike (setBadLines (env.hostWrites.foldl hostWrite s) env.hostBad)

end Sys2Proof.Machine
end

