-- ==== Sys2Proof/Machine/Setup.lean ====
section
/-! DEFINITION. How a BAR0 write reaches its register: the port, the boot stage (R390), the vise (R393). Bases of Table 15-2. -/

namespace Sys2Proof.Machine
open Sys2Proof

namespace Base
def hub : Nat := 0x0000000
def rst : Nat := 0x0001000
def pwr : Nat := 0x0002000
def fst : Nat := 0x0003000
def flk (i : Nat) : Nat := 0x0010000 + 0x1000 * i
def ring (r : Nat) : Nat := 0x0040000 + 0x100 * r
def wlk (d : Nat) : Nat := 0x0050000 + 0x1000 * d
def part (p : Nat) : Nat := 0x0060000 + 0x1000 * p
def evt : Nat := 0x0080000
def mgt : Nat := 0x00F0000
def stk (s : Nat) : Nat := 0x0100000 + 0x1000 * s
def lay (r : Nat) : Nat := 0x0200000 + 0x1000 * r
def clu (n : Nat) : Nat := 0x0400000 + 0x1000 * n
def jig (n j : Nat) : Nat := 0x0800000 + 0x1000 * (2 * n + j)
end Base

/-- Whether the hub takes BAR0 writes: MAIN_READY or FAULT (R390, R404). -/
def bar0Open (s : State) : Bool := decide (s.hub.stage = .mainReady) || decide (s.hub.stage = .fault)

/-- Whether a port holds the vise. -/
def holdsVise (s : State) (p : PortId) : Bool := decide (s.hub.vise = portCode p)

/-- Whether the hub firmware is being activated (Table 13-11). -/
def firmwarePaused (s : State) : Bool := decide (s.mgt.activating.head? = some 1)

/-- Whether only the ROM-resident services run: both hub firmware slots failed, or no flash was found (R411, Table 16-6). -/
def romOnly (s : State) : Bool := s.hub.romOnly

/-- Whether the front end fetches nothing, and admission and KV copies pause: outside MAIN_READY, in FATAL (R353), with the hub
outside NORMAL (Table 14-2), or during an activation of its firmware. -/
def frontPaused (s : State) : Bool :=
  decide (s.hub.stage ≠ .mainReady) || s.rst.fatal || decide ((dom s 28).state ≠ .normal) || firmwarePaused s

/-- A write that needs no vise: dropped where the hub takes none, else made. -/
def openWrite (s : State) (p : PortId) (k : State → State) : State :=
  if portTalks s p && bar0Open s then k s else s

/-- A set-up write of `value` at BAR0 offset `off`: ignored and logged unless the port holds the vise (R393). -/
def viseWrite (s : State) (p : PortId) (off : Nat) (value : Word) (k : State → State) : State :=
  openWrite s p (fun s => if holdsVise s p then k s else setupIgnored s off value)

/-- A set-up write to a block of a cluster, which is ignored and logged as ABSENT_ACCESS on a fused-off one (R390). -/
def clusterWrite (s : State) (p : PortId) (cl off : Nat) (value : Word) (k : State → State) : State :=
  viseWrite s p off value (fun s => if clusterPresent s cl then k s else absentAccess s p off)

end Sys2Proof.Machine
end

