-- ==== Sys2Proof/Machine/Bbuf.lean ====
section
/-! DEFINITION. Broadcast buffers (R100, R101), actions that report instead of ending, and the free orders of R49 and R195. -/

namespace Sys2Proof.Machine
open Sys2Proof


/-! ## Broadcast buffers (R100, R101) -/

/-- The address of a buffer byte in the state: stack times 2 MiB plus offset. -/
def bufAddr (i off : Nat) : Nat := i * 2097152 + off

/-- The die beside whose stacks a buffer byte lies. -/
def bufDie (a : Nat) : Nat := a / 2097152 / 6

/-- Single-bit errors that an access meets are corrected and counted (R101). DESIGN CHOICE: the buffer lies in no channel, so the count is one of
the stack's own that no register shows (log entry 124). -/
def correctBuf (s : State) (i off n : Nat) : State :=
  ((wordsOf off n).filter ((stk s i).bbufSoft.contains ·)).foldl (fun s w =>
    modStk s i (fun st => { st with ceCount := st.ceCount + 1, bbufSoft := st.bbufSoft.filter (· ≠ w) })) s

/-- A read of buffer bytes; an uncorrectable word reads as poison. -/
def loadBuf (a n : Nat) : Act (List Byte) := do
  let s ← get
  let i := a / 2097152
  let off := a % 2097152
  need (!stackDown s i) Code.unitOffline
  needReady (!stackHeld s i)
  edit (fun s => correctBuf s i off n)
  need (!((wordsOf off n).any ((stk s i).bbufBad.contains ·))) Code.poisoned
  pure (mbytes s.bbuf a n)

/-- One piece within an 8-byte word: a whole word clears its error, a part of an uncorrectable word changes nothing. -/
def pokeBufWord (s : State) (a : Nat) (bs : List Byte) : State :=
  let i := a / 2097152
  let w := a % 2097152 / 8 * 8
  if (stk s i).bbufBad.contains w && decide (bs.length < 8) then s
  else
    let s := pokeBbuf (if bs.length < 8 then correctBuf s i w 8 else s) a bs
    if bs.length = 8 then modStk s i (fun st => { st with
      bbufBad := st.bbufBad.filter (· ≠ w), bbufSoft := st.bbufSoft.filter (· ≠ w) }) else s

/-- A write of buffer bytes, word by word. -/
def pokeBuf (s : State) (a : Nat) (bs : List Byte) : State :=
  (cut 8 a bs.length).foldl (fun s p => pokeBufWord s p.1 ((bs.drop (p.1 - a)).take p.2)) s

def storeBuf (a : Nat) (bs : List Byte) : Act Unit := do
  let s ← get
  need (!stackDown s (a / 2097152)) Code.unitOffline
  needReady (!stackHeld s (a / 2097152))
  edit (fun s => pokeBuf s a bs)

/-! ## Free orders (R12, R49, R195) -/

/-- An element put before the first one with a larger key. -/
def insertBy {α : Type} (k : Nat) (x : α) : List (Nat × α) → List (Nat × α)
  | [] => [(k, x)]
  | (m, y) :: t => if k < m then (k, x) :: (m, y) :: t else (m, y) :: insertBy k x t

/-- The elements of a list in an order that nothing determines. -/
def freeOrder {α : Type} (n : Nat) (l : List α) : List α :=
  ((l.zipIdx).foldl (fun acc e => insertBy (Config.freeAt n e.2) e.1 acc) []).map Prod.snd

/-- The elements of a list that a free choice keeps. -/
def freeSome {α : Type} (n : Nat) (l : List α) : List α :=
  (l.zipIdx.filter (fun e => decide (Config.freeAt n e.2 % 2 = 1))).map Prod.fst

/-- The number of the next free value, which is taken. -/
def takeFree : Act Nat := do
  let s ← get
  set { s with freeCtr := s.freeCtr + 1 }
  pure s.freeCtr

/-! ## Bytes gathered into pieces -/

/-- Bytes at keys, later ones over earlier ones. -/
def putBytes (m : Tab (Option Byte)) (a : Nat) : List Byte → Tab (Option Byte)
  | [] => m
  | b :: bs => putBytes (tset none m a (some b)) (a + 1) bs

/-- Runs of consecutive keys that do not cross a multiple of 64, each with its bytes. -/
def gather (acc : List (Nat × List Byte)) : Tab (Option Byte) → List (Nat × List Byte)
  | [] => acc.reverse.map (fun r => (r.1, r.2.reverse))
  | (k, b) :: t =>
    match acc with
    | (a, bs) :: rest =>
      if a + bs.length = k ∧ k % 64 ≠ 0 then gather ((a, b.getD 0 :: bs) :: rest) t
      else gather ((k, [b.getD 0]) :: acc) t
    | [] => gather [(k, [b.getD 0])] t

/-- Writes joined into pieces that do not cross a multiple of 64 (R188, Table 7-8), in ascending order of address. -/
def joinWrites (l : List (Nat × List Byte)) : List (Nat × List Byte) :=
  gather [] (l.foldl (fun m e => putBytes m e.1 e.2) [])

end Sys2Proof.Machine
end

