-- ==== Sys2Proof/Machine/KvPages.lean ====
section
/-! DEFINITION. Where tokens of a KV region lie (R265 to R267) and how a swap image is laid out (R276). -/

namespace Sys2Proof.Machine
open Sys2Proof

/-- ROW: bytes of one token's row of D elements (R266). -/
def kvRow (fmt d : Nat) : Nat := if fmt = 1 then 2 * d else 64 * ((d + 59) / 60)

/-- PBLK: bytes of a page's position block (R266). -/
def kvPblk (layout : Bool) (P : Nat) : Nat := if layout then 64 * ((8 * P + 63) / 64) else 0

/-- PB: bytes of a page (R267). -/
def kvPageBytes (layout : Bool) (layers kvh P row : Nat) : Nat := kvPblk layout P + 2 * layers * kvh * P * row

/-- Channel and channel offset of the start of the page that holds token `t`, and the token's slot (R265). -/
def kvPage (base P pb t : Nat) : Nat × Nat × Nat := (t / P % 64, base + t / P / 64 * pb, t % P)

/-- Page rows of a region of `tokens` tokens (R275). -/
def kvRows (tokens P : Nat) : Nat := ((tokens + P - 1) / P + 63) / 64

def seqP (k : KvSeq) : Nat := 2 ^ k.pageLog2
def seqRow (k : KvSeq) : Nat := kvRow k.fmt k.d

/-- Local address of a byte of a channel (R62). -/
def channelAddr (s : State) (i h co : Nat) : Nat := stackBase i + h * channelBytes s + co

/-- Local address of the row of token `t` in block `b` of a sequence's region (R265, R266). -/
def kvRowAddr (s : State) (k : KvSeq) (b t : Nat) : Nat :=
  let P := seqP k
  let p := kvPage k.base P k.pageBytes t
  channelAddr s k.home p.1 (p.2.1 + kvPblk k.layout P + b * P * seqRow k + p.2.2 * seqRow k)

/-- Local address of the position entry of token `t`. -/
def kvPosAddr (s : State) (k : KvSeq) (t : Nat) : Nat :=
  let p := kvPage k.base (seqP k) k.pageBytes t
  channelAddr s k.home p.1 (p.2.1 + 8 * p.2.2)

/-- Blocks of a swap image: K and V of each layer and KV head (R276). -/
def kvBlocks (k : KvSeq) : Nat := 2 * k.layers * k.kvh

/-- Bytes of a swap image of `n` tokens (R276). -/
def imageBytes (k : KvSeq) (n : Nat) : Nat :=
  kvBlocks k * n * seqRow k + (if k.layout then 64 * ((8 * n + 63) / 64) else 0)

/-- What engine `g` of the home die copies: region address, image address, bytes (R277: blocks b ≡ g mod 8; the position
entries follow as one more block). -/
def swapPieces (s : State) (k : KvSeq) (g : Nat) : List (Nat × Nat × Nat) :=
  let row := seqRow k
  ((List.range (kvBlocks k)).filter (fun b => decide (b % 8 = g))).flatMap (fun b =>
    (List.range k.length).map (fun t => (kvRowAddr s k b t, k.swapAddr + (b * k.length + t) * row, row)))
  ++ (if k.layout && decide (kvBlocks k % 8 = g) then
    (List.range k.length).map (fun t => (kvPosAddr s k t, k.swapAddr + kvBlocks k * k.length * row + 8 * t, 8)) else [])

end Sys2Proof.Machine
end

