-- ==== Sys2Proof/Machine/Operands.lean ====
section
/-! DEFINITION. The operand forms of every engine (spec/02): scalar formats, exact values, rounding and narrowing, panels. -/

namespace Sys2Proof.Machine
open Sys2Proof

/-! ## Exact values -/

/-- An exact value: a NaN, an infinity, or (−1)^neg × m × 2^e, where m = 0 is a signed zero (R35, R32). -/
inductive Num where
  | nan
  | inf (neg : Bool)
  | fin (neg : Bool) (m : Nat) (e : Int)
  deriving DecidableEq, Repr, Inhabited

namespace Num

def zero : Num := .fin false 0 0

def ofInt (i : Int) : Num := .fin (decide (i < 0)) i.natAbs 0

def ofNat (n : Nat) : Num := .fin false n 0

def isNan : Num → Bool
  | .nan => true
  | _ => false

def isInf : Num → Bool
  | .inf _ => true
  | _ => false

def isZero : Num → Bool
  | .fin _ 0 _ => true
  | _ => false

def isNeg : Num → Bool
  | .nan => false
  | .inf n => n
  | .fin n _ _ => n

def neg : Num → Num
  | .nan => .nan
  | .inf n => .inf (!n)
  | .fin n m e => .fin (!n) m e

def abs : Num → Num
  | .nan => .nan
  | .inf _ => .inf false
  | .fin _ m e => .fin false m e

/-- The signed mantissa of a finite value at an exponent `e0` not above its own. -/
def scaled (n : Bool) (m : Nat) (e e0 : Int) : Int :=
  let v : Int := (m <<< (e - e0).toNat : Nat)
  if n then -v else v

/-- Exact sum. A zero sum is +0 unless both terms are −0 (R32). -/
def add : Num → Num → Num
  | .nan, _ => .nan
  | _, .nan => .nan
  | .inf a, .inf b => if a = b then .inf a else .nan
  | .inf a, .fin _ _ _ => .inf a
  | .fin _ _ _, .inf b => .inf b
  | .fin n m e, .fin n' m' e' =>
    if m = 0 ∧ m' = 0 then .fin (n && n') 0 0
    else if m = 0 then .fin n' m' e'
    else if m' = 0 then .fin n m e
    else
      let e0 := if e ≤ e' then e else e'
      let s := scaled n m e e0 + scaled n' m' e' e0
      .fin (decide (s < 0)) s.natAbs e0

def sub (x y : Num) : Num := add x (neg y)

/-- Exact product; infinity times zero is NaN (R35). -/
def mul : Num → Num → Num
  | .nan, _ => .nan
  | _, .nan => .nan
  | .inf a, .inf b => .inf (xor a b)
  | .inf a, .fin n m _ => if m = 0 then .nan else .inf (xor a n)
  | .fin n m _, .inf b => if m = 0 then .nan else .inf (xor b n)
  | .fin n m e, .fin n' m' e' => .fin (xor n n') (m * m') (e + e')

/-- Exact sum of a list: −0 only when every term is −0 (R32); an empty list sums to +0. -/
def sum : List Num → Num
  | [] => zero
  | x :: xs => xs.foldl add x

/-- Order of two values that are not NaN: −1, 0 or 1; zeros of either sign are equal (R32). -/
def cmp : Num → Num → Int
  | .nan, _ => 0
  | _, .nan => 0
  | .inf a, .inf b => if a = b then 0 else if a then -1 else 1
  | .inf a, .fin _ _ _ => if a then -1 else 1
  | .fin _ _ _, .inf b => if b then 1 else -1
  | .fin n m e, .fin n' m' e' =>
    let e0 := if e ≤ e' then e else e'
    let a := scaled n m e e0
    let b := scaled n' m' e' e0
    if a < b then -1 else if a = b then 0 else 1

/-- Less than; false where either is NaN. -/
def lt (x y : Num) : Bool := !x.isNan && !y.isNan && decide (cmp x y < 0)

/-- The order that puts −0 below +0 (R32), used by minima, maxima and ReLU. -/
def ltSigned (x y : Num) : Bool := lt x y || (x.isZero && y.isZero && x.isNeg && !y.isNeg)

/-- Equal values, none NaN. -/
def eqv (x y : Num) : Bool := !x.isNan && !y.isNan && decide (cmp x y = 0)

end Num

/-! ## Formats -/

/-- The scalar and element types (Tables 2-1, 2-2, 2-4, R30, R51). -/
inductive Scalar where
  | fp32 | bf16 | fp16 | e4m3 | e5m2 | int8 | int16 | int32 | e3m2 | e2m1 | int6 | int4 | int3 | e2m3
  deriving DecidableEq, Repr, Inhabited

/-- A format: a scalar, or a panel of elements. -/
inductive Fmt where
  | scalar (t : Scalar)
  | panel (t : Scalar)
  deriving DecidableEq, Repr, Inhabited

/-- Table 2-1. -/
def fmtOf : Nat → Option Fmt
  | 0x0 => some (.scalar .fp32)
  | 0x1 => some (.scalar .bf16)
  | 0x2 => some (.scalar .fp16)
  | 0x3 => some (.scalar .e4m3)
  | 0x4 => some (.scalar .e5m2)
  | 0x5 => some (.scalar .int8)
  | 0x6 => some (.scalar .int16)
  | 0x7 => some (.scalar .int32)
  | 0x8 => some (.panel .e4m3)
  | 0x9 => some (.panel .int8)
  | 0xA => some (.panel .e3m2)
  | 0xB => some (.panel .int6)
  | 0xC => some (.panel .e2m1)
  | 0xD => some (.panel .int4)
  | 0xE => some (.panel .int3)
  | _ => none

namespace Scalar

/-- Bits of one value. -/
def width : Scalar → Nat
  | .fp32 => 32
  | .int32 => 32
  | .bf16 => 16
  | .fp16 => 16
  | .int16 => 16
  | .e4m3 => 8
  | .e5m2 => 8
  | .int8 => 8
  | .e3m2 => 6
  | .int6 => 6
  | .e2m3 => 6
  | .e2m1 => 4
  | .int4 => 4
  | .int3 => 3

def isInt : Scalar → Bool
  | .int8 => true
  | .int16 => true
  | .int32 => true
  | .int6 => true
  | .int4 => true
  | .int3 => true
  | _ => false

/-- Mantissa bits (Table 2-2). -/
def manBits : Scalar → Nat
  | .fp32 => 23
  | .bf16 => 7
  | .fp16 => 10
  | .e4m3 => 3
  | .e5m2 => 2
  | .e3m2 => 2
  | .e2m1 => 1
  | .e2m3 => 3
  | _ => 0

/-- Exponent bias (Table 2-2). -/
def bias : Scalar → Nat
  | .fp32 => 127
  | .bf16 => 127
  | .fp16 => 15
  | .e4m3 => 7
  | .e5m2 => 15
  | .e3m2 => 3
  | _ => 1

/-- Code of the largest finite value, sign bit clear (Table 2-2). -/
def maxCode : Scalar → Nat
  | .fp32 => 0x7F7FFFFF
  | .bf16 => 0x7F7F
  | .fp16 => 0x7BFF
  | .e4m3 => 0x7E
  | .e5m2 => 0x7B
  | .e3m2 => 0x1F
  | .e2m1 => 0x7
  | .e2m3 => 0x1F
  | .int32 => 0x7FFFFFFF
  | .int16 => 0x7FFF
  | .int8 => 0x7F
  | .int6 => 31
  | .int4 => 7
  | .int3 => 3

/-- Canonical NaN (R42); 0 where the type has none (Table 2-7, R39). -/
def nanCode : Scalar → Nat
  | .fp32 => 0x7FC00000
  | .bf16 => 0x7FC0
  | .fp16 => 0x7E00
  | .e4m3 => 0x7F
  | .e5m2 => 0x7E
  | _ => 0

/-- Whether the type has a NaN encoding (Table 2-2). -/
def hasNan : Scalar → Bool
  | .fp32 => true
  | .bf16 => true
  | .fp16 => true
  | .e4m3 => true
  | .e5m2 => true
  | _ => false

/-- Whether a value beyond the largest finite rounds to infinity (Table 2-7): FP32, BF16, FP16. -/
def overflows : Scalar → Bool
  | .fp32 => true
  | .bf16 => true
  | .fp16 => true
  | _ => false

/-- Value of a float code (R29, Table 2-2). -/
def decodeFloat (t : Scalar) (c : Nat) : Num :=
  let w := t.width
  let c := c % 2 ^ w
  let s := bit c (w - 1)
  let mag := c % 2 ^ (w - 1)
  let m := mag % 2 ^ t.manBits
  let e := mag / 2 ^ t.manBits
  let ones := 2 ^ (w - 1 - t.manBits) - 1
  let ieee := match t with
    | .fp32 => true
    | .bf16 => true
    | .fp16 => true
    | .e5m2 => true
    | _ => false
  if ieee && decide (e = ones) then (if m = 0 then .inf s else .nan)
  else if decide (t = .e4m3) && decide (mag = 0x7F) then .nan
  else if e = 0 then .fin s m (1 - (t.bias : Int) - t.manBits)
  else .fin s (m + 2 ^ t.manBits) ((e : Int) - t.bias - t.manBits)

/-- Value of a two's complement code (R30). -/
def decodeInt (w c : Nat) : Int :=
  let c := c % 2 ^ w
  if bit c (w - 1) then (c : Int) - 2 ^ w else c

/-- Value of a code. -/
def decode (t : Scalar) (c : Nat) : Num :=
  if t.isInt then Num.ofInt (decodeInt t.width c) else decodeFloat t c

end Scalar

/-! ## Rounding and narrowing (R40 to R43) -/

/-- n / d to the nearest integer, ties to even (R40). -/
def rne (n d : Nat) : Nat :=
  let q := n / d
  let r := n % d
  if d < 2 * r then q + 1 else if 2 * r = d ∧ q % 2 = 1 then q + 1 else q

/-- The largest k with 2^k ≤ n / d, for n and d positive. -/
def log2Ratio (n d : Nat) : Int :=
  let k : Int := (Nat.log2 n : Int) - Nat.log2 d
  if d <<< k.toNat ≤ n <<< (-k).toNat then k else k - 1

/-- n / d × 2^e as an exact fraction of naturals. -/
def fraction (n d : Nat) (e : Int) : Nat × Nat := (n <<< e.toNat, d <<< (-e).toNat)

/-- Magnitude code of the positive value n / d × 2^e rounded to float type `t`, before the overflow rule. -/
def roundMag (t : Scalar) (n d : Nat) (e : Int) : Nat :=
  let k := log2Ratio n d + e
  let lo : Int := 1 - t.bias
  let k := if k < lo then lo else k
  let f := fraction n d (e - (k - t.manBits))
  (k - lo).toNat * 2 ^ t.manBits + rne f.1 f.2

/-- Narrowing (−1)^neg × n / d × 2^e to `t` (Table 2-7). -/
def narrowRat (t : Scalar) (neg : Bool) (n d : Nat) (e : Int) : Nat :=
  let sign := if neg then 2 ^ (t.width - 1) else 0
  if t.isInt then
    let f := fraction n d e
    let r := rne f.1 f.2
    if neg then (2 ^ t.width - Nat.min r (t.maxCode + 1)) % 2 ^ t.width else Nat.min r t.maxCode
  else if n = 0 then sign
  else
    let c := roundMag t n d e
    if c ≤ t.maxCode then sign + c
    else if t.overflows then sign + t.maxCode + 1 else sign + t.maxCode

/-- Narrowing an exact value to `t` (Table 2-7, R42). -/
def narrow (t : Scalar) : Num → Nat
  | .nan => t.nanCode
  | .inf neg =>
    if t.isInt then (if neg then t.maxCode + 1 else t.maxCode)
    else (if neg then 2 ^ (t.width - 1) else 0) + (if t.overflows then t.maxCode + 1 else t.maxCode)
  | .fin neg m e => narrowRat t neg m 1 e

/-- An exact value rounded to `t` and taken as a value again. -/
def roundTo (t : Scalar) (x : Num) : Num := t.decode (narrow t x)

/-- Rounding to FP32. -/
def r32 (x : Num) : Num := roundTo .fp32 x

/-- The FP32 code of a value. -/
def c32 (x : Num) : Nat := narrow .fp32 x

/-- The value of an FP32 code. -/
def v32 (c : Nat) : Num := Scalar.fp32.decode c

/-- Integer addition into `w` bits wraps (R45, R46, R49). -/
def wrapInt (w : Nat) (i : Int) : Nat := (i % (2 ^ w : Nat)).toNat

/-! ## Panels (R33 to R39) -/

/-- Elements of a panel (Table 2-4). -/
def perPanel (t : Scalar) : Nat := 480 / t.width

/-- The sector as one number, bit 0 the least significant bit of the lowest byte (R33). -/
def panelBits (p : List Byte) : Nat := leNat (p.take 64)

def panelScale (p : List Byte) : Num := Scalar.bf16.decode (at_ p 0 2)

def panelBias (p : List Byte) : Num := Scalar.bf16.decode (at_ p 2 2)

/-- Code of element `i` (R33). -/
def panelCode (t : Scalar) (bits i : Nat) : Nat := fld bits (32 + t.width * (i + 1) - 1) (32 + t.width * i)

/-- a × q + b, exactly (R35). -/
def panelValue (t : Scalar) (p : List Byte) (i : Nat) : Num :=
  Num.add (Num.mul (panelScale p) (t.decode (panelCode t (panelBits p) i))) (panelBias p)

/-- The element code that stands for `x` under a header with scale `a` and bias `b` (R39), and whether a NaN was zeroed. -/
def elementCode (t : Scalar) (a b x : Num) : Nat × Bool :=
  if x.isNan then (if t = .e4m3 then (0x7F, false) else (0, true))
  else if a.isZero then (0, false)
  else
    let y := Num.sub x b
    let nanQ := (if t = .e4m3 then 0x7F else 0, false)
    match y, a with
    | .nan, _ => nanQ
    | _, .nan => nanQ
    | .inf _, .inf _ => nanQ
    | .inf n, .fin n' _ _ => (narrow t (.inf (xor n n')), false)
    | .fin n _ _, .inf n' => (narrow t (.fin (xor n n') 0 0), false)
    | .fin n m e, .fin n' m' e' => (narrowRat t (xor n n') m m' (e - e'), false)

/-- A sector with the code of element `i` replaced (R39: the header and the other elements stay). -/
def putElement (t : Scalar) (p : List Byte) (i c : Nat) : List Byte :=
  let bits := panelBits p
  let lo := 32 + t.width * i
  let old := panelCode t bits i
  leBytes 64 (bits - old <<< lo + (c % 2 ^ t.width) <<< lo)

/-- A panel from a header and its element codes; the slots after them are kerf and written as zero bits (R37). -/
def packPanel (t : Scalar) (scale bias : Nat) (codes : List Nat) : List Byte :=
  let payload := codes.foldr (fun c acc => c % 2 ^ t.width + acc <<< t.width) 0
  leBytes 64 (scale % 65536 + (bias % 65536) <<< 16 + payload <<< 32)

/-- Bytes that a row of `n` values takes in memory (R36). -/
def rowBytes : Fmt → Nat → Nat
  | .scalar t, n => n * (t.width / 8)
  | .panel t, n => ((n + perPanel t - 1) / perPanel t) * 64

/-- Code of value `k` of a row held in bytes. -/
def rowCode (f : Fmt) (row : List Byte) (k : Nat) : Nat :=
  match f with
  | .scalar t => at_ row (k * (t.width / 8)) (t.width / 8)
  | .panel t => panelCode t (panelBits (row.drop (k / perPanel t * 64))) (k % perPanel t)

/-- Value `k` of a row held in bytes (R29, R30, R35, R36). -/
def rowValue (f : Fmt) (row : List Byte) (k : Nat) : Num :=
  match f with
  | .scalar t => t.decode (at_ row (k * (t.width / 8)) (t.width / 8))
  | .panel t => panelValue t (row.drop (k / perPanel t * 64)) (k % perPanel t)

/-- The first `n` values of a row. -/
def rowValues (f : Fmt) (row : List Byte) (n : Nat) : List Num := (List.range n).map (rowValue f row)

/-- Bytes of a scalar value. -/
def scalarBytes (t : Scalar) (x : Num) : List Byte := leBytes (t.width / 8) (narrow t x)

/-! ## Sums (R45 to R47) -/

/-- The exact sum of products of one K tile, rounded once. -/
def tileSum (ps : List (Num × Num)) : Num := r32 (Num.sum (ps.map (fun p => Num.mul p.1 p.2)))

/-- Sum over 64-wide K tiles; `fuel` bounds the tiles (R45). -/
def pressSum : Nat → Num → List (Num × Num) → Num
  | 0, acc, _ => acc
  | _ + 1, acc, [] => acc
  | fuel + 1, acc, ps => pressSum fuel (r32 (Num.add acc (tileSum (ps.take 64)))) (ps.drop 64)

/-- acc + Σ A[k] × B[k] of a press, in FP32 (R45). -/
def pressDot (acc : Num) (a b : List Num) : Num :=
  let ps := a.zip b
  pressSum (ps.length / 64 + 1) acc ps

/-- A fused multiply-add of a bench lane (R46). -/
def fma32 (acc a b : Num) : Num := r32 (Num.add acc (Num.mul a b))

/-- Products accumulated one at a time (R46). -/
def benchDot (acc : Num) (a b : List Num) : Num := (a.zip b).foldl (fun s p => fma32 s p.1 p.2) acc

/-- Adjacent pairs combined by `f`. -/
def pairUp {α : Type} (f : α → α → α) : List α → List α
  | x :: y :: t => f x y :: pairUp f t
  | l => l

/-- The six levels of the reduction tree (R47). -/
def tree64 {α : Type} (f : α → α → α) (xs : List α) : List α :=
  pairUp f (pairUp f (pairUp f (pairUp f (pairUp f (pairUp f xs)))))

/-- Exact integer of a finite value whose exponent is 0 (values of integer formats). -/
def Num.toInt : Num → Int
  | .fin n m _ => if n then -(m : Int) else m
  | _ => 0

/-- The power of two of the power-of-two rule of R52: the smallest k with |x| ≤ M × 2^k, for one finite non-zero x. -/
def pow2For (M m : Nat) (e : Int) : Int :=
  let k := log2Ratio m M + e
  let f := fraction m M (e - k)
  if f.1 ≤ f.2 then k else k + 1

/-! ## Panels under the power-of-two rule (R52, R137, R437) -/

/-- The largest finite value of an element type, a whole number for every target of the rule. -/
def maxFinite (t : Scalar) : Nat :=
  match t.decode t.maxCode with
  | .fin _ m e => (m <<< e.toNat) >>> (-e).toNat
  | _ => 0

/-- The exponent that one value asks for; none from zero, an infinity or NaN. -/
def pow2Of (t : Scalar) : Num → Option Int
  | .fin _ m e => if m = 0 then none else some (pow2For (maxFinite t) m e)
  | _ => none

/-- The exponent of a panel: the largest that a value asks for, within −133 to 127; −133 where no value asks. -/
def pow2Panel (t : Scalar) (xs : List Num) : Int :=
  (xs.filterMap (pow2Of t)).foldl (fun k e => if k < e then e else k) (-133)

def clampPow2 (k : Int) : Int := if 127 < k then 127 else k

/-- One panel by the power-of-two rule, and whether a NaN was zeroed. -/
def encodePow2 (t : Scalar) (xs : List Num) : List Byte × Bool :=
  if xs.all Num.isZero then (zeros 64, false)
  else
    let a : Num := .fin false 1 (clampPow2 (pow2Panel t xs))
    let cs := xs.map (elementCode t a Num.zero)
    (packPanel t (narrow .bf16 a) 0 (cs.map Prod.fst), cs.any Prod.snd)

/-- A row cut into panels by the power-of-two rule; `fuel` bounds the panels. -/
def encodeRow (t : Scalar) : Nat → List Num → List Byte × Bool
  | 0, _ => ([], false)
  | _ + 1, [] => ([], false)
  | fuel + 1, xs =>
    let p := encodePow2 t (xs.take (perPanel t))
    let q := encodeRow t fuel (xs.drop (perPanel t))
    (p.1 ++ q.1, p.2 || q.2)

/-- A row of values in an output format: its bytes, and whether a NaN was zeroed. -/
def outRow (f : Fmt) (xs : List Num) : List Byte × Bool :=
  match f with
  | .scalar t => (xs.flatMap (scalarBytes t), false)
  | .panel t => encodeRow t (xs.length / perPanel t + 1) xs

/-- A panel of which the first `n` slots stay and the kerf is zero (R37). -/
def clearSlots (t : Scalar) (n : Nat) (p : List Byte) : List Byte := leBytes 64 (panelBits p % 2 ^ (32 + t.width * n))

/-- The panels of a row of `n` elements with their kerf zero (R37). -/
def clearKerf (t : Scalar) : Nat → List (List Byte) → List (List Byte)
  | _, [] => []
  | n, p :: ps => (if n < perPanel t then clearSlots t n p else p) :: clearKerf t (n - perPanel t) ps

/-- Scalar integer formats (Table 2-1). -/
def isIntFmt (f : Nat) : Bool := decide (f = 5 ∨ f = 6 ∨ f = 7)

/-- A contribution added into an element (R49). Into a float it rounds once. Into an integer it wraps; a contribution that is no
integer is converted to the target first. -/
def accumulate (t : Scalar) (intSrc : Bool) (old : Nat) (x : Num) : Nat :=
  if t.isInt then
    wrapInt t.width (Scalar.decodeInt t.width old + (if intSrc then x.toInt else Scalar.decodeInt t.width (narrow t x)))
  else narrow t (Num.add (t.decode old) x)

end Sys2Proof.Machine
end

