-- ==== Sys2Proof/Machine/Special.lean ====
section
/-! DEFINITION. The special functions of jigs and benches: 2^x, 1/x and 1/√x of FP32 inputs, correctly rounded (R94). -/

namespace Sys2Proof.Machine
open Sys2Proof

/-- 2^200 × ln 2, rounded down. -/
def ln2 : Nat := 1113844574712631719546256151097547306333272293549090750737802

/-- The Taylor sum of e^y from term number `k` on, in units of 2^-200: `term` is y^k / k!. -/
def expSum (y : Nat) : Nat → Nat → Nat → Nat → Nat
  | 0, _, _, acc => acc
  | n + 1, k, term, acc => expSum y n (k + 1) (term * y / 2 ^ 200 / (k + 1)) (acc + term)

/-- 2^200 × 2^(f / 2^200), rounded down to within 2^-180 of it, for f < 2^200. -/
def pow2Frac (f : Nat) : Nat := expSum (f * ln2 / 2 ^ 200) 60 0 (2 ^ 200) 0

/-- 2^x of a finite value: exact for an integer x, else a value whose rounding to FP32 is that of 2^x (R94). -/
def exp2Fin (neg : Bool) (m : Nat) (e : Int) : Num :=
  if m = 0 then .fin false 1 0
  else if decide (8 < (Nat.log2 m : Int) + e) then (if neg then Num.zero else .inf false)
  else if decide (e < -180) then .fin false 1 0
  else
    let mag := m <<< (e + 200).toNat
    let i : Int := if neg then -(mag : Int) else mag
    let n := i / 2 ^ 200
    let f := (i % 2 ^ 200).toNat
    if f = 0 then .fin false 1 n else .fin false (2 * pow2Frac f + 1) (n - 201)

/-- exp2 of an FP32 value (R94). -/
def exp2 : Num → Num
  | .nan => .nan
  | .inf neg => if neg then Num.zero else .inf false
  | .fin neg m e => r32 (exp2Fin neg m e)

/-- 1/x of an FP32 value (R94). -/
def recip : Num → Num
  | .nan => .nan
  | .inf neg => .fin neg 0 0
  | .fin neg m e => if m = 0 then .inf neg else v32 (narrowRat .fp32 neg 1 m (-e))

/-- The largest r with r² ≤ n among those that add bits below `k` to `r`. -/
def isqrtFrom (n : Nat) : Nat → Nat → Nat
  | 0, r => r
  | k + 1, r => isqrtFrom n k (if (r + 2 ^ k) * (r + 2 ^ k) ≤ n then r + 2 ^ k else r)

/-- ⌊√n⌋. -/
def isqrt (n : Nat) : Nat := isqrtFrom n (Nat.log2 n / 2 + 1) 0

/-- 1/√(m × 2^e) for a positive m: exact, or with a bit that stands for what was cut off. -/
def rsqrtFin (m : Nat) (e : Int) : Num :=
  let odd := e % 2 ≠ 0
  let m := if odd then 2 * m else m
  let e := if odd then e - 1 else e
  let q := isqrt (2 ^ 256 / m)
  .fin false (2 * q + (if q * q * m = 2 ^ 256 then 0 else 1)) (-129 - e / 2)

/-- 1/√x of an FP32 value (R94). -/
def rsqrt : Num → Num
  | .nan => .nan
  | .inf neg => if neg then .nan else Num.zero
  | .fin neg m e => if m = 0 then .inf neg else if neg then .nan else r32 (rsqrtFin m e)

end Sys2Proof.Machine
end

