-- ==== Sys2Proof/Machine/Triples.lean ====
section
/-! DEFINITION. Attention scores (R279), statistics triples, their block step and their merge (R282 to R288). -/

namespace Sys2Proof.Machine
open Sys2Proof

/-- 0x3FB8_AA3B (R283). -/
def log2e : Num := v32 0x3FB8AA3B

def negInf : Num := .inf true

/-- A row's state: running maximum, running sum, unnormalised output (R282). -/
structure Triple where
  m : Num := .inf true
  l : Num := .fin false 0 0
  o : List Num := []
  deriving DecidableEq, Repr, Inhabited

/-- The empty triple of `d` values. -/
def emptyTriple (d : Nat) : Triple := { o := List.replicate d Num.zero }

/-- A NaN row (R283). -/
def nanTriple (d : Nat) : Triple := { m := .nan, l := .nan, o := List.replicate d .nan }

/-- round(x × y), round(x + y). -/
def rmul (x y : Num) : Num := r32 (Num.mul x y)
def radd (x y : Num) : Num := r32 (Num.add x y)

/-- exp2(round(round(x − m) × LOG2E)) (R283: every step rounds). -/
def expFrom (x m : Num) : Num := exp2 (rmul (r32 (Num.sub x m)) log2e)

/-- The larger of two values that are not NaN; +0 is larger than −0 (R32). -/
def maxNum (x y : Num) : Num := if Num.ltSigned x y then y else x

/-- A token as attention sees it (R138, R281). -/
structure Pos where
  t : Int := 0
  page : Nat := 0xFFFF
  row : Int := 0
  col : Int := 0
  deriving DecidableEq, Repr, Inhabited

/-- A position record (R138). -/
def posOf (b : List Byte) : Pos := {
  t := Scalar.decodeInt 32 (at_ b 0 4), page := at_ b 4 2, row := (at_ b 6 2 : Nat), col := (at_ b 8 2 : Nat) }

def clampInt (lo hi x : Int) : Int := if x < lo then lo else if hi < x then hi else x

/-- BF16 entry `i` of a table at byte `off` of a head's bias block (Table 10-9). -/
def biasEntry (block : List Byte) (off i : Nat) : Num := Scalar.bf16.decode (at_ block (off + 2 * i) 2)

/-- What attention is set to do. -/
structure ScoreCfg where
  causal : Bool := false
  bias1d : Bool := false
  layout : Bool := false
  scale : Num := .fin false 0 0
  block : List Byte := []
  deriving DecidableEq, Repr, Inhabited

/-- The table entries that a pair of tokens selects, in the order in which they are added (R279 steps 3 and 4). -/
def biasTerms (c : ScoreCfg) (q k : Pos) : List Num :=
  (if c.bias1d then [biasEntry c.block 0 (clampInt (-1024) 1023 (q.t - k.t) + 1024).toNat] else []) ++
  (if c.layout && decide (q.page = k.page) && decide (q.page ≠ 0xFFFF) then
    [biasEntry c.block 4096 (clampInt (-64) 63 (q.row - k.row) + 64).toNat,
     biasEntry c.block 4352 (clampInt (-64) 63 (q.col - k.col) + 64).toNat]
   else [])

/-- The score of a query and a key from their dot product (R279). -/
def scoreOf (c : ScoreCfg) (q k : Pos) (dot : Num) : Num :=
  let terms := biasTerms c q k
  if (c.causal && decide (q.t < k.t)) || terms.any (fun e => decide (e = negInf)) then negInf
  else terms.foldl radd (rmul dot c.scale)

def badScore (x : Num) : Bool := x.isNan || decide (x = .inf false)

/-- The probabilities of a block against a new maximum, in the format in which p is held (R285, R286). -/
def probsOf (fmt : Scalar) (mNew : Num) (scores : List Num) : List Num :=
  scores.map (fun x => if x = negInf then Num.zero else roundTo fmt (expFrom x mNew))

/-- One block step: scores, values by key, the format of p, the sum of p and the product with V as the engine forms them
(R285, R286). -/
def blockStep (fmt : Scalar) (sumP : List Num → Num) (dotV : List Num → List Num → Num) (scores : List Num)
    (vals : List (List Num)) (t : Triple) : Triple :=
  let d := t.o.length
  if t.m.isNan || scores.any badScore then nanTriple d
  else
    let mNew := scores.foldl maxNum t.m
    if mNew = negInf then t
    else
      let alpha := if t.m = negInf then Num.zero else expFrom t.m mNew
      let p := probsOf fmt mNew scores
      let l := radd (rmul alpha t.l) (sumP p)
      let o := (List.range d).map (fun i =>
        radd (rmul alpha (t.o.getD i Num.zero)) (dotV p (vals.map (fun v => v.getD i Num.zero))))
      { m := mNew, l := l, o := o }

/-- Two triples combined (R287). -/
def mergeTriples (x y : Triple) : Triple :=
  let d := Nat.max x.o.length y.o.length
  if x.m.isNan || y.m.isNan then nanTriple d
  else
    let m := maxNum x.m y.m
    if m = negInf then emptyTriple d
    else
      let a := expFrom x.m m
      let b := expFrom y.m m
      { m := m, l := radd (rmul a x.l) (rmul b y.l),
        o := (List.range d).map (fun i => radd (rmul a (x.o.getD i Num.zero)) (rmul b (y.o.getD i Num.zero))) }

/-- The normalised row before its conversion: O / l, +0 where l is +0, NaN for a NaN row (R286, R288). -/
def normalised (t : Triple) : List Num :=
  if t.m.isNan then t.o.map (fun _ => Num.nan)
  else if t.l.isZero then t.o.map (fun _ => Num.zero)
  else t.o.map (fun x => rmul x (recip t.l))

/-- Bytes of m and l, and of O, as FP32. -/
def statBytes (t : Triple) : List Byte := scalarBytes .fp32 t.m ++ scalarBytes .fp32 t.l
def rowO (t : Triple) : List Byte := t.o.flatMap (scalarBytes .fp32)

end Sys2Proof.Machine
end

