-- ==== Sys2Proof/Machine/Press.lean ====
section
/-! DEFINITION. Press operations: records and checks (R132, R133), scoreboard ranges (R141 to R143), what each computes (R134
to R138, R286), start, retirement and notes (R142, R149), drawers (R144 to R150). -/

namespace Sys2Proof.Machine
open Sys2Proof

/-! ## Drawers -/

def drawer (s : State) (cl k : Nat) : Drawer := tget {} (clu s cl).drawers k
def modDrawer (s : State) (cl k : Nat) (f : Drawer → Drawer) : State :=
  modClu s cl (fun c => { c with drawers := tmod {} c.drawers k f })

/-- A word with VALID forced (R144). -/
def validWord (w : Word) : Word := w ||| (1#64 <<< 63)

/-- LENGTH of a header word (R148). The spec gives the field the range 0 to 1,023; a larger value is taken as it stands (DESIGN CHOICE,
log entry 98). -/
def headerLen (w : Word) : Nat := fld w.toNat 62 52

/-- Words available to a pop in PACKET mode (R148): `left` is what remains of a packet whose header has been popped. -/
def packetAvail (T : Nat) : Nat → Nat → List Word → Nat
  | _, _, [] => 0
  | 0, _, _ => 0
  | fuel + 1, 0, h :: ws =>
    let n := headerLen h + 1
    let pushed := Nat.min n (ws.length + 1)
    let least := if T = 0 then n else Nat.min T n
    if pushed < least then 0
    else if pushed < n then pushed
    else n + packetAvail T fuel 0 ((h :: ws).drop n)
  | fuel + 1, left, ws =>
    if ws.length < left then ws.length else left + packetAvail T fuel 0 (ws.drop left)

/-- Words available to a pop (R147, R148). -/
def available (d : Drawer) : Nat :=
  if d.packet then packetAvail d.threshold (d.words.length + 1) d.headLeft d.words else d.words.length

/-- One word pushed by producer `who`; in PACKET mode a header opens a packet. -/
def pushWord (who : Nat) (d : Drawer) (w : Word) : Drawer :=
  let d' := { d with words := d.words ++ [validWord w] }
  if !d.packet then d'
  else if d.openLeft = 0 then { d' with openBy := who, openLeft := headerLen w }
  else { d' with openLeft := d.openLeft - 1 }

/-- Whether a push of `n` words by `who` finds room (R146, R148). -/
def pushRoom (d : Drawer) (who n : Nat) : Bool :=
  decide (d.words.length + n ≤ 1024) && !(d.packet && decide (d.openLeft ≠ 0) && decide (d.openBy ≠ who))

/-- One word taken from the front. -/
def popWord (d : Drawer) : Drawer :=
  match d.words with
  | [] => d
  | w :: ws =>
    let d := { d with words := ws, marks := (d.marks.filter (fun m => m.1 ≠ 0)).map (fun m => (m.1 - 1, m.2)) }
    if !d.packet then d
    else { d with headLeft := if d.headLeft = 0 then headerLen w else d.headLeft - 1 }

def popWords : Nat → Drawer → Drawer
  | 0, d => d
  | n + 1, d => popWords n (popWord d)

/-- The first `m` words as a pop returns them: an uncorrectable one as the all-zero word (R144). -/
def poppedWords (m : Nat) (d : Drawer) : List Word :=
  (d.words.take m).zipIdx.map (fun e => if d.marks.any (fun x => x.1 = e.2 && x.2) then 0 else e.1)

/-- How many of the first `m` words hold a corrected error, or an uncorrectable one. -/
def markedWords (m : Nat) (hard : Bool) (d : Drawer) : Nat := (d.marks.filter (fun x => decide (x.1 < m) && x.2 == hard)).length

/-- R145: a drawer that holds no word and no open packet. -/
def drawerEmpty (d : Drawer) : Bool := d.words.isEmpty && decide (d.openLeft = 0)

/-! ## Records (Tables 5-2, 5-5, 5-6) -/

namespace Rec
def opcode (r : List Byte) : Nat := at_ r 0 1
def acc (r : List Byte) : Bool := bit (at_ r 1 1) 7
def noteEn (r : List Byte) : Bool := bit (at_ r 1 1) 6
def noteDrawer (r : List Byte) : Nat := fld (at_ r 1 1) 5 3
def fmtA (r : List Byte) : Nat := at_ r 2 1 / 16
def fmtB (r : List Byte) : Nat := at_ r 2 1 % 16
def fmtO (r : List Byte) : Nat := at_ r 3 1 / 16
def hint (r : List Byte) : Nat := fld (at_ r 3 1) 3 2
def fn (r : List Byte) : Nat := at_ r 3 1 % 4
def tag (r : List Byte) : Nat := at_ r 4 2
def m (r : List Byte) : Nat := at_ r 8 2
def n (r : List Byte) : Nat := at_ r 10 2
def k (r : List Byte) : Nat := at_ r 12 4
def aOff (r : List Byte) : Nat := at_ r 16 4
def aStride (r : List Byte) : Nat := at_ r 20 4
def bAddr (r : List Byte) : Nat := at_ r 24 8
def bStride (r : List Byte) : Nat := at_ r 32 4
def cOff (r : List Byte) : Nat := at_ r 36 4
def cStride (r : List Byte) : Nat := at_ r 40 4
def oOff (r : List Byte) : Nat := at_ r 44 4
def oStride (r : List Byte) : Nat := at_ r 48 4
def xOff (r : List Byte) : Nat := at_ r 52 4
def imm (r : List Byte) : Nat := at_ r 56 4
/-- ATTN_BLOCK (Table 5-6). -/
def causal (r : List Byte) : Bool := bit (at_ r 8 1) 7
def bias1d (r : List Byte) : Bool := bit (at_ r 8 1) 6
def biasLayout (r : List Byte) : Bool := bit (at_ r 8 1) 5
def first (r : List Byte) : Bool := bit (at_ r 8 1) 4
def last (r : List Byte) : Bool := bit (at_ r 8 1) 3
def d (r : List Byte) : Nat := at_ r 9 1
def nk (r : List Byte) : Nat := at_ r 10 2
def q (r : List Byte) : Nat := at_ r 12 4
def kOff (r : List Byte) : Nat := at_ r 16 4
def vOff (r : List Byte) : Nat := at_ r 20 4
def kvStride (r : List Byte) : Nat := at_ r 24 4
def pos (r : List Byte) : Nat := at_ r 28 4
def bias (r : List Byte) : Nat := at_ r 32 4
def stat (r : List Byte) : Nat := at_ r 36 4
def o (r : List Byte) : Nat := at_ r 40 4
def score (r : List Byte) : Nat := at_ r 44 4
def out (r : List Byte) : Nat := at_ r 48 4
def scale (r : List Byte) : Nat := at_ r 52 4
end Rec

/-! ## Rate classes (Table 2-8) -/

/-- Rate classes of presses (R25). -/
inductive Rate where
  | fp8 | int8 | half | four
  deriving DecidableEq, Repr, Inhabited

def isFp8 (f : Nat) : Bool := decide (f = 3 ∨ f = 4)
def isHalf (f : Nat) : Bool := decide (f = 1 ∨ f = 2)
def isP8 (f : Nat) : Bool := decide (f = 8 ∨ f = 9)
def isSmall (f : Nat) : Bool := decide (f = 0xC ∨ f = 0xD ∨ f = 0xE)
def isPanelCode (f : Nat) : Bool := decide (8 ≤ f ∧ f ≤ 0xE)

/-- The rate class of a pair in this order of its operands. -/
def rateOrdered (a b : Nat) : Option Rate :=
  if isFp8 a && isFp8 b then some .fp8
  else if a = 5 ∧ b = 5 then some .int8
  else if isSmall a && isSmall b then some .four
  else if isPanelCode a && (isFp8 b || isP8 b) then some .fp8
  else if a = 5 && (isFp8 b || isPanelCode b) then some .fp8
  else if isHalf a && (isHalf b || isFp8 b || b = 5 || isPanelCode b) then some .half
  else none

/-- The rate class of a pair; pairs are symmetric (Table 2-8). -/
def pressRate (a b : Nat) : Option Rate := (rateOrdered a b).orElse (fun _ => rateOrdered b a)

def fmtD (c : Nat) : Fmt := (fmtOf c).getD (.scalar .fp32)

/-! ## Ranges (R141) -/

/-- First byte and length of `rows` rows of `n` bytes, `stride` apart. -/
def span (off rows stride n : Nat) : Nat × Nat := (off, (rows - 1) * stride + n)

/-- Bytes of an output row of READOUT. -/
def readoutRow (r : List Byte) : Nat := rowBytes (fmtD (Rec.fmtO r)) (Rec.n r)

def mmaReads (r : List Byte) : List (Nat × Nat) :=
  span (Rec.aOff r) (Rec.m r) (Rec.aStride r) (rowBytes (fmtD (Rec.fmtA r)) (Rec.k r)) ::
    (if Rec.opcode r = 1 then
      [span (Rec.bAddr r) (Rec.n r) (Rec.bStride r) (rowBytes (fmtD (Rec.fmtB r)) (Rec.k r))] else [])

/-- The part of the bias tables that the flags select (R280). -/
def biasRange (r : List Byte) : List (Nat × Nat) :=
  if Rec.bias1d r && Rec.biasLayout r then [(Rec.bias r, 4608)]
  else if Rec.bias1d r then [(Rec.bias r, 4096)]
  else if Rec.biasLayout r then [(Rec.bias r + 4096, 512)]
  else []

/-- Ranges that an operation only reads, in bytes. -/
def recReads (r : List Byte) : List (Nat × Nat) :=
  match Rec.opcode r with
  | 1 => mmaReads r
  | 2 => mmaReads r
  | 3 => span (Rec.cOff r) (Rec.m r) (Rec.cStride r) (4 * Rec.n r) ::
      (if Rec.xOff r = 0xFFFFFFFF then [] else [(Rec.xOff r, 4 * Rec.n r)])
  | _ =>
    [span (Rec.q r) 64 (64 * ((rowBytes (fmtD (Rec.fmtA r)) (Rec.d r) + 63) / 64)) (rowBytes (fmtD (Rec.fmtA r)) (Rec.d r)),
     span (Rec.kOff r) (Rec.nk r) (Rec.kvStride r) (rowBytes (fmtD (Rec.fmtB r)) (Rec.d r)),
     span (Rec.vOff r) (Rec.nk r) (Rec.kvStride r) (rowBytes (fmtD (Rec.fmtB r)) (Rec.d r)),
     (Rec.pos r, 16 * (64 + Rec.nk r))] ++ biasRange r

/-- Ranges that an operation writes, in bytes. -/
def recWrites (r : List Byte) : List (Nat × Nat) :=
  match Rec.opcode r with
  | 1 => [span (Rec.cOff r) (Rec.m r) (Rec.cStride r) (4 * Rec.n r)]
  | 2 => [span (Rec.cOff r) (Rec.m r) (Rec.cStride r) (4 * Rec.n r)]
  | 3 => [span (Rec.oOff r) (Rec.m r) (Rec.oStride r) (readoutRow r)]
  | _ => [(Rec.stat r, 512), (Rec.o r, 256 * Rec.d r), (Rec.score r, 256 * Rec.nk r)] ++
      (if Rec.last r then [(Rec.out r, 64 * rowBytes (fmtD (Rec.fmtO r)) (Rec.d r))] else [])

/-- A range rounded outward to 64-byte lines: first byte and first byte past it. -/
def lines (x : Nat × Nat) : Nat × Nat := (x.1 / 64 * 64, (x.1 + x.2 + 63) / 64 * 64)

def meets (x y : Nat × Nat) : Bool := decide (x.1 < y.2) && decide (y.1 < x.2)
def anyMeet (xs ys : List (Nat × Nat)) : Bool := xs.any (fun x => ys.any (meets x))

/-- Scoreboard entries (R141): a range both read and written takes one. -/
def entriesOf (r : List Byte) : Nat :=
  if Rec.opcode r = 8 then 8 + b2n (Rec.last r) else (recReads r).length + (recWrites r).length

/-! ## Checks at issue (Table 5-3) -/

/-- An offset or a stride of 22 bits, a multiple of 64. -/
def off22 (x : Nat) : Bool := decide (x < 2 ^ 22) && decide (x % 64 = 0)

def dimOk (x hi : Nat) : Bool := decide (x % 64 = 0) && decide (64 ≤ x) && decide (x ≤ hi)

/-- Formats that READOUT writes (R137). -/
def readoutFmt (f : Nat) : Bool := [0, 1, 2, 3, 4, 5, 7, 8, 9].contains f

def mmaFields (r : List Byte) : Bool :=
  (pressRate (Rec.fmtA r) (Rec.fmtB r)).isSome && decide (Rec.fmtO r = 0) && decide (Rec.fn r = 0) &&
    (decide (Rec.opcode r = 2) || decide (Rec.hint r = 0)) &&
    decide (Rec.oOff r = 0) && decide (Rec.oStride r = 0) && decide (Rec.xOff r = 0) && decide (Rec.imm r = 0) &&
    dimOk (Rec.m r) (if Rec.opcode r = 2 then 512 else 4096) && dimOk (Rec.n r) 4096 &&
    decide (1 ≤ Rec.k r) && decide (Rec.k r < 2 ^ 24) && off22 (Rec.aOff r) && off22 (Rec.aStride r) &&
    decide (Rec.bAddr r < 2 ^ 46) && decide (Rec.bAddr r % 64 = 0) && decide (Rec.bStride r % 64 = 0) &&
    off22 (Rec.cOff r) && off22 (Rec.cStride r)

def readoutFields (r : List Byte) : Bool :=
  let exact := decide (Rec.fmtA r = 7) && decide (Rec.fmtO r = 7)
  (decide (Rec.fmtA r = 0) || decide (Rec.fmtA r = 7)) && decide (Rec.fmtB r = 0) && readoutFmt (Rec.fmtO r) &&
    decide (Rec.fn r < 2) && !Rec.acc r && decide (Rec.hint r = 0) &&
    (!exact || (decide (Rec.imm r = 0x3F800000) && decide (Rec.xOff r = 0xFFFFFFFF) && decide (Rec.fn r = 0))) &&
    dimOk (Rec.m r) 4096 && dimOk (Rec.n r) 4096 && decide (Rec.k r = 0) && decide (Rec.aOff r = 0) &&
    decide (Rec.aStride r = 0) && decide (Rec.bAddr r = 0) && decide (Rec.bStride r = 0) && off22 (Rec.cOff r) &&
    off22 (Rec.cStride r) && off22 (Rec.oOff r) && off22 (Rec.oStride r) &&
    (decide (Rec.xOff r = 0xFFFFFFFF) || off22 (Rec.xOff r))

def attnFields (r : List Byte) : Bool :=
  decide (Rec.fmtA r = 1 ∨ Rec.fmtA r = 2 ∨ Rec.fmtA r = 3) && [1, 2, 3, 8, 9].contains (Rec.fmtB r) &&
    (pressRate (Rec.fmtA r) (Rec.fmtB r)).isSome &&
    decide (Rec.fmtO r ≤ 2) && !Rec.acc r && decide (Rec.hint r = 0) && decide (Rec.fn r = 0) &&
    decide (at_ r 8 1 % 8 = 0) && decide (Rec.d r = 64 ∨ Rec.d r = 128) && dimOk (Rec.nk r) 1024 &&
    [Rec.q r, Rec.kOff r, Rec.vOff r, Rec.kvStride r, Rec.pos r, Rec.bias r, Rec.stat r, Rec.o r, Rec.score r, Rec.out r].all off22
    && decide (at_ r 56 8 = 0)

/-- Check 1: fields, formats, dimensions, alignment, scratchpad bounds, stream within the stacks row, overlaps. -/
def recordOk (r : List Byte) : Bool :=
  let shape := match Rec.opcode r with
    | 1 => mmaFields r && decide (at_ r 60 4 = 0)
    | 2 => mmaFields r && decide (at_ r 60 4 = 0)
    | 3 => readoutFields r && decide (at_ r 60 4 = 0)
    | 8 => attnFields r
    | _ => false
  let b := span (Rec.bAddr r) (Rec.n r) (Rec.bStride r) (rowBytes (fmtD (Rec.fmtB r)) (Rec.k r))
  decide (at_ r 1 1 % 8 = 0) && decide (at_ r 6 2 = 0) && shape &&
    (recReads r ++ recWrites r).all (fun x => decide (x.1 + x.2 ≤ 0x400000)) &&
    (decide (Rec.opcode r ≠ 2) || decide (b.1 + b.2 ≤ 0x18000000000)) &&
    !anyMeet ((recReads r).map lines) ((recWrites r).map lines)

/-- Whether bytes [o, o + n) of a stack touch its absent range (R61, R62). -/
def stackAbsent (s : State) (i o n : Nat) : Bool :=
  let st := stk s i
  let c := channelBytes s
  !stackPresent s i ||
    (if st.sharded then decide (64 * c < o + n) ||
        (List.range 64).any (fun h => bit st.chAbsent.toNat h && decide (h * c < o + n) && decide (o < (h + 1) * c))
     else decide ((activeChannels st).length * c < o + n))

/-- Whether a local range within the stacks row touches an absent range. -/
def rangeAbsent (s : State) (a n : Nat) : Bool :=
  (cut 0x1000000000 a n).any (fun p => stackAbsent s (p.1 / 0x1000000000) (p.1 % 0x1000000000) p.2)

/-- The status of the first check of Table 5-3 that fails, or OK. -/
def recordStatus (s : State) (x : Task) (r : List Byte) : Status :=
  let b := span (Rec.bAddr r) (Rec.n r) (Rec.bStride r) (rowBytes (fmtD (Rec.fmtB r)) (Rec.k r))
  if !recordOk r then Code.descriptorInvalid
  else if Rec.opcode r ≠ 2 then 0
  else if !inWindows s x.part false b.1 b.2 then Code.windowFault
  else if rangeAbsent s b.1 b.2 then Code.unitAbsent
  else if !inRanges (localRanges s x.desc.ins) b.1 b.2 then Code.descriptorInvalid
  else 0

/-! ## Issue (R131) -/

/-- ANY: the press with the fewest, lowest on a tie. Whether the running operation counts among a press's queued ones is open: it
counts here (DESIGN CHOICE, log entry 99). -/
def anyPress (c : Cluster) : Nat :=
  (List.range 4).foldl (fun best p => if pressLoad c p < pressLoad c best then p else best) 0

def boardUsed (c : Cluster) : Nat := (c.queue.map (fun o => entriesOf o.record)).foldl (· + ·) 0

/-- Whether the queue and the scoreboard have room for a record (R131). -/
def issueRoom (c : Cluster) (r : List Byte) : Bool := decide (c.queue.length < 32) && decide (boardUsed c + entriesOf r ≤ 64)

def opFor (j p : Nat) (r : List Byte) : PressOp :=
  let w := (recWrites r).map lines
  { press := p, jig := j, record := r, reads := (recReads r).map lines ++ (if Rec.acc r then w else []), writes := w }

/-- A checked record enters the queue. -/
def issueOp (s : State) (cl j : Nat) (press : Option Nat) (r : List Byte) : State :=
  modClu s cl (fun c => { c with queue := c.queue ++ [opFor j (press.getD (anyPress c)) r] })

/-- R143: whether a jig access to a line waits for a press operation. -/
def padWaits (c : Cluster) (off : Nat) (store : Bool) : Bool :=
  let l := [(off / 64 * 64, off / 64 * 64 + 64)]
  c.queue.any (fun o => anyMeet o.writes l || (store && anyMeet o.reads l))

/-! ## What the operations compute -/

/-- Rows of a matrix in the scratchpad. -/
def padRows (cl off rows stride n : Nat) : Act (List (List Byte)) :=
  mapAct (fun i => loadSpad cl (off + i * stride) n) (List.range rows)

/-- One piece of a streamed row. A line that would have to be replaced under a write hold-off does not delay the stream: the piece is
then read without a place in the cache (Table 5-8). -/
def streamPiece (g hint : Nat) (p : Nat × Nat) : Act (List Byte) := do
  let s ← get
  match runAct (rcRead g hint p.1 p.2) s with
  | (.error .wait, _) => rcRead g 1 p.1 p.2
  | _ => rcRead g hint p.1 p.2

/-- A streamed row (R135). -/
def streamRow (g hint a n : Nat) : Act (List Byte) := do
  let bs ← mapAct (streamPiece g hint) (cut 64 a n)
  pure bs.flatten

/-- Rows of operand B: of the scratchpad, or streamed through the region cache (R135). -/
def bRows (cl : Nat) (r : List Byte) : Act (List (List Byte)) :=
  let n := rowBytes (fmtD (Rec.fmtB r)) (Rec.k r)
  if Rec.opcode r = 2 then
    mapAct (fun i => streamRow (regionOfCluster cl) (Rec.hint r) (Rec.bAddr r + i * Rec.bStride r) n) (List.range (Rec.n r))
  else padRows cl (Rec.bAddr r) (Rec.n r) (Rec.bStride r) n

/-- One accumulator word of MMA (R45, R134): INT32 for INT8 × INT8, FP32 otherwise. -/
def mmaCell (int : Bool) (acc : Option Nat) (a b : List Num) : Nat :=
  if int then
    let s := (a.zip b).foldl (fun t p => t + p.1.toInt * p.2.toInt) (0 : Int)
    wrapInt 32 (Scalar.decodeInt 32 (acc.getD 0) + s)
  else c32 (pressDot ((acc.map v32).getD Num.zero) a b)

/-- Stores of an M × N product, 64 rows of 256 bytes for each 64 × 64 tile (R134). Where rows of C overlap (C_STRIDE below 4N) the spec
does not order the tiles: all of C is read before the first tile is written, and tiles are written in row order (DESIGN CHOICE, log
entry 97). -/
def mmaStores (r : List Byte) (as_ bs cs : List (List Byte)) : List (Nat × List Byte) :=
  let int := decide (Rec.fmtA r = 5) && decide (Rec.fmtB r = 5)
  let a := as_.map (fun x => rowValues (fmtD (Rec.fmtA r)) x (Rec.k r))
  let b := bs.map (fun x => rowValues (fmtD (Rec.fmtB r)) x (Rec.k r))
  (List.range (Rec.m r / 64)).flatMap (fun mt => (List.range (Rec.n r / 64)).flatMap (fun nt =>
    (upFrom (64 * mt) 64).map (fun i =>
      (Rec.cOff r + i * Rec.cStride r + 256 * nt,
       (upFrom (64 * nt) 64).flatMap (fun k =>
         leBytes 4 (mmaCell int (if Rec.acc r then some (at_ (cs.getD i []) (4 * k) 4) else none) (a.getD i []) (b.getD k [])))))))

def mmaRun (cl : Nat) (r : List Byte) : Act (List (Nat × List Byte) × Bool) := do
  let a ← padRows cl (Rec.aOff r) (Rec.m r) (Rec.aStride r) (rowBytes (fmtD (Rec.fmtA r)) (Rec.k r))
  let b ← bRows cl r
  let c ← if Rec.acc r then padRows cl (Rec.cOff r) (Rec.m r) (Rec.cStride r) (4 * Rec.n r) else pure []
  pure (mmaStores r a b c, false)

/-- relu of READOUT (R137). -/
def relu (x : Num) : Num := if x.isNan then .nan else if x.isNeg || x.isZero then Num.zero else x

/-- One element of READOUT before its conversion (R137). -/
def readoutCell (r : List Byte) (acc : Nat) (bias : Option Num) : Num :=
  let x := if Rec.fmtA r = 7 then r32 (Scalar.int32.decode acc) else v32 acc
  let y := rmul x (v32 (Rec.imm r))
  let y := match bias with
    | some b => radd y b
    | none => y
  if Rec.fn r = 1 then relu y else y

/-- READOUT (R137): rows of O in ascending m. DESIGN CHOICE: where they overlap the later row stands (log entry 97). -/
def readoutRun (cl : Nat) (r : List Byte) : Act (List (Nat × List Byte) × Bool) := do
  let cs ← padRows cl (Rec.cOff r) (Rec.m r) (Rec.cStride r) (4 * Rec.n r)
  let x ← if Rec.xOff r = 0xFFFFFFFF then pure [] else loadSpad cl (Rec.xOff r) (4 * Rec.n r)
  let bias (n : Nat) : Option Num := if Rec.xOff r = 0xFFFFFFFF then none else some (v32 (at_ x (4 * n) 4))
  let exact := decide (Rec.fmtA r = 7) && decide (Rec.fmtO r = 7)
  let rows := cs.map (fun c =>
    if exact then (c, false)
    else outRow (fmtD (Rec.fmtO r)) ((List.range (Rec.n r)).map (fun n => readoutCell r (at_ c (4 * n) 4) (bias n))))
  pure (rows.zipIdx.map (fun e => (Rec.oOff r + e.2 * Rec.oStride r, e.1.1)), rows.any Prod.snd)

/-- Whether the 64-key group that holds key `j` is skipped (R138). -/
def groupSkipped (r : List Byte) (qs ks : List Pos) (j : Nat) : Bool :=
  let g := (ks.drop (j / 64 * 64)).take 64
  Rec.causal r && g.all (fun k => qs.all (fun q => decide (q.t < k.t)))

/-- The sum of p in the manner of R45. -/
def sumP (p : List Num) : Num := pressDot Num.zero p (p.map (fun _ => Num.ofNat 1))

/-- The format in which p is held (R138). -/
def probFmt (r : List Byte) : Scalar :=
  if pressRate (Rec.fmtA r) (Rec.fmtB r) = some .fp8 then .e4m3 else .bf16

/-- The scores of one query row: those of a skipped group count as masked (R286). -/
def attnScores (r : List Byte) (cfg : ScoreCfg) (qs ks : List Pos) (kv : List (List Num)) (i : Nat) (q : List Num) : List Num :=
  (ks.zip kv).zipIdx.map (fun e =>
    if groupSkipped r qs ks e.2 then negInf else scoreOf cfg (qs.getD i {}) e.1.1 (pressDot Num.zero q e.1.2))

/-- What is left of a list by key once the skipped groups are taken out: they take no part (R286). -/
def takePart {α : Type} (r : List Byte) (qs ks : List Pos) (l : List α) : List α :=
  (l.zipIdx.filter (fun e => !groupSkipped r qs ks e.2)).map Prod.fst

/-- One query row of ATTN_BLOCK from its scores (R286). -/
def attnRow (r : List Byte) (qs ks : List Pos) (vv : List (List Num)) (scores : List Num) (t : Triple) : Triple :=
  let live := takePart r qs ks scores
  if live.isEmpty then t
  else blockStep (probFmt r) sumP (fun p v => pressDot Num.zero p v) live (takePart r qs ks vv) t

/-- What the score area holds of one row: its scores as FP32 (R138), and over them, `at_` bytes from the area's start, the row's
probabilities where they have been formed. Where in the area they stand the spec does not say: each row's lie at the start of its
scores, or all rows' lie together, which the record alone decides (R48; log entry 31). -/
def probStore (r : List Byte) (together : Bool) (i : Nat) (scores : List Num) (t : Triple) : List (Nat × List Byte) :=
  let mNew := scores.foldl maxNum t.m
  if t.m.isNan || scores.any badScore || decide (mNew = negInf) then []
  else
    let bs := (probsOf (probFmt r) mNew scores).flatMap (scalarBytes (probFmt r))
    [(Rec.score r + i * (if together then bs.length else 4 * Rec.nk r), bs)]

/-- ATTN_BLOCK (R138): STAT, scores, probabilities, O and OUT in this order. DESIGN CHOICE: where their ranges overlap the later one stands (log
entry 97); K and V of a group of keys that is skipped are read too (log entry 134). -/
def attnRun (cl : Nat) (r : List Byte) : Act (List (Nat × List Byte) × Bool) := do
  let d := Rec.d r
  let fq := fmtD (Rec.fmtA r)
  let fk := fmtD (Rec.fmtB r)
  let qn := rowBytes fq d
  let q ← padRows cl (Rec.q r) 64 (64 * ((qn + 63) / 64)) qn
  let k ← padRows cl (Rec.kOff r) (Rec.nk r) (Rec.kvStride r) (rowBytes fk d)
  let v ← padRows cl (Rec.vOff r) (Rec.nk r) (Rec.kvStride r) (rowBytes fk d)
  let pos ← padRows cl (Rec.pos r) (64 + Rec.nk r) 16 16
  let b1 ← if Rec.bias1d r then loadSpad cl (Rec.bias r) 4096 else pure (zeros 4096)
  let b2 ← if Rec.biasLayout r then loadSpad cl (Rec.bias r + 4096) 512 else pure []
  let st ← if Rec.first r then pure [] else loadSpad cl (Rec.stat r) 512
  let o ← if Rec.first r then pure [] else padRows cl (Rec.o r) 64 (4 * d) (4 * d)
  let qs := (pos.take 64).map posOf
  let ks := (pos.drop 64).map posOf
  let cfg : ScoreCfg := {
    causal := Rec.causal r, bias1d := Rec.bias1d r, layout := Rec.biasLayout r, scale := v32 (Rec.scale r), block := b1 ++ b2 }
  let kv := k.map (fun x => rowValues fk x d)
  let vv := v.map (fun x => rowValues fk x d)
  let start (i : Nat) : Triple :=
    if Rec.first r then emptyTriple d
    else { m := v32 (at_ st (8 * i) 4), l := v32 (at_ st (8 * i + 4) 4), o := rowValues (.scalar .fp32) (o.getD i []) d }
  let scores := (List.range 64).map (fun i => attnScores r cfg qs ks kv i (rowValues fq (q.getD i []) d))
  let ts := scores.zipIdx.map (fun e => attnRow r qs ks vv e.1 (start e.2))
  let probs := scores.zipIdx.flatMap (fun e => probStore r (Config.probsTogether r) e.2 e.1 (start e.2))
  let outs := if Rec.last r then
      ts.zipIdx.map (fun e => (Rec.out r + e.2 * rowBytes (fmtD (Rec.fmtO r)) d, (outRow (fmtD (Rec.fmtO r)) (normalised e.1)).1))
    else []
  pure ((Rec.stat r, ts.flatMap statBytes) :: scores.zipIdx.map (fun e =>
      (Rec.score r + e.2 * (4 * Rec.nk r), e.1.flatMap (scalarBytes .fp32))) ++ probs ++
    ts.zipIdx.map (fun e => (Rec.o r + e.2 * (4 * d), rowO e.1)) ++ outs, false)

def runRecord (cl : Nat) (r : List Byte) : Act (List (Nat × List Byte) × Bool) :=
  match Rec.opcode r with
  | 3 => readoutRun cl r
  | 8 => attnRun cl r
  | _ => mmaRun cl r

/-! ## Start, retirement, notes -/

/-- The first operation of a press that has not retired, with those issued before it (R131, R142). -/
def headOp (q : List PressOp) (p : Nat) : Option (PressOp × List PressOp) :=
  match q.findIdx? (fun o => o.press = p) with
  | some i => (q[i]?).map (fun o => (o, q.take i))
  | none => none

def notesOf (c : Cluster) (p : Nat) : Nat := (c.notes.filter (fun n => n.press = p)).length

/-- R142: an operation waits while an earlier one writes what it uses, or reads what it writes. -/
def opWaits (o : PressOp) (before : List PressOp) : Bool :=
  before.any (fun e => anyMeet e.writes (o.reads ++ o.writes) || anyMeet e.reads o.writes)

/-- The operation at one place of the queue changes. -/
def setOp (s : State) (cl k : Nat) (o : PressOp) : State := modClu s cl (fun c => { c with queue := c.queue.set k o })

/-- Whether the first operation of a press may start: it is not running, the press runs no shim load and has fewer than 4
notes waiting, and the scoreboard lets it (R140, R142, R149). -/
def mayStart (c : Cluster) (press : Nat) (o : PressOp) (before : List PressOp) : Bool :=
  !o.running && decide (notesOf c press < 4) && !bit c.shim.toNat press && !opWaits o before

/-- The operation runs: its results are formed, or it meets poison and ends the task without a write (R130, R136). Its words are read
now and written when it retires; what another writer changes in between it has read as old, and its own writes come last (DESIGN
CHOICE, log entry 114: R151 leaves both open). -/
def startOp (s : State) (cl k : Nat) (o : PressOp) : State :=
  settle (runRecord cl o.record) s (fun res t => match res with
    | .ok (stores, nan) => setOp t cl k { o with running := true, stores := stores, nan := nan }
    | .error st => endJigTask (startShim (modClu t cl (fun c => { c with queue := c.queue.eraseIdx k })) cl o.press) cl st)

def execPressOpStart (cl press : Nat) (env : Env) (s : State) : Host.Outcome State Fault Refusal :=
  let s := applyEnv env s
  .next (match headOp (clu s cl).queue press with
    | some (o, before) => if mayStart (clu s cl) press o before then startOp s cl before.length o else s
    | none => s)

/-- Stores of a retiring operation into the scratchpad of its cluster. -/
def padStores (s : State) (cl : Nat) (l : List (Nat × List Byte)) : State :=
  (runAct (eachAct (fun x => storeSpad cl x.1 x.2) l) s).2

/-- The completion note of R149. -/
def noteWord (o : PressOp) : Word :=
  BitVec.ofNat 64 (0x8000000000000000 + b2n o.nan * 3 * 2 ^ 32 + o.press * 65536 + Rec.tag o.record)

def deliverNote (s : State) (cl : Nat) (n : Note) : State := modDrawer s cl n.drawer (fun d => pushWord 2 d n.word)

/-- Whether a note of this press waits for this drawer. -/
def noteWaits (c : Cluster) (press k : Nat) : Bool := c.notes.any (fun n => decide (n.press = press) && decide (n.drawer = k))

/-- A note goes into its drawer, waits for room in it behind the press's earlier notes for it, or is discarded in PACKET mode (R149). -/
def makeNote (s : State) (cl : Nat) (o : PressOp) : State :=
  if !Rec.noteEn o.record then s
  else
    let n : Note := { press := o.press, drawer := Rec.noteDrawer o.record, word := noteWord o }
    let d := drawer s cl n.drawer
    if d.packet then modClu s cl (fun c => { c with notesDropped := satInc c.notesDropped 1 })
    else if !noteWaits (clu s cl) o.press n.drawer && decide (d.words.length < 1024) then deliverNote s cl n
    else modClu s cl (fun c => { c with notes := c.notes ++ [n] })

/-- The last write of a running operation is made: its entries free and its note is made (R141, R149). -/
def retireOp (s : State) (cl : Nat) (o : PressOp) : State :=
  let s := padStores s cl o.stores
  let s := modClu s cl (fun c => { c with queue := c.queue.erase o, retired := c.retired + 1 })
  startShim (makeNote s cl o) cl o.press

def execPressOpRetire (cl press : Nat) (s : State) : Host.Outcome State Fault Refusal :=
  .next (match headOp (clu s cl).queue press with
    | some (o, _) => if o.running then retireOp s cl o else s
    | none => s)

/-- The oldest waiting note of a press whose drawer has room: a note waits for its own drawer only (R149). -/
def firstNote (c : Cluster) (p : Nat) : Option Note :=
  c.notes.find? (fun n => decide (n.press = p) && decide ((tget {} c.drawers n.drawer).words.length < 1024))

def execNotePush (cl press : Nat) (s : State) : Host.Outcome State Fault Refusal :=
  .next (match firstNote (clu s cl) press with
    | some n => deliverNote (modClu s cl (fun c => { c with notes := c.notes.erase n })) cl n
    | none => s)

/-- R140: shim load on a press with a queued operation stops. -/
def execShimLoadStop (cl press : Nat) (s : State) : Host.Outcome State Fault Refusal :=
  .next (if 0 < pressLoad (clu s cl) press then
      modClu s cl (fun c => { c with shim := c.shim &&& ~~~(1#4 <<< press) })
    else s)

/-- A store cut at every `k` bytes, each piece under the tile of its place: tile `t`, then `t + 1`, and so on. -/
def tileCut (k t : Nat) (x : Nat × List Byte) : List (Nat × Nat × List Byte) :=
  (List.range ((x.2.length + k - 1) / k)).map (fun c => (t + c, x.1 + c * k, (x.2.drop (c * k)).take k))

/-- A row of READOUT by 64 × 64 tiles; a panel belongs to the tile of its last value. -/
def readoutTiles (r : List Byte) (i : Nat) (x : Nat × List Byte) : List (Nat × Nat × List Byte) :=
  let row := i / 64 * (Rec.n r / 64)
  match fmtD (Rec.fmtO r) with
  | .scalar f => tileCut (8 * f.width) row x
  | .panel _ => (tileCut 64 0 x).map (fun e => (row + Nat.min ((60 * e.1 + 59) / 64) (Rec.n r / 64 - 1), e.2))

/-- A store of ATTN_BLOCK: a tile of the score area is 64 keys of all the query rows, of O and OUT it is 64 columns. -/
def attnTiles (r : List Byte) (x : Nat × List Byte) : List (Nat × Nat × List Byte) :=
  if Rec.stat r ≤ x.1 ∧ x.1 < Rec.stat r + 512 then [(0, x)]
  else if Rec.score r ≤ x.1 ∧ x.1 < Rec.score r + 256 * Rec.nk r then tileCut 256 100 x
  else if Rec.o r ≤ x.1 ∧ x.1 < Rec.o r + 256 * Rec.d r then tileCut 256 200 x
  else tileCut (x.2.length * 64 / Rec.d r) 300 x

/-- One store of a running operation, the `k`th of its list, by the tiles that it belongs to. -/
def storeTiles (r : List Byte) (k : Nat) (x : Nat × List Byte) : List (Nat × Nat × List Byte) :=
  match Rec.opcode r with
  | 3 => readoutTiles r k x
  | 8 => attnTiles r x
  | _ => [(k / 64, x)]

/-- R151: a running operation stops at a 64 × 64 tile boundary. Which tiles have been written is left open. -/
def cutOp (s : State) (cl : Nat) (o : PressOp) : State :=
  let n := s.freeCtr
  let s := { s with freeCtr := n + 1 }
  let tiles := o.stores.zipIdx.flatMap (fun e => storeTiles o.record e.2 e.1)
  let kept := (tiles.filter (fun e => Config.freeAt n e.1 % 2 = 1)).map Prod.snd
  let s := modClu (padStores s cl kept) cl (fun c => { c with queue := c.queue.erase o })
  startShim s cl o.press

end Sys2Proof.Machine
end

