-- ==== Sys2Proof/Machine/Layout.lean ====
section
/-! DEFINITION. The layout engines (spec/07): call and tensor descriptors (R185, R186), where elements lie (R187 to R189), checks
(R192, R194, R438), what a call computes (R190 to R203), and chains (R183, R184). -/

namespace Sys2Proof.Machine
open Sys2Proof

/-! ## Descriptors -/

/-- A tensor descriptor (Table 7-3). -/
structure Tens where
  base : Nat := 0
  fmt : Nat := 0
  space : Nat := 0
  hint : Nat := 0
  ndim : Nat := 0
  shardDim : Nat := 0
  first : Nat := 0
  count : Nat := 0
  word : Nat := 0
  strides : List Int := []
  extents : List Nat := []
  clean : Bool := true
  deriving DecidableEq, Repr, Inhabited

def parseTens (b : List Byte) : Tens := {
  base := at_ b 0 8, fmt := fld (at_ b 8 1) 7 4, space := fld (at_ b 8 1) 3 2, hint := at_ b 8 1 % 4,
  ndim := fld (at_ b 9 1) 7 5, shardDim := fld (at_ b 9 1) 4 2, first := at_ b 10 1 % 32, count := at_ b 11 1 % 32,
  word := at_ b 12 4,
  strides := (List.range 6).map (fun k => Scalar.decodeInt 48 (at_ b (16 + 8 * k) 8)),
  extents := (List.range 6).map (fun k => at_ b (64 + 4 * k) 4 % 2 ^ 24),
  clean := decide (at_ b 9 1 % 4 = 0 ∧ at_ b 10 1 < 32 ∧ at_ b 11 1 < 32 ∧ at_ b 88 8 = 0) &&
    (List.range 6).all (fun k => decide (at_ b (16 + 8 * k) 8 < 2 ^ 48) && decide (at_ b (64 + 4 * k) 4 < 2 ^ 24)) }

/-- A call header with its tensors (Table 7-2). -/
structure Call where
  op : Nat := 0
  acc : Bool := false
  ordered : Bool := false
  aliasOk : Bool := false
  drop : Bool := false
  gdim : Nat := 0
  pack : Nat := 0
  kind : Nat := 0
  fill : Nat := 0
  next : Nat := 0
  src : Tens := {}
  dst : Tens := {}
  idx : Tens := {}
  blankSrc : Bool := false
  blankIdx : Bool := false
  clean : Bool := true
  deriving DecidableEq, Repr, Inhabited

def allZero (b : List Byte) : Bool := b.all (fun x => decide (x = 0))

def parseCall (b : List Byte) : Call := {
  op := at_ b 0 1, acc := bit (at_ b 1 1) 7, ordered := bit (at_ b 1 1) 6, aliasOk := bit (at_ b 1 1) 5,
  drop := bit (at_ b 1 1) 4, gdim := fld (at_ b 2 1) 7 5, pack := fld (at_ b 2 1) 4 3, kind := at_ b 2 1 % 8,
  fill := at_ b 4 4, next := at_ b 8 8 % 2 ^ 46,
  src := parseTens ((b.drop 32).take 96), dst := parseTens ((b.drop 128).take 96), idx := parseTens ((b.drop 224).take 96),
  blankSrc := allZero ((b.drop 32).take 96), blankIdx := allZero ((b.drop 224).take 96),
  clean := decide (at_ b 1 1 % 16 = 0 ∧ at_ b 3 1 = 0 ∧ at_ b 8 8 < 2 ^ 46 ∧ at_ b 16 16 = 0) }

-- OP codes (Table 7-4).
namespace Lop
def copy : Nat := 1
def transpose : Nat := 2
def gather : Nat := 3
def scatter : Nat := 4
def fill : Nat := 5
def mxImport : Nat := 6
end Lop

/-! ## MX sources (Tables 2-9 and 7-6) -/

/-- Element type of an MX source. -/
def mxElem : Nat → Scalar
  | 0 => .e4m3
  | 1 => .e5m2
  | 2 => .e3m2
  | 3 => .e2m3
  | 4 => .e2m1
  | _ => .int8

/-- Format code of its target. -/
def mxTarget : Nat → Nat
  | 0 => 0x8
  | 1 => 0x8
  | 2 => 0xA
  | 3 => 0xA
  | 4 => 0xC
  | _ => 0x9

/-- Whether the element type is kept. -/
def mxKept (kind : Nat) : Bool := decide (kind ≠ 1 ∧ kind ≠ 3)

/-! ## Where elements lie -/

/-- How a tensor is laid out: whole rows along dimension 0 (panels, MX sources) or single elements, the bytes of one of
these, and the strides in bytes. -/
structure View where
  rowed : Bool := false
  size : Nat := 1
  strides : List Int := []
  deriving DecidableEq, Repr, Inhabited

def viewOf (t : Tens) : View :=
  match fmtOf t.fmt with
  | some (.panel e) => {
      rowed := true, size := rowBytes (.panel e) (t.extents.getD 0 0), strides := t.strides.map (64 * ·) }
  | some (.scalar e) => { rowed := false, size := e.width / 8, strides := t.strides }
  | none => {}

/-- The view of an MX source: a bit string for each row (R203). -/
def mxView (t : Tens) (kind : Nat) : View := {
  rowed := true, size := ((mxElem kind).width * t.extents.getD 0 0 + 7) / 8, strides := t.strides }

def srcView (c : Call) : View := if c.op = Lop.mxImport then mxView c.src c.kind else viewOf c.src

/-- The stacks that a mask names. -/
def maskStacks (m : Nat) : List Nat := (List.range 24).filter (bit m)

/-- Extents as R190 compares them: a BROADCAST source or index tensor has its stacks as one more outermost dimension. -/
def shapeOf (t : Tens) (source : Bool) : List Nat :=
  t.extents.take t.ndim ++ (if source && decide (t.space = 1) then [(maskStacks t.word).length] else [])

/-- Every index of some extents, dimension 0 fastest. -/
def allIx : List Nat → List (List Nat)
  | [] => [[]]
  | e :: es => (allIx es).flatMap (fun r => (List.range e).map (· :: r))

/-- Σ i × stride. -/
def dotIx (st : List Int) (ix : List Nat) : Int := (st.zip ix).foldl (fun a p => a + p.1 * p.2) 0

/-- Channel number within the tensor's stacks and index within the channel (R189). -/
def shardPos (t : Tens) (i : Nat) : Nat × Nat :=
  if t.word = 0 then (i % (64 * t.count), i / (64 * t.count)) else (i / t.word, i % t.word)

/-- The key of a buffer byte: keys below 2^46 are local addresses. -/
def bufKey (i off : Nat) : Nat := 2 ^ 46 + bufAddr i off

/-- The keys of an element or a row (R187 to R189): one, or one for each buffer of a BROADCAST destination. -/
def keysOf (s : State) (t : Tens) (v : View) (source : Bool) (ix : List Nat) : List Nat :=
  match t.space with
  | 0 => [((t.base : Int) + dotIx v.strides (ix.take t.ndim)).toNat]
  | 1 =>
    let off := ((t.base : Int) + dotIx v.strides (ix.take t.ndim)).toNat
    if source then [bufKey ((maskStacks t.word).getD (ix.getD t.ndim 0) 0) off] else (maskStacks t.word).map (bufKey · off)
  | _ =>
    let p := shardPos t (ix.getD t.shardDim 0)
    let co := ((t.base : Int) + dotIx v.strides ((ix.take t.ndim).set t.shardDim p.2)).toNat
    [channelAddr s (t.first + p.1 / 64) (p.1 % 64) co]

def keyOf (s : State) (t : Tens) (v : View) (ix : List Nat) : Nat := (keysOf s t v true ix).headD 0

/-! ## Bounding ranges (R438) -/

/-- Lowest and highest offset from the base, the highest exclusive. -/
def spanOf (v : View) (ext : List Nat) : Int × Int :=
  let z := v.strides.zip ext
  (z.foldl (fun a p => if p.1 < 0 then a + p.1 * (p.2 - 1) else a) 0,
   z.foldl (fun a p => if 0 < p.1 then a + p.1 * (p.2 - 1) else a) (v.size : Int))

/-- Channels that a SHARDED tensor uses, and the largest jx + 1. -/
def shardUse (t : Tens) : Nat × Nat :=
  let x := t.extents.getD t.shardDim 0
  if t.word = 0 then (Nat.min x (64 * t.count), (x + 64 * t.count - 1) / (64 * t.count))
  else ((x + t.word - 1) / t.word, Nat.min t.word x)

/-- Extents as they count within one channel. -/
def localExt (t : Tens) : List Nat :=
  let e := t.extents.take t.ndim
  if t.space = 2 then e.set t.shardDim (shardUse t).2 else e

/-- Offsets that the tensor can occupy: from the base of the address, the buffer or the channel. -/
def offRange (t : Tens) (v : View) : Int × Int :=
  let p := spanOf v (localExt t)
  ((t.base : Int) + p.1, (t.base : Int) + p.2)

/-- Bounding ranges in keys: first byte and length. -/
def boundsOf (s : State) (t : Tens) (v : View) : List (Nat × Nat) :=
  let p := offRange t v
  let lo := p.1.toNat
  let n := (p.2 - p.1).toNat
  match t.space with
  | 0 => [(lo, n)]
  | 1 => (maskStacks t.word).map (fun i => (bufKey i lo, n))
  | _ => (List.range (shardUse t).1).map (fun u => (channelAddr s (t.first + u / 64) (u % 64) lo, n))

def crossing (xs ys : List (Nat × Nat)) : Bool := xs.any (fun x => overlapsAny ys x.1 x.2)

/-! ## Checks (Table 7-5) -/

/-- What R186 to R189 ask of one tensor. -/
def tensOk (s : State) (t : Tens) (v : View) (source : Bool) : Bool :=
  let p := offRange t v
  t.clean && decide (1 ≤ t.ndim ∧ t.ndim ≤ 6) && (t.extents.take t.ndim).all (fun e => decide (0 < e)) &&
    (t.extents.drop t.ndim).all (fun e => decide (e = 0)) && (t.strides.drop t.ndim).all (fun x => decide (x = 0)) &&
    (!v.rowed || decide (t.strides.getD 0 0 = 0)) &&
    (decide (t.fmt < 8 ∨ 15 ≤ t.fmt) || decide (t.base % 64 = 0)) &&
    (decide (t.space = 2) || decide (t.shardDim = 0 ∧ t.first = 0 ∧ t.count = 0)) &&
    (match t.space with
    | 0 => decide (t.base < 2 ^ 46 ∧ t.word = 0 ∧ 0 ≤ p.1) && decide (rowOf p.1.toNat ≠ 0) &&
        decide (rowOf p.1.toNat = rowOf (p.2 - 1).toNat)
    | 1 => decide (t.base < 2 ^ 21 ∧ t.word < 2 ^ 24 ∧ t.word ≠ 0 ∧ 0 ≤ p.1 ∧ p.2 ≤ 0x200000) &&
        (!source || decide (t.ndim ≤ 5))
    | 2 => decide (t.base < 2 ^ 30 ∧ t.shardDim < t.ndim ∧ 1 ≤ t.count ∧ t.first + t.count ≤ 24) &&
        (!v.rowed || decide (t.shardDim ≠ 0)) && decide ((shardUse t).1 ≤ 64 * t.count) &&
        decide (0 ≤ p.1 ∧ p.2 ≤ (channelBytes s : Int))
    | _ => false)

def swap01 : List Nat → List Nat
  | a :: b :: r => b :: a :: r
  | l => l

/-- Extents that correspond (R190, R203). -/
def shapesOk (c : Call) : Bool :=
  let a := shapeOf c.src true
  let d := shapeOf c.dst false
  let i := shapeOf c.idx true
  let n := i.foldl (· * ·) 1
  if c.op = Lop.copy then decide (a = d)
  else if c.op = Lop.transpose then decide (2 ≤ a.length ∧ d = swap01 a)
  else if c.op = Lop.gather then decide (c.gdim < c.src.ndim ∧ c.gdim < c.dst.ndim ∧ d = a.set c.gdim n)
  else if c.op = Lop.scatter then decide (c.gdim < c.src.ndim ∧ c.gdim < c.dst.ndim ∧ a = d.set c.gdim n)
  else if c.op = Lop.mxImport then decide (a = d ∧ i = a.set 0 ((a.headD 0 + 31) / 32))
  else true

/-- The formats and flags that check 3 asks for. -/
def fieldsOk (c : Call) : Bool :=
  let pan (t : Tens) : Bool := isPanelCode t.fmt
  let indexed := decide (c.op = Lop.gather ∨ c.op = Lop.scatter)
  let mx := decide (c.op = Lop.mxImport)
  c.clean && decide (1 ≤ c.op ∧ c.op ≤ 6 ∧ c.pack ≠ 3) && (if mx then decide (c.kind ≤ 5) else decide (c.kind = 0)) &&
    decide (c.src.fmt < 15 ∧ c.dst.fmt < 15 ∧ c.idx.fmt < 15) &&
    (decide (c.op ≠ Lop.fill) || c.blankSrc) && (indexed || mx || c.blankIdx) &&
    (!c.acc || [0, 1, 2, 5, 6, 7].contains c.dst.fmt) &&
    (!(c.acc || c.ordered) || !(decide (c.op = Lop.gather ∨ c.op = Lop.transpose) || mx)) &&
    (if indexed then decide (c.idx.fmt = 7 ∧ c.idx.space ≠ 2) && (decide (c.gdim ≠ 0) || (!pan c.src && !pan c.dst))
     else decide (c.gdim = 0)) &&
    (decide (c.op ≠ Lop.transpose) || !(pan c.src && pan c.dst)) &&
    (!mx || decide (c.src.fmt = 0 ∧ c.idx.fmt = 5 ∧ c.dst.fmt = mxTarget c.kind))

/-- Several buffers against a SHARDED tensor (check 3). -/
def multiBuf (t : Tens) : Bool := decide (t.space = 1) && decide (1 < (maskStacks t.word).length)

def usesSrc (c : Call) : Bool := decide (c.op ≠ Lop.fill)
def usesIdx (c : Call) : Bool := decide (c.op = Lop.gather ∨ c.op = Lop.scatter ∨ c.op = Lop.mxImport)

/-- Check 3 of Table 7-5. -/
def check3 (s : State) (c : Call) : Bool :=
  fieldsOk c && tensOk s c.dst (viewOf c.dst) false && (!usesSrc c || tensOk s c.src (srcView c) true) &&
    (!usesIdx c || tensOk s c.idx (viewOf c.idx) true) && shapesOk c &&
    !(decide (c.src.space = 2) && multiBuf c.dst) && !(decide (c.dst.space = 2) && multiBuf c.src) &&
    (let d := boundsOf s c.dst (viewOf c.dst)
     !(usesSrc c && crossing d (boundsOf s c.src (srcView c))) && !(usesIdx c && crossing d (boundsOf s c.idx (viewOf c.idx))))

/-- The tensors that a call uses, with their views and whether they are written. -/
def tensors (c : Call) : List (Tens × View × Bool) :=
  (if usesSrc c then [(c.src, srcView c, false)] else []) ++ (if usesIdx c then [(c.idx, viewOf c.idx, false)] else []) ++
    [(c.dst, viewOf c.dst, true)]

/-- The stacks that a tensor names (check 4). -/
def namedStacks (t : Tens) : List Nat :=
  match t.space with
  | 1 => maskStacks t.word
  | 2 => upFrom t.first t.count
  | _ => []

def windowsOk (s : State) (q : Nat) (x : Tens × View × Bool) : Bool :=
  (namedStacks x.1).all (ownsStack s q) &&
    (decide (x.1.space = 1) || (boundsOf s x.1 x.2.1).all (fun r => decide (rowOf r.1 ≠ 3) && inWindows s q x.2.2 r.1 r.2))

/-- Whether a range touches something that is not there (check 5). -/
def rangeGone (s : State) (a n : Nat) : Bool :=
  match placeOf a with
  | .stack _ _ => rangeAbsent s a n
  | .spad _ _ => (cut 0x400000 a n).any (fun p => match placeOf p.1 with
    | .spad k _ => !clusterPresent s k
    | _ => false)
  | _ => false

/-- Whether a range of a SHARDED tensor lies in a mapped-out channel, in whatever mode its stack is. -/
def channelGone (s : State) (a : Nat) : Bool :=
  match placeOf a with
  | .stack i o => bit (stk s i).chAbsent.toNat (o / channelBytes s)
  | _ => false

def tensGone (s : State) (x : Tens × View × Bool) : Bool :=
  (namedStacks x.1).any (fun i => !stackPresent s i) ||
    (decide (x.1.space ≠ 1) && (boundsOf s x.1 x.2.1).any (fun r =>
      rangeGone s r.1 r.2 || (decide (x.1.space = 2) && channelGone s r.1)))

/-- R194, on the destination as it lies in one address space, buffer or channel. -/
def aliasing (t : Tens) (v : View) : Bool :=
  let dims := ((v.strides.zip (localExt t)).drop (b2n v.rowed)).filter (fun p => decide (1 < p.2))
  let sorted := (dims.foldl (fun acc p => insertBy p.1.natAbs p acc) []).map Prod.snd
  (sorted.foldl (fun (a : Bool × Nat) p => (a.1 || decide (p.1.natAbs < a.2), a.2 + p.1.natAbs * (p.2 - 1))) (false, v.size)).1

/-- Whether a range touches a granule with role COPY, in any stack that it reaches (check 8). -/
def touchesCopy (s : State) (r : Nat × Nat) : Bool :=
  (List.range 24).any (fun i => (stk s i).granules.any (fun e =>
    decide (e.2.role = 2) && overlapsAny [r] (stackBase i + e.1 * 2097152) 2097152))

/-- Checks 3 to 9 of Table 7-5 in order: the status of the first that fails, or OK. `outs`: declared output ranges (with the
cluster's scratchpad for an LCALL). -/
def callStatus (s : State) (q : Nat) (outs : List (Nat × Nat)) (c : Call) : Status :=
  let d := boundsOf s c.dst (viewOf c.dst)
  if !check3 s c then Code.descriptorInvalid
  else if !(tensors c).all (windowsOk s q) then Code.windowFault
  else if (tensors c).any (tensGone s) then Code.unitAbsent
  else if (tensors c).any (fun x => decide (x.1.space = 2) && (namedStacks x.1).any (fun i => !(stk s i).sharded)) then
    Code.stateConflict
  else if c.dst.space ≠ 1 && !d.all (fun r => inRanges outs r.1 r.2) then Code.windowFault
  else if c.dst.space ≠ 1 && d.any (touchesCopy s) then Code.mirrorCopyWrite
  else if !c.aliasOk && !c.acc && aliasing c.dst (viewOf c.dst) then Code.strideAlias
  else 0

/-! ## Reading elements -/

/-- Bytes at a key. -/
def loadKey (r hint k n : Nat) : Act (List Byte) :=
  if k < 2 ^ 46 then viaLoad r hint k n
  else do
    let s ← get
    needReady (bothWays s (r / 8) (bufDie (k - 2 ^ 46)))
    loadBuf (k - 2 ^ 46) n

/-- One element: a scalar, or its panel decoded (R35). -/
def loadElem (r hint : Nat) (t : Tens) (v : View) (ix : List Nat) : Act Num := do
  let s ← get
  let k := keyOf s t v ix
  match fmtOf t.fmt with
  | some (.panel e) => do
    let i := ix.headD 0
    let p ← loadKey r hint (k + i / perPanel e * 64) 64
    pure (panelValue e p (i % perPanel e))
  | some (.scalar e) => do
    let b ← loadKey r hint k v.size
    pure (e.decode (leNat b))
  | none => pure .nan

/-- A row of `n` elements from an index whose dimension `dim` counts upwards. -/
def loadRow (r hint : Nat) (t : Tens) (v : View) (dim n : Nat) (ix : List Nat) : Act (List Num) := do
  if v.rowed && decide (dim = 0) then do
    let s ← get
    let b ← loadKey r hint (keyOf s t v ix) v.size
    pure (rowValues (fmtD t.fmt) b n)
  else mapAct (fun j => loadElem r hint t v (ix.set dim (ix.getD dim 0 + j))) (List.range n)

/-- The indices of a GATHER or SCATTER (R197). -/
def loadIndices (r : Nat) (t : Tens) : Act (List Int) := do
  let v := viewOf t
  let xs ← mapAct (loadElem r t.hint t v) (allIx (shapeOf t true))
  pure (xs.map Num.toInt)

/-- R199, R200: an index as used, none where its slice is dropped. -/
def clampIndex (E : Nat) (drop : Bool) (i : Int) : Option Nat :=
  if 0 ≤ i ∧ i < (E : Int) then some i.toNat else if drop then none else if i < 0 then some 0 else some (E - 1)

/-! ## Packing (R201, R202) -/

/-- BF16 of n / d × 2^e; beyond the largest finite value it is that value. -/
def bf16Capped (neg : Bool) (n d : Nat) (e : Int) : Nat :=
  let c := narrowRat .bf16 neg n d e
  if c % 32768 = 0x7F80 then c - 1 else c

def finite : Num → Bool
  | .fin _ _ _ => true
  | _ => false

/-- A finite value divided by a whole number, in BF16. -/
def bf16Over (x : Num) (d : Nat) : Nat :=
  match x with
  | .fin n m e => bf16Capped n m d e
  | _ => 0

/-- Codes of the scale and the bias of a panel's header (R201). -/
def headerFor (pack : Nat) (t : Scalar) (xs : List Num) : Nat × Nat :=
  let fs := xs.filter finite
  if fs.all Num.isZero then (0, 0)
  else
    let hi := fs.foldl (fun a x => if Num.ltSigned a x then x else a) (fs.headD Num.zero)
    let lo := fs.foldl (fun a x => if Num.ltSigned x a then x else a) (fs.headD Num.zero)
    match pack with
    | 0 => (narrow .bf16 (.fin false 1 (clampPow2 (pow2Panel t xs))), 0)
    | 1 => (bf16Over (fs.foldl (fun a x => if Num.lt a x.abs then x.abs else a) Num.zero) (maxFinite t), 0)
    | _ => (bf16Over (Num.sub hi lo) (2 * maxFinite t), bf16Over (Num.add hi lo) 2)

/-- A panel under a header, and how many NaNs it zeroed (R39). -/
def packUnder (t : Scalar) (h : Nat × Nat) (xs : List Num) : List Byte × Nat :=
  let cs := xs.map (elementCode t (Scalar.bf16.decode h.1) (Scalar.bf16.decode h.2))
  (packPanel t h.1 h.2 (cs.map Prod.fst), (cs.filter Prod.snd).length)

/-- A row cut into groups of `n`; `fuel` bounds the groups. -/
def chunks {α : Type} (n : Nat) : Nat → List α → List (List α)
  | 0, _ => []
  | _ + 1, [] => []
  | fuel + 1, xs => xs.take n :: chunks n fuel (xs.drop n)

/-- A written row: its panels, NaNs zeroed, panels under the power-of-two rule, zero panels with them (DESIGN CHOICE,
log entry 113). -/
def packRow (pack : Nat) (t : Scalar) (xs : List Num) : List (List Byte) × Nat × Nat :=
  let ps := (chunks (perPanel t) (xs.length + 1) xs).map (fun c => packUnder t (headerFor pack t c) c)
  (ps.map Prod.fst, (ps.map Prod.snd).foldl (· + ·) 0, if pack = 0 then ps.length else 0)

/-! ## MX import (R51 to R53, R203) -/

/-- Code `i` of a bit string of elements of `w` bits. -/
def bitsCode (w : Nat) (bits i : Nat) : Nat := fld bits (w * (i + 1) - 1) (w * i)

/-- The value of an MX element under a scale code. -/
def mxValue (kind scale code : Nat) : Num :=
  if scale = 0xFF then .nan
  else Num.mul ((mxElem kind).decode code) (.fin false 1 ((scale : Int) - 127 - (if kind = 5 then 6 else 0)))

/-- One panel of an import: elements from index `lo`, their scales; and whether the power-of-two rule was used. -/
def mxPanel (kind : Nat) (codes scales : List Nat) : List Byte × Nat × Nat :=
  let t := match fmtD (mxTarget kind) with
    | .panel t => t
    | .scalar t => t
  let e := scales.headD 0
  if mxKept kind && decide (e ≠ 0xFF) && scales.all (fun x => decide (x = e)) then
    let a := narrow .bf16 (.fin false 1 ((e : Int) - (if kind = 5 then 133 else 127)))
    (packPanel t a 0 codes, 0, 0)
  else
    let xs := (codes.zip scales).map (fun p => mxValue kind p.2 p.1)
    if xs.all Num.isZero then (zeros 64, 0, 1)
    else
      let p := packUnder t (narrow .bf16 (.fin false 1 (clampPow2 (pow2Panel t xs))), 0) xs
      (p.1, p.2, 1)

/-- A row of an import. -/
def mxRow (r : Nat) (c : Call) (ix : List Nat) : Act (List (List Byte) × Nat × Nat) := do
  let s ← get
  let n := c.src.extents.getD 0 0
  let v := srcView c
  let b ← loadKey r c.src.hint (keyOf s c.src v ix) v.size
  let sc ← loadRow r c.idx.hint c.idx (viewOf c.idx) 0 ((n + 31) / 32) ix
  let w := (mxElem c.kind).width
  let bits := leNat b
  let codes := (List.range n).map (bitsCode w bits)
  let scales := (List.range n).map (fun i => ((sc.getD (i / 32) Num.zero).toInt % 256).toNat)
  let per := match fmtD (mxTarget c.kind) with
    | .panel t => perPanel t
    | .scalar _ => 1
  let ps := ((chunks per (n + 1) codes).zip (chunks per (n + 1) scales)).map (fun p => mxPanel c.kind p.1 p.2)
  pure (ps.map Prod.fst, (ps.map (fun p => p.2.1)).foldl (· + ·) 0, (ps.map (fun p => p.2.2)).foldl (· + ·) 0)

/-! ## What a call computes -/

/-- A stretch of `n` destination elements along dimension 0, and the source elements along dimension `dim` that they take. -/
structure Stretch where
  dst : List Nat := []
  src : List Nat := []
  dim : Nat := 0
  n : Nat := 1
  deriving DecidableEq, Repr, Inhabited

/-- The indices of the starts of rows. -/
def rowStarts (ext : List Nat) : List (List Nat) := allIx (1 :: ext.drop 1)

/-- A row of a TRANSPOSE cut where its passes end: 64 elements of a scalar destination row; a panel row is packed after the tile and
stays whole (R204). -/
def tilePieces (c : Call) (i : List Nat) (e : Nat) : List Stretch :=
  if isPanelCode c.dst.fmt then [{ dst := i, src := swap01 i, dim := 1, n := e }]
  else (cut 64 0 e).map (fun p =>
    let j := i.set 0 p.1
    { dst := j, src := swap01 j, dim := 1, n := p.2 })

/-- The stretches of a call in ascending source order (R190, R196). -/
def stretches (c : Call) (idx : List (Option Nat)) : List Stretch :=
  let d := shapeOf c.dst false
  let a := shapeOf c.src true
  let e := d.headD 1
  if c.op = Lop.transpose then (rowStarts d).flatMap (fun i => tilePieces c i e)
  else if c.op = Lop.gather then
    if c.gdim = 0 then (allIx d).map (fun i => { dst := i, src := i.set 0 ((idx.getD (i.getD 0 0) none).getD 0) })
    else (rowStarts d).map (fun i => { dst := i, src := i.set c.gdim ((idx.getD (i.getD c.gdim 0) none).getD 0), n := e })
  else if c.op = Lop.scatter then
    (if c.gdim = 0 then allIx a else rowStarts a).filterMap (fun i =>
      (idx.getD (i.getD c.gdim 0) none).map (fun j =>
        { dst := i.set c.gdim j, src := i, n := if c.gdim = 0 then 1 else a.headD 1 }))
  else (rowStarts d).map (fun i => { dst := i, src := i, n := e })

/-- FILL as a value (Table 7-2): what a scalar element receives is FILL converted to its format (Table 7-4, R41), and with ACC that
is the contribution (DEDUCED, log entry 38). -/
def fillValue (c : Call) : Num :=
  match fmtD c.dst.fmt with
  | .scalar t => t.decode (narrow t (if t.isInt then Scalar.int32.decode c.fill else v32 c.fill))
  | .panel t => if t.isInt then Scalar.int32.decode c.fill else v32 c.fill

/-- What a stretch gives: elements with their values, or whole panels, each with its key in every selected buffer (R188); NaNs zeroed
and power-of-two panels. -/
structure Given where
  elems : List (List Nat × Num) := []
  panels : List (List Nat × List Byte) := []
  nans : Nat := 0
  pow2 : Nat := 0
  deriving DecidableEq, Repr, Inhabited

/-- Whether rows pass panel by panel (R191). -/
def bitCopy (c : Call) : Bool :=
  isPanelCode c.dst.fmt && decide (c.src.fmt = c.dst.fmt) &&
    decide (c.op = Lop.copy ∨ c.op = Lop.gather ∨ c.op = Lop.scatter)

/-- Panels of one row at every key of the destination. -/
def atKeys (ks : List Nat) (ps : List (List Byte)) : List (List Nat × List Byte) :=
  ps.zipIdx.map (fun p => (ks.map (fun k => k + 64 * p.2), p.1))

/-- R198: a GATHER reads its source with hint KEEP. -/
def srcHint (c : Call) : Nat := if c.op = Lop.gather then 2 else c.src.hint

def stretchValues (r : Nat) (c : Call) (x : Stretch) : Act (List Num) :=
  if c.op = Lop.fill then pure (List.replicate x.n (fillValue c))
  else loadRow r (srcHint c) c.src (viewOf c.src) x.dim x.n x.src

def giveStretch (r : Nat) (c : Call) (x : Stretch) : Act Given := do
  let s ← get
  let v := viewOf c.dst
  if bitCopy c then do
    let b ← loadKey r (srcHint c) (keyOf s c.src (viewOf c.src) x.src) v.size
    let ps := chunks 64 (b.length + 1) b
    let ps := match fmtD c.dst.fmt with
      | .panel t => clearKerf t (c.dst.extents.getD 0 0) ps
      | .scalar _ => ps
    pure { panels := atKeys (keysOf s c.dst v false x.dst) ps }
  else if c.op = Lop.mxImport then do
    let p ← mxRow r c x.src
    pure { panels := atKeys (keysOf s c.dst v false x.dst) p.1, nans := p.2.1, pow2 := p.2.2 }
  else do
    let xs ← stretchValues r c x
    match fmtD c.dst.fmt with
    | .panel t =>
      let p := packRow c.pack t xs
      pure { panels := atKeys (keysOf s c.dst v false x.dst) p.1, nans := p.2.1, pow2 := p.2.2 }
    | .scalar _ =>
      pure { elems := xs.zipIdx.map (fun e => (keysOf s c.dst v false (x.dst.set 0 (x.dst.getD 0 0 + e.2)), e.1)) }

/-- Contributions added one after another; an element is read when its first one comes. Elements that overlap in part each add to the
bytes that memory held before the call (DESIGN CHOICE, log entry 116). -/
def addAll (r hint : Nat) (t : Scalar) (intSrc : Bool) : List (Nat × Num) → Tab (Option Nat) → Act (Tab (Option Nat))
  | [], m => pure m
  | (k, x) :: l, m => do
    let old ← match tget none m k with
      | some c => pure c
      | none => do
        let b ← loadKey r hint k (t.width / 8)
        pure (leNat b)
    addAll r hint t intSrc l (tset none m k (some (accumulate t intSrc old x)))

/-- Whether another write meets this one in part (R195). -/
def meetsPart (l : List (Nat × List Byte)) (x : Nat × List Byte) : Bool :=
  l.any (fun y => decide (y.1 ≠ x.1) && decide (y.1 < x.1 + x.2.length) && decide (x.1 < y.1 + y.2.length))

/-- Aliasing writes: in a free order, those that meet in part byte by byte (R195). -/
def aliasOrder (n : Nat) (l : List (Nat × List Byte)) : List (Nat × List Byte) :=
  freeOrder n (l.flatMap (fun x =>
    if meetsPart l x then x.2.zipIdx.map (fun b => (x.1 + b.2, [b.1])) else [x]))

/-- The same writes into every selected buffer, in the same order in each (R188). -/
def inBuffers {α β : Type} (l : List (List Nat × α)) (f : List (Nat × α) → List β) : List β :=
  (List.range (((l.map Prod.fst).headD []).length)).flatMap (fun j => f (l.map (fun e => (e.1.getD j 0, e.2))))

/-- The writes of a call from what its stretches give (R191, R195, R196). An accumulating call whose destination cannot
be read writes nothing (DESIGN CHOICE, log entry 113). -/
def callWrites (r : Nat) (c : Call) (gs : List Given) : Act (List (Nat × List Byte)) := do
  match fmtD c.dst.fmt with
  | .panel _ => do
    let l := gs.flatMap Given.panels
    if c.aliasOk then do
      let n ← takeFree
      pure (inBuffers l (aliasOrder n))
    else pure (inBuffers l id)
  | .scalar t => do
    let l := gs.flatMap Given.elems
    if c.acc then do
      let order ← if c.ordered || t.isInt then pure l else (do
        let n ← takeFree
        pure (freeOrder n l))
      let m ← addAll r c.dst.hint t (isIntFmt c.src.fmt) (inBuffers order id) []
      pure (m.map (fun e => (e.1, leBytes (t.width / 8) (e.2.getD 0))))
    else do
      let w := l.map (fun e => (e.1, scalarBytes t e.2))
      if c.aliasOk then do
        let n ← takeFree
        pure (inBuffers w (aliasOrder n))
      else pure (inBuffers w id)

/-- The outcome of a call once its reads are done: its status so far, the writes it will make, and its counts. -/
structure CallResult where
  status : Status := 0
  stores : List Store := []
  passes : List Nat := []
  clamps : Nat := 0
  nans : Nat := 0
  pow2 : Nat := 0
  deriving DecidableEq, Repr, Inhabited

def keyStore (e : Nat × List Byte) : Store := if e.1 < 2 ^ 46 then .dram e.1 e.2 else .bbuf (e.1 - 2 ^ 46) e.2

/-- Results that are there, and the first failure. -/
def splitResults {α : Type} (l : List (Except Status α)) : List α × Status :=
  (l.filterMap (fun x => match x with
    | .ok y => some y
    | .error _ => none),
   (l.filterMap (fun x => match x with
    | .ok _ => none
    | .error e => some e)).headD 0)

/-- The pass of the mitre tile that completes a stretch (R204): dimensions above 1 outermost, then blocks of destination dimension 1,
then blocks of dimension 0 (DESIGN CHOICE, log entry 96: the spec does not order the passes). -/
def passOf (c : Call) (x : Stretch) : Nat :=
  let d := shapeOf c.dst false
  let size := (match fmtD (if isPanelCode c.dst.fmt then c.src.fmt else c.dst.fmt) with
    | .scalar t => t.width / 8
    | .panel t => t.width / 8)
  let blocks (n k : Nat) : Nat := (n + k - 1) / k
  let high := ((x.dst.drop 2).zip (d.drop 2)).foldr (fun p acc => p.1 + p.2 * acc) 0
  let cols := 64 / Nat.max 1 size
  (high * blocks (d.getD 1 1) cols + x.dst.getD 1 0 / cols) * blocks (d.headD 1) 64 + (x.dst.headD 0 + x.n - 1) / 64

/-- The writes of the passes of a TRANSPOSE, one pass after another, and how many there are through the end of each. Where elements
may alias, which is written last is open (R195), and so is the order of the passes. -/
def passWrites (r : Nat) (c : Call) (l : List (Nat × Given)) : Act (List (Nat × List Byte) × List Nat) := do
  let order := (l.foldl (fun acc e => insertBy e.1 e acc) []).map Prod.snd
  let passes := (order.map Prod.fst).eraseDups
  let passes ← if c.aliasOk then (do
    let n ← takeFree
    pure (freeOrder n passes)) else pure passes
  let ws ← mapAct (fun p => do
    let w ← callWrites r c ((order.filter (fun e => decide (e.1 = p))).map Prod.snd)
    pure (joinWrites w)) passes
  pure (ws.flatten, (List.range ws.length).map (fun k => ((ws.take (k + 1)).map List.length).foldl (· + ·) 0))

/-- The stretches of a call, read and written: where a read fails no further write is issued (R207). -/
def runStretches (r : Nat) (c : Call) (xs : List Stretch) (clamps : Nat) : Act CallResult := do
  let l ← mapAct (fun x => attempt (giveStretch r c x)) xs
  let (gs, st) := splitResults l
  let nans := (gs.map Given.nans).foldl (· + ·) 0
  let pow2 := (gs.map Given.pow2).foldl (· + ·) 0
  if c.op = Lop.transpose && decide (st = 0) then do
    let w ← passWrites r c ((xs.map (passOf c)).zip gs)
    pure { stores := w.1.map keyStore, passes := w.2, clamps := clamps, nans := nans, pow2 := pow2 }
  else do
    let gs ← if st = 0 then pure gs else (do
      let n ← takeFree
      pure (freeSome n gs))
    let w ← attempt (callWrites r c gs)
    let (ws, st2) := match w with
      | .ok ws => (ws, st)
      | .error e => ([], if st = 0 then e else st)
    pure { status := st2, stores := (joinWrites ws).map keyStore, clamps := clamps,
           nans := (gs.map Given.nans).foldl (· + ·) 0, pow2 := (gs.map Given.pow2).foldl (· + ·) 0 }

/-- Whether two kept indices are equal (R194). -/
def repeated : List (Option Nat) → Bool
  | [] => false
  | none :: t => repeated t
  | some i :: t => t.contains (some i) || repeated t

/-- What a checked call does. A call refused for a repeated index counts nothing (DESIGN CHOICE, log entry 113). -/
def runCall (r : Nat) (c : Call) : Act CallResult := do
  if c.op = Lop.gather || c.op = Lop.scatter then do
    let E := if c.op = Lop.gather then c.src.extents.getD c.gdim 1 else c.dst.extents.getD c.gdim 1
    let raw ← attempt (loadIndices r c.idx)
    match raw with
    | .error e => pure { status := e }
    | .ok is =>
      let idx := is.map (clampIndex E (c.drop && decide (c.op = Lop.scatter)))
      let clamps := (is.filter (fun i => decide (i < 0 ∨ (E : Int) ≤ i))).length
      if c.op = Lop.scatter && !c.acc && !c.aliasOk && repeated idx then pure { status := Code.strideAlias }
      else runStretches r c (stretches c idx) clamps
  else runStretches r c (stretches c []) 0

/-! ## Swap copies (R277) -/

/-- What a swap copy writes for a piece that it has read: a row as a COPY of its elements would have it, NaNs canonical (R42) and the
kerf of panels zero (R37), and a position entry as it is (DEDUCED, log entry 39). -/
def swapBytes (k : KvSeq) (n : Nat) (b : List Byte) : List Byte :=
  if n = 8 then b
  else match fmtD k.fmt with
    | .panel t => (clearKerf t k.d (chunks 64 (b.length + 1) b)).flatten
    | .scalar t => (chunks (t.width / 8) (b.length + 1) b).flatMap (fun e => scalarBytes t (t.decode (leNat e)))

/-- The share of one engine in a swap copy. -/
def runSwap (r : Nat) (k : KvSeq) : Act CallResult := do
  let s ← get
  let out := decide (k.state = .swappingOut)
  let l ← mapAct (fun p => attempt (do
    let b ← if out then viaLoad r 1 p.1 p.2.2 else viaLoad r 1 p.2.1 p.2.2
    pure (if out then p.2.1 else p.1, swapBytes k p.2.2 b))) (swapPieces s k (r % 8))
  let (ws, st) := splitResults l
  pure { status := st, stores := ws.map (fun w => .dram w.1 w.2) }

/-! ## Chains (R183, R184) -/

/-- The partition for which a chain runs. -/
def chainPart (s : State) (c : Chain) : Nat :=
  match c.owner with
  | .swap q _ => q
  | _ => ((taskAt s c.task).map (fun x => x.part)).getD 0

/-- Where a chain may write (check 7). -/
def chainOuts (s : State) (c : Chain) : List (Nat × Nat) :=
  let outs := ((taskAt s c.task).map (fun x => localRanges s x.desc.outs)).getD []
  match c.owner with
  | .ticket cl _ _ => (spadBase cl, 0x400000) :: outs
  | _ => outs

/-- The first call of a chain that has not ended. -/
def setHead (s : State) (r : Nat) (c : Chain) : State :=
  modReg s r (fun x => { x with chains := c :: x.chains.drop 1 })

/-- Checks 1 and 2, the rest of Table 7-5, and the reads of one call (R192). A descriptor at an address no unit holds
gives UNIT_ABSENT with its read (DESIGN CHOICE, log entry 113). -/
def beginCall (r : Nat) (c : Chain) : Act (CallResult × Call) := do
  let s ← get
  let q := chainPart s c
  let d ← attempt (do
    testWindows q false c.addr 320
    viaLoad r 0 c.addr 320)
  match d with
  | .error e => pure ({ status := e }, {})
  | .ok b => do
    let call := parseCall b
    let s ← get
    let st := if c.addr % 64 ≠ 0 then Code.descriptorInvalid else callStatus s q (chainOuts s c) call
    if st ≠ 0 then pure ({ status := st }, {})
    else do
      let res ← runCall r call
      pure (res, call)

/-- The destination of a call, for the AWAIT of its ticket (R257). -/
def noteDest (s : State) (c : Chain) (call : Call) : State :=
  match c.owner with
  | .ticket cl j t =>
    if call.op = 0 || call.dst.space = 1 then s
    else match ticketAt s cl j t with
      | some x => setTicket s cl j t (some { x with dest := x.dest ++ boundsOf s call.dst (viewOf call.dst) })
      | none => s
  | _ => s

/-- The next call of the chain in front begins: its reads are made, its writes follow at its end. -/
def startCall (r : Nat) (c : Chain) : Act Unit := do
  edit (fun s => modReg s r (fun x => { x with mitreFail := none, mitreAgain := [] }))
  match c.owner with
  | .swap q n => do
    let s ← get
    needReady (!frontPaused s)
    let res ← runSwap r (tget {} (prt s q).seqs n)
    edit (fun s => setHead s r { c with busy := true, started := true, hint := 1, stores := res.stores, status := res.status })
  | _ =>
    let (res, call) ← beginCall r c
    edit (fun s => noteDest s c call)
    edit (fun s => setHead s r { c with
      busy := true, started := true, calls := c.calls + 1, next := call.next, transposing := decide (call.op = Lop.transpose),
      hint := call.dst.hint, stores := res.stores, passes := res.passes, status := res.status, clamps := c.clamps + res.clamps,
      nans := c.nans + res.nans, pow2 := c.pow2 + res.pow2 })

/-- The acquire of a layout task (R230, R254). -/
def chainAcquire (r : Nat) (c : Chain) : Act Unit := do
  let s ← get
  match c.owner with
  | .task t =>
    match taskAt s t with
    | some x => rcAcquire r (acquireRanges s x.desc.ins)
    | none => pure ()
  | _ => pure ()

/-- A chain begins to run, and with it a layout task starts (R230); its acquire may still have to wait (R255). -/
def startOwner (s : State) (r : Nat) (c : Chain) : State :=
  let s := setHead s r { c with started := true }
  match c.owner with
  | .task t => startOnce s t
  | _ => s

def execLayoutChainStart (region : Nat) (env : Env) (s : State) : Host.Outcome State Fault Refusal :=
  let s := applyEnv env s
  .next (match (reg s region).chains with
    | c :: _ =>
      if c.busy || inReset s Dom.region region then s
      else settleChain region c (do
        chainAcquire region c
        startCall region c) (startOwner s region c)
    | [] => s)

/-- The result word (Table 7-1). -/
def chainWord (c : Chain) : Word :=
  BitVec.ofNat 64 (Nat.min c.clamps (2 ^ 24 - 1) * 2 ^ 40 + Nat.min c.pow2 (2 ^ 24 - 1) * 65536 + Nat.min c.nans 65535)

/-- The status of a chain that has ended (R184). -/
def chainStatus (c : Chain) : Status :=
  if c.status ≠ 0 then c.status else qualify 0 (decide (0 < c.clamps)) (decide (0 < c.nans))

/-- An LCALL's chain has ended: its ticket finishes at once, or with the flushing reads that the chain's own host-window writes need
(R182, R249). -/
def endTicket (s : State) (c : Chain) (cl j t : Nat) : State :=
  let bad := lostHome s c.hostPorts
  let (out, s) := askHome s c.hostPorts
  match ticketAt s cl j t with
  | some x => setTicket s cl j t (some { x with
      finished := out.isEmpty, status := demote (chainStatus c) (firstFail c.relFail bad), result := chainWord c, flush := out })
  | none => s

/-- The last chain of a SWAP_OUT has ended: its writes count as made only after a flushing read of its port (R277). -/
def flushSwap (s : State) (q n : Nat) : State :=
  let k := tget {} (prt s q).seqs n
  if k.swapLeft = 0 ∧ k.state = .swappingOut ∧ k.swapStatus = 0 then
    let lost := portLost (port s (swapPort k))
    let (l, s) := sendFlushes s (if lost then [] else [swapPort k])
    modPrt s q (fun p => { p with seqs := tmod {} p.seqs n (fun k =>
      { k with swapFlush := l, swapStatus := if lost then Code.hostUnreachable else 0 }) })
  else s

/-- A chain leaves its engine: who submitted it hears of it. -/
def endChain (s : State) (r : Nat) (c : Chain) : State :=
  let s := admitChains 64 (modReg s r (fun x => { x with chains := x.chains.drop 1 })) r
  match c.owner with
  | .task t => endWork s t (chainStatus c) (chainWord c)
  | .ticket cl j t => endTicket s c cl j t
  | .swap q n => flushSwap (modPrt s q (fun p => { p with seqs := tmod {} p.seqs n (fun k =>
      { k with
        swapLeft := k.swapLeft - 1, swapStatus := if k.swapStatus = 0 then c.status else k.swapStatus,
        swapPoison := k.swapPoison || decide (c.status = Code.poisoned) }) })) q n

/-- One write of a call. -/
def makeStore (r hint : Nat) (who : Option Nat) : Store → Act Unit
  | .dram a bs => viaStore r hint who a bs
  | .bbuf a bs => do
    let s ← get
    needReady (pathUp s (r / 8) (bufDie a))
    storeBuf a bs
  | .breg _ _ => pure ()

/-- The writes of a call in order, up to one that fails. -/
def makeStores (r hint : Nat) (who : Option Nat) (l : List Store) : Act Status := do
  let x ← attempt (eachAct (makeStore r hint who) l)
  pure (match x with
    | .ok _ => 0
    | .error e => e)

/-- The task to which a chain's writes are charged. -/
def chainTask (c : Chain) : Option Nat :=
  match c.owner with
  | .swap _ _ => none
  | _ => some c.task

/-- The writes that stand where pass `p` of a TRANSPOSE has failed twice: those of the passes before it (R205). Where destinations
alias, what they are is open. -/
def earlierPasses (n p : Nat) (c : Chain) : List Store :=
  if c.passes.isEmpty then freeSome n c.stores
  else
    let p := Nat.min p (c.passes.length - 1)
    c.stores.take (if p = 0 then 0 else c.passes.getD (p - 1) 0)

/-- The writes of a running call: all of them; those of earlier passes where the mitre tile has failed twice (R205), and up to a
failing one in a free order (R207: which have been made is open). -/
def finishStores (r : Nat) (c : Chain) : Act Status := do
  let s ← get
  match (reg s r).mitreFail with
  | some p => do
    let n ← takeFree
    let _ ← makeStores r c.hint (chainTask c) (earlierPasses n p c)
    edit (fun s => modReg s r (fun x => { x with mitreFail := none, mitreAgain := [] }))
    pure (if c.status = 0 then Code.poisoned else c.status)
  | none =>
    match runAct (makeStores r c.hint (chainTask c) c.stores) s with
    | (.ok 0, t) => do
      set t
      pure c.status
    | (.ok _, _) => do
      let n ← takeFree
      let st ← makeStores r c.hint (chainTask c) (freeOrder n c.stores)
      pure (if c.status = 0 then st else c.status)
    | (.error e, _) => throw e

/-- An LCALL's chain that ends writes home what its region's cache holds for its task; what this used is the chain's own (R182, R249). -/
def releaseChain (r : Nat) (c : Chain) : Act Chain :=
  match c.owner with
  | .ticket _ _ _ => do
    let (_, c) ← watched c (rcRelease r c.task)
    pure c
  | _ => pure c

/-- The end of the running call: its writes are made, then the next call starts or the chain ends (R184). A NEXT that would lead to
a 65th call ends the chain. -/
def finishCall (r : Nat) (c : Chain) : Act Unit := do
  let (st, c) ← watched c (finishStores r c)
  edit (fun s => modReg s r (fun x => { x with calls := x.calls + 1 }))
  let tooMany := decide (st = 0 ∧ c.next ≠ 0 ∧ 64 ≤ c.calls)
  let c := { c with busy := false, stores := [], passes := [], status := if tooMany then Code.descriptorInvalid else st, addr := c.next }
  if c.status ≠ 0 || c.next = 0 then do
    let c ← releaseChain r c
    edit (fun s => endChain s r c)
  else startCall r c

def execLayoutCallEnd (region : Nat) (env : Env) (s : State) : Host.Outcome State Fault Refusal :=
  let s := applyEnv env s
  .next (match (reg s region).chains with
    | c :: _ => if c.busy then settleChain region c (finishCall region c) s else s
    | [] => s)

/-! ## The time limit (Table 7-8) -/

/-- Whether a chain belongs to a task: its own, or an LCALL of it. -/
def chainOf (t : Nat) (c : Chain) : Bool :=
  match c.owner with
  | .swap _ _ => false
  | _ => decide (c.task = t)

/-- A chain stops at the limit: of the running call a free part of the writes is made, the rest are not issued. -/
def limitChain (s : State) (r : Nat) (c : Chain) : State :=
  let s := leaveEngine s r c
  let s := modReg s r (fun x => { x with
    chains := x.chains.filter (fun y => decide (y ≠ c)), waiting := x.waiting.filter (fun y => decide (y ≠ c)) })
  let n := s.freeCtr
  let s := { s with freeCtr := n + 1 }
  let s0 := s
  let s := (freeSome n c.stores).foldl (fun s x => match runAct (makeStore r c.hint (chainTask c) x) s with
    | (.ok _, t) => t
    | (.error _, _) => s) (watchTask s c.task)
  let (s, ports, bad) := watchEnd s0 s c.task
  let c := { c with hostPorts := ports.foldl addPort c.hostPorts, relFail := firstFail c.relFail bad }
  let c := { c with status := if c.status = 0 then Code.runTimeout else c.status }
  let s := admitChains 64 s r
  match c.owner with
  | .task t => endWork s t Code.runTimeout (chainWord c)
  | .ticket cl j t => endTicket s { c with status := Code.runTimeout } cl j t
  | .swap _ _ => s

/-- Every chain of a task stops. -/
def limitChains (s : State) (t : Nat) : State :=
  (List.range 32).foldl (fun s r =>
    (((reg s r).chains ++ (reg s r).waiting).filter (chainOf t)).foldl (fun s c => limitChain s r c) s) s

end Sys2Proof.Machine
end

