-- ==== Sys2Proof/Machine/BenchOps.lean ====
section
/-! DEFINITION. Bench operations (spec/04): records (R109), what they read and write (R110, R437), the checks of one record
(check 6 of Table 4-3), and what each computes (R111 to R118, R285, R287 to R289). -/

namespace Sys2Proof.Machine
open Sys2Proof

/-! ## Records (Table 4-4, Table 4-7) -/

namespace Bop
def opcode (r : List Byte) : Nat := at_ r 0 1
def dst (r : List Byte) : Nat := fld (at_ r 1 1) 7 6
def acc (r : List Byte) : Bool := bit (at_ r 1 1) 5
def ordered (r : List Byte) : Bool := bit (at_ r 1 1) 4
def fn (r : List Byte) : Nat := at_ r 1 1 % 16
def fmtA (r : List Byte) : Nat := at_ r 2 1 / 16
def fmtB (r : List Byte) : Nat := at_ r 2 1 % 16
def fmtO (r : List Byte) : Nat := at_ r 3 1 / 16
def srcA (r : List Byte) : Nat := fld (at_ r 3 1) 3 2
def rows (r : List Byte) : Nat := at_ r 4 2
def batch (r : List Byte) : Nat := at_ r 6 2
def aOff (r : List Byte) : Nat := at_ r 8 4
def k (r : List Byte) : Nat := at_ r 12 4
def xOff (r : List Byte) : Nat := at_ r 16 4
def bOff (r : List Byte) : Nat := at_ r 20 4 % 2 ^ 21
def parts (r : List Byte) : Nat := fld (at_ r 20 4) 29 24 + 1
def oOff (r : List Byte) : Nat := at_ r 24 4
def imm (r : List Byte) : Nat := at_ r 28 4
/-- Extension record of ATTN (Table 4-7). -/
def causal (x : List Byte) : Bool := bit (at_ x 1 1) 7
def bias1d (x : List Byte) : Bool := bit (at_ x 1 1) 6
def biasLayout (x : List Byte) : Bool := bit (at_ x 1 1) 5
def heads (x : List Byte) : Nat := at_ x 2 1
def pageLog2 (x : List Byte) : Nat := at_ x 3 1
def len (x : List Byte) : Nat := at_ x 4 4
def qpos (x : List Byte) : Nat := at_ x 8 4
def headOff (x : List Byte) : Nat := at_ x 12 4
def biasOff (x : List Byte) : Nat := at_ x 16 4
def scale (x : List Byte) : Nat := at_ x 20 4
end Bop

-- Opcodes (Table 4-6).
namespace Bo
def move : Nat := 0x01
def gemv : Nat := 0x10
def attn : Nat := 0x14
def attnX : Nat := 0x15
def attnMerge : Nat := 0x16
def vadd : Nat := 0x20
def veneer : Nat := 0x21
def sumsq : Nat := 0x22
def rmsscale : Nat := 0x23
def gather : Nat := 0x30
def scatterAdd : Nat := 0x31
def append : Nat := 0x32
def topk : Nat := 0x40
def sample : Nat := 0x41
def treeSum : Nat := 0x50
end Bo

/-- Bytes rounded up to whole sectors. -/
def up64 (n : Nat) : Nat := 64 * ((n + 63) / 64)

/-- Whether a format is a panel. -/
def isPan (f : Nat) : Bool := isPanelCode f

/-- Formats that benches read and write (Table 2-1, R93, R437). -/
def benchIn (f : Nat) : Bool := decide (f < 15 ∧ f ≠ 3 ∧ f ≠ 4)
def benchOut (f : Nat) : Bool := [0, 1, 2, 5, 6, 7, 8, 9].contains f

/-- Bench operand pairs (Table 2-8): whether they accumulate in INT32. -/
def benchOrdered (a b : Nat) : Option Bool :=
  if a = 5 ∧ b = 5 then some true
  else if a = 6 ∧ (b = 6 ∨ b = 5) then some true
  else if (a = 1 ∨ a = 2) ∧ (b = 1 ∨ b = 2 ∨ b = 5 ∨ isPan b) then some false
  else none

def benchPair (a b : Nat) : Option Bool := (benchOrdered a b).orElse (fun _ => benchOrdered b a)

/-! ## Sizes -/

/-- Bytes of `n` values in a format. -/
def fmtBytes (f n : Nat) : Nat := rowBytes (fmtD f) n

/-- The row stride of A for GEMV and GATHER. -/
def aStride (r : List Byte) : Nat :=
  if Bop.opcode r = Bo.gemv && decide (Bop.xOff r = 0) then fmtBytes (Bop.fmtA r) (Bop.k r) else Bop.xOff r

/-- Bytes of operand A where `SRC_A` selects it. -/
def aBytes (r : List Byte) : Nat :=
  let op := Bop.opcode r
  if op = Bo.move ∨ op = Bo.vadd ∨ op = Bo.treeSum then Bop.rows r * fmtBytes (Bop.fmtA r) (Bop.k r)
  else if op = Bo.gemv ∨ op = Bo.gather then (Bop.rows r - 1) * aStride r + fmtBytes (Bop.fmtA r) (Bop.k r)
  else if op = Bo.veneer ∨ op = Bo.sumsq ∨ op = Bo.rmsscale then fmtBytes (Bop.fmtA r) (Bop.rows r * Bop.batch r)
  else if op = Bo.topk ∧ Bop.fn r = 0 then 4 * Bop.k r * Bop.batch r
  else 0

/-- Bytes of the second operand of VADD. -/
def zBytes (r : List Byte) : Nat := if Bop.opcode r = Bo.vadd then Bop.rows r * fmtBytes (Bop.fmtB r) (Bop.k r) else 0

/-- Bytes of a partial statistics record (R282). -/
def recordBytes (h d : Nat) : Nat := 8 * h + 4 * h * d

/-- Results in FMT_O of one bench: how many values. -/
def outCount (r x : List Byte) : Nat :=
  let op := Bop.opcode r
  if op = Bo.move ∨ op = Bo.vadd ∨ op = Bo.treeSum then Bop.rows r * Bop.k r
  else if op = Bo.gemv then (if Bop.fn r = 0 then Bop.rows r else Bop.rows r / 2) * Bop.batch r
  else if op = Bo.veneer ∨ op = Bo.rmsscale then Bop.rows r * Bop.batch r
  else if op = Bo.sumsq then Bop.batch r
  else if op = Bo.gather then Bop.batch r * Bop.k r
  else if op = Bo.attn then Bop.heads x * Bop.k r
  else Bop.rows r * Bop.k r

/-- Bytes of the result of one bench, or of the tree (R110, R437). -/
def outBytes (r x : List Byte) : Nat :=
  let op := Bop.opcode r
  if op = Bo.topk then 8 * Bop.rows r * Bop.batch r
  else if op = Bo.sample then 4 * Bop.batch r
  else if op = Bo.scatterAdd then Bop.rows r * fmtBytes (Bop.fmtA r) 1
  else if op = Bo.append then
    (if isPan (Bop.fmtA r) then 64 * ((Bop.xOff r % 65536 + Bop.k r + 59) / 60) else Bop.k r * fmtBytes (Bop.fmtA r) 1)
  else if op = Bo.attn ∧ Bop.dst r ≠ 3 then recordBytes (Bop.heads x) (Bop.k r)
  else if op = Bo.attnMerge ∧ Bop.fn r = 1 then recordBytes (Bop.rows r) (Bop.k r)
  else if op = Bo.move then Bop.rows r * fmtBytes (Bop.fmtO r) (Bop.k r)
  else if op = Bo.gather then Bop.batch r * fmtBytes (Bop.fmtO r) (Bop.k r)
  else fmtBytes (Bop.fmtO r) (outCount r x)

/-- Whether the operation's only data source is the broadcast buffer (R110). DESIGN CHOICE: the present element that ACC adds to
counts as no data source, so only the lowest enabled bench accumulates such a result (log entry 93). -/
def bufferOnly (r : List Byte) : Bool :=
  let op := Bop.opcode r
  if op = Bo.sample ∨ op = Bo.attnMerge ∨ (op = Bo.topk ∧ Bop.fn r = 1) then true
  else decide (Bop.srcA r = 2) && decide (op = Bo.move ∨ op = Bo.vadd ∨ op = Bo.sumsq ∨ op = Bo.gather ∨
    op = Bo.treeSum ∨ (op = Bo.rmsscale ∧ Bop.fn r = 0))

/-- The record's own destination, apart from SCATTER_ADD and APPEND, whose target is A. -/
def ownTarget (r : List Byte) : Bool := decide (Bop.opcode r ≠ Bo.scatterAdd ∧ Bop.opcode r ≠ Bo.append)

/-! ## Geometry of ATTN (R265 to R267, R281) -/

/-- Page rows that ATTN reads. -/
def attnPageRows (x : List Byte) : Nat := kvRows (Bop.len x) (2 ^ Bop.pageLog2 x)

/-- The page size of the region that starts at A_OFF: that of the sequence resident there. The record does not hold it, and
only a second page row needs it; without such a sequence it is a free value, the same for the same place (R48; log entry 27). -/
def attnPageBytes (s : State) (q i base : Nat) : Nat :=
  match (prt s q).seqs.find? (fun e => decide (e.2.state ≠ .free ∧ e.2.state ≠ .swapped ∧ e.2.home = i ∧ e.2.base = base)) with
  | some e => e.2.pageBytes
  | none => Config.pageBytesAt i base % 2 ^ 30

/-- Channel ranges of ATTN: K and V blocks and position blocks of each page row, and the bias tables. -/
def attnRanges (pb : Nat) (r x : List Byte) : List (Nat × Nat) :=
  let P := 2 ^ Bop.pageLog2 x
  let row := kvRow (Bop.fmtA r) (Bop.k r)
  (List.range (attnPageRows x)).flatMap (fun j =>
    (Bop.aOff r + j * pb + Bop.headOff x, 2 * P * row) ::
      (if Bop.biasLayout x then [(Bop.aOff r + j * pb, kvPblk true P)] else []))
  ++ (if Bop.bias1d x || Bop.biasLayout x then [(Bop.biasOff x, 4608 * Bop.heads x)] else [])

/-! ## Ranges -/

/-- Where operand A lies in a channel: in one piece, or row by row where a row stride leaves gaps between the rows. -/
def aSpans (r : List Byte) : List (Nat × Nat) :=
  let op := Bop.opcode r
  let row := fmtBytes (Bop.fmtA r) (Bop.k r)
  if decide (op = Bo.gemv ∨ op = Bo.gather) && decide (row < aStride r) then
    (List.range (Bop.rows r)).map (fun i => (Bop.aOff r + i * aStride r, row))
  else [(Bop.aOff r, aBytes r)]

/-- Channel ranges read: first offset and bytes. -/
def chanReads (pb : Nat) (r x : List Byte) : List (Nat × Nat) :=
  let op := Bop.opcode r
  (if op = Bo.attn then attnRanges pb r x else []) ++
  (if decide (Bop.srcA r = 0) && decide (0 < aBytes r) then aSpans r else []) ++
  (if decide (Bop.srcA r = 0) && decide (0 < zBytes r) then [(Bop.xOff r, zBytes r)] else []) ++
  (if op = Bo.rmsscale ∧ Bop.fn r = 1 then [(Bop.xOff r, fmtBytes (Bop.fmtB r) (Bop.rows r))] else []) ++
  (if op = Bo.scatterAdd ∨ (op = Bo.append ∧ isPan (Bop.fmtA r)) then [(Bop.aOff r, outBytes r x)] else []) ++
  (if Bop.acc r && decide (Bop.dst r = 0) then [(Bop.oOff r, outBytes r x)] else [])

/-- Channel ranges written. -/
def chanWrites (r x : List Byte) : List (Nat × Nat) :=
  if !ownTarget r then [(Bop.aOff r, outBytes r x)]
  else if Bop.dst r = 0 then [(Bop.oOff r, outBytes r x)] else []

/-- Buffer ranges used, relative to BB_BASE. `mask` enables benches. -/
def bufRanges (mask : Nat) (r x : List Byte) : List (Nat × Nat) :=
  let op := Bop.opcode r
  let b := Bop.bOff r
  let top := if bufferOnly r then 0 else Nat.log2 mask
  (if op = Bo.gemv then [(b, Bop.batch r * fmtBytes (Bop.fmtB r) (Bop.k r))] else []) ++
  (if op = Bo.veneer ∨ op = Bo.gather then [(b, 4 * Bop.batch r)] else []) ++
  (if op = Bo.rmsscale then [(b, 4 * Bop.parts r * Bop.batch r)] else []) ++
  (if op = Bo.scatterAdd then [(b, 8 * Bop.k r)] else []) ++
  (if op = Bo.append then [(b, fmtBytes (Bop.fmtB r) (Bop.k r))] else []) ++
  (if op = Bo.topk ∧ Bop.fn r = 1 then [(Bop.aOff r, 8 * Bop.k r * Bop.batch r)] else []) ++
  (if op = Bo.sample then [(b, 8 * Bop.rows r * Bop.batch r), (Bop.xOff r, 4 * Bop.batch r)] else []) ++
  (if op = Bo.attn then
    [(b, if Bop.biasLayout x then up64 (2 * Bop.heads x * Bop.k r) + 16 else 2 * Bop.heads x * Bop.k r)] else []) ++
  (if op = Bo.attnMerge then
    [(b, (Bop.parts r - 1) * up64 (recordBytes (Bop.rows r) (Bop.k r)) + recordBytes (Bop.rows r) (Bop.k r))] else []) ++
  (if decide (Bop.srcA r = 2) && decide (0 < aBytes r) then [(Bop.aOff r, aBytes r)] else []) ++
  (if decide (Bop.srcA r = 2) && decide (0 < zBytes r) then [(Bop.xOff r, zBytes r)] else []) ++
  (if ownTarget r && decide (Bop.dst r = 2) then [(Bop.oOff r, top * up64 (outBytes r x) + outBytes r x)] else []) ++
  (if Bop.dst r = 3 then [(Bop.oOff r, outBytes r x)] else [])

/-- Registers used: first and how many. -/
def regRanges (r x : List Byte) : List (Nat × Nat) :=
  let n (b : Nat) : Nat := (b + 127) / 128
  (if decide (Bop.srcA r = 1) && decide (0 < aBytes r) then [(Bop.aOff r, n (aBytes r))] else []) ++
  (if decide (Bop.srcA r = 1) && decide (0 < zBytes r) then [(Bop.xOff r, n (zBytes r))] else []) ++
  (if Bop.dst r = 1 then [(Bop.oOff r, n (outBytes r x))] else [])

/-! ## Check 6 of Table 4-3 for one record -/

/-- Destinations allowed (Table 4-6). -/
def dstAllowed (op : Nat) : List Nat :=
  if op = Bo.gemv then [0, 1, 2, 3]
  else if op = Bo.attn then [0, 2, 3]
  else if op = Bo.sumsq then [1, 3]
  else if op = Bo.scatterAdd ∨ op = Bo.append then [0]
  else if op = Bo.topk then [1, 2, 3]
  else if op = Bo.sample then [1, 2]
  else if op = Bo.treeSum then [3]
  else [0, 1, 2]

def knownOps : List Nat :=
  [Bo.move, Bo.gemv, Bo.attn, Bo.attnMerge, Bo.vadd, Bo.veneer, Bo.sumsq, Bo.rmsscale, Bo.gather, Bo.scatterAdd, Bo.append,
   Bo.topk, Bo.sample, Bo.treeSum]

def accOps : List Nat := [Bo.move, Bo.gemv, Bo.vadd, Bo.veneer, Bo.sumsq, Bo.rmsscale, Bo.gather]

/-- Largest FN of an opcode. -/
def fnMax (op : Nat) : Nat :=
  if op = Bo.gemv then 2
  else if op = Bo.rmsscale ∨ op = Bo.scatterAdd ∨ op = Bo.topk ∨ op = Bo.attnMerge then 1 else 0

/-- Whether an opcode uses a field. -/
def usesFmtA (op : Nat) : Bool := decide (op ≠ Bo.topk ∧ op ≠ Bo.sample ∧ op ≠ Bo.attnMerge)
def usesFmtB (r : List Byte) : Bool :=
  let op := Bop.opcode r
  decide (op = Bo.gemv ∨ op = Bo.attn ∨ op = Bo.vadd ∨ op = Bo.veneer ∨ op = Bo.scatterAdd ∨ op = Bo.append ∨
    (op = Bo.rmsscale ∧ Bop.fn r = 1))
/-- FMT_O: not for lists, indices and statistics records, nor where A's format is the target's. -/
def usesFmtO (r : List Byte) : Bool :=
  let op := Bop.opcode r
  decide (op ≠ Bo.topk ∧ op ≠ Bo.sample ∧ op ≠ Bo.scatterAdd ∧ op ≠ Bo.append) &&
    !(decide (op = Bo.attn) && decide (Bop.dst r ≠ 3)) && !(decide (op = Bo.attnMerge) && decide (Bop.fn r = 1))
def usesX (r : List Byte) : Bool :=
  let op := Bop.opcode r
  decide (op = Bo.gemv ∨ op = Bo.vadd ∨ (op = Bo.rmsscale ∧ Bop.fn r = 1) ∨ op = Bo.gather ∨ op = Bo.append ∨ op = Bo.sample)
def usesB (op : Nat) : Bool :=
  decide (op ≠ Bo.move ∧ op ≠ Bo.vadd ∧ op ≠ Bo.sumsq ∧ op ≠ Bo.topk ∧ op ≠ Bo.treeSum)
def usesImm (r : List Byte) : Bool :=
  let op := Bop.opcode r
  decide (op = Bo.rmsscale ∨ op = Bo.append ∨ op = Bo.sample ∨ op = Bo.topk)

/-- Whether an opcode lets SRC_A choose where A lies: GEMV, ATTN, SCATTER_ADD and APPEND work on the channel, the others left
out have no operand A. DESIGN CHOICE: TOPK with FN[0] = 1, whose lists lie in the buffer in any case, takes SRC_A as zero (log entry 42). -/
def usesSource (r : List Byte) : Bool :=
  let op := Bop.opcode r
  decide (op = Bo.move ∨ op = Bo.vadd ∨ op = Bo.veneer ∨ op = Bo.sumsq ∨ op = Bo.rmsscale ∨ op = Bo.gather ∨
    op = Bo.treeSum ∨ (op = Bo.topk ∧ Bop.fn r = 0))

/-- A common field of Table 4-4 (ROWS, BATCH, K), in its range of the table with every opcode: Table 4-6 lists the fields used beyond the
common ones (DEDUCED, log entry 120). -/
def inField (v top : Nat) : Bool := decide (1 ≤ v ∧ v ≤ top)

/-- Formats and field ranges of a record. -/
def recFields (r : List Byte) : Bool :=
  let op := Bop.opcode r
  knownOps.contains op && decide (at_ r 3 1 % 4 = 0 ∧ Bop.srcA r ≠ 3) && (dstAllowed op).contains (Bop.dst r) &&
    (!Bop.acc r || (accOps.contains op && decide (Bop.dst r ≠ 3) && !isPan (Bop.fmtO r))) &&
    (!Bop.ordered r || decide (op = Bo.scatterAdd)) && decide (Bop.fn r ≤ fnMax op) &&
    inField (Bop.rows r) 4096 && inField (Bop.batch r) 64 && inField (Bop.k r) 0xFFFFFF && (usesSource r || decide (Bop.srcA r = 0)) &&
    (if usesFmtA op then benchIn (Bop.fmtA r) else decide (Bop.fmtA r = 0)) &&
    (if usesFmtB r then benchIn (Bop.fmtB r) else decide (Bop.fmtB r = 0)) &&
    (if usesFmtO r then benchOut (Bop.fmtO r) else decide (Bop.fmtO r = 0)) &&
    (usesX r || decide (Bop.xOff r = 0)) && (usesImm r || decide (Bop.imm r = 0)) &&
    (if op = Bo.rmsscale ∨ op = Bo.attnMerge then decide (fld (at_ r 20 4) 23 21 = 0 ∧ at_ r 20 4 < 2 ^ 30)
     else if usesB op then decide (at_ r 20 4 < 2 ^ 21) else decide (at_ r 20 4 = 0))

/-- What one opcode asks of its record beyond `recFields`. The two operands that an operation multiplies are a bench pair of
Table 2-8 (R44, R93): A and B of GEMV, VENEER and RMSSCALE with g, A and itself of SUMSQ. The sums, q and partial results are
no operands. -/
def opFields (mask : Nat) (r x : List Byte) : Bool :=
  let op := Bop.opcode r
  if op = Bo.gemv then
    (benchPair (Bop.fmtA r) (Bop.fmtB r)).isSome && (decide (Bop.fn r = 0) || decide (Bop.rows r % 2 = 0)) &&
      (!isPan (Bop.fmtA r) || decide (Bop.xOff r % 64 = 0))
  else if op = Bo.veneer then (benchPair (Bop.fmtA r) (Bop.fmtB r)).isSome
  else if op = Bo.sumsq then (benchPair (Bop.fmtA r) (Bop.fmtA r)).isSome
  else if op = Bo.rmsscale then decide (Bop.fn r = 0) || (benchPair (Bop.fmtA r) (Bop.fmtB r)).isSome
  else if op = Bo.gather then !isPan (Bop.fmtA r) || decide (Bop.xOff r % 64 = 0)
  else if op = Bo.scatterAdd then
    [0, 1, 7].contains (Bop.fmtA r) && !isPan (Bop.fmtB r) && decide (Bop.oOff r = 0)
  else if op = Bo.append then
    [1, 5, 6, 8, 9].contains (Bop.fmtA r) && decide (Bop.oOff r = 0 ∧ Bop.imm r < 64) && bit mask (Bop.imm r) &&
      (if isPan (Bop.fmtA r) then decide (Bop.xOff r ≤ 59 ∧ Bop.aOff r % 64 = 0) else decide (Bop.xOff r = 0))
  else if op = Bo.topk then
    decide (Bop.rows r ≤ 64 ∧ Bop.rows r * Bop.batch r ≤ 2048) && (decide (Bop.fn r = 1) || decide (Bop.srcA r ≠ 2))
  else if op = Bo.sample then
    decide (Bop.rows r ≤ 64) && finiteCode (Bop.imm r) && Num.lt Num.zero (v32 (Bop.imm r))
  else if op = Bo.attnMerge then
    decide ((Bop.k r = 64 ∨ Bop.k r = 128) ∧ Bop.rows r ≤ 16)
  else if op = Bo.attn then
    decide ((Bop.fmtA r = 1 ∨ Bop.fmtA r = 8 ∨ Bop.fmtA r = 9) ∧ Bop.fmtB r = 1 ∧ (Bop.k r = 64 ∨ Bop.k r = 128)) &&
      decide (at_ x 1 1 % 32 = 0 ∧ 1 ≤ Bop.heads x ∧ Bop.heads x ≤ 16 ∧ 4 ≤ Bop.pageLog2 x ∧ Bop.pageLog2 x ≤ 12 ∧
        1 ≤ Bop.len x ∧ Bop.len x ≤ 2 ^ 24 ∧ at_ x 24 8 = 0) &&
      (decide (Bop.fmtA r = 1) || decide (Bop.aOff r % 64 = 0 ∧ Bop.headOff x % 64 = 0)) &&
      (Bop.bias1d x || Bop.biasLayout x || decide (Bop.biasOff x = 0))
  else true
where
  /-- A finite FP32 code. -/
  finiteCode (c : Nat) : Bool := decide (fld c 30 23 ≠ 255)

/-- Offsets of a record: ranges of their fields and the alignment of panels (R38, R102, R437). -/
def offFields (r x : List Byte) : Bool :=
  let op := Bop.opcode r
  let field (v : Nat) : Bool :=
    match Bop.srcA r with
    | 0 => decide (v < 2 ^ 30)
    | 1 => decide (v < 32)
    | _ => decide (v < 2 ^ 21)
  let pan := decide (Bop.srcA r = 0)
  (decide (aBytes r = 0) || field (Bop.aOff r)) && (decide (zBytes r = 0) || field (Bop.xOff r)) &&
    (decide (0 < aBytes r ∨ op = Bo.topk ∨ op = Bo.attn ∨ op = Bo.scatterAdd ∨ op = Bo.append) || decide (Bop.aOff r = 0)) &&
    (!(pan && isPan (Bop.fmtA r) && decide (0 < aBytes r)) || decide (Bop.aOff r % 64 = 0)) &&
    (!(pan && isPan (Bop.fmtB r) && decide (0 < zBytes r)) || decide (Bop.xOff r % 64 = 0)) &&
    (!(decide (op = Bo.rmsscale ∧ Bop.fn r = 1) && isPan (Bop.fmtB r)) || decide (Bop.xOff r % 64 = 0)) &&
    decide (Bop.aOff r < 2 ^ 30) &&
    (match Bop.dst r with
    | 0 => decide (Bop.oOff r < 2 ^ 30) && (!isPan (Bop.fmtO r) || decide (Bop.oOff r % 64 = 0))
    | 1 => decide (Bop.oOff r < 32)
    | _ => decide (Bop.oOff r < 2 ^ 21)) &&
    decide (outBytes r x ≤ 16384)

/-- One record with its extension against its program header. -/
def recOk (mask regs size : Nat) (r x : List Byte) : Bool :=
  recFields r && opFields mask r x && offFields r x &&
    (bufRanges mask r x).all (fun p => decide (p.1 % 64 = 0 ∧ p.1 + p.2 ≤ size)) &&
    (regRanges r x).all (fun p => decide (p.1 + p.2 ≤ regs))

/-- Records with their extensions, ATTN taking the one that follows it; none where an extension is missing or stands alone. -/
def pairRecords : List (List Byte) → Option (List (List Byte × List Byte))
  | [] => some []
  | [r] => if Bop.opcode r = Bo.attn ∨ Bop.opcode r = Bo.attnX then none else some [(r, [])]
  | r :: x :: t =>
    if Bop.opcode r = Bo.attnX then none
    else if Bop.opcode r = Bo.attn then
      (if Bop.opcode x = Bo.attnX then (pairRecords t).map ((r, x) :: ·) else none)
    else (pairRecords (x :: t)).map ((r, []) :: ·)

/-! ## What an operation reads -/

/-- What an operation knows of its task. -/
structure BCtx where
  i : Nat := 0
  part : Nat := 0
  base : Nat := 0
  mask : Nat := 0
  regs : Memory := []
  ins : List (Nat × Nat) := []
  deriving DecidableEq, Repr, Inhabited

/-- Enabled benches, ascending. -/
def enabled (c : BCtx) : List Nat := (List.range 64).filter (bit c.mask)

/-- The address of a register byte of a bench: 32 registers of 128 bytes each (R95). -/
def bregAddr (h reg : Nat) : Nat := 4096 * h + 128 * reg

def readChan (c : BCtx) (h co n : Nat) : Act (List Byte) := do
  let s ← get
  if n = 0 then pure [] else loadHome (channelAddr s c.i h co) n

def readBuf (c : BCtx) (off n : Nat) : Act (List Byte) :=
  if n = 0 then pure [] else loadBuf (bufAddr c.i (c.base + off)) n

/-- `n` bytes of an operand at `off` behind the place that a field names. -/
def readSrc (c : BCtx) (r : List Byte) (h place off n : Nat) : Act (List Byte) :=
  match Bop.srcA r with
  | 0 => readChan c h (place + off) n
  | 1 => pure (mbytes c.regs (bregAddr h place + off) n)
  | _ => readBuf c (place + off) n

/-- Rows of `n` values, one behind another. -/
def readRows (c : BCtx) (r : List Byte) (h place rows f n : Nat) : Act (List (List Num)) :=
  mapAct (fun i => do
    let b ← readSrc c r h place (i * fmtBytes f n) (fmtBytes f n)
    pure (rowValues (fmtD f) b n)) (List.range rows)

/-- The activation slice of R110: element (r, b) at position r × B + b. -/
def readSlice (c : BCtx) (r : List Byte) (h : Nat) : Act (List Num) := do
  let n := Bop.rows r * Bop.batch r
  let b ← readSrc c r h (Bop.aOff r) 0 (fmtBytes (Bop.fmtA r) n)
  pure (rowValues (fmtD (Bop.fmtA r)) b n)

/-! ## What an operation computes -/

/-- A candidate of TOPK: value and index. -/
abbrev Cand := Num × Nat

/-- The result of one bench. -/
inductive Result where
  | values (xs : List Num) (int : Bool)
  | lists (l : List (List Cand))
  | bytes (b : List Byte)
  | triples (l : List Triple)
  deriving DecidableEq, Repr, Inhabited

/-- A signed 32-bit number from bytes. -/
def i32At (b : List Byte) (off : Nat) : Int := Scalar.decodeInt 32 (at_ b off 4)

/-- Sum of integers in INT32 with wrap. -/
def wrap32 (i : Int) : Num := Num.ofInt (Scalar.decodeInt 32 (wrapInt 32 i))

def addFor (int : Bool) (x y : Num) : Num := if int then wrap32 (x.toInt + y.toInt) else radd x y

/-- The pairwise tree of a power of two of values, at most 512 (R47, R111). -/
def pairTree (f : Num → Num → Num) (xs : List Num) : Num := ((List.range 9).foldl (fun l _ => pairUp f l) xs).headD Num.zero

def everyNth (n m : Nat) (xs : List Num) : List Num :=
  (xs.zipIdx.filter (fun e => decide (e.2 % n = m))).map Prod.fst

/-- Σ w × a of R111 over G lanes. -/
def gemvSum (int : Bool) (G : Nat) (w a : List Num) : Num :=
  if int then wrap32 ((w.zip a).foldl (fun t p => t + p.1.toInt * p.2.toInt) (0 : Int))
  else pairTree radd ((List.range G).map (fun m => benchDot Num.zero (everyNth G m w) (everyNth G m a)))

/-- The smallest power of two not below `n`, up to 64. -/
def pow2Up (n : Nat) : Nat := if n ≤ 1 then 1 else 2 ^ (Nat.log2 (n - 1) + 1)

/-- f × up of R112. -/
def gated (fn : Nat) (g u : Num) : Num :=
  let g := r32 g
  let u := r32 u
  let f := if fn = 1 then rmul g (recip (radd (Num.ofNat 1) (exp2 (rmul g.neg log2e)))) else relu g
  rmul f u

def runGemv (c : BCtx) (r : List Byte) (h : Nat) : Act Result := do
  let K := Bop.k r
  let B := Bop.batch r
  let int := (benchPair (Bop.fmtA r) (Bop.fmtB r)).getD false
  let nb := fmtBytes (Bop.fmtB r) K
  let act ← mapAct (fun b => do
    let x ← readBuf c (Bop.bOff r + b * nb) nb
    pure (rowValues (fmtD (Bop.fmtB r)) x K)) (List.range B)
  let na := fmtBytes (Bop.fmtA r) K
  let w ← mapAct (fun i => do
    let x ← readChan c h (Bop.aOff r + i * aStride r) na
    pure (rowValues (fmtD (Bop.fmtA r)) x K)) (List.range (Bop.rows r))
  let sums := w.map (fun row => act.map (fun a => gemvSum int (512 / pow2Up B) row a))
  if Bop.fn r = 0 then pure (.values sums.flatten int)
  else pure (.values ((List.range (Bop.rows r / 2)).flatMap (fun i =>
    ((sums.getD (2 * i) []).zip (sums.getD (2 * i + 1) [])).map (fun p => gated (Bop.fn r) p.1 p.2))) false)

def runMove (c : BCtx) (r : List Byte) (h : Nat) : Act Result := do
  let xs ← readRows c r h (Bop.aOff r) (Bop.rows r) (Bop.fmtA r) (Bop.k r)
  pure (.values xs.flatten (isIntFmt (Bop.fmtA r)))

def runVadd (c : BCtx) (r : List Byte) (h : Nat) : Act Result := do
  let xs ← readRows c r h (Bop.aOff r) (Bop.rows r) (Bop.fmtA r) (Bop.k r)
  let zs ← readRows c r h (Bop.xOff r) (Bop.rows r) (Bop.fmtB r) (Bop.k r)
  let int := isIntFmt (Bop.fmtA r) && isIntFmt (Bop.fmtB r)
  pure (.values ((xs.flatten.zip zs.flatten).map (fun p => addFor int p.1 p.2)) int)

/-- Whether an entry of VENEER's list names a veneer that lies in its channel and in the declared inputs, aligned to FMT_B (R112). -/
def veneerOk (s : State) (c : BCtx) (r : List Byte) (h e : Nat) : Bool :=
  let n := 2 * fmtBytes (Bop.fmtB r) (Bop.rows r)
  decide (e % (if isPan (Bop.fmtB r) then 64 else fmtBytes (Bop.fmtB r) 1) = 0) && decide (e + n ≤ channelBytes s) &&
    inRanges c.ins (channelAddr s c.i h e) n

/-- The veneer of one request: none where its entry is 0xFFFF_FFFF, outside the declared inputs or not aligned (R112). -/
def veneerRows (c : BCtx) (r : List Byte) (h e : Nat) : Act (Option (List Num × List Num) × Bool) := do
  let s ← get
  let f := Bop.fmtB r
  let n := Bop.rows r
  let nb := fmtBytes f n
  if e = 0xFFFFFFFF then pure (none, false)
  else if !veneerOk s c r h e then pure (none, true)
  else do
    let b ← readChan c h e (2 * nb)
    pure (some (rowValues (fmtD f) b n, rowValues (fmtD f) (b.drop nb) n), false)

/-- VENEER, and whether an entry was treated as none (R112). DESIGN CHOICE: an INT8 or INT16 pair, whose accumulator in Table 2-8 is INT32, is
rounded to FP32 as R112 writes it (log entry 93). -/
def runVeneer (c : BCtx) (r : List Byte) (h : Nat) : Act (Result × Bool) := do
  let B := Bop.batch r
  let x ← readSlice c r h
  let l ← readBuf c (Bop.bOff r) (4 * B)
  let vs ← mapAct (fun b => veneerRows c r h (at_ l (4 * b) 4)) (List.range B)
  let cell (i : Nat) : Num :=
    let xv := x.getD i Num.zero
    match (vs.getD (i % B) (none, false)).1 with
    | none => xv
    | some (sv, vv) => fma32 (vv.getD (i / B) Num.zero) (sv.getD (i / B) Num.zero) xv
  pure (.values ((List.range (Bop.rows r * B)).map cell) false, vs.any Prod.snd)

/-- The sum of squares of one request: in FP32, one rounding a step (R113), or in INT32 with wrap for an integer pair (R46, Table
2-8). -/
def sumSquares (int : Bool) (xs : List Num) : Num :=
  if int then wrap32 (xs.foldl (fun t x => t + x.toInt * x.toInt) (0 : Int)) else benchDot Num.zero xs xs

/-- SUMSQ (R113). -/
def runSumsq (c : BCtx) (r : List Byte) (h : Nat) : Act Result := do
  let B := Bop.batch r
  let x ← readSlice c r h
  let int := (benchPair (Bop.fmtA r) (Bop.fmtA r)).getD false
  pure (.values ((List.range B).map (fun b => sumSquares int (everyNth B b x))) int)

def runRmsscale (c : BCtx) (r : List Byte) (h : Nat) : Act Result := do
  let B := Bop.batch r
  let P := Bop.parts r
  let x ← readSlice c r h
  let ps ← readBuf c (Bop.bOff r) (4 * P * B)
  let nb := fmtBytes (Bop.fmtB r) (Bop.rows r)
  let gb ← if Bop.fn r = 1 then readChan c h (Bop.xOff r) nb else pure []
  let g := rowValues (fmtD (Bop.fmtB r)) gb (Bop.rows r)
  let q (b : Nat) : Num :=
    let s := (upFrom 1 (P - 1)).foldl (fun t p => radd t (v32 (at_ ps (4 * (p * B + b)) 4))) (v32 (at_ ps (4 * b) 4))
    rsqrt (radd (rmul s (recip (Num.ofNat (Bop.k r)))) (v32 (Bop.imm r)))
  let qs := (List.range B).map q
  pure (.values ((List.range (Bop.rows r * B)).map (fun i =>
    let y := rmul (x.getD i Num.zero) (qs.getD (i % B) Num.zero)
    if Bop.fn r = 1 then rmul y (g.getD (i / B) Num.zero) else y)) false)

/-- GATHER, and whether an index was replaced (R114). DESIGN CHOICE: a replacement is counted in nothing but that flag (log entry 132). -/
def runGather (c : BCtx) (r : List Byte) (h : Nat) : Act (Result × Bool) := do
  let K := Bop.k r
  let l ← readBuf c (Bop.bOff r) (4 * Bop.batch r)
  let is := (List.range (Bop.batch r)).map (fun b => i32At l (4 * b))
  let n := fmtBytes (Bop.fmtA r) K
  let xs ← mapAct (fun i => do
    let j := (clampInt 0 ((Bop.rows r : Int) - 1) i).toNat
    let b ← readSrc c r h (Bop.aOff r) (j * aStride r) n
    pure (rowValues (fmtD (Bop.fmtA r)) b K)) is
  pure (.values xs.flatten (isIntFmt (Bop.fmtA r)), is.any (fun i => decide (i < 0 ∨ (Bop.rows r : Int) ≤ i)))

/-! ### Ranking and sampling (R117, R118) -/

/-- Whether an index comes before another: an index is an INT32 (R30, R117). -/
def indexBefore (i j : Nat) : Bool := decide (Scalar.decodeInt 32 i < Scalar.decodeInt 32 j)

/-- Whether a candidate ranks before another: by value with NaN last, ties by ascending index. -/
def ranksBefore (x y : Cand) : Bool :=
  if x.1.isNan then y.1.isNan && indexBefore x.2 y.2
  else if y.1.isNan then true
  else if Num.lt y.1 x.1 then true
  else if Num.lt x.1 y.1 then false
  else indexBefore x.2 y.2

def insertCand (x : Cand) : List Cand → List Cand
  | [] => [x]
  | y :: t => if ranksBefore x y then x :: y :: t else y :: insertCand x t

/-- Candidates in ranking order, the first `k` of them. -/
def rankTop (k : Nat) (l : List Cand) : List Cand := (l.foldl (fun acc x => insertCand x acc) []).take k

def candAt (b : List Byte) (off : Nat) : Cand := (v32 (at_ b off 4), at_ b (off + 4) 4)

def runTopk (c : BCtx) (r : List Byte) (h : Nat) : Act Result := do
  let K := Bop.k r
  let B := Bop.batch r
  if Bop.fn r = 1 then do
    let b ← readBuf c (Bop.aOff r) (8 * K * B)
    pure (.lists ((List.range B).map (fun q => rankTop (Bop.rows r) ((List.range K).map (fun j => candAt b (8 * (K * q + j)))))))
  else do
    let b ← readSrc c r h (Bop.aOff r) 0 (4 * K * B)
    pure (.lists ((List.range B).map (fun q => rankTop (Bop.rows r)
      ((List.range K).filterMap (fun j =>
        let i := (64 * c.i + h) * K + j
        if i < Bop.imm r then some (v32 (at_ b (4 * (j * B + q)) 4), i) else none)))))

/-- The bytes of lists of exactly `k` entries (R117). -/
def listBytes (k : Nat) (l : List (List Cand)) : List Byte :=
  l.flatMap (fun es => (List.range k).flatMap (fun j =>
    match es[j]? with
    | some e => leBytes 4 (c32 e.1) ++ leBytes 4 e.2
    | none => leBytes 4 0xFF800000 ++ leBytes 4 0xFFFFFFFF))

/-- 1 − 2^-24. -/
def uTop : Num := .fin false 16777215 (-24)

/-- The index that SAMPLE draws (R118). -/
def sampleOne (cImm : Num) (es : List Cand) (u : Num) : Nat :=
  let es := es.filter (fun e => decide (e.2 ≠ 0xFFFFFFFF) && !e.1.isNan && decide (e.1 ≠ negInf))
  match es with
  | [] => 0xFFFFFFFF
  | e0 :: _ =>
    let u := if u.isNan then Num.zero else if Num.lt u Num.zero then Num.zero else if Num.lt uTop u then uTop else u
    let cum := (es.foldl (fun (a : List (Nat × Num) × Num) e =>
      let C := radd a.2 (exp2 (rmul (r32 (Num.sub e.1 e0.1)) cImm))
      (a.1 ++ [(e.2, C)], C)) ([], Num.zero)).1
    let t := rmul u ((cum.getLast?.map Prod.snd).getD Num.zero)
    match cum.find? (fun e => Num.lt t e.2) with
    | some e => e.1
    | none => (cum.getLast?.map Prod.fst).getD 0xFFFFFFFF

def runSample (c : BCtx) (r : List Byte) : Act Result := do
  let k := Bop.rows r
  let l ← readBuf c (Bop.bOff r) (8 * k * Bop.batch r)
  let us ← readBuf c (Bop.xOff r) (4 * Bop.batch r)
  pure (.bytes ((List.range (Bop.batch r)).flatMap (fun b => leBytes 4
    (sampleOne (v32 (Bop.imm r)) ((List.range k).map (fun j => candAt l (8 * (k * b + j)))) (v32 (at_ us (4 * b) 4))))))

/-! ### Attention (R279 to R289) -/

/-- Tokens of a page that a block of slots holds, below the context length. -/
def blockTokens (P L page lo : Nat) : List Nat :=
  let n := if P = 16 then 16 else 32
  ((List.range n).map (fun j => page * P + lo + j)).filter (fun t => decide (t < L))

/-- Pages of channel `h` with their blocks, ascending. -/
def attnBlocks (x : List Byte) (h : Nat) : List (Nat × List Nat) :=
  let P := 2 ^ Bop.pageLog2 x
  let pages := (List.range ((Bop.len x + P - 1) / P)).filter (fun p => decide (p % 64 = h))
  pages.flatMap (fun p => (List.range ((P + 31) / 32)).filterMap (fun b =>
    let ts := blockTokens P (Bop.len x) p (32 * b)
    if ts.isEmpty then none else some (p, ts)))

/-- The bias block of query head `i` in a channel (Table 10-9). -/
def readBias (c : BCtx) (x : List Byte) (h i : Nat) : Act (List Byte) := do
  let o := Bop.biasOff x + 4608 * i
  let a ← if Bop.bias1d x then readChan c h o 4096 else pure (zeros 4096)
  let b ← if Bop.biasLayout x then readChan c h (o + 4096) 512 else pure []
  pure (a ++ b)

/-- One key: its position and its K and V rows. -/
def readKey (c : BCtx) (pb : Nat) (r x : List Byte) (h t : Nat) : Act (Pos × List Num × List Num) := do
  let P := 2 ^ Bop.pageLog2 x
  let row := kvRow (Bop.fmtA r) (Bop.k r)
  let g := kvPage (Bop.aOff r) P pb t
  let pos ← if Bop.biasLayout x then readChan c h (g.2.1 + 8 * g.2.2) 8 else pure []
  let k ← readChan c h (g.2.1 + Bop.headOff x + g.2.2 * row) row
  let v ← readChan c h (g.2.1 + Bop.headOff x + P * row + g.2.2 * row) row
  let f := fmtD (Bop.fmtA r)
  let p : Pos := if Bop.biasLayout x then
      { t := t, page := at_ pos 0 2, row := (at_ pos 2 2 : Nat), col := (at_ pos 4 2 : Nat) } else { t := t }
  pure (p, rowValues f k (Bop.k r), rowValues f v (Bop.k r))

/-- Σ p of one block of a bench (R285). -/
def benchSum (p : List Num) : Num := p.foldl radd Num.zero

/-- The triples of the H heads after one block. -/
def attnBlock (cfgs : List ScoreCfg) (qp : Pos) (qs : List (List Num)) (keys : List (Pos × List Num × List Num))
    (ts : List Triple) : List Triple :=
  (cfgs.zip (qs.zip ts)).map (fun e =>
    let scores := keys.map (fun k => scoreOf e.1 qp k.1 (benchDot Num.zero e.2.1 k.2.1))
    blockStep .bf16 benchSum (fun p v => benchDot Num.zero p v) scores (keys.map (fun k => k.2.2)) e.2.2)

/-- ATTN of one bench (R285). -/
def runAttn (c : BCtx) (pb : Nat) (r x : List Byte) (h : Nat) : Act Result := do
  let H := Bop.heads x
  let D := Bop.k r
  let qb ← readBuf c (Bop.bOff r) (2 * H * D)
  let pr ← if Bop.biasLayout x then readBuf c (Bop.bOff r + up64 (2 * H * D)) 16 else pure []
  let qs := (List.range H).map (fun i => rowValues (.scalar .bf16) (qb.drop (2 * D * i)) D)
  let qp : Pos := if Bop.biasLayout x then { posOf pr with t := Scalar.decodeInt 32 (Bop.qpos x) }
    else { t := Scalar.decodeInt 32 (Bop.qpos x) }
  let cfgs ← mapAct (fun i => do
    let b ← readBias c x h i
    pure ({ causal := Bop.causal x, bias1d := Bop.bias1d x, layout := Bop.biasLayout x, scale := v32 (Bop.scale x),
            block := b } : ScoreCfg)) (List.range H)
  let blocks ← mapAct (fun b => mapAct (readKey c pb r x h) b.2) (attnBlocks x h)
  pure (.triples (blocks.foldl (fun ts keys => attnBlock cfgs qp qs keys ts) (List.replicate H (emptyTriple D))))

/-- A statistics record of `H` triples of `D` values (R282). -/
def parseTriples (H D : Nat) (b : List Byte) : List Triple :=
  (List.range H).map (fun i => {
    m := v32 (at_ b (8 * i) 4), l := v32 (at_ b (8 * i + 4) 4),
    o := rowValues (.scalar .fp32) (b.drop (8 * H + 4 * D * i)) D })

def tripleBytes (ts : List Triple) : List Byte := ts.flatMap statBytes ++ ts.flatMap rowO

def mergeHeads (xs ys : List Triple) : List Triple := (xs.zip ys).map (fun p => mergeTriples p.1 p.2)

/-- ATTN_MERGE (R289). -/
def runAttnMerge (c : BCtx) (r : List Byte) : Act Result := do
  let H := Bop.rows r
  let D := Bop.k r
  let Z := up64 (recordBytes H D)
  let l ← mapAct (fun i => do
    let b ← readBuf c (Bop.bOff r + i * Z) (recordBytes H D)
    pure (parseTriples H D b)) (List.range (Bop.parts r))
  let m := match l with
    | [] => []
    | t :: ts => ts.foldl mergeHeads t
  if Bop.fn r = 1 then pure (.bytes (tripleBytes m)) else pure (.values (m.flatMap normalised) false)

/-! ## One operation -/

/-- The result of bench `h`, and whether it clamped or substituted an index. -/
def benchResult (c : BCtx) (pb : Nat) (r x : List Byte) (h : Nat) : Act (Result × Bool) := do
  let op := Bop.opcode r
  if op = Bo.veneer then runVeneer c r h
  else if op = Bo.gather then runGather c r h
  else do
    let res ← if op = Bo.gemv then runGemv c r h
      else if op = Bo.vadd then runVadd c r h
      else if op = Bo.sumsq then runSumsq c r h
      else if op = Bo.rmsscale then runRmsscale c r h
      else if op = Bo.topk then runTopk c r h
      else if op = Bo.sample then runSample c r
      else if op = Bo.attn then runAttn c pb r x h
      else if op = Bo.attnMerge then runAttnMerge c r
      else runMove c r h
    pure (res, false)

/-- Values as FMT_O, and whether a NaN was zeroed (R41, R437). -/
def outValues (r : List Byte) (xs : List Num) : List Byte × Bool :=
  let f := fmtD (Bop.fmtO r)
  if Bop.opcode r = Bo.move ∨ Bop.opcode r = Bo.gather then
    let rows := (List.range (if Bop.opcode r = Bo.move then Bop.rows r else Bop.batch r)).map (fun i =>
      outRow f ((xs.drop (i * Bop.k r)).take (Bop.k r)))
    (rows.flatMap Prod.fst, rows.any Prod.snd)
  else outRow f xs

/-- One value added to a present element (R109, R111). DESIGN CHOICE: an integer result for a float destination is added with one rounding to
FP32, not in INT32 (log entry 93). -/
def accValue (int intDst : Bool) (old x : Num) : Num := addFor (int && intDst) old x

/-- The bytes of a result of one bench; `old` holds the destination's present bytes where ACC is set. -/
def resultBytes (r : List Byte) (old : List Byte) : Result → List Byte × Bool
  | .values xs int =>
    if Bop.acc r then
      let f := fmtD (Bop.fmtO r)
      outValues r ((xs.zip (rowValues f old xs.length)).map (fun p => accValue int (isIntFmt (Bop.fmtO r)) p.2 p.1))
    else outValues r xs
  | .lists l => (listBytes (Bop.rows r) l, false)
  | .bytes b => (b, false)
  | .triples ts => (tripleBytes ts, false)

/-- The tree's one result from what each of the 64 benches contributes (R47, R103, R117, R288). -/
def treeBytes (r : List Byte) (l : List (Option Result)) : List Byte × Bool :=
  match (l.filterMap id).head? with
  | some (.values xs int) =>
    let rows := l.map (fun e => match e with
      | some (.values v _) => v.map (fun x => if int then x else r32 x)
      | _ => xs.map (fun _ => Num.zero))
    outRow (fmtD (Bop.fmtO r)) ((List.range xs.length).map (fun j =>
      (tree64 (addFor int) (rows.map (fun v => v.getD j Num.zero))).headD Num.zero))
  | some (.lists ls) =>
    let rows := l.map (fun e => match e with
      | some (.lists v) => v
      | _ => ls.map (fun _ => []))
    (listBytes (Bop.rows r) ((List.range ls.length).map (fun b =>
      (tree64 (fun x y => rankTop (Bop.rows r) (x ++ y)) (rows.map (fun v => v.getD b []))).headD [])), false)
  | some (.triples ts) =>
    let rows := l.map (fun e => match e with
      | some (.triples v) => v
      | _ => ts.map (fun t => emptyTriple t.o.length))
    outRow (fmtD (Bop.fmtO r)) (((tree64 mergeHeads rows).headD []).flatMap normalised)
  | some (.bytes b) => (b, false)
  | none => ([], false)

/-- The present bytes of a destination, for ACC. -/
def oldBytes (c : BCtx) (r x : List Byte) (h : Nat) : Act (List Byte) := do
  let n := outBytes r x
  if !Bop.acc r then pure []
  else match Bop.dst r with
    | 0 => readChan c h (Bop.oOff r) n
    | 1 => pure (mbytes c.regs (bregAddr h (Bop.oOff r)) n)
    | _ => readBuf c (Bop.oOff r + (if bufferOnly r then 0 else h * up64 n)) n

/-- Where the result of bench `h` goes (Table 4-5, R110). -/
def resultStore (s : State) (c : BCtx) (r x : List Byte) (h : Nat) (b : List Byte) : Store :=
  match Bop.dst r with
  | 0 => .dram (channelAddr s c.i h (Bop.oOff r)) b
  | 1 => .breg (bregAddr h (Bop.oOff r)) b
  | _ => .bbuf (bufAddr c.i (c.base + Bop.oOff r + (if bufferOnly r then 0 else h * up64 (outBytes r x)))) b

/-- The outcome of an operation's reads and lane work. -/
structure BOut where
  stores : List Store := []
  clamped : Bool := false
  nan : Bool := false
  deriving DecidableEq, Repr, Inhabited

/-- SCATTER_ADD (R115, R49): the new elements of every enabled channel. -/
def runScatter (c : BCtx) (r : List Byte) : Act BOut := do
  let s ← get
  let K := Bop.k r
  let R := Bop.rows r
  let N : Int := 64 * R
  let l ← readBuf c (Bop.bOff r) (8 * K)
  let t := match fmtD (Bop.fmtA r) with
    | .scalar t => t
    | .panel t => t
  let w := t.width / 8
  let is := (List.range K).map (fun j => i32At l (8 * j))
  let all := is.zipIdx.filterMap (fun e =>
    if (e.1 < 0 ∨ N ≤ e.1) ∧ Bop.fn r = 1 then none
    else
      let i := (clampInt 0 (N - 1) e.1).toNat
      if bit c.mask (i / R) then some (channelAddr s c.i (i / R) (Bop.aOff r + i % R * w),
        rowValue (fmtD (Bop.fmtB r)) (l.drop (8 * e.2 + 4)) 0) else none)
  let order ← if Bop.ordered r || t.isInt then pure all else (do
    let n ← takeFree
    pure (freeOrder n all))
  let m ← addUp t (isIntFmt (Bop.fmtB r)) w order []
  pure { stores := m.map (fun e => .dram e.1 (leBytes w (e.2.getD 0))), clamped := is.any (fun i => decide (i < 0 ∨ N ≤ i)) }
where
  /-- Contributions added one after another; an element is read when its first one comes (R49). -/
  addUp (t : Scalar) (isInt : Bool) (w : Nat) : List (Nat × Num) → Tab (Option Nat) → Act (Tab (Option Nat))
    | [], m => pure m
    | (k, x) :: l, m => do
      let old ← match tget none m k with
        | some c => pure c
        | none => do
          let b ← loadHome k w
          pure (leNat b)
      addUp t isInt w l (tset none m k (some (accumulate t isInt old x)))

/-- Elements written into panels one after another from a slot (R39, R116), and whether a NaN was zeroed. -/
def appendPanels (t : Scalar) : List (List Byte) → Nat → List Num → List (List Byte) × Bool
  | ps, _, [] => (ps, false)
  | ps, slot, x :: xs =>
    let p := ps.getD (slot / 60) (zeros 64)
    let e := elementCode t (panelScale p) (panelBias p) x
    let q := appendPanels t (ps.set (slot / 60) (putElement t p (slot % 60) e.1)) (slot + 1) xs
    (q.1, e.2 || q.2)

/-- The bytes of the slots that APPEND writes in its panel `p.2`, from slot `first` of the first panel on: the header and the other slots
are not written (R116). -/
def slotStore (a first n : Nat) (p : List Byte × Nat) : Store :=
  let lo := if p.2 = 0 then first else 0
  let hi := Nat.min 60 (first + n - 60 * p.2)
  .dram (a + 64 * p.2 + 4 + lo) ((p.1.drop (4 + lo)).take (hi - lo))

/-- APPEND (R116). -/
def runAppend (c : BCtx) (r : List Byte) : Act BOut := do
  let s ← get
  let K := Bop.k r
  let h := Bop.imm r
  let b ← readBuf c (Bop.bOff r) (fmtBytes (Bop.fmtB r) K)
  let xs := rowValues (fmtD (Bop.fmtB r)) b K
  match fmtD (Bop.fmtA r) with
  | .scalar t => pure { stores := [.dram (channelAddr s c.i h (Bop.aOff r)) (xs.flatMap (scalarBytes t))] }
  | .panel t => do
    let n := (Bop.xOff r + K + 59) / 60
    let ps ← mapAct (fun i => readChan c h (Bop.aOff r + 64 * i) 64) (List.range n)
    let q := appendPanels t ps (Bop.xOff r) xs
    pure { stores := (q.1.zipIdx.map (slotStore (channelAddr s c.i h (Bop.aOff r)) (Bop.xOff r) K)), nan := q.2 }

/-- The benches that write a result: all, or the lowest enabled one where the buffer is the only source (R110). -/
def writers (c : BCtx) (r : List Byte) : List Nat := if bufferOnly r then (enabled c).take 1 else enabled c

/-! ## Bank sets (R121) -/

/-- The bytes of the keys that ATTN reads in its channels, and of the bias tables. -/
def attnReads (c : BCtx) (pb : Nat) (r x : List Byte) : List (Nat × Nat) :=
  let P := 2 ^ Bop.pageLog2 x
  let row := kvRow (Bop.fmtA r) (Bop.k r)
  let key (t : Nat) : List (Nat × Nat) :=
    let g := kvPage (Bop.aOff r) P pb t
    [(g.2.1 + Bop.headOff x + g.2.2 * row, row), (g.2.1 + Bop.headOff x + P * row + g.2.2 * row, row)] ++
      (if Bop.biasLayout x then [(g.2.1 + 8 * g.2.2, 8)] else [])
  (enabled c).flatMap (fun h => (attnBlocks x h).flatMap (fun b => b.2.flatMap key)) ++
    (List.range (Bop.heads x)).flatMap (fun i =>
      let o := Bop.biasOff x + 4608 * i
      (if Bop.bias1d x then [(o, 4096)] else []) ++ (if Bop.biasLayout x then [(o + 4096, 512)] else []))

/-- The channel ranges that an operation reads: what VENEER, GATHER and SCATTER_ADD read depends on their lists in the buffer. -/
def rowsRead (c : BCtx) (pb : Nat) (r x : List Byte) : Act (List (Nat × Nat)) := do
  let s ← get
  let op := Bop.opcode r
  if op = Bo.veneer then do
    let l ← readBuf c (Bop.bOff r) (4 * Bop.batch r)
    let es := (List.range (Bop.batch r)).map (fun b => at_ l (4 * b) 4)
    pure (chanReads pb r x ++ (es.filter (fun e => decide (e ≠ 0xFFFFFFFF) && (enabled c).any (fun h => veneerOk s c r h e))).map
      (fun e => (e, 2 * fmtBytes (Bop.fmtB r) (Bop.rows r))))
  else if op = Bo.gather ∧ Bop.srcA r = 0 then do
    let l ← readBuf c (Bop.bOff r) (4 * Bop.batch r)
    pure ((List.range (Bop.batch r)).map (fun b =>
        (Bop.aOff r + (clampInt 0 ((Bop.rows r : Int) - 1) (i32At l (4 * b))).toNat * aStride r, fmtBytes (Bop.fmtA r) (Bop.k r))) ++
      (if Bop.acc r && decide (Bop.dst r = 0) then [(Bop.oOff r, outBytes r x)] else []))
  else if op = Bo.scatterAdd then do
    let l ← readBuf c (Bop.bOff r) (8 * Bop.k r)
    let w := fmtBytes (Bop.fmtA r) 1
    let N : Int := 64 * Bop.rows r
    pure ((List.range (Bop.k r)).filterMap (fun j =>
      let i := (clampInt 0 (N - 1) (i32At l (8 * j))).toNat
      if (i32At l (8 * j) ≠ i ∧ Bop.fn r = 1) ∨ !bit c.mask (i / Bop.rows r) then none
      else some (Bop.aOff r + i % Bop.rows r * w, w)))
  else if op = Bo.attn then pure (attnReads c pb r x)
  else pure (chanReads pb r x)

/-- The banks that hold the bytes of a channel range (R63): a bank row holds 2 KiB, and 127 rows in sequence meet every bank. -/
def banksOf (p : Nat × Nat) : List Nat :=
  if p.2 = 0 then []
  else (upFrom (p.1 / 2048) (Nat.min 127 ((p.1 + p.2 - 1) / 2048 + 1 - p.1 / 2048))).map (fun k => (bankOf (2048 * k)).2.1)

/-- The banks of the rows that an operation reads. One whose list cannot be read has read its operand A at most. -/
def banksRead (s : State) (c : BCtx) (r x : List Byte) : List Nat :=
  let pb := attnPageBytes s c.part c.i (Bop.aOff r)
  let l := match (runAct (rowsRead c pb r x) s).1 with
    | .ok l => l
    | .error _ => if Bop.opcode r = Bo.veneer then chanReads pb r x else []
  (l.flatMap banksOf).eraseDups

/-- An operation's reads and lane work in every enabled channel (R99, R120). -/
def runOperation (c : BCtx) (r x : List Byte) : Act BOut := do
  let op := Bop.opcode r
  if op = Bo.scatterAdd then runScatter c r
  else if op = Bo.append then runAppend c r
  else do
    let s ← get
    let pb := attnPageBytes s c.part c.i (Bop.aOff r)
    let res ← mapAct (fun h => do
      let y ← benchResult c pb r x h
      pure (h, y)) (writers c r)
    let clamped := res.any (fun e => e.2.2)
    if Bop.dst r = 3 then
      let b := treeBytes r ((List.range 64).map (fun h => (res.find? (fun e => decide (e.1 = h))).map (fun e => e.2.1)))
      pure { stores := [.bbuf (bufAddr c.i (c.base + Bop.oOff r)) b.1], clamped := clamped, nan := b.2 }
    else do
      let outs ← mapAct (fun e => do
        let old ← oldBytes c r x e.1
        let b := resultBytes r old e.2.1
        pure (resultStore s c r x e.1 b.1, b.2)) res
      pure { stores := outs.map Prod.fst, clamped := clamped, nan := outs.any Prod.snd }

end Sys2Proof.Machine
end

