-- ==== Sys2Proof/Machine/Bench.lean ====
section
/-! DEFINITION. Bench tasks on a stack: their activation (R104 to R106, Table 4-3), the rotation (R107), the start and the end
of an operation (R108, R120, R121, R123). -/

namespace Sys2Proof.Machine
open Sys2Proof

/-! ## Tasks held by granules (R71) -/

/-- Whether ranges hold a granule that is not IDLE, or a stack under a zero fill. -/
def rangesBusy (s : State) (rs : List (Nat × Nat)) : Bool :=
  (List.range 24).any (fun i =>
    ((stk s i).initBusy && overlapsAny rs (stackBase i) 0x1000000000) ||
      (stk s i).granules.any (fun e => decide (e.2.state ≠ 0) && overlapsAny rs (stackBase i + e.1 * 2097152) 2097152))

/-- The declared ranges of a task. -/
def declared (s : State) (x : Task) : List (Nat × Nat) := localRanges s (x.desc.ins ++ x.desc.outs)

/-! ## Program headers (Table 4-2) -/

namespace Prog
def count (p : List Byte) : Nat := at_ p 0 2 % 512
def regs (p : List Byte) : Nat := at_ p 2 1 % 64
def base (p : List Byte) : Nat := at_ p 4 4 % 2 ^ 21
def size (p : List Byte) : Nat := at_ p 8 4 % 2 ^ 22
def mask (p : List Byte) : Nat := at_ p 16 8
def record (p : List Byte) (k : Nat) : List Byte := (p.drop (32 + 32 * k)).take 32
end Prog

/-- Whether the header's fields are in range. -/
def progFields (p : List Byte) : Bool :=
  decide (at_ p 0 2 < 512 ∧ 1 ≤ Prog.count p ∧ Prog.count p ≤ 256 ∧ at_ p 2 1 ≤ 32 ∧ at_ p 3 1 = 0 ∧ at_ p 4 4 < 2 ^ 21 ∧
    Prog.base p % 64 = 0 ∧ at_ p 8 4 < 2 ^ 22 ∧ Prog.size p ≤ 0x200000 - Prog.base p ∧ at_ p 12 4 = 0 ∧ Prog.mask p ≠ 0 ∧
    at_ p 24 8 = 0)

/-- The program's records with their extensions. -/
def progPairs (p : List Byte) : Option (List (List Byte × List Byte)) :=
  pairRecords ((List.range (Prog.count p)).map (Prog.record p))

/-! ## Checks at activation (Table 4-3) -/

/-- Reading a program: header first, then the records that it counts, at most 256, whatever else the header holds: checks 1 and 2
of Table 4-3 come before check 6. A program may lie in stacks and host windows only. -/
def fetchProgram (x : Task) : Act (List Byte) := do
  let a := x.desc.code
  need ([1, 4, 5].contains (rowOf a)) Code.windowFault
  let h ← loadFor (x.desc.place / 6) x.part a 32
  let n := min 256 (Prog.count h)
  if n = 0 then pure h
  else do
    let t ← loadFor (x.desc.place / 6) x.part (a + 32) (32 * n)
    pure (h ++ t)

/-- The channels in which a record's channel ranges are taken: APPEND writes one. -/
def touched (mask : Nat) (r : List Byte) : List Nat :=
  if Bop.opcode r = Bo.append then [Bop.imm r] else (List.range 64).filter (bit mask)

/-- Channel ranges of a record in every channel that it touches, as local ranges. -/
def spread (s : State) (i mask : Nat) (r : List Byte) (l : List (Nat × Nat)) : List (Nat × Nat) :=
  l.flatMap (fun p => (touched mask r).map (fun h => (channelAddr s i h p.1, p.2)))

/-- Whether channel ranges stay inside their channels. -/
def insideChannel (s : State) (l : List (Nat × Nat)) : Bool := l.all (fun p => decide (p.1 + p.2 ≤ channelBytes s))

/-- Check 6 for the ranges of one record. -/
def recRanges (s : State) (x : Task) (i mask : Nat) (r e : List Byte) : Bool :=
  let pb := attnPageBytes s x.part i (Bop.aOff r)
  let rd := chanReads pb r e
  let wr := chanWrites r e
  insideChannel s (rd ++ wr) &&
    (spread s i mask r rd).all (fun p => inRanges (declared s x) p.1 p.2) &&
    (spread s i mask r wr).all (fun p => inRanges (localRanges s x.desc.outs) p.1 p.2)

/-- Whether a local range of a stack touches a sealed granule. -/
def touchesSealed (s : State) (i : Nat) (p : Nat × Nat) : Bool :=
  (upFrom (granOf (p.1 - stackBase i)) (granOf (p.1 + p.2 - 1 - stackBase i) + 1 - granOf (p.1 - stackBase i))).any
    (fun g => !(gran s i g).worked)

/-- Checks 3 to 7 of Table 4-3; 0 where all pass. -/
def progStatus (s : State) (x : Task) (i : Nat) (p : List Byte) : Status :=
  let mask := Prog.mask p
  if !ownsStack s x.part i then Code.windowFault
  else if mask &&& (stk s i).chAbsent.toNat ≠ 0 then Code.unitAbsent
  else if !(stk s i).sharded then Code.stateConflict
  else if x.desc.code % 64 ≠ 0 || !progFields p then Code.descriptorInvalid
  else match progPairs p with
    | none => Code.descriptorInvalid
    | some l =>
      if !(l.all (fun e => recOk mask (Prog.regs p) (Prog.size p) e.1 e.2 && recRanges s x i mask e.1 e.2)) then
        Code.descriptorInvalid
      else if l.any (fun e => (spread s i mask e.1 (chanWrites e.1 e.2)).any (touchesSealed s i)) then Code.sealedWrite
      else 0

/-! ## Activation (R106) -/

/-- Registers held by the active tasks of a stack. -/
def regsHeld (st : Stack) : Nat := (st.slots.map (fun e => (e.2.map (fun b => Prog.regs b.prog)).getD 0)).foldl (· + ·) 0

/-- Active slots in use. -/
def activeSlots (st : Stack) : Nat := st.slots.length

/-- The slot that an activated task takes. DESIGN CHOICE: the lowest free one of 0 to 3 (R107, log entry 131). -/
def freeSlot (st : Stack) : Option Nat := (List.range 4).find? (fun k => decide (tget none st.slots k = none))

/-- The head of the queue becomes active in slot `k`: its program is fetched and checked. Without room for its registers it
waits. -/
def activate (i k t : Nat) (x : Task) : Act Unit := do
  let r ← attempt (fetchProgram x)
  let s ← get
  match r with
  | .error st => edit (fun s => endWork (startTask s t) t st 0)
  | .ok p => do
    needReady (decide (32 < Prog.regs p) || decide (regsHeld (stk s i) + Prog.regs p ≤ 32))
    let st := progStatus s x i p
    edit (startTask · t)
    if st ≠ 0 then edit (fun s => endWork s t st 0)
    else edit (fun s => modStk s i (fun y => { y with slots := tset none y.slots k (some { task := t, prog := p }) }))
  edit (fun s => modStk s i (fun y => { y with benchQueue := y.benchQueue.drop 1 }))

def execBenchTaskActivate (i : Nat) (env : Env) (s : State) : Host.Outcome State Fault Refusal :=
  let s := applyEnv env s
  .next (match (stk s i).benchQueue, freeSlot (stk s i) with
    | t :: _, some k =>
      match taskAt s t with
      | some x =>
        if x.workDone || inReset s Dom.stack i || rangesBusy s (declared s x) then s
        else settle (activate i k t x) s (fun _ u => u)
      | none => s
    | _, _ => s)

/-! ## Operations (R99, R107) -/

/-- The extension of the record at `k`. -/
def extensionAt (p : List Byte) (k : Nat) : List Byte :=
  if Bop.opcode (Prog.record p k) = Bo.attn then Prog.record p (k + 1) else []

/-- Whether the task of a slot may start its next operation. -/
def mayRun (s : State) (b : Option BenchTask) : Bool :=
  match b with
  | some b => b.staged.isEmpty && decide (b.failed = 0) && ((taskAt s b.task).map (fun x => !x.workDone)).getD false
  | none => false

/-- The slot whose turn it is. -/
def nextSlot (s : State) (st : Stack) : Option Nat :=
  ((List.range 4).map (fun k => (st.rotation + k) % 4)).find? (fun k => mayRun s (tget none st.slots k))

/-- The operation of a slot starts: its reads are made and its results formed. DESIGN CHOICE: so data that another path writes meanwhile are the
old ones (Table 4-9, log entry 123). -/
def startOperation (i k : Nat) (b : BenchTask) (x : Task) : Act Unit := do
  let s ← get
  let r := Prog.record b.prog b.next
  let e := extensionAt b.prog b.next
  let c : BCtx := {
    i := i, part := x.part, base := Prog.base b.prog, mask := Prog.mask b.prog, regs := b.regs, ins := localRanges s x.desc.ins }
  let out ← attempt (runOperation c r e)
  let run : BenchRun := match out with
    | .ok o => { slot := k, stores := o.stores, banks := banksRead s c r e }
    | .error st => { slot := k, status := st, banks := banksRead s c r e }
  let marks : Bool × Bool := match out with
    | .ok o => (o.clamped, o.nan)
    | .error _ => (false, false)
  edit (fun s => modStk s i (fun y => { y with
    running := some run, rotation := (k + 1) % 4, opStart := now s,
    slots := tset none y.slots k (some { b with clamped := b.clamped || marks.1, nan := b.nan || marks.2 }) }))

/-- Whether the microcode of a bench array is being activated (Table 13-11): the array pauses after its current operation. -/
def benchPaused (s : State) (i : Nat) : Bool := decide (s.mgt.activating.head? = some 3) && decide (s.mgt.unit = i)

/-- The duty of a bench array in eighths: the most restrictive that THROTTLE, FLOOR and the cap ask for (R370, R377, R380). -/
def benchDuty (s : State) (i : Nat) : Nat :=
  if (dom s (4 + i)).state = .floor then 1 else Nat.max 1 (Nat.min 8 (Nat.min (dom s (4 + i)).duty s.pwr.capDuty))

/-- The idle time that keeps an array within its duty after an operation of `ns` nanoseconds. DESIGN CHOICE: the fraction of R370 is
held from operation to operation (log entry 103). -/
def restNs (s : State) (i ns : Nat) : Nat := ns * (8 - benchDuty s i) / benchDuty s i

/-- Whether the array may start an operation now: it is not in a reset, paused for its microcode, held idle by its duty, or stalled by a
channel retrain (R361, R370, Table 13-11). -/
def arrayFree (s : State) (i : Nat) : Bool :=
  !inReset s Dom.stack i && !benchPaused s i && !(stk s i).retrainBusy && decide ((stk s i).restUntil ≤ now s)

def execBenchOperationStart (i : Nat) (env : Env) (s : State) : Host.Outcome State Fault Refusal :=
  let s := applyEnv env s
  let st := stk s i
  .next (match st.running, nextSlot s st with
    | none, some k =>
      match tget none st.slots k with
      | some b =>
        match taskAt s b.task with
        | some x => if arrayFree s i then settle (startOperation i k b x) s (fun _ u => u) else s
        | none => s
      | none => s
    | _, _ => s)

/-- Owed refresh commands are issued (R84, R121). -/
def issueOwed (s : State) (i : Nat) : State :=
  modStk s i (fun st => { st with refreshed := st.refreshed + st.owed, owed := 0 })

/-- Bench registers take their bytes. -/
def pokeRegs (s : State) (i k a : Nat) (bs : List Byte) : State :=
  modStk s i (fun st => { st with slots := tmod none st.slots k (fun b => b.map (fun b => { b with regs := mwrite b.regs a bs })) })

/-- One write of an operation. A write that touches a sealed granule changes no byte (R66): check 7 of Table 4-3 finds every
such write but one after a change of mode has sealed the stack under a running task (R60). -/
def makeBenchStore (i k : Nat) : Store → Act Unit
  | .dram a bs => do
    eachAct checkStore (cut 64 a bs.length)
    let s ← get
    need (!touchesSealed s i (a, bs.length)) Code.sealedWrite
    storeHome none a bs
  | .bbuf a bs => storeBuf a bs
  | .breg a bs => edit (fun s => pokeRegs s i k a bs)

def isDram : Store → Bool
  | .dram _ _ => true
  | _ => false

/-- What follows once the writes of a task's latest operation have been made: its next operation, or its end (R108). -/
def afterOperation (s : State) (i k : Nat) : State :=
  match tget none (stk s i).slots k with
  | none => s
  | some b =>
    let limit := ((taskAt s b.task).map (fun x => x.limitHit)).getD false
    let done := decide (b.failed ≠ 0) || limit || decide (Prog.count b.prog ≤ b.next)
    if b.failed = Code.unitReset then endReset s i
    else if done then
      let st := if b.failed ≠ 0 then b.failed else if limit then Code.runTimeout else qualify 0 b.clamped b.nan
      endWork (modStk s i (fun y => { y with slots := tset none y.slots k none })) b.task st 0
    else s

/-- The writes of an operation are made; a failure is that of its task. -/
def writeOut (i k : Nat) (l : List Store) : Act Unit := do
  let r ← attempt (eachAct (makeBenchStore i k) l)
  edit (fun s =>
    let s := modStk s i (fun y => { y with slots := tmod none y.slots k (fun b => b.map (fun b => { b with
      staged := [],
      failed := match r with
        | .ok _ => b.failed
        | .error st => if b.failed = 0 then st else b.failed })) })
    afterOperation s i k)

/-- Staged writes of a stack are made when its write hold-off ends (R123). -/
def flushStaged (s : State) (i : Nat) : State :=
  (List.range 4).foldl (fun s k =>
    match tget none (stk s i).slots k with
    | some b => if b.staged.isEmpty then s else settle (writeOut i k b.staged) s (fun _ u => u)
    | none => s) s

/-- The running operation ends: its writes are made, or staged while the write hold-off lasts (R120, R123). -/
def endOperation (i : Nat) (r : BenchRun) : Act Unit := do
  let s ← get
  let step (b : BenchTask) : Nat := if Bop.opcode (Prog.record b.prog b.next) = Bo.attn then 2 else 1
  let held := (stk s i).writeHold && r.stores.any isDram
  edit (fun s => issueOwed (modStk s i (fun y => { y with
    running := none, restUntil := now s + restNs s i (now s - (stk s i).opStart),
    slots := tmod none y.slots r.slot (fun b => b.map (fun b => { b with
      next := b.next + step b, staged := if held then r.stores else [],
      failed := if b.failed = 0 then r.status else b.failed })) })) i)
  if held then pure () else writeOut i r.slot r.stores

def execBenchOperationEnd (i : Nat) (env : Env) (s : State) : Host.Outcome State Fault Refusal :=
  let s := applyEnv env s
  .next (match (stk s i).running with
    | some r =>
      if inReset s Dom.stack i || (stk s i).retrainBusy then s else settle (endOperation i r) s (fun _ u => u)
    | none => s)

/-- The time limit of a bench task: it ends with the operation that runs, else at once (R108, Table 4-9). -/
def limitBench (s : State) (t : Nat) : State :=
  let s := modTask s t (fun x => { x with limitHit := true })
  match (taskAt s t).bind (fun x => x.unit) with
  | none => s
  | some i =>
    (stk s i).slots.foldl (fun s e =>
      if e.2.any (fun b => decide (b.task = t) && b.staged.isEmpty) && !((stk s i).running.any (fun r => r.slot = e.1)) then
        afterOperation s i e.1
      else s) s

end Sys2Proof.Machine
end

