-- ==== Sys2Proof/Machine/Stacks.lean ====
section
/-! DEFINITION. What the base dies do (spec/03): mapping mode and lock (R59, R60), maintenance tasks (R70 to R73), write-back
and mirror repair (R68, R75), scrub (R80), spares (R81), refresh (R83, R84) and channel retraining (R92, R361). -/

namespace Sys2Proof.Machine
open Sys2Proof

/-! ## `STK.CONFIG` (Table 3-15) -/

/-- Every present sector of a stack starts to be filled, in a new mode (R60). -/
def changeMode (s : State) (i : Nat) (sharded : Bool) : State :=
  if (stk s i).sharded = sharded then s
  else modStk (fillStack s i) i (fun st => { st with sharded := sharded })

/-- A write of `STK.CONFIG`, field by field (R395). -/
def writeStkConfig (i off : Nat) (value : Word) (s : State) : State :=
  let v := value.toNat
  let st := stk s i
  let ecc := fld v 3 2
  if st.lock then
    if st.sharded = bit v 0 ∧ (ecc = b2n st.correct2 ∨ 1 < ecc) then s else setupIgnored s off value
  else
    let s := changeMode s i (bit v 0)
    modStk s i (fun st => { st with
      correct2 := if ecc = 0 then false else if ecc = 1 then true else st.correct2, lock := bit v 8 })

/-- The word that gives `STK.CONFIG` its present fields. -/
def stkConfigWord (st : Stack) : Nat := b2n st.lock * 256 + b2n st.correct2 * 4 + b2n st.sharded

def execStackModeWrite (p : PortId) (i : Nat) (sharded : Bool) (s : State) : Host.Outcome State Fault Refusal :=
  let v := BitVec.ofNat 64 (stkConfigWord { stk s i with sharded := sharded })
  .next (viseWrite s p (Base.stk i) v (writeStkConfig i (Base.stk i) v))

def execStackConfigLock (p : PortId) (i : Nat) (s : State) : Host.Outcome State Fault Refusal :=
  let v := BitVec.ofNat 64 (stkConfigWord { stk s i with lock := true })
  .next (viseWrite s p (Base.stk i) v (writeStkConfig i (Base.stk i) v))

/-- Whether a base die works: the main rails are on and its logic is not being reset. -/
def dieServes (s : State) (i : Nat) : Bool := s.hub.mainPg && !inReset s Dom.stack i

def execStackFillEnd (i : Nat) (s : State) : Host.Outcome State Fault Refusal :=
  .next (if (stk s i).initBusy && dieServes s i && !(stk s i).writeHold && !(stk s i).retrainBusy then
      flushStaged (modStk s i (fun st => { st with initBusy := false })) i
    else s)

/-! ## One sector (R68, R75, R80) -/

/-- A PRIMARY sector takes the bytes of its COPY in stack `j`, and the repair is logged (R75). -/
def restoreSector (s : State) (i j sec : Nat) : State :=
  let s := clearBad (pokeDram s (stackBase i + sec * 64) (sectorBytes s j sec)) i sec
  logEvent s Cls.mirrorRepair 1 0 6 (64 * i + (channelOf s i (sec * 64)).1) j (stackBase i + sec * 64)

/-- A PRIMARY sector is rewritten from its COPY; an uncorrectable COPY leaves poison (R75). A granule that is PRIMARY no longer has
no COPY, and the repair is given up. -/
def repairSector (s : State) (i sec : Nat) : State :=
  let g := gran s i (sec / 32768)
  if g.role ≠ 1 then modStk s i (fun st => { st with mirrorPending := st.mirrorPending.filter (· ≠ sec) })
  else match readAlone s g.partner sec with
    | (.poison, s) => poisonSector (clearBad s i sec) i sec false
    | (_, s) => restoreSector s i g.partner sec

/-- Whether the base die may rewrite a sector now: no write hold-off (R86), and its channel, and that of a COPY it needs, in no
retraining (R361). -/
def mayRewrite (s : State) (i sec : Nat) : Bool :=
  !(stk s i).writeHold && !chanHeld s i (sec * 64) && !copyHeld s i sec

/-- A sector is only read, as in a write hold-off: it is poisoned where R80 says so, and a rewrite is left for later (R86, R87). -/
def scrubRead (s : State) (i sec : Nat) : State :=
  if badBytes s i sec = 0 || isPoisoned s i sec then s else (readSector s i sec).2

/-- One sector is scrubbed (R80): whether it was rewritten, and whether it was poisoned. -/
def scrubSector (s : State) (i sec : Nat) : State × Bool × Bool :=
  if badBytes s i sec = 0 || isPoisoned s i sec then (s, false, false)
  else match readSector s i sec with
    | (.data, s) => (clearBad s i sec, true, false)
    | (.copy j, s) => (restoreSector s i j sec, true, false)
    | (.poison, s) => (s, false, true)

/-- The sectors of a granule that hold errors. -/
def badSectors (s : State) (i g : Nat) : List Nat :=
  ((stk s i).latent.filter (fun e => decide (e.1 / 32768 = g))).map Prod.fst

/-- A scrub of several sectors: how many were rewritten and how many poisoned. -/
def scrubAll (s : State) (i : Nat) : List Nat → State × Nat × Nat
  | [] => (s, 0, 0)
  | sec :: t =>
    let (s, a, b) := scrubSector s i sec
    let (s, x, y) := scrubAll s i t
    (s, b2n a + x, b2n b + y)

def execCorrectedWriteback (i sector : Nat) (s : State) : Host.Outcome State Fault Refusal :=
  .next (if (stk s i).writeback.contains sector && dieServes s i && mayRewrite s i sector then clearBad s i sector else s)

def execMirrorReadReturn (i sector : Nat) (env : Env) (s : State) : Host.Outcome State Fault Refusal :=
  let s := applyEnv env s
  .next (if (stk s i).mirrorPending.contains sector && dieServes s i && mayRewrite s i sector then repairSector s i sector else s)

/-- The next present sector from `sec` upwards, round the window of the stack. -/
def presentFrom (s : State) (i : Nat) : Nat → Nat → Nat
  | 0, sec => sec
  | n + 1, sec =>
    let per := channelBytes s / 64
    if 64 * per ≤ sec then presentFrom s i n 0
    else if absentOff s i (sec * 64) then presentFrom s i n ((sec / per + 1) * per)
    else sec

/-- The patrol reads its next sector. While a write hold-off lasts it reads on and only its rewrites wait (R87). DESIGN CHOICE: at a
granule that is not IDLE, or a channel in a retraining, the whole patrol waits (log entry 95). -/
def execScrubTick (i : Nat) (env : Env) (s : State) : Host.Outcome State Fault Refusal :=
  let s := applyEnv env s
  let sec := presentFrom s i 130 (stk s i).scrubPos
  .next (if (stk s i).periodH = 0 || !dieServes s i || granBusy s i (sec / 32768) || chanHeld s i (sec * 64) || copyHeld s i sec ||
      !stackPresent s i then s
    else modStk (if (stk s i).writeHold then scrubRead s i sec else (scrubSector s i sec).1) i
      (fun st => { st with scrubPos := sec + 1 }))

def execSpareCopyEnd (i : Nat) (unreadable : List Nat) (s : State) : Host.Outcome State Fault Refusal :=
  .next (match (stk s i).sparing with
    | some (h, _) =>
      if dieServes s i && !(stk s i).writeHold && !((stk s i).retrainBusy && decide ((stk s i).retrainHeld.toNat = h)) then
        let mine (sec : Nat) : Bool := decide ((channelOf s i (sec * 64)).1 = h) && !absentOff s i (sec * 64)
        let bad := ((stk s i).latent.map Prod.fst).filter mine
        if bad.any (copyHeld s i) then s
        else
          let s := (scrubAll s i bad).1
          let s := (unreadable.filter mine).foldl (fun s sec => poisonSector s i sec (gran s i (sec / 32768)).worked) s
          spareServe (modStk s i (fun st => { st with sparing := none })) i
      else s
    | none => s)

/-! ## Refresh (R83, R84) -/

/-- A fifth command would be owed: the bench operation stalls and every owed command is issued (R84). -/
def forceRefresh (s : State) (i : Nat) : State :=
  modStk s i (fun st => { st with
    refreshed := st.refreshed + st.owed + 1, nextBank := st.nextBank + 1, owed := 0, forcedRefresh := st.forcedRefresh + 1 })

/-- Whether the next bank due may lie in the bank set of the running operation: the set is a part of the banks that hold the rows it
reads (R121). -/
def holdsBanks (st : Stack) : Bool := (st.running.map (fun r => r.banks.contains st.nextBank.toNat)).getD false

/-- One command interval: the next bank is refreshed, or postponed where it lies in the bank set: which rows the operation has open at
this moment is open (log entry 8). -/
def refreshStep (s : State) (i : Nat) : State :=
  let plain (s : State) : State := modStk s i (fun st => { st with refreshed := st.refreshed + 1, nextBank := st.nextBank + 1 })
  if holdsBanks (stk s i) then
    let (inSet, s) := freeBelow s 2
    if inSet = 0 then plain s
    else if (stk s i).owed < 4 then modStk s i (fun st => { st with owed := st.owed + 1, nextBank := st.nextBank + 1 })
    else forceRefresh s i
  else plain s

def execRefreshCommand (i : Nat) (s : State) : Host.Outcome State Fault Refusal :=
  .next (if dieServes s i then refreshStep s i else s)

def execForcedRefresh (i : Nat) (s : State) : Host.Outcome State Fault Refusal :=
  .next (if dieServes s i && holdsBanks (stk s i) && decide ((stk s i).owed = 4) then forceRefresh s i else s)

/-! ## Channel retraining (R92, R361) -/

/-- A write of `STK.RETRAIN`. -/
def writeRetrain (i : Nat) (value : Word) (s : State) : State :=
  let h := BitVec.ofNat 6 value.toNat
  let s := modStk s i (fun st => { st with retrainChannel := h })
  if bit value.toNat 63 then
    let st := stk s i
    if st.sparing.isSome || st.retrainBusy then modStk s i (fun st => { st with retrainStatus := Code.stateConflict })
    else if bit st.chAbsent.toNat h.toNat then modStk s i (fun st => { st with retrainStatus := Code.unitAbsent })
    else modStk s i (fun st => { st with retrainBusy := true, retrainHeld := h })
  else s

def execRetrain (p : PortId) (i : Nat) (value : Word) (s : State) : Host.Outcome State Fault Refusal :=
  .next (viseWrite s p (Base.stk i + 0x68) value (writeRetrain i value))

/-- Whether the running retrain of a stack applies new stack interface tables (Table 13-11), not a write of `STK.RETRAIN`. -/
def retrainForTables (s : State) (i : Nat) : Bool :=
  s.mgt.channelRuns && decide (s.mgt.activating.head? = some 5) && decide (s.mgt.unit = i)

def execRetrainEnd (i : Nat) (repaired : Bool) (s : State) : Host.Outcome State Fault Refusal :=
  .next (if (stk s i).retrainBusy && dieServes s i then
      let s := modStk s i (fun st => { st with
        retrainBusy := false, retrainStatus := if retrainForTables s i then st.retrainStatus else Code.ok })
      flushStaged (if repaired then s else spareAsk s i (stk s i).retrainHeld.toNat true) i
    else s)

/-! ## Maintenance tasks: operand block and checks (Table 3-6, R70, R82) -/

namespace Mop
def resealOp : BitVec 8 := 1
def unsealOp : BitVec 8 := 2
def setMirror : BitVec 8 := 3
def clearMirror : BitVec 8 := 4
def clearPoison : BitVec 8 := 5
def scrubNow : BitVec 8 := 6
def mapOut : BitVec 8 := 7
end Mop

/-- The granules of a logical channel, or of the whole stack in STRIPED mode. -/
def channelGranules (s : State) (i h : Nat) : Nat × Nat :=
  let per := channelBytes s / 2097152
  if (stk s i).sharded then (h * per, (h + 1) * per) else (0, (activeChannels (stk s i)).length * per)

/-- The operand block as an operation, where its fields are in range. -/
def parseMaint (s : State) (t i : Nat) (b : List Byte) : Option Maint :=
  let op := at_ b 0 1
  let partner := at_ b 2 1
  let first := at_ b 4 4
  let count := at_ b 8 4
  if at_ b 1 1 ≠ i || decide (op < 1 ∨ 7 < op) || decide (at_ b 3 1 ≠ 0) || decide (at_ b 12 4 ≠ 0) then none
  else if op = 7 then
    if 63 < partner then none
    else
      let r := channelGranules s i partner
      some { task := t, op := 7, partner := partner, next := r.1, last := r.2 }
  else if decide (op ≠ 3 ∧ partner ≠ 0) || decide (32767 < first) || decide (count < 1 ∨ 32768 - first < count) then none
  else some { task := t, op := BitVec.ofNat 8 op, partner := partner, next := first, last := first + count }

/-- The tasks that have started and not completed, apart from one. -/
def othersRunning (s : State) (t : Nat) : List (Nat × Task) :=
  (allTasks s).filter (fun e => decide (e.1 ≠ t) && e.2.started && unfinished e.2)

/-- The other stacks that a maintenance operation of stack `i` reaches into: the partner that SET_MIRROR names, and the other halves of
the pairs in its range. -/
def partnersOf (s : State) (i : Nat) (m : Maint) : List Nat :=
  let halves := (stk s i).granules.filter (fun e => decide (m.next ≤ e.1 ∧ e.1 < m.last ∧ e.2.role ≠ 0))
  ((if m.op = Mop.setMirror then [m.partner] else []) ++ halves.map (fun e => e.2.partner)).eraseDups

/-- Whether a task uses a stack: as its unit, by a declared range, or by a maintenance operation that reached into it as it started (R82). -/
def usesStack (s : State) (i : Nat) (e : Nat × Task) : Bool :=
  (decide (e.2.desc.kind = Kind.bench ∨ e.2.desc.kind = Kind.maint) && decide (e.2.unit = some i)) ||
    overlapsAny (declared s e.2) (stackBase i) 0x1000000000 || e.2.mirrors.contains i

/-- Whether other tasks hold a granule, or it is not IDLE, or its role forbids the operation. -/
def granConflict (s : State) (m : Maint) (others : List (List (Nat × Nat))) (i g : Nat) : Bool :=
  let e := gran s i g
  others.any (fun rs => overlapsAny rs (stackBase i + g * 2097152) 2097152) || decide (e.state ≠ 0) || (stk s i).initBusy ||
    (decide (e.role = 2) && decide (m.op ≠ Mop.clearMirror)) ||
    (decide (e.role = 1) && decide (m.op = Mop.unsealOp ∨ m.op = Mop.setMirror)) ||
    (decide (m.op = Mop.setMirror) && e.worked)

/-- The checks of R70 and R82, in their order; 0 where all pass. DESIGN CHOICE: MAP_OUT of a channel that is mapped out already gives UNIT_ABSENT
in STRIPED mode too, where no granule of its own is left to be absent (log entry 130). -/
def maintStatus (s : State) (x : Task) (m : Maint) (i : Nat) : Status :=
  let gs := upFrom m.next (m.last - m.next)
  let mirror := decide (m.op = Mop.setMirror)
  let others := (othersRunning s m.task).map (fun e => declared s e.2)
  if !ownsStack s x.part i || (mirror && !ownsStack s x.part m.partner) then Code.windowFault
  else if decide (m.op = Mop.mapOut) && bit (stk s i).chAbsent.toNat m.partner then Code.unitAbsent
  else if gs.any (fun g => absentOff s i (g * 2097152) || (mirror && absentOff s m.partner (g * 2097152))) then Code.unitAbsent
  else if mirror && (decide (m.partner = i) || decide ((stk s i).sharded ≠ (stk s m.partner).sharded)) then Code.stateConflict
  else if gs.any (fun g => granConflict s m others i g || (mirror && granConflict s m others m.partner g)) then
    Code.stateConflict
  else if decide (m.op = Mop.mapOut) && (othersRunning s m.task).any (usesStack s i) then Code.stateConflict
  else 0

/-! ## Maintenance tasks: granule by granule (R71 to R73) -/

/-- STATE of a granule while an operation works on it. -/
def workState (op : BitVec 8) : BitVec 2 :=
  if op = Mop.resealOp ∨ op = Mop.unsealOp then 1 else if op = Mop.setMirror then 2 else if op = Mop.clearPoison then 3 else 0

/-- Whether a granule is left as it is: RESEAL and UNSEAL pass over the target kind. -/
def alreadyThere (s : State) (m : Maint) (i : Nat) : Bool :=
  (decide (m.op = Mop.resealOp) && !(gran s i m.next).worked) || (decide (m.op = Mop.unsealOp) && (gran s i m.next).worked)

/-- The base die starts on the next granule of the range. -/
def beginGranule (s : State) (i : Nat) (m : Maint) : State :=
  let s := modStk s i (fun st => { st with maint := some { m with active := true } })
  if alreadyThere s m i || decide (m.op = Mop.mapOut) then s
  else
    let s := modGran s i m.next (fun g => { g with state := workState m.op })
    if m.op = Mop.setMirror then modGran s m.partner m.next (fun g => { g with state := workState m.op }) else s

/-- One granule changes its kind (Table 3-7): the sectors newly poisoned. -/
def convertGranule (s : State) (i g : Nat) (worked : Bool) : State × Nat :=
  let (s, _, n) := scrubAll s i (badSectors s i g)
  (modGran s i g (fun e => { e with worked := worked, state := 0 }), n)

/-- The bytes of a granule read zero; its errors and its list entries are gone (whole sectors are written, R79). -/
def zeroGranule (s : State) (i g : Nat) : State :=
  let out (sec : Nat) : Bool := decide (sec / 32768 ≠ g)
  let lo := stackBase i + g * 2097152
  modStk (wipeDram s lo (lo + 2097152)) i (fun st => { st with
    latent := st.latent.filter (fun e => out e.1), writeback := st.writeback.filter out,
    mirrorPending := st.mirrorPending.filter out,
    poison := st.poison.filter (fun e => (e.2.map (fun p => out p.sector)).getD true) })

/-- Poisoned sectors of a granule by its list entries. -/
def poisonedIn (st : Stack) (g : Nat) : List Nat :=
  st.poison.filterMap (fun e => e.2.bind (fun p => if p.sector / 32768 = g then some p.sector else none))

/-- Cells of stack `i` copied to the same offsets of stack `j`. -/
def copyCells (s : State) (i j : Nat) (cells : Memory) : State :=
  { s with dram := cells.foldl (fun d c => mset d (c.1 - stackBase i + stackBase j) c.2) s.dram }

/-- The sectors of a granule that count as poisoned: each one of a POISON_ALL granule (R77). -/
def poisonedOf (s : State) (i g : Nat) : List Nat :=
  if (gran s i g).poisonAll then upFrom (32768 * g) 32768 else poisonedIn (stk s i) g

/-- Sectors of a stack are read, and rewritten where they were corrected; a write hold-off of the stack leaves the rewrites to the write-back
list (R87). How many are newly poisoned. -/
def readOver (s : State) (i : Nat) (l : List Nat) : State × Nat :=
  if (stk s i).writeHold then
    l.foldl (fun a sec =>
      let t := scrubRead a.1 i sec
      (t, a.2 + b2n (!isPoisoned a.1 i sec && isPoisoned t i sec))) (s, 0)
  else
    let (s, _, n) := scrubAll s i l
    (s, n)

/-- The COPY in stack `j` is filled from the granule of stack `i`; what the PRIMARY cannot give is poisoned, sector by sector (R76,
R77). -/
def fillCopy (s : State) (i j g : Nat) : State × Nat :=
  let (s, n) := readOver s i (badSectors s i g)
  let s := zeroGranule s j g
  let lo := stackBase i + g * 2097152
  let cells := s.dram.filter (fun c => decide (lo ≤ c.1) && decide (c.1 < lo + 2097152))
  let s := copyCells s i j cells
  let bad := (poisonedOf s i g).filter (fun sec => !isPoisoned s j sec)
  let s := bad.foldl (fun s sec => poisonSector s j sec false) s
  let s := modGran s i g (fun e => { e with role := 1, partner := j, state := 0 })
  (modGran s j g (fun e => { e with role := 2, partner := i, state := 0 }), n + bad.length)

/-- Every RESIDENT sequence with its home on a stack that loses a channel is marked (R284). -/
def markHome (s : State) (i : Nat) : State := markPoison s (fun k => decide (k.state = .resident) && decide (k.home = i))

/-- A logical channel is mapped out (R82): how many granules changed. -/
def mapOut (s : State) (i h : Nat) : State × Nat :=
  let s := markHome s i
  let r := channelGranules s i h
  let absent (st : Stack) : Stack := { st with chAbsent := st.chAbsent ||| BitVec.ofNat 64 (2 ^ h) }
  if (stk s i).sharded then
    let out (sec : Nat) : Bool := decide (sec / 32768 < r.1 ∨ r.2 ≤ sec / 32768)
    (modStk s i (fun st => absent { st with
      latent := st.latent.filter (fun e => out e.1), writeback := st.writeback.filter out,
      mirrorPending := st.mirrorPending.filter out, spareWanted := st.spareWanted.filter (· ≠ h),
      poison := st.poison.filter (fun e => (e.2.map (fun p => out p.sector)).getD true) }), r.2 - r.1)
  else (fillStack (modStk s i absent) i, (channelGranules (modStk s i absent) i h).2)

/-- One granule of the operation is done: the state, whether it changed, and the sectors newly poisoned. -/
def doGranule (s : State) (i : Nat) (m : Maint) : State × Nat × Nat :=
  let g := m.next
  if m.op = Mop.mapOut then
    let (s, n) := mapOut s i m.partner
    (s, n, 0)
  else if alreadyThere s m i then (s, 0, 0)
  else if m.op = Mop.resealOp then
    let (s, n) := convertGranule s i g false
    (s, 1, n)
  else if m.op = Mop.unsealOp then
    let (s, n) := convertGranule s i g true
    (s, 1, n)
  else if m.op = Mop.setMirror then
    let (s, n) := fillCopy s i m.partner g
    (s, 1, n)
  else if m.op = Mop.clearMirror then
    let e := gran s i g
    if e.role = 0 then (s, 0, 0)
    else
      let clear (e : Gran) : Gran := { e with role := 0, partner := 0 }
      (modGran (modGran s e.partner g clear) i g clear, 1, 0)
  else if m.op = Mop.clearPoison then
    let e := gran s i g
    let s := zeroGranule s i g
    let s := if e.role = 1 then zeroGranule s e.partner g else s
    (modGran s i g (fun e => { e with poisonAll := false, state := 0 }), 1, 0)
  else
    let (s, a, b) := scrubAll s i (badSectors s i g)
    (s, if a + b = 0 then 0 else 1, b)

/-- Whether a retraining holds a channel of a granule: any channel in STRIPED mode (R361). -/
def granRetrains (s : State) (i g : Nat) : Bool :=
  (stk s i).retrainBusy && (!(stk s i).sharded || chanHeld s i (g * 2097152))

/-- The stacks that an operation reads or writes for its next granule: its own, and that of the other half of a pair. -/
def maintStacks (s : State) (i : Nat) (m : Maint) : List Nat :=
  let e := gran s i m.next
  if m.op = Mop.setMirror then [i, m.partner] else if e.role = 1 then [i, e.partner] else [i]

/-- Whether an operation on a granule of stack `i` writes it in stack `j`: SET_MIRROR only reads the PRIMARY. -/
def maintInto (i j : Nat) (m : Maint) : Bool :=
  if m.op = Mop.setMirror then decide (j ≠ i) else decide (j = i) || decide (m.op = Mop.clearPoison)

/-- Whether the next granule of an operation is written in DRAM: SCRUB_NOW writes where it rewrites a sector, the others all of it
(R86, R87). -/
def maintWrites (s : State) (i : Nat) (m : Maint) : Bool :=
  decide (m.op ≠ Mop.scrubNow) || decide ((scrubAll s i (badSectors s i m.next)).2.1 ≠ 0)

/-- Whether the next granule must wait: for a write hold-off where it is written (R86, R87), for a retraining of its channel (R361) or
of a die edge between a pair (R18).
CLEAR_MIRROR, a SHARDED MAP_OUT and a granule left as it is touch no DRAM. -/
def maintHeld (s : State) (i : Nat) (m : Maint) : Bool :=
  if m.op = Mop.clearMirror || (decide (m.op = Mop.mapOut) && (stk s i).sharded) || alreadyThere s m i then false
  else (maintStacks s i m).any (fun j => granRetrains s j m.next || !bothWays s (i / 6) (j / 6)) ||
    (maintWrites s i m && (maintStacks s i m).any (fun j => (stk s j).writeHold && maintInto i j m))

/-- The granule in progress is done; the next one starts, unless the task has been stopped (R235, R350). -/
def granuleDone (s : State) (i : Nat) (m : Maint) : State :=
  let (s, changed, bad) := doGranule s i m
  let next := if m.op = Mop.mapOut then m.last else m.next + 1
  let m := { m with next := next, active := false, changed := m.changed + changed, poisoned := m.poisoned + bad }
  let stop := ((taskAt s m.task).map (fun x => x.stopped || x.limitHit)).getD true
  let s := if next < m.last && !stop then beginGranule s i m
    else modStk s i (fun st => { st with maint := some m, maintDone := true })
  flushStaged s i

def execMaintGranuleDone (i : Nat) (env : Env) (s : State) : Host.Outcome State Fault Refusal :=
  let s := applyEnv env s
  .next (match (stk s i).maint with
    | some m => if m.active && dieServes s i && !maintHeld s i m then granuleDone s i m else s
    | none => s)

/-! ## Maintenance tasks: start and end -/

/-- The task ends at its start, with no effect. -/
def maintRefused (s : State) (i t : Nat) (st : Status) : State :=
  endWork (modStk s i (fun y => { y with maintPlaced := none, maint := none })) t st 0

/-- The checks of R70, then the first granule. A MAP_OUT waits before them for the fuse range (R375). -/
def maintCheck (s : State) (i : Nat) (x : Task) (m : Maint) : State :=
  if m.op = Mop.mapOut && !fuseReady s (4 + i) then
    holdFuse (modStk s i (fun st => { st with maintPlaced := none, maint := some m })) (4 + i)
  else
    let s := if m.op = Mop.mapOut then freeFuse s (4 + i) else s
    let st := maintStatus s x m i
    if st ≠ 0 then maintRefused s i m.task st
    else
      let s := modTask s m.task (fun x => { x with mirrors := partnersOf s i m })
      beginGranule (modStk s i (fun st => { st with maintPlaced := none })) i m

/-- A placed task starts: its operand block is read (R230). -/
def maintBegin (i t : Nat) (x : Task) : Act (Option Maint) := do
  edit (startTask · t)
  let b ← loadFor (i / 6) x.part x.desc.code 16
  let s ← get
  pure (parseMaint s t i b)

def execMaintTaskStart (i : Nat) (env : Env) (s : State) : Host.Outcome State Fault Refusal :=
  let s := applyEnv env s
  .next (if !dieServes s i then s
    else match (stk s i).maint, (stk s i).maintPlaced with
      | some m, _ =>
        match taskAt s m.task with
        | some x => if m.active || (stk s i).maintDone then s else maintCheck s i x m
        | none => s
      | none, some t =>
        match taskAt s t with
        | some x =>
          if x.workDone then s
          else settle (maintBegin i t x) s (fun r u => match r with
            | .error st => maintRefused u i t st
            | .ok none => maintRefused u i t Code.descriptorInvalid
            | .ok (some m) => maintCheck u i x m)
        | none => s
      | none, none => s)

/-- The task of a finished operation completes with its counts (R72); a MAP_OUT that still waits may be stopped too. -/
def maintFinish (s : State) (i : Nat) (m : Maint) (x : Task) : State :=
  let st := if x.stopped then Code.unitReset else if x.limitHit then Code.runTimeout else Code.ok
  endWork (freeFuse (modStk s i (fun y => { y with maint := none, maintDone := false })) (4 + i)) m.task st
    (BitVec.ofNat 64 (m.changed * 2 ^ 32 + m.poisoned))

def execMaintTaskEnd (i : Nat) (s : State) : Host.Outcome State Fault Refusal :=
  .next (match (stk s i).maint with
    | some m =>
      match taskAt s m.task with
      | some x =>
        let done := (stk s i).maintDone && !(decide (m.op = Mop.mapOut) && (stk s i).initBusy)
        let cut := !m.active && !(stk s i).maintDone && (x.stopped || x.limitHit)
        if done || cut then maintFinish s i m x else s
      | none => s
    | none => s)

/-- The oldest interrupted conversion of a stack is finished (R73). -/
def execConversionResume (i : Nat) (env : Env) (s : State) : Host.Outcome State Fault Refusal :=
  let s := applyEnv env s
  .next (match (stk s i).conversion with
    | (g, worked) :: rest =>
      if dieServes s i && !(stk s i).writeHold && !granRetrains s i g then
        flushStaged (modStk (convertGranule s i g worked).1 i (fun st => { st with conversion := rest })) i
      else s
    | [] => s)

end Sys2Proof.Machine
end

