-- ==== Sys2Proof/Machine/Completions.lean ====
section
/-! DEFINITION. Completion entries (R214, R215), rings that come to rest (R217), and graphs that are rejected (R224). -/

namespace Sys2Proof.Machine
open Sys2Proof

/-- The port of a ring. -/
def ringPort (r : Ring) : PortId := portOf r.portB

/-- Whether the next completion slot is free (R215). -/
def cqRoom (r : Ring) : Bool := decide ((r.cqTail - r.cqHead).toNat < 2 ^ r.cqLog2.toNat)

/-- Bytes 0 to 27 of a completion entry (Table 8-3). -/
def entryBytes (c : Completion) : List Byte :=
  leBytes 8 c.userTag.toNat ++ leBytes 8 c.endTime.toNat ++ leBytes 4 c.sqCount.toNat ++ leBytes 2 c.failed.toNat
    ++ leBytes 2 c.skipped.toNat ++ leBytes 4 (b2n c.firstValid * 2 ^ 14 + c.firstTask.toNat)

/-- Bytes 28 to 31, with PHASE. -/
def phaseBytes (r : Ring) (c : Completion) : List Byte :=
  leBytes 4 ((if bit r.cqTail.toNat r.cqLog2.toNat then 0 else 2 ^ 31) + c.status.toNat)

/-- The slot of the completion tail. -/
def cqSlot (r : Ring) : Nat := r.cqBase.toNat * 64 + 32 * (r.cqTail.toNat % 2 ^ r.cqLog2.toNat)

/-- A graph whose results could not reach the host is logged once, with the address of the first write that was dropped (R347,
R355). -/
def logDropped (s : State) (i a : Nat) : State := logEvent s Cls.hostWriteDropped 2 0 8 (portIdx (ringPort (ring s i))) i a

/-- The next completion entry is written, PHASE last, and its message follows (R214). One that cannot reach the host is
dropped (R355). -/
def writeCompletion (s : State) (i : Nat) (c : Completion) : State :=
  let r := ring s i
  settle (do
      storeHome none (cqSlot r) (entryBytes c)
      storeHome none (cqSlot r + 28) (phaseBytes r c)) s (fun res s => match res with
    | .ok _ =>
      let s := modRing s i (fun r => { r with cqTail := r.cqTail + 1 })
      let s := match c.dropped with
        | some a => logDropped s i a
        | none => s
      if r.irqEn then raiseMsix s (ringPort r) r.vector.toNat else s
    | .error _ => logDropped s i (c.dropped.getD (cqSlot r)))

/-- A STOPPING ring whose graphs have all reported is STOPPED (R217). -/
def restRing (s : State) (i : Nat) : State :=
  modRing s i (fun r => if r.state = .stopping ∧ r.graphs = 0 ∧ r.held = [] then { r with state := .stopped } else r)

/-- Held completions are written while slots are free (R215), and dropped while the port is lost (R355). -/
def flushHeld : Nat → State → Nat → State
  | 0, s, _ => s
  | n + 1, s, i =>
    match (ring s i).held with
    | c :: rest =>
      if (cqRoom (ring s i) || portLost (port s (ringPort (ring s i)))) && !firmwarePaused s then
        flushHeld n (writeCompletion (modRing s i (fun r => { r with held := rest })) i c) i
      else s
    | [] => s

/-- A completion is written, or held behind the others while the ring is full (R215). -/
def pushCompletion (s : State) (i : Nat) (c : Completion) : State :=
  let s := modRing s i (fun r => { r with held := r.held ++ [c] })
  restRing (flushHeld (ring s i).held.length s i) i

/-- A rejection at submission or of a step descriptor (R224, R294): no task has run, no record is written. -/
def rejection (s : State) (userTag : BitVec 64) (sqCount : BitVec 32) (st : Status) (first : Option Nat) : Completion :=
  { userTag := userTag, endTime := s.time, sqCount := sqCount, status := st, firstValid := first.isSome,
    firstTask := BitVec.ofNat 14 (first.getD 0) }

/-- A graph leaves: its tasks are gone from the walkers and its ring counts one less. -/
def removeGraph (s : State) (g : Nat) : State :=
  match graphAt s g with
  | none => s
  | some x =>
    let s := { s with
      graphs := tset none s.graphs g none, steps := tset none s.steps g none, admitQueue := s.admitQueue.filter (· ≠ g),
      tasks := s.tasks.filter (fun e => decide (e.1 / 16384 ≠ g)) }
    modRing s x.ring (fun r => { r with graphs := r.graphs - 1 })

/-- A graph that has entered is rejected after all (R294). -/
def rejectGraph (s : State) (g : Nat) (st : Status) : State :=
  match graphAt s g with
  | none => s
  | some x => pushCompletion (removeGraph s g) x.ring (rejection s x.userTag x.sqCount st none)

end Sys2Proof.Machine
end

