-- ==== Sys2Proof/Machine/KvManager.lean ====
section
/-! DEFINITION. The KV manager (R270 to R278, R284): its own copy of the sequences, the descriptors that report it, and the
commands ALLOC, FREE, SWAP_OUT and SWAP_IN. -/

namespace Sys2Proof.Machine
open Sys2Proof

def seqAt (s : State) (q n : Nat) : KvSeq := tget {} (prt s q).seqs n
def modSeq (s : State) (q n : Nat) (f : KvSeq → KvSeq) : State := modPrt s q (fun p => { p with seqs := tmod {} p.seqs n f })

/-! ## Descriptors (Table 10-4) -/

def kvStateOf (c : Nat) : KvState :=
  match c with
  | 1 => .resident
  | 2 => .swappingOut
  | 3 => .swapped
  | 4 => .swappingIn
  | _ => .free

/-- A write of the hub to a home: where it cannot be made it is lost, and it waits where a task's write would. -/
def hubStore (a : Nat) (bs : List Byte) : Act Unit := do
  let _ ← attempt (storeFrom 4 none a bs)
  pure ()

/-- The device fields of a descriptor are written to its home (R273), a POISON flag that waited for it among them. -/
def reportSeq (q n : Nat) : Act Unit := do
  let s ← get
  let k := seqAt s q n
  eachAct (fun f => hubStore (descAddr s q n + f.1) f.2) (reportFields k)
  edit (fun s => modSeq s q n (fun k => { k with reportDue := false }))

/-- The sequences whose POISON flag their descriptors do not show yet. -/
def reportsDue (s : State) : List (Nat × Nat) :=
  s.parts.flatMap (fun e => (e.2.seqs.filter (fun k => k.2.reportDue)).map (fun k => (e.1, k.1)))

/-- The reports that had to wait are made, those apart that still have to (log entry 102). -/
def makeReports (s : State) : State :=
  (reportsDue s).foldl (fun s e => match runAct (reportSeq e.1 e.2) s with
    | (.ok _, t) => t
    | (.error _, _) => s) s

/-- LENGTH is written. -/
def writeLength (q n len : Nat) : Act Unit := do
  let s ← get
  hubStore (descAddr s q n + 12) (leBytes 4 len)

def readDesc (q n : Nat) : Act (List Byte) := do
  let s ← get
  loadFrom 4 (descAddr s q n) 64

/-- Host fields in range and reserved ones zero (check 1 of Table 10-6). -/
def hostFieldsOk (d : List Byte) : Bool :=
  decide (fld (at_ d 0 1) 6 3 = 0 ∧ 4 ≤ at_ d 2 1 ∧ at_ d 2 1 ≤ 12 ∧ at_ d 4 1 < 32) && [1, 8, 9].contains (at_ d 4 1 % 16) &&
    decide (1 ≤ at_ d 5 1 ∧ at_ d 5 1 ≤ 16 ∧ (at_ d 6 1 = 64 ∨ at_ d 6 1 = 128) ∧ 1 ≤ at_ d 7 1) &&
    decide (1 ≤ at_ d 8 4 ∧ at_ d 8 4 ≤ 2 ^ 24 ∧ at_ d 24 8 < 2 ^ 46 ∧ at_ d 24 8 % 64 = 0 ∧ at_ d 56 8 = 0)

def descLength (d : List Byte) : Nat := at_ d 12 4

/-- The page size that a region allocated now takes (R270). -/
def pageLogNow (s : State) (d : List Byte) : Nat := if s.hub.mode = 1 then at_ d 2 1 else 8

/-- The host fields of a descriptor as latched (R273), with the region that they call for (R275). -/
def latched (s : State) (k : KvSeq) (d : List Byte) : KvSeq :=
  let P := 2 ^ pageLogNow s d
  let fmt := at_ d 4 1 % 16
  let pb := kvPageBytes (bit (at_ d 4 1) 4) (at_ d 7 1) (at_ d 5 1) P (kvRow fmt (at_ d 6 1))
  let rows := kvRows (at_ d 8 4) P
  { k with
    layout := bit (at_ d 4 1) 4, fmt := fmt, kvh := at_ d 5 1, d := at_ d 6 1, layers := at_ d 7 1, maxTokens := at_ d 8 4,
    swapAddr := at_ d 24 8, pageLog2 := pageLogNow s d, pageBytes := pb, slabs := (rows * pb + 2097151) / 2097152,
    capacity := 64 * P * rows }

/-! ## Pools and slabs (R271, R275) -/

/-- The pool of a stack: first slab and how many. -/
def poolOf (s : State) (q i : Nat) : Option (Nat × Nat) := tget none (prt s q).pools i

/-- Whether a sequence has slabs of its home stack. -/
def hasHome (k : KvSeq) : Bool := decide (k.state = .resident) || decide (k.state = .swappingOut) || decide (k.state = .swappingIn)

/-- Whether a sequence's region holds slab `b` of stack `i`. -/
def regionHolds (i b : Nat) (k : KvSeq) : Bool :=
  hasHome k && decide (k.home = i) && decide (k.base / 2097152 ≤ b) && decide (b < k.base / 2097152 + k.slabs)

/-- Whether a region holds a slab, sequences `extra` of partition `q` apart. -/
def slabTaken (s : State) (q i : Nat) (extra : List Nat) (b : Nat) : Bool :=
  s.parts.any (fun e => e.2.seqs.any (fun k => !(decide (e.1 = q) && extra.contains k.1) && regionHolds i b k.2))

/-- Whether slab `b` may be taken: free, and worked, IDLE, without a role and free of POISON_ALL in every channel. -/
def slabUsable (s : State) (q i : Nat) (extra : List Nat) (b : Nat) : Bool :=
  !slabTaken s q i extra b && !(stk s i).initBusy &&
    (List.range 64).all (fun h =>
      let g := gran s i (h * (channelBytes s / 2097152) + b)
      g.worked && decide (g.state = 0) && decide (g.role = 0) && !g.poisonAll)

/-- The lowest run of `need` usable slabs of a pool. -/
def findRun (s : State) (q i : Nat) (extra : List Nat) (pool : Nat × Nat) (need : Nat) : Option Nat :=
  (upFrom pool.1 (pool.2 + 1 - need)).find? (fun b => (upFrom b need).all (slabUsable s q i extra))

/-! ## Checks (Table 10-6) -/

/-- Whether a sequence is paused (R302). -/
def isPaused (s : State) (q n : Nat) : Bool := (prt s q).paused.any (fun r => r.seq = n)

/-- Whether a step in flight holds a sequence or names it in any entry, inactive ones too (check 4 of Table 10-6). An entry that
asked to be filled and was not names none. -/
def stepNames (s : State) (q n : Nat) : Bool :=
  (seqAt s q n).step.isSome || s.steps.any (fun e => match e.2 with
    | some x => decide (x.part = q) && x.finals.isNone && x.entries.any (fun a => !a.req.fill && decide (a.req.seq = n))
    | none => false)

/-- Whether the swap image of a sequence lies inside one host window and the partition's windows. -/
def imageInside (s : State) (q : Nat) (write : Bool) (k : KvSeq) (len : Nat) : Bool :=
  let n := Nat.max 1 (imageBytes k len)
  [4, 5].contains (rowOf k.swapAddr) && decide (rowOf k.swapAddr = rowOf (k.swapAddr + n - 1)) && inWindows s q write k.swapAddr n

/-- Whether the stack of a swap, or the die that copies for it, is in SHUTDOWN (R373). The test stands between checks 2 and 3
of Table 10-6 (DEDUCED, log entry 115). -/
def kvOffline (s : State) (i : Nat) : Bool := stackDown s i || dieDown s (i / 6)

/-- Where a command ends: 0 is OK. -/
def orElseStatus (st : Status) (next : Status) : Status := if st = 0 then next else st

/-- A region is allocated for the latched fields, or KV_FULL. -/
def takeRegion (s : State) (q n i : Nat) (k : KvSeq) (next : KvState) : Status × State :=
  match poolOf s q i with
  | none => (Code.windowFault, s)
  | some pool =>
    match findRun s q i [] pool k.slabs with
    | none => (Code.kvFull, s)
    | some b => (0, modSeq s q n (fun _ => { k with state := next, home := i, base := b * 2097152 }))

/-- A sequence that has passed the checks of ALLOC gets its region. -/
def kvGive (q n i : Nat) (k : KvSeq) : Act Status := do
  let s ← get
  let r := takeRegion s q n i k .resident
  if r.1 ≠ 0 then pure r.1
  else do
    set r.2
    writeLength q n 0
    reportSeq q n
    pure 0

/-- ALLOC. -/
def kvAlloc (q n i : Nat) : Act Status := do
  let s ← get
  if decide ((prt s q).seqCount ≤ n) then pure Code.descriptorInvalid
  else do
    let d ← attempt (readDesc q n)
    match d with
    | .error e => pure e
    | .ok d =>
      let s ← get
      let k := seqAt s q n
      if !hostFieldsOk d then pure Code.descriptorInvalid
      else if (poolOf s q i).isNone then pure Code.windowFault
      else if stackDown s i then pure Code.unitOffline
      else if (stk s i).chAbsent ≠ 0 then pure Code.unitAbsent
      else if k.state ≠ .free || stepNames s q n then pure Code.stateConflict
      else kvGive q n i { latched s k d with poison := false }

/-- The poisoned sectors of a region are written with zeros, which clears their entries (R284). -/
def clearRegion (q n : Nat) : Act Unit := do
  let s ← get
  let k := seqAt s q n
  let bad := (stk s k.home).poison.filterMap (fun e => e.2.bind (fun p =>
    let co := (channelOf s k.home (p.sector * 64)).2
    if k.base ≤ co ∧ co < k.base + regionBytes k ∧ !absentOff s k.home (p.sector * 64) then some p.sector else none))
  needReady (bad.isEmpty || !(stk s k.home).writeHold)
  edit (fun s => bad.foldl (fun s sec => writeWhole s k.home sec (zeros 64)) s)

/-- A sequence leaves the pause queue. -/
def unpause (s : State) (q n : Nat) : State := modPrt s q (fun p => { p with paused := p.paused.filter (fun r => r.seq ≠ n) })

/-- FREE. -/
def kvFree (q n : Nat) : Act Status := do
  let s ← get
  let k := seqAt s q n
  if decide ((prt s q).seqCount ≤ n) then pure Code.descriptorInvalid
  else if (k.state ≠ .resident && k.state ≠ .swapped) || stepNames s q n then pure Code.stateConflict
  else do
    if k.state = .resident then clearRegion q n
    edit (fun s => unpause (modSeq s q n (fun k => { k with state := .free, poison := false, cancelled := false })) q n)
    reportSeq q n
    pure 0

/-- The chains of a copy enter the engines of the home die (R277). -/
def submitSwap (s : State) (q n : Nat) (len : Nat) (who : Option (Nat × Nat)) : State :=
  let s := modSeq s q n (fun k => { k with swapLeft := 8, swapStatus := 0, swapPoison := false, length := len, swapGraph := who })
  let d := (seqAt s q n).home / 6
  (List.range 8).foldl (fun s g => submitChain s (8 * d + g) { owner := .swap q n, hint := 1 }) s

/-- SWAP_OUT: started when its checks pass. For a FREE sequence check 2 takes the host fields as the descriptor has them, and the unit
tested for SHUTDOWN is the home stack of a sequence that has one (DEDUCED, log entry 115). The swap-outs that admission itself
starts (R300, R301) ask only that no other step in flight holds the sequence. -/
def kvSwapOut (q n : Nat) (who : Option (Nat × Nat)) : Act Status := do
  let s ← get
  let k := seqAt s q n
  if decide ((prt s q).seqCount ≤ n) then pure Code.descriptorInvalid
  else do
    let d ← attempt (readDesc q n)
    match d with
    | .error e => pure e
    | .ok d =>
      let s ← get
      if !imageInside s q true (if k.state = .free then latched s k d else k) (descLength d) then pure Code.windowFault
      else if hasHome k && kvOffline s k.home then pure Code.unitOffline
      else if k.state ≠ .resident || k.step.isSome || (who.isSome && stepNames s q n) || isPaused s q n then pure Code.stateConflict
      else if k.poison then pure Code.poisoned
      else do
        edit (fun s => submitSwap (modSeq s q n (fun k => { k with state := .swappingOut })) q n (descLength d) who)
        reportSeq q n
        pure 0

/-- SWAP_IN: started when its checks pass. -/
def kvSwapIn (q n i : Nat) (who : Option (Nat × Nat)) : Act Status := do
  let s ← get
  if decide ((prt s q).seqCount ≤ n) then pure Code.descriptorInvalid
  else do
    let d ← attempt (readDesc q n)
    match d with
    | .error e => pure e
    | .ok d =>
      let s ← get
      let k := latched s (seqAt s q n) d
      if !hostFieldsOk d || decide (k.maxTokens < descLength d) then pure Code.descriptorInvalid
      else if (poolOf s q i).isNone || !imageInside s q false k (descLength d) then pure Code.windowFault
      else if kvOffline s i then pure Code.unitOffline
      else if (stk s i).chAbsent ≠ 0 then pure Code.unitAbsent
      else if k.state ≠ .swapped || stepNames s q n then pure Code.stateConflict
      else do
        let (st, t) := takeRegion s q n i k .swappingIn
        if st ≠ 0 then pure st
        else do
          set (submitSwap t q n (descLength d) who)
          reportSeq q n
          pure 0

/-! ## The end of a copy (R277, R278) -/

/-- Whether a copy runs through a port. -/
def swapsThrough (p : PortId) (k : KvSeq) : Bool :=
  (decide (k.state = .swappingOut) || decide (k.state = .swappingIn)) && decide (swapPort k = p)

/-- A lost port ends every copy through it with HOST_UNREACHABLE (R278, R355). -/
def loseSwaps (s : State) (p : PortId) : State :=
  { s with parts := s.parts.map (fun e => (e.1, { e.2 with seqs := e.2.seqs.map (fun k => (k.1,
      if swapsThrough p k.2 && decide (k.2.swapStatus = 0) then { k.2 with swapStatus := Code.hostUnreachable } else k.2)) })) }

/-- The sequence becomes SWAPPED or RESIDENT, or returns to its stable state. -/
def afterCopy (k : KvSeq) (st : Status) : KvSeq :=
  let poisoned := k.swapPoison
  let k := { k with swapGraph := none, swapStatus := 0, swapFlush := [], swapPoison := false }
  if k.state = .swappingOut then
    (if st = 0 then { k with state := .swapped }
     else { k with state := .resident, poison := k.poison || poisoned })
  else if st = 0 then { k with state := .resident } else { k with state := .swapped }

end Sys2Proof.Machine
end

