-- ==== Sys2Proof/Machine/Serve.lean ====
section
/-! DEFINITION. Serving steps (R293 to R305) and veneers (R307 to R309): the checks of a step descriptor, its commands, the
admission of its requests, and the records at its completion. -/

namespace Sys2Proof.Machine
open Sys2Proof

/-! ## The step descriptor (Tables 11-1 to 11-3, R294) -/

namespace Sd
def reqs (h : List Byte) : Nat := at_ h 0 2 % 2 ^ 13
def cmds (h : List Byte) : Nat := at_ h 2 2 % 512
def layers (h : List Byte) : Nat := at_ h 4 1
def costBase (h : List Byte) : Nat := at_ h 8 4
def costSlope (h : List Byte) : Nat := at_ h 12 4
def table (h : List Byte) : Nat := at_ h 16 8
def outAddr (h : List Byte) : Nat := at_ h 24 8
def result (h : List Byte) : Nat := at_ h 32 8
def tableBytes (h : List Byte) : Nat := 32 * reqs h + 4 * reqs h * layers h
def recordBytes (h : List Byte) : Nat := 32 * reqs h + 8 * cmds h
end Sd

def stepHeadOk (a : Nat) (h : List Byte) : Bool :=
  decide (a % 64 = 0 ∧ at_ h 0 2 < 2 ^ 13 ∧ Sd.reqs h ≤ 4096 ∧ at_ h 2 2 < 512 ∧ Sd.cmds h ≤ 256 ∧ at_ h 5 3 = 0 ∧
    Sd.table h < 2 ^ 46 ∧ Sd.table h % 64 = 0 ∧ Sd.outAddr h < 2 ^ 46 ∧ Sd.outAddr h % 16 = 0 ∧ Sd.result h < 2 ^ 46 ∧
    Sd.result h % 32 = 0 ∧ at_ h 40 24 = 0)

/-- A command entry: OP listed, reserved fields zero. -/
def cmdOk (c : List Byte) : Bool :=
  [1, 2, 3, 4, 5, 6, 8, 9].contains (at_ c 0 1) && decide (at_ c 1 1 < 32 ∧ at_ c 2 2 < 2 ^ 14 ∧ at_ c 4 4 = 0 ∧ at_ c 12 4 = 0)

/-- KIND of a request entry. -/
def reqKind (e : List Byte) : Nat := at_ e 0 2 / 2 ^ 14

/-- A request entry as the descriptor check sees it: KIND not reserved, and a FILL entry zero apart from it. -/
def reqKindOk (e : List Byte) : Bool :=
  decide (reqKind e < 2) && (decide (reqKind e = 0) || (decide (at_ e 0 2 = 2 ^ 14) && decide (at_ e 2 30 = 0)))

/-- Reserved fields of a NORMAL entry (check 1 of Table 11-5). -/
def reqReserved (e : List Byte) : Bool :=
  decide (at_ e 2 2 / 2 ^ 14 % 2 = 0 ∧ at_ e 4 1 % 8 = 0 ∧ at_ e 5 1 < 32 ∧ at_ e 6 2 = 0 ∧ at_ e 12 4 = 0)

/-- A request entry (Table 11-2). -/
def parseRequest (e : List Byte) : Request := {
  fill := decide (reqKind e = 1), seq := at_ e 0 2 % 2 ^ 14, venEn := bit (at_ e 2 2) 15, veneer := at_ e 2 2 % 2 ^ 14,
  priority := at_ e 4 1 / 16, keep := bit (at_ e 4 1) 3, stack := at_ e 5 1 % 32, newTokens := at_ e 8 4,
  deadline := BitVec.ofNat 64 (at_ e 16 8), user := BitVec.ofNat 64 (at_ e 24 8) }

/-- A range inside one row of Table 3-2 out of a list, and inside the windows; an empty one always is. -/
def areaOk (s : State) (q : Nat) (rows : List Nat) (oneRow write : Bool) (a n : Nat) : Bool :=
  decide (n = 0) || (rows.contains (rowOf a) && rows.contains (rowOf (a + n - 1)) &&
    (!oneRow || decide (rowOf a = rowOf (a + n - 1))) && inWindows s q write a n)

/-- The areas that a step uses (last check of R294). -/
def stepAreas (s : State) (q : Nat) (h : List Byte) : Bool :=
  areaOk s q [1, 2] false true (Sd.table h) (Sd.tableBytes h) && areaOk s q [1, 2] false false (Sd.outAddr h) (16 * Sd.reqs h) &&
    areaOk s q [4, 5] true true (Sd.result h) (Sd.recordBytes h)

/-- Cutting a byte string into records of `n` bytes. -/
def records (b : List Byte) (n k : Nat) : List (List Byte) := (List.range k).map (fun i => (b.drop (n * i)).take n)

/-- The descriptor's header, request entries and command entries, or the status that ends the graph (R294). -/
def readStep (q a : Nat) : Act (List Byte × List (List Byte) × List (List Byte)) := do
  let h ← loadFor 4 q a 64
  let b ← if Sd.reqs h + Sd.cmds h = 0 then pure [] else loadFor 4 q (a + 64) (32 * Sd.reqs h + 16 * Sd.cmds h)
  let es := records b 32 (Sd.reqs h)
  let cs := records (b.drop (32 * Sd.reqs h)) 16 (Sd.cmds h)
  need (stepHeadOk a h && es.all reqKindOk && cs.all cmdOk) Code.descriptorInvalid
  let s ← get
  need (stepAreas s q h) Code.windowFault
  pure (h, es, cs)

/-! ## Veneers (R307 to R309) -/

def venAt (s : State) (q k : Nat) : Veneer := tget {} (prt s q).veneers k
def modVen (s : State) (q k : Nat) (f : Veneer → Veneer) : State := modPrt s q (fun p => { p with veneers := tmod {} p.veneers k f })

/-- The slot record is written (Table 11-9). -/
def reportSlot (q k : Nat) : Act Unit := do
  let s ← get
  let v := venAt s q k
  hubStore ((prt s q).venTable.toNat * 64 + 64 + 32 * k)
    (leBytes 4 v.curGen.toNat ++ leBytes 4 v.curVco.toNat ++ leBytes 4 v.retGen.toNat ++ leBytes 4 v.retVco.toNat ++
      leBytes 4 v.retPins.toNat ++ leBytes 4 v.curPins.toNat)

/-- A retiring generation that no step holds is freed, with an event (R309). -/
def freeRetired (s : State) (q k : Nat) : State :=
  let v := venAt s q k
  if v.retGen ≠ 0 ∧ v.retPins = 0 then
    logEvent (modVen s q k (fun v => { v with retGen := 0, retVco := 0xFFFFFFFF })) Cls.veneerFreed 0 0 9 q k v.retGen.toNat
  else s

/-- The next generation number: 0 is passed over (R308). -/
def nextGen (v : Veneer) : BitVec 32 := if v.lastGen + 1 = 0 then 1 else v.lastGen + 1

/-- The current generation retires with its pins. -/
def retire (v : Veneer) : Veneer :=
  { v with retGen := v.curGen, retVco := v.curVco, retPins := v.curPins, curGen := 0, curVco := 0xFFFFFFFF, curPins := 0 }

/-- VEN_PUBLISH: its status and the new generation. -/
def venPublish (q k vco : Nat) : Act (Status × BitVec 32) := do
  let s ← get
  let p := prt s q
  if decide (p.venSlots ≤ k) || decide (vco % 64 ≠ 0) || decide (channelBytes s < vco + p.venLayers * p.venBytes) then
    pure (Code.descriptorInvalid, 0)
  else
    let v := venAt s q k
    if v.retGen ≠ 0 then pure (Code.stateConflict, 0)
    else do
      let g := nextGen v
      edit (fun s =>
        let s := modVen s q k (fun v => if v.curGen = 0 then v else retire v)
        freeRetired (modVen s q k (fun v => { v with curGen := g, curVco := BitVec.ofNat 32 vco, curPins := 0, lastGen := g })) q k)
      reportSlot q k
      pure (0, g)

/-- VEN_CLEAR (R308); without a veneer table DESCRIPTOR_INVALID (R307). -/
def venClear (q k : Nat) : Act Status := do
  let s ← get
  let v := venAt s q k
  if (prt s q).venSlots = 0 then pure Code.descriptorInvalid
  else if (prt s q).venSlots ≤ k ∨ v.curGen = 0 ∨ v.retGen ≠ 0 then pure Code.stateConflict
  else do
    edit (fun s => freeRetired (modVen s q k retire) q k)
    reportSlot q k
    pure 0

/-- One more step holds the current generation of a slot; its number. -/
def pinSlot (q k : Nat) : Act Unit := do
  edit (fun s => modVen s q k (fun v => { v with curPins := v.curPins + 1 }))
  reportSlot q k

/-- A step gives its hold on a generation back. -/
def unpinSlot (q k : Nat) (g : BitVec 32) : Act Unit := do
  edit (fun s =>
    freeRetired (modVen s q k (fun v =>
      if v.curGen = g then { v with curPins := v.curPins - 1 }
      else if v.retGen = g then { v with retPins := v.retPins - 1 } else v)) q k)
  reportSlot q k

/-! ## Commands (R295 to R297) -/

/-- Whether fields of a command that its OP does not use are zero. -/
def cmdUnused (c : List Byte) : Bool :=
  let op := at_ c 0 1
  (decide (op = 1 ∨ op = 4) || decide (at_ c 1 1 = 0)) && (decide (op = 8) || decide (at_ c 8 4 = 0))

/-- Whether the completion time of a graph's step still lies ahead: some task of it has not completed (R304). -/
def stepRuns (s : State) (g : Nat) : Bool := ((graphAt s g).map (fun x => decide (x.left ≠ 0))).getD false

/-- CANCEL: marks the sequence, and the step in flight that holds it hears of it before its completion time (R296, R304). -/
def cancelSeq (s : State) (q n : Nat) : Status × State :=
  let k := seqAt s q n
  if (prt s q).seqCount ≤ n ∨ (k.state ≠ .resident ∧ k.state ≠ .swapped) ∨ k.cancelled then (Code.stateConflict, s)
  else
    let s := unpause (modSeq s q n (fun k => { k with cancelled := true })) q n
    (0, match k.step.filter (stepRuns s) with
      | some g => modStep s g (fun x => { x with
          entries := x.entries.map (fun a => if a.active ∧ a.req.seq = n then { a with cancelled := true } else a) })
      | none => s)

/-- RESUME (R297). -/
def resumeSeq (s : State) (q n : Nat) : Status × State :=
  if isPaused s q n then (0, unpause s q n) else (Code.stateConflict, s)

/-- One command of a step; a swap that has started is still running. -/
def runCommand (g q i : Nat) (c : List Byte) : Act StepCmd := do
  let op := at_ c 0 1
  let n := at_ c 2 2 % 2 ^ 14
  let stack := at_ c 1 1
  let base : StepCmd := { op := BitVec.ofNat 8 op, index := n }
  if !cmdUnused c then pure { base with status := Code.descriptorInvalid }
  else if op = 8 then do
    let (st, gen) ← venPublish q n (at_ c 8 4)
    pure { base with status := st, gen := gen }
  else do
    let st ← if op = 1 then kvAlloc q n stack
      else if op = 2 then kvFree q n
      else if op = 3 then kvSwapOut q n (some (g, i))
      else if op = 4 then kvSwapIn q n stack (some (g, i))
      else if op = 9 then venClear q n
      else do
        let s ← get
        let r := if op = 5 then cancelSeq s q n else resumeSeq s q n
        set r.2
        pure r.1
    pure { base with status := st, running := decide ((op = 3 ∨ op = 4) ∧ st = 0) }

def runCommands (g q : Nat) (cs : List (List Byte)) : Act (List StepCmd) := mapAct (fun e => runCommand g q e.2 e.1) cs.zipIdx

/-! ## Entry checks (Table 11-5) -/

/-- Checks 2 to 4 on an entry; 0 where all pass. -/
def entryLater (s : State) (q : Nat) (r : Request) : Status :=
  let k := seqAt s q r.seq
  if k.cancelled then Code.cancelled
  else if k.poison then Code.poisoned
  else if k.state = .swappingOut ∨ k.state = .swapped ∨ k.state = .swappingIn ∨ isPaused s q r.seq ∨ k.step.isSome ∨
      (r.venEn ∧ (venAt s q r.veneer).curGen = 0) then Code.stateConflict
  else 0

/-- Check 1 on a NORMAL entry. -/
def entryFirst (s : State) (q : Nat) (e : List Byte) (before : List Nat) : Bool :=
  let r := parseRequest e
  reqReserved e && decide (r.seq < (prt s q).seqCount) && decide (1 ≤ r.newTokens ∧ r.newTokens < 2 ^ 24) &&
    (!r.venEn || decide (r.veneer < (prt s q).venSlots)) && decide (r.stack ≤ 23) && !before.contains r.seq

/-- LENGTH of a sequence as its descriptor holds it. -/
def readLength (q n : Nat) : Act (Except Status Nat) := do
  let d ← attempt (readDesc q n)
  pure (match d with
    | .ok d => .ok (descLength d)
    | .error e => .error e)

/-- An entry that has passed its checks, with LENGTH. -/
def activeEntry (q : Nat) (a : Admitted) : Act Admitted := do
  let l ← readLength q a.req.seq
  pure (match l with
    | .ok n => { a with active := true, length := n }
    | .error e => { a with active := false, status := e })

/-- One entry after its checks; a FILL entry is served later. -/
def checkEntry (q : Nat) (e : List Byte) (before : List Nat) : Act Admitted := do
  let r := parseRequest e
  let s ← get
  if r.fill then pure { req := r }
  else if !entryFirst s q e before then pure { req := r, status := Code.descriptorInvalid }
  else
    let st := entryLater s q r
    if st ≠ 0 then do
      let l ← readLength q r.seq
      pure { req := r, status := st, length := match l with
        | .ok n => n
        | .error _ => 0 }
    else activeEntry q { req := r }

/-- The sequences that NORMAL entries before entry `i` name. -/
def namedBefore (es : List (List Byte)) (i : Nat) : List Nat :=
  ((es.take i).filter (fun e => decide (reqKind e = 0))).map (fun e => (parseRequest e).seq)

def checkEntries (q : Nat) (es : List (List Byte)) : Act (List Admitted) :=
  mapAct (fun e => checkEntry q e.1 (namedBefore es e.2)) es.zipIdx

/-! ## Admission (R300 to R302) -/

/-- A FILL entry takes the head of the pause queue, in a privileged partition. -/
def fillEntry (q : Nat) (a : Admitted) : Act Admitted := do
  let s ← get
  if !a.req.fill || !(prt s q).privileged then pure a
  else match (prt s q).paused with
    | [] => pure a
    | r :: rest => do
      edit (fun s => modPrt s q (fun p => { p with paused := rest }))
      let s ← get
      let st := entryLater s q r
      if st ≠ 0 then pure { a with req := r, filled := true, status := st }
      else activeEntry q { a with req := r, filled := true }

/-- Entries by PRIORITY descending, then index. -/
def byPriority (l : List Admitted) : List Nat :=
  (List.range 16).flatMap (fun p => (l.zipIdx.filter (fun e => decide (e.1.req.priority = 15 - p))).map Prod.snd)

/-- Entries by PRIORITY ascending, highest index first on a tie. -/
def byVictim (l : List Admitted) : List Nat := (byPriority l).reverse

/-- The entries that may be pre-empted for entry `e` (R301). -/
def candidates (s : State) (q : Nat) (l : List Admitted) (e : Request) : List Nat :=
  (byVictim l).filter (fun i => match l[i]? with
    | some v =>
      let k := seqAt s q v.req.seq
      v.active && decide (v.req.priority < e.priority) && decide (k.state = .resident) && decide (k.home = e.stack) && k.step.isNone
    | none => false)

/-- The shortest run of candidates whose slabs make room. -/
def takeVictims (s : State) (q : Nat) (l : List Admitted) (stack need : Nat) (pool : Nat × Nat) (taken : List Nat) :
    List Nat → List Nat
  | [] => []
  | i :: rest =>
    let taken := taken ++ [i]
    if (findRun s q stack (taken.filterMap (fun i => (l[i]?).map (fun v => v.req.seq))) pool need).isSome then taken
    else takeVictims s q l stack need pool taken rest

def victimsFor (q : Nat) (l : List Admitted) (e : Request) : Act (List Nat) := do
  let d ← attempt (readDesc q e.seq)
  let s ← get
  match d, poolOf s q e.stack with
  | .ok d, some pool => pure (takeVictims s q l e.stack (latched s {} d).slabs pool [] (candidates s q l e))
  | _, _ => pure []

/-- An entry leaves the step with a status. -/
def leave (l : List Admitted) (i : Nat) (st : Status) : List Admitted :=
  l.modify i (fun a => { a with active := false, status := st })

/-- Victims leave and their swap-outs start. -/
def preempt (q : Nat) (l : List Admitted) : List Nat → Act (List Admitted)
  | [] => pure l
  | i :: rest => do
    match l[i]? with
    | some v =>
      let _ ← kvSwapOut q v.req.seq none
      pure ()
    | none => pure ()
    preempt q (leave l i Code.preempted) rest

/-- Memory for one active entry: allocation of a FREE sequence, room for its new tokens. -/
def memoryFor (q : Nat) (l : List Admitted) (i : Nat) : Act (List Admitted) := do
  match l[i]? with
  | none => pure l
  | some a =>
    if !a.active then pure l
    else do
      let s ← get
      let free := decide ((seqAt s q a.req.seq).state = .free)
      let st ← if free then kvAlloc q a.req.seq a.req.stack else pure 0
      if st = Code.kvFull then do
        let vs ← victimsFor q l a.req
        preempt q (leave l i Code.kvFull) vs
      else if st ≠ 0 then pure (leave l i st)
      else do
        let len := if free then 0 else a.length
        let l := l.modify i (fun a => { a with length := len })
        let s ← get
        if (seqAt s q a.req.seq).capacity < len + a.req.newTokens then do
          let _ ← kvSwapOut q a.req.seq none
          pure (leave l i Code.preempted)
        else pure l

def memoryAll (q : Nat) : List Nat → List Admitted → Act (List Admitted)
  | [], l => pure l
  | i :: is, l => do
    let l ← memoryFor q l i
    memoryAll q is l

def activeCount (l : List Admitted) : Nat := (l.filter (fun a => a.active)).length

/-- A paused request behind those of its priority or higher (R302). -/
def enqueue (r : Request) : List Request → List Request
  | [] => [r]
  | x :: t => if x.priority < r.priority then r :: x :: t else x :: enqueue r t

/-- The first index of a list that satisfies a condition on entries. -/
def firstWhere (l : List Admitted) (p : Admitted → Bool) (is : List Nat) : Option Nat :=
  is.find? (fun i => ((l[i]?).map p).getD false)

/-- Pruning by time (R300). -/
def prune (s : State) (q : Nat) (t0 : BitVec 64) (cost slope : Nat) : Nat → List Admitted → List Request → List Admitted × List Request
  | 0, l, pq => (l, pq)
  | n + 1, l, pq =>
    let E := t0 + BitVec.ofNat 64 (cost + slope * activeCount l)
    match firstWhere l (fun a => a.active && !a.late && decide (a.req.deadline ≠ 0) && decide (a.req.deadline.toNat < E.toNat))
        (byPriority l) with
    | none => (l, pq)
    | some x =>
      let r := ((l[x]?).map (fun a => a.req)).getD {}
      let v := if (prt s q).privileged && decide (pq.length < 4096) then
          firstWhere l (fun a => a.active && decide (a.req.priority < r.priority)) (byVictim l)
        else none
      match v with
      | some v => prune s q t0 cost slope n (leave l v Code.paused) (enqueue (((l[v]?).map (fun a => a.req)).getD {}) pq)
      | none =>
        if r.keep then prune s q t0 cost slope n (l.modify x (fun a => { a with late := true })) pq
        else prune s q t0 cost slope n (leave l x Code.admitLate) pq

/-! ## The end of admission (R303) -/

/-- The veneer slots that a step holds, each once. -/
def heldSlots (l : List Admitted) : List Nat :=
  (l.filter (fun a => a.active && a.req.venEn)).foldl (fun acc a => if acc.contains a.req.veneer then acc else acc ++ [a.req.veneer]) []

/-- An active entry takes the generation that is current. -/
def withGen (s : State) (q : Nat) (a : Admitted) : Admitted :=
  if a.active && a.req.venEn then { a with gen := (venAt s q a.req.veneer).curGen } else a

/-- A step table entry (Table 11-6). -/
def tableEntry (s : State) (q : Nat) (a : Admitted) : List Byte :=
  let k := seqAt s q a.req.seq
  if a.active then
    leBytes 1 (128 + b2n a.filled * 64 + b2n a.late * 32 + k.home) ++ leBytes 1 k.pageLog2 ++ leBytes 2 a.req.seq ++
      leBytes 4 k.base ++ leBytes 4 a.length ++ leBytes 4 a.req.newTokens ++ leBytes 8 a.req.deadline.toNat ++
      leBytes 1 a.status.toNat ++ leBytes 1 (a.req.priority * 16) ++ leBytes 2 (b2n a.req.venEn * 32768 + a.req.veneer) ++
      leBytes 4 a.gen.toNat
  else zeros 2 ++ leBytes 2 a.req.seq ++ zeros 20 ++ leBytes 1 a.status.toNat ++ zeros 7

/-- A word of the veneer lists (R307). -/
def veneerWord (s : State) (q layer : Nat) (a : Admitted) : Nat :=
  let p := prt s q
  if a.active && a.req.venEn && decide (layer < p.venLayers) then (venAt s q a.req.veneer).curVco.toNat + layer * p.venBytes
  else 0xFFFFFFFF

def tableBytes (s : State) (q layers : Nat) (l : List Admitted) : List Byte :=
  l.flatMap (tableEntry s q) ++ (List.range layers).flatMap (fun y => l.flatMap (fun a => leBytes 4 (veneerWord s q y a)))

/-- Active entries' sequences are held by the step (R298). -/
def holdSeqs (s : State) (q : Nat) (holder : Option Nat) (l : List Admitted) : State :=
  (l.filter (fun a => a.active)).foldl (fun s a => modSeq s q a.req.seq (fun k => { k with step := holder })) s

/-- The admission of a step whose descriptor has been read (R295 to R303). -/
def admitStep (g : Nat) (x : Graph) (h : List Byte) (es cs : List (List Byte)) : Act Unit := do
  let q := x.part
  let t0 := (x.admitStart).getD 0
  let cmds ← runCommands g q cs
  let l ← checkEntries q es
  let l ← mapAct (fillEntry q) l
  let l ← memoryAll q (byPriority l) l
  let s ← get
  let (l, pq) := prune s q t0 (Sd.costBase h) (Sd.costSlope h) (2 * l.length + 1) l (prt s q).paused
  edit (fun s => modPrt s q (fun p => { p with paused := pq }))
  let s ← get
  let l := l.map (withGen s q)
  eachAct (pinSlot q) (heldSlots l)
  let s ← get
  hubStore (Sd.table h) (tableBytes s q (Sd.layers h) l)
  edit (fun s =>
    let s := holdSeqs s q (some g) l
    let step : Step := { part := q, outAddr := Sd.outAddr h, resultAddr := Sd.result h, entries := l, cmds := cmds }
    let s := { s with steps := tset none s.steps g (some step), admitQueue := s.admitQueue.drop 1 }
    let s := modGraph s g (fun x => { x with admitted := true, heldDies := x.dies.eraseDups.filter (fun d => !pathUp s 4 d) })
    ((allTasks s).map Prod.fst).foldl tryReady s)

/-! ## Completion (R304, R305) -/

/-- How the tasks of a step's graph have ended: the first failure of a task whose ON_FAIL is 0, the graph's status and the completion
time (R304). -/
structure StepEnd where
  fail : Option (Nat × Nat × Status) := none
  status : Status := 0
  time : Nat := 0
  deriving DecidableEq, Repr, Inhabited

/-- Final status of an entry before its outputs are read. -/
def finalStatus (s : State) (x : Step) (a : Admitted) (e : StepEnd) : Status :=
  if !a.active then a.status
  else if a.cancelled then Code.cancelled
  else match e.fail with
    | some (_, _, st) => st
    | none =>
      if (seqAt s x.part a.req.seq).poison then Code.poisoned
      else if a.late ∨ (a.req.deadline ≠ 0 ∧ a.req.deadline.toNat < e.time) then Code.late
      else if isSuccess e.status then e.status else Code.ok

/-- A request record (Table 11-7). -/
def requestRecord (a : Admitted) (st : Status) (out : List Byte) (len : Nat) : List Byte :=
  let given := a.active && isSuccess st
  leBytes 8 a.req.user.toNat ++ (if given then out else zeros 16) ++ leBytes 2 a.req.seq ++ leBytes 1 st.toNat ++
    leBytes 1 (b2n given * 2 + b2n (a.active && a.filled)) ++ leBytes 4 len

/-- LENGTH of the sequence that an entry names, as it stands after the step; 0 where it names none. -/
def lengthNow (q : Nat) (a : Admitted) : Act Nat := do
  let s ← get
  if a.req.fill || decide ((prt s q).seqCount ≤ a.req.seq) then pure 0
  else do
    let l ← readLength q a.req.seq
    pure (match l with
      | .ok n => n
      | .error _ => a.length)

/-- One entry at completion (action 2 of R305): its outputs are read and LENGTH grows where its status is a success. An output that
cannot be read fails the entry with the read's status. The answer is the entry's final status and its outputs. -/
def finishEntry (x : Step) (st : Status) (e : Admitted × Nat) : Act (Status × List Byte) := do
  let a := e.1
  if !a.active || !isSuccess st then pure (st, [])
  else do
    let o ← attempt (loadFrom 4 (x.outAddr + 16 * e.2) 16)
    match o with
    | .error bad => pure (bad, [])
    | .ok out => do
      writeLength x.part a.req.seq (a.length + a.req.newTokens)
      pure (st, out)

/-- The record of an entry, once every LENGTH of the step is written (action 3 of R305): it shows LENGTH after the step. -/
def entryRecord (x : Step) (e : Admitted × Status × List Byte) : Act (List Byte) := do
  let a := e.1
  if a.active && isSuccess e.2.1 then pure (requestRecord a e.2.1 e.2.2 (a.length + a.req.newTokens))
  else do
    let len ← lengthNow x.part a
    pure (requestRecord a e.2.1 [] len)

/-- A command record (R295). -/
def commandRecord (c : StepCmd) : List Byte := leBytes 8 (c.gen.toNat * 2 ^ 32 + c.status.toNat)

/-- The end of a step: pins, LENGTHs, records; the address of its records if they could not reach the host. -/
def finishStep (x : Step) (finals : List Status) : Act (Option Nat) := do
  let slots := heldSlots x.entries
  eachAct (fun k => unpinSlot x.part k
    (((x.entries.find? (fun a => a.active && a.req.venEn && decide (a.req.veneer = k))).map (fun a => a.gen)).getD 0)) slots
  let fs ← mapAct (fun e => finishEntry x e.1 e.2) (finals.zip x.entries.zipIdx)
  let rs ← mapAct (entryRecord x) (x.entries.zip fs)
  let bytes := rs.flatten ++ x.cmds.flatMap commandRecord
  if bytes.isEmpty then pure none
  else do
    let r ← attempt (storeFrom 4 none x.resultAddr bytes)
    pure (match r with
      | .ok _ => none
      | .error _ => some x.resultAddr)

end Sys2Proof.Machine
end

