-- ==== Sys2Proof/Machine/Complete.lean ====
section
/-! DEFINITION. How tasks and graphs complete (R232 to R242, R252, R253), time limits (R235), peg-wait limits (R239), flushing
reads (R249), the admission of steps (R298) and the end of swap copies (R277). -/

namespace Sys2Proof.Machine
open Sys2Proof

/-! ## Graphs that complete (R242) -/

/-- The earlier of two failures: by time, then by task index. -/
def earlier (a : Option (Nat × Nat × Status)) (b : Nat × Nat × Status) : Option (Nat × Nat × Status) :=
  match a with
  | none => some b
  | some x => if b.1 < x.1 ∨ (b.1 = x.1 ∧ b.2.1 < x.2.1) then some b else some x

/-- One more task of the graph has completed. -/
def countTask (g : Graph) (time index : Nat) (st : Status) : Graph :=
  let ok := isSuccess st
  { g with
    left := g.left - 1, endTime := time,
    failed := if ok then g.failed else g.failed + 1,
    skipped := if st = Code.skipped then g.skipped + 1 else g.skipped,
    firstFail := if ok then g.firstFail else earlier g.firstFail (time, index, st),
    best := if ok ∧ g.best.toNat < st.toNat then st else g.best,
    bestTask := if ok ∧ (g.best.toNat < st.toNat ∨ (g.best = st ∧ index < g.bestTask)) then index else g.bestTask }

/-- The graph's status and FIRST_TASK. -/
def graphStatus (g : Graph) : Status × Option Nat :=
  match g.firstFail with
  | some (_, i, st) => (st, some i)
  | none => (g.best, if g.best = 0 then none else some g.bestTask)

/-- The completion entry of a graph. -/
def graphCompletion (g : Graph) (dropped : Option Nat) : Completion :=
  let r := graphStatus g
  { userTag := g.userTag, endTime := BitVec.ofNat 64 g.endTime, sqCount := g.sqCount, failed := BitVec.ofNat 16 g.failed,
    skipped := BitVec.ofNat 16 g.skipped, firstValid := r.2.isSome, firstTask := BitVec.ofNat 14 (r.2.getD 0), status := r.1,
    dropped := dropped }

/-- Whether the result record of every task of a graph is written (R241). -/
def allRecorded (s : State) (g : Nat) : Bool := (allTasks s).all (fun e => decide (e.2.graph ≠ g) || e.2.recorded)

/-- A step whose last task has completed and whose swaps have finished completes: its final statuses are fixed, whatever still waits to be
written (R304), and it holds its sequences no longer (R298). -/
def fixStep (s : State) (g : Nat) : State :=
  match graphAt s g, stepAt s g with
  | some x, some y =>
    if x.left ≠ 0 || y.cmds.any (fun c => c.running) || y.finals.isSome then s
    else
      let fin : StepEnd := { fail := x.stepFail, status := (graphStatus x).1, time := x.endTime }
      modStep (holdSeqs s y.part none y.entries) g (fun y => { y with finals := some (y.entries.map (fun a => finalStatus s y a fin)) })
  | _, _ => s

/-- Whether no die edge that retrains keeps the word of a graph's tasks from the hub (R18). -/
def wordReaches (s : State) (x : Graph) : Bool := x.dies.all (fun d => pathUp s d 4)

/-- A graph whose last task has completed reports, once all its records are written and the hub has heard of its tasks; a serving step only after its admission and its
swaps (R304). -/
def finishGraph (g : Nat) : Act Unit := do
  let s ← get
  match graphAt s g with
  | none => pure ()
  | some x =>
    if x.left ≠ 0 || !allRecorded s g || !wordReaches s x then pure ()
    else if x.stepAddr = 0 then edit (fun s => pushCompletion (removeGraph s g) x.ring (graphCompletion x x.dropped))
    else match stepAt s g with
      | none => pure ()
      | some y =>
        match y.finals with
        | none => pure ()
        | some fs => do
          let lost ← finishStep y fs
          edit (fun s => pushCompletion (removeGraph s g) x.ring (graphCompletion x (x.dropped <|> lost)))

/-- An attempt is made now; where it must wait, it is left for later. -/
def tryNow (a : Act Unit) : Act Unit := do
  let s ← get
  match runAct a s with
  | (.error .wait, _) => pure ()
  | (_, u) => set u

/-- What can end a graph has happened: its step's statuses are fixed, and it reports if nothing has to wait. -/
def endGraph (g : Nat) : Act Unit := do
  edit (fixStep · g)
  tryNow (finishGraph g)

/-! ## Release (R232 step 1, R252) -/

/-- A cluster's own part has ended: the data caches are written back and the cluster becomes free (R126). -/
def releaseCluster (cl t : Nat) : Act Unit := do
  let s ← get
  let st := jigTaskStatus (clu s cl)
  dFlush cl 0 (some t)
  dFlush cl 1 (some t)
  edit (fun s => endWork (freeCluster s cl) t st 0)

/-- The region caches in which a task has left dirty bytes are written back (R91). -/
def releaseRegions (t : Nat) : Act Unit := do
  let s ← get
  eachAct (fun r => rcRelease r t) ((List.range 32).filter (fun r => hasDirty s r t))

def execHostFlushReadComplete (p : PortId) (s : State) : Host.Outcome State Fault Refusal :=
  let q := port s p
  .next (if q.flushDone < q.flushSent then endFlush s p (q.flushDone + 1) true else s)

/-! ## Successors and records (R232 steps 3 and 4, R233, R234) -/

/-- LATE (R234). -/
def lateStatus (s : State) (x : Task) (st : Status) : Status :=
  if x.desc.deadline ≠ 0 ∧ x.desc.deadline.toNat < now s ∧ isSuccess st ∧ st ≠ Code.nanZeroed then Code.late else st

/-- The local peg operations that apply to a final status; a peg of a die in SHUTDOWN does not change (R373). -/
def localOps (s : State) (x : Task) (st : Status) : State :=
  (x.desc.pegOps.filter (fun op => !op.remote && applies op st)).foldl (fun s op =>
    match pegAt op.addr.toNat with
    | some m =>
      if dieDown s (m / 16384) then s else if op.add then addPeg s m op.value else setPeg s m op.value
    | none => s) s

/-- Whether no die edge that retrains keeps a task's local peg operations, or the word to its successors, from the dies they go to
(R18, Table 13-1). -/
def opsReach (s : State) (x : Task) (st : Status) : Bool :=
  x.desc.pegOps.all (fun op => op.remote || !applies op st || pathUp s x.die (dieOf op.addr.toNat)) &&
    x.desc.succs.all (fun i => ((taskAt s (taskKey x.graph i)).map (fun y => pathUp s x.die y.die)).getD true)

/-- A successor hears of one predecessor. -/
def tellSuccessor (failed : Bool) (s : State) (t : Nat) : State :=
  let s := modTask s t (fun x => { x with preds := x.preds - 1, predFailed := x.predFailed || failed })
  match taskAt s t with
  | none => s
  | some x =>
    if x.preds ≠ 0 || x.workDone then s
    else if x.predFailed then modTask s t (fun x => { x with workDone := true, status := Code.skipped })
    else startWaiting s t

/-- A result record (Table 8-13). -/
def resultRecord (x : Task) (st : Status) : List Byte :=
  leBytes 8 x.desc.tag.toNat ++ leBytes 8 x.result.toNat ++ leBytes 8 (if x.started then x.startTime else 0) ++
    leBytes 4 (if x.started then Nat.min (x.endTime - x.startTime) (2 ^ 32 - 1) else 0) ++
    leBytes 2 (x.unit.getD 0xFFFF) ++ leBytes 1 st.toNat ++ [0]

/-- The record is written; a host that cannot be reached drops it (R355). -/
def writeRecord (x : Task) (st : Status) : Act Unit := do
  let s ← get
  match graphAt s x.graph with
  | some g =>
    if g.resultAddr = 0 then pure ()
    else do
      let r ← attempt (storeFrom x.die none (g.resultAddr + 32 * x.index) (resultRecord x st))
      match r with
      | .error e => if e = Code.hostUnreachable then edit (fun s => modGraph s x.graph (fun g =>
          { g with dropped := g.dropped <|> some (g.resultAddr + 32 * x.index) }))
      | .ok _ => pure ()
  | none => pure ()

/-- A failure of a task whose ON_FAIL is 0 fails its step, also before the step's admission (R304). -/
def noteStepFailure (s : State) (x : Task) (st : Status) : State :=
  if isSuccess st || x.desc.onFail then s
  else modGraph s x.graph (fun g => { g with stepFail := earlier g.stepFail (now s, x.index, st) })

/-- The task counts in its graph, at the time at which its status is final and its successors are told (R242, R304). -/
def countIn (s : State) (x : Task) (st : Status) : State :=
  modGraph (noteStepFailure s x st) x.graph (fun g => countTask g (now s) x.index st)

/-- The end of step 4 of R232: the record of a task whose status is final is written once, and the task's entry in its walker's table
is free; with the last record, its graph can report. -/
def recordTask (t : Nat) : Act Unit := do
  let s ← get
  match taskAt s t with
  | none => pure ()
  | some x => do
    if !x.recorded then
      writeRecord x x.status
      edit (fun s => modTask s t (fun x => { x with recorded := true, entry := false }))
    endGraph x.graph

/-- Steps 3 and 4 of R232: the status is final, the local peg operations are made, the successors are told and the task counts as
completed. A record that has to wait (a stack in write hold-off) is all that is left then. DESIGN CHOICE: this is the time at which the
task has completed, also where its record waits (log entry 121). -/
def concludeTask (t : Nat) (x : Task) : Act Unit := do
  let s ← get
  let st := lateStatus s x x.status
  needReady (opsReach s x st)
  edit (fun s => localOps s x st)
  edit (fun s => (x.desc.succs.map (taskKey x.graph)).foldl (tellSuccessor (!isSuccess st && !x.desc.onFail)) s)
  edit (fun s => modTask s t (fun x => { x with state := .completed, status := st }))
  edit (fun s => countIn s x st)
  edit (fixStep · x.graph)
  tryNow (recordTask t)

/-! ## The completion of a task (R232) -/

/-- The status of a task whose work has ended takes release failures (R252) and a limit that has passed meanwhile, whichever came first: a
failure already fixed stands (R253). -/
def releasedStatus (s : State) (x : Task) : Status :=
  let limit := if limitReached s x then Code.runTimeout else Code.ok
  if x.relFail ≠ 0 ∧ (x.relFailAt < limitEnd s x ∨ limit = Code.ok) then demote x.status x.relFail
  else demote (demote x.status limit) x.relFail

/-- The end of step 1 is fixed with its time (R240); the remote operations follow, then the rest, as far as it goes at once. -/
def afterRelease (t : Nat) : Act Unit := do
  let s ← get
  match taskAt s t with
  | none => pure ()
  | some x =>
    if !x.remoteSent then
      edit (fun s => sendRemoteOps (modTask s t (fun x => { x with endTime := now s, status := releasedStatus s x })) t)
    let s ← get
    match taskAt s t with
    | none => pure ()
    | some x => if x.remoteLeft = 0 then tryNow (concludeTask t x) else pure ()

/-- The first part of a JIG task's release: its cluster becomes free as soon as it is quiet and its data caches are written back. Nothing
that comes later holds the cluster (R126). -/
def freeUnit (t : Nat) : Act Unit := do
  let s ← get
  match (taskAt s t).bind (fun x => x.unit.map (fun cl => (x, cl))) with
  | some (x, cl) =>
    if x.desc.kind = Kind.jig ∧ (clu s cl).task = some t ∧ !x.workDone then do
      needReady (clusterQuiet (clu s cl))
      releaseCluster cl t
  | none => pure ()

/-- The rest of the release (R252) of a task whose work has ended, then the steps behind it. -/
def completeTask (t : Nat) : Act Unit := do
  let s ← get
  match taskAt s t with
  | none => pure ()
  | some x => do
    needReady x.workDone
    if x.state = .completed then recordTask t
    else do
      releaseRegions t
      edit (flushTask · t)
      let s ← get
      if ((taskAt s t).map writesHome).getD false then afterRelease t

def execTaskComplete (task : Nat) (env : Env) (s : State) : Host.Outcome State Fault Refusal :=
  .next (settleWork task .release (completeTask task) (settleWork task .release (freeUnit task) (applyEnv env s)))

/-! ## Limits (R235, R239) -/

/-- Running press operations of a cluster stop at their next tile boundary (Table 5-8). -/
def cutRunning (s : State) (cl : Nat) : State := ((clu s cl).queue.filter (fun o => o.running)).foldl (fun s o => cutOp s cl o) s

/-- A started task stops at its limit, by its kind. Where only its release is left, its status is fixed: a failure stands, one of the release
that came before the limit too, and a success becomes RUN_TIMEOUT (R253). -/
def limitTask (s : State) (t : Nat) (x : Task) : State :=
  if x.workDone then
    (if x.remoteSent then s else modTask s t (fun x => { x with status := releasedStatus s x }))
  else if x.desc.kind = Kind.jig then
    match x.unit with
    | some cl =>
      if clusterQuiet (clu s cl) then s else limitChains (cutRunning (endJigTask s cl Code.runTimeout) cl) t
    | none => s
  else if x.desc.kind = Kind.bench then limitBench s t
  else if x.desc.kind = Kind.layout then limitChains s t
  else modTask s t (fun x => { x with limitHit := true })

def execTaskTimeLimit (task : Nat) (s : State) : Host.Outcome State Fault Refusal :=
  .next (match taskAt s task with
    | some x => if limitReached s x then limitTask s task x else s
    | none => s)

/-- Whether the peg-wait limit of a task has passed with a wait unmet. A value taken at the very time of the limit still meets it
(Table 8-19). -/
def waitPassed (s : State) (x : Task) : Bool :=
  decide (x.state = .waiting) && !x.workDone && !waitsMet x && decide (x.waitSince + waitLimitNs s x < now s)

def execWaitLimit (task : Nat) (s : State) : Host.Outcome State Fault Refusal :=
  .next (match taskAt s task with
    | some x => if waitPassed s x then endUnstarted s task Code.waitTimeout else s
    | none => s)

/-! ## Serving steps (R298) and swaps (R277) -/

/-- Admission of a step: its descriptor is checked, then its requests; a bad descriptor ends the graph (R294). -/
def admitGraph (g : Nat) (x : Graph) : Act Unit := do
  let r ← attempt (readStep x.part x.stepAddr)
  match r with
  | .error st => edit (fun s => rejectGraph s g st)
  | .ok (h, es, cs) => do
    admitStep g x h es cs
    endGraph g

/-- Whether the actions that follow the completion of a step of a partition are still to be made: the hub carries out completions one at a time
(R304), and the next step finds the lengths that they leave (DESIGN CHOICE, log entry 121). -/
def completing (s : State) (q : Nat) : Bool :=
  s.steps.any (fun e => (e.2.map (fun y => decide (y.part = q) && y.finals.isSome)).getD false)

/-- The admission of the step in front; t0 is the time at which it began, also where it has to wait (R298). -/
def execStepAdmission (graph : Nat) (env : Env) (s : State) : Host.Outcome State Fault Refusal :=
  let s := applyEnv env s
  .next (if frontPaused s || decide (s.admitQueue.head? ≠ some graph) then s
    else match graphAt s graph with
      | some x =>
        if completing s x.part then s
        else
          let x := { x with admitStart := x.admitStart <|> some s.time }
          settle (admitGraph graph x) (modGraph s graph (fun _ => x)) (fun _ u => u)
      | none => s)

/-- The command of a step that asked for a swap is done. -/
def noteSwap (s : State) (who : Option (Nat × Nat)) (st : Status) : State :=
  match who with
  | none => s
  | some (g, i) => modStep s g (fun x => { x with cmds := x.cmds.modify i (fun c => { c with status := st, running := false }) })

/-- A copy whose chains have all ended. -/
def endSwap (q n : Nat) : Act Unit := do
  let s ← get
  let k := seqAt s q n
  edit (fun s => noteSwap (modSeq s q n (fun k => afterCopy k k.swapStatus)) k.swapGraph k.swapStatus)
  reportSeq q n
  match k.swapGraph with
  | some (g, _) => endGraph g
  | none => pure ()

def execSwapCopyEnd (part seq : Nat) (env : Env) (s : State) : Host.Outcome State Fault Refusal :=
  let s := applyEnv env s
  let k := seqAt s part seq
  .next (if (decide (k.state = .swappingOut) || decide (k.state = .swappingIn)) && decide (k.swapLeft = 0) && k.swapFlush.isEmpty && !frontPaused s then
      settle (endSwap part seq) s (fun _ u => u)
    else s)

end Sys2Proof.Machine
end

