-- ==== Sys2Proof/Machine/Rings.lean ====
section
/-! DEFINITION. Doorbells (R210, R211, R215), ring commands and registers (R217, R245, R396), the ring front end (R213, R223,
R224) and the entry of graphs into the walkers (R225, R226). -/

namespace Sys2Proof.Machine
open Sys2Proof

/-! ## Doorbells -/

/-- A doorbell of ring `r` at `off` of its page: ignored and logged unless it came through the ring's own port and `ok` holds
(R210, R211, R215). -/
def doorbell (s : State) (p : PortId) (r off : Nat) (value : Word) (ok : Ring → Bool) (k : State → State) : State :=
  if 64 ≤ r then s
  else
    let x := ring s r
    if x.assigned && decide (ringPort x = p) && ok x then k s
    else logEvent s Cls.doorbellIgnored 0 0 8 (portIdx p) (0x1000 * r + off) value.toNat

/-- Whether a new submission tail is the value held, or one that a RUNNING ring accepts (R211). -/
def tailOk (x : Ring) (v : BitVec 32) : Bool :=
  decide (v = x.sqTail) ||
    (decide (x.state = .running) && decide ((v - x.sqHead).toNat ≤ 2 ^ x.sqLog2.toNat) &&
      decide ((v - x.sqTail).toNat ≤ 2 ^ x.sqLog2.toNat))

/-- Whether a new completion head moves neither backwards nor past the tail (R215). -/
def headOk (x : Ring) (v : BitVec 32) : Bool := decide ((v - x.cqHead).toNat ≤ (x.cqTail - x.cqHead).toNat)

/-- SQ_TAIL. -/
def takeSqTail (s : State) (p : PortId) (r : Nat) (value : Word) : State :=
  doorbell s p r 0 value (tailOk · (value.setWidth 32)) (fun s => modRing s r (fun x => { x with sqTail := value.setWidth 32 }))

/-- Held completions of a ring are written as far as slots are free, and a ring that has finished rests. -/
def drainRing (s : State) (r : Nat) : State := restRing (flushHeld (ring s r).held.length s r) r

/-- CQ_HEAD. -/
def takeCqHead (s : State) (p : PortId) (r : Nat) (value : Word) : State :=
  doorbell s p r 8 value (headOk · (value.setWidth 32)) (fun s =>
    drainRing (modRing s r (fun x => { x with cqHead := value.setWidth 32 })) r)

/-! ## Ring commands (Table 8-4) -/

/-- Where a host window begins. -/
def hostBaseOf : PortId → Nat
  | .a => hostABase
  | .b => hostBBase

/-- Whether `n` bytes from `a` lie in the ring's host window and in the windows of its partition. -/
def ringMemory (s : State) (x : Ring) (write : Bool) (a n : Nat) : Bool :=
  decide (hostBaseOf (ringPort x) ≤ a) && decide (a + n ≤ hostBaseOf (ringPort x) + 2 ^ 43) && inWindows s x.part.toNat write a n

/-- Whether START accepts the ring's sizes and memory. -/
def ringSetUp (s : State) (x : Ring) : Bool :=
  decide (4 ≤ x.sqLog2.toNat ∧ x.sqLog2.toNat ≤ 16 ∧ 4 ≤ x.cqLog2.toNat ∧ x.cqLog2.toNat ≤ 16) &&
    ringMemory s x false (x.sqBase.toNat * 64) (64 * 2 ^ x.sqLog2.toNat) &&
    ringMemory s x true (x.cqBase.toNat * 64) (32 * 2 ^ x.cqLog2.toNat)

def ringStatus (s : State) (r : Nat) (st : Status) : State := modRing s r (fun x => { x with lastCmd := st })

/-- START. -/
def startRing (s : State) (r : Nat) : State :=
  let x := ring s r
  if x.state ≠ .stopped ∨ !x.assigned then ringStatus s r Code.stateConflict
  else if !ringSetUp s x then ringStatus s r Code.descriptorInvalid
  else ringStatus (modRing s r (fun x => { x with state := .running, sqHead := 0, sqTail := 0, cqHead := 0, cqTail := 0 })) r Code.ok

/-- Fetching stops; a graph that waits for room is not handed over (Table 8-19). -/
def stopRing (s : State) (r : Nat) : State := restRing (modRing s r (fun x => { x with state := .stopping, waiting := none })) r

/-- STOP. -/
def stopCommand (s : State) (r : Nat) : State :=
  if (ring s r).state = .running then ringStatus (stopRing s r) r Code.ok else ringStatus s r Code.stateConflict

/-- The tasks of a ring's handed-over graphs. -/
def ringTasks (s : State) (r : Nat) : List Nat :=
  ((allTasks s).filter (fun e => ((graphAt s e.2.graph).map (fun g => decide (g.ring = r))).getD false)).map Prod.fst

/-- An ABORT reaches a task that has not started: at once, or after the retraining of a die edge on the way to its walker (R18). -/
def abortTask (s : State) (t : Nat) : State :=
  if ((taskAt s t).map (fun x => pathUp s 4 x.die)).getD true then endUnstarted s t Code.skipped
  else { s with hub := { s.hub with abortsHeld := s.hub.abortsHeld ++ [t] } }

/-- The aborts that a die edge has held go on. -/
def abortsGoOn (s : State) : State :=
  s.hub.abortsHeld.foldl abortTask { s with hub := { s.hub with abortsHeld := [] } }

/-- ABORT. -/
def abortCommand (s : State) (r : Nat) : State :=
  if (ring s r).state = .stopped then ringStatus s r Code.stateConflict
  else ringStatus ((ringTasks s r).foldl abortTask (stopRing s r)) r Code.ok

/-- A write of `RING.CTRL`. -/
def writeRingCtrl (r : Nat) (value : Word) (s : State) : State :=
  match value.toNat % 4 with
  | 1 => startRing s r
  | 2 => stopCommand s r
  | 3 => abortCommand s r
  | _ => s

/-- A write to a ring's block at `off`. -/
def ringWrite (s : State) (p : PortId) (r off : Nat) (value : Word) (k : State → State) : State :=
  if r < 64 then viseWrite s p (Base.ring r + off) value k else s

def execStart (p : PortId) (r : Nat) (s : State) : Host.Outcome State Fault Refusal :=
  .next (ringWrite s p r 0x18 1 (writeRingCtrl r 1))

def execStop (p : PortId) (r : Nat) (s : State) : Host.Outcome State Fault Refusal :=
  .next (ringWrite s p r 0x18 2 (writeRingCtrl r 2))

def execAbort (p : PortId) (r : Nat) (s : State) : Host.Outcome State Fault Refusal :=
  .next (ringWrite s p r 0x18 3 (writeRingCtrl r 3))

/-! ## Ring registers (R245, R395, R396) -/

/-- A write of `RING.CONFIG`, field by field. -/
def writeRingConfig (r : Nat) (value : Word) (s : State) : State :=
  let x := ring s r
  let v := value.toNat
  let stopped := decide (x.state = .stopped)
  let named := !bit v 31 || (prt s (fld v 27 24)).locked
  let rl := !s.hub.lockRings && named
  let y : Ring := if stopped then { x with
    irqEn := bit v 43, vector := BitVec.ofNat 11 (v >>> 32), cqLog2 := BitVec.ofNat 5 (v >>> 8), sqLog2 := BitVec.ofNat 5 v } else x
  let z : Ring := if rl then { y with
    assigned := bit v 31, part := BitVec.ofNat 4 (v >>> 24), portB := bit v 16 } else y
  let kept := decide (z.irqEn ≠ bit v 43 ∨ z.vector ≠ BitVec.ofNat 11 (v >>> 32) ∨ z.cqLog2 ≠ BitVec.ofNat 5 (v >>> 8) ∨
    z.sqLog2 ≠ BitVec.ofNat 5 v ∨ z.assigned ≠ bit v 31 ∨ z.part ≠ BitVec.ofNat 4 (v >>> 24) ∨ z.portB ≠ bit v 16)
  let s := modRing s r (fun _ => z)
  if kept || (!s.hub.lockRings && !named) then setupIgnored s (Base.ring r + 0x10) value else s

def ringConfigWord (x : Ring) : Nat :=
  b2n x.irqEn * 2 ^ 43 + x.vector.toNat * 2 ^ 32 + b2n x.assigned * 2 ^ 31 + x.part.toNat * 2 ^ 24 + b2n x.portB * 65536
    + x.cqLog2.toNat * 256 + x.sqLog2.toNat

/-- A write of `RING.SQ_BASE`. -/
def writeSqBase (r : Nat) (value : Word) (s : State) : State :=
  let a : BitVec 40 := BitVec.ofNat 40 (value.toNat >>> 6)
  if (ring s r).state = .stopped then modRing s r (fun x => { x with sqBase := a })
  else if (ring s r).sqBase ≠ a then setupIgnored s (Base.ring r) value
  else s

/-- A write of `RING.CQ_BASE`. -/
def writeCqBase (r : Nat) (value : Word) (s : State) : State :=
  let a : BitVec 40 := BitVec.ofNat 40 (value.toNat >>> 6)
  if (ring s r).state = .stopped then modRing s r (fun x => { x with cqBase := a })
  else if (ring s r).cqBase ≠ a then setupIgnored s (Base.ring r + 8) value
  else s

def execRingConfigWrite (p : PortId) (r : Nat) (value : Word) (s : State) : Host.Outcome State Fault Refusal :=
  .next (ringWrite s p r 0x10 value (writeRingConfig r value))

/-! ## The checks at submission (Table 8-10) -/

-- Fields of a graph header (Table 8-5).
namespace Gh
def tasks (b : List Byte) : Nat := at_ b 0 2
def ranges (b : List Byte) : Nat := at_ b 4 4
def rangeAddr (b : List Byte) : Nat := at_ b 8 8 % 2 ^ 46
def ovfAddr (b : List Byte) : Nat := at_ b 16 8 % 2 ^ 46
def ovfs (b : List Byte) : Nat := at_ b 24 4
def stepAddr (b : List Byte) : Nat := at_ b 32 8 % 2 ^ 46
end Gh

/-- Check 1: the submission entry (Table 8-2). -/
def entryOk (e : List Byte) : Bool :=
  decide (at_ e 0 8 < 2 ^ 46 ∧ at_ e 0 8 % 64 = 0 ∧ at_ e 8 8 < 2 ^ 46 ∧ at_ e 8 8 % 32 = 0 ∧ at_ e 24 4 < 2) &&
    (e.drop 28).all (· = 0)

/-- Check 4 for the header. -/
def graphHeadOk (b : List Byte) : Bool :=
  decide (1 ≤ Gh.tasks b ∧ Gh.tasks b ≤ 16384 ∧ at_ b 2 2 = 0 ∧ Gh.ranges b ≤ 65536 ∧ at_ b 8 8 < 2 ^ 46 ∧
    Gh.rangeAddr b % 16 = 0 ∧ at_ b 16 8 < 2 ^ 46 ∧ Gh.ovfAddr b % 2 = 0 ∧ Gh.ovfs b ≤ 1048576 ∧ at_ b 28 4 = 0 ∧
    at_ b 32 8 < 2 ^ 46) && (b.drop 40).all (· = 0)

/-- Range record `k` of a table. -/
def rangeRec (tab : List Byte) (k : Nat) : List Byte := (tab.drop (16 * k)).take 16

/-- Check 4 for a range record (Table 8-7). -/
def rangeOk (s : State) (r : List Byte) : Bool :=
  let w := at_ r 0 8
  let len := at_ r 8 8
  decide (fld w 61 51 = 0 ∧ 1 ≤ len ∧ len < 2 ^ 46) &&
    (match fld w 63 62 with
      | 0 => decide (fld w 50 46 = 0)
      | 1 => decide (fld w 45 30 = 0) && decide (fld w 29 0 + len ≤ channelBytes s)
      | _ => false)

def parseRange (r : List Byte) : Range :=
  let w := at_ r 0 8
  { channel := decide (fld w 63 62 = 1), stack := fld w 50 46, start := fld w 45 0, len := at_ r 8 8 }

/-- A task's successors (R221). -/
def succsOf (ovf : List Byte) (t : List Byte) : List Nat :=
  ((List.range 8).map (fun k => at_ t (40 + 2 * k) 2)).filter (· ≠ 0xFFFF) ++
    (List.range (at_ t 60 2)).map (fun k => at_ ovf (2 * (at_ t 56 4 + k)) 2)

/-- How many declared ranges a task names. -/
def rangesNamed (t : List Byte) : Nat := at_ t 6 1 + at_ t 7 1

/-- PIN and PLACE by kind (Table 8-6). -/
def placeOk (t : List Byte) : Bool :=
  let pin := bit (at_ t 3 1) 7
  let place := at_ t 3 1 % 64
  match at_ t 0 1 with
  | 0 => !pin && decide (place = 0)
  | 1 => pin || decide (place = 0)
  | 3 => if pin then decide (place < 8) else decide (place = 0)
  | _ => !pin && decide (place ≤ 23)

/-- Reserved bits of a peg wait (Table 8-8). -/
def waitOk (w : List Byte) : Bool := decide (at_ w 2 1 % 128 = 0 ∧ at_ w 3 1 = 0)

/-- Fields of a completion operation (Table 8-9). -/
def pegOpOk (b : List Byte) : Bool :=
  let c := at_ b 12 1
  decide (fld c 3 2 = 0) && (b.drop 13).all (· = 0) &&
    (!bit c 7 || (decide (fld c 5 4 ≠ 3) && decide (c % 4 = 1 ∨ c % 4 = 2) && decide (at_ b 0 8 % 4 = 0)))

def waitRec (t : List Byte) (k : Nat) : List Byte := (t.drop (64 + 8 * k)).take 8
def pegRec (t : List Byte) (k : Nat) : List Byte := (t.drop (80 + 16 * k)).take 16

/-- Check 4 for task `i` of a graph with header `h`. -/
def taskOk (s : State) (h tab ovf : List Byte) (i : Nat) (t : List Byte) : Bool :=
  let kind := at_ t 0 1
  let code := at_ t 16 8
  decide (kind ≤ 4 ∧ at_ t 1 1 % 8 = 0 ∧ at_ t 2 1 < 8 ∧ !bit (at_ t 3 1) 6) &&
    (decide (kind = 2 ∨ kind = 4) || decide (at_ t 2 1 ≤ 4)) && placeOk t &&
    decide (at_ t 4 2 < 2 ^ 14 ∧ code < 2 ^ 46 ∧ (code = 0 ↔ kind = 0)) && (t.drop 112).all (· = 0) &&
    (decide (rangesNamed t = 0) || decide (at_ t 8 4 + rangesNamed t ≤ Gh.ranges h)) &&
    (upFrom (at_ t 8 4) (rangesNamed t)).all (fun k => rangeOk s (rangeRec tab k)) &&
    (decide (at_ t 60 2 = 0) || decide (at_ t 56 4 + at_ t 60 2 ≤ Gh.ovfs h)) &&
    (succsOf ovf t).all (fun k => decide (k < Gh.tasks h) && decide (k ≠ i)) && decide (succsOf ovf t).Nodup &&
    waitOk (waitRec t 0) && waitOk (waitRec t 1) && pegOpOk (pegRec t 0) && pegOpOk (pegRec t 1)

def parseWait (w : List Byte) : List PegWait :=
  if bit (at_ w 2 1) 7 then [{ peg := at_ w 0 2, value := BitVec.ofNat 32 (at_ w 4 4) }] else []

def parsePegOp (b : List Byte) : List PegOp :=
  let c := at_ b 12 1
  if bit c 7 then [{
    addr := BitVec.ofNat 64 (at_ b 0 8), value := BitVec.ofNat 32 (at_ b 8 4), remote := bit c 6,
    when_ := BitVec.ofNat 2 (c / 16), add := decide (c % 4 = 2) }] else []

/-- A task descriptor as the front end keeps it (R222). -/
def parseTask (tab ovf t : List Byte) : TaskDesc := {
  kind := at_ t 0 1, priority := at_ t 1 1 / 16, onFail := bit (at_ t 1 1) 3, affinity := at_ t 2 1 % 8,
  pin := bit (at_ t 3 1) 7, place := at_ t 3 1 % 64, predCount := at_ t 4 2,
  ins := (upFrom (at_ t 8 4) (at_ t 6 1)).map (fun k => parseRange (rangeRec tab k)),
  outs := (upFrom (at_ t 8 4 + at_ t 6 1) (at_ t 7 1)).map (fun k => parseRange (rangeRec tab k)),
  timeLimitUs := at_ t 12 4, code := at_ t 16 8, tag := BitVec.ofNat 64 (at_ t 24 8), deadline := BitVec.ofNat 64 (at_ t 32 8),
  succs := succsOf ovf t, waitLimitMs := at_ t 62 2, waits := parseWait (waitRec t 0) ++ parseWait (waitRec t 1),
  pegOps := parsePegOp (pegRec t 0) ++ parsePegOp (pegRec t 1) }

/-- Check 5 for one declared range. -/
def rangeInside (s : State) (q : Nat) (write : Bool) (r : Range) : Bool :=
  if r.channel then ownsStack s q r.stack
  else decide (rowOf r.start = rowOf (r.start + r.len - 1)) && inWindows s q write r.start r.len

/-- Check 5 for a task of partition `q`. -/
def taskInside (s : State) (q : Nat) (d : TaskDesc) : Bool :=
  d.ins.all (rangeInside s q false) && d.outs.all (rangeInside s q true) &&
    (decide (d.kind ≠ Kind.bench ∧ d.kind ≠ Kind.maint) || ownsStack s q d.place) &&
    d.waits.all (fun w => ownsPeg s q w.peg) &&
    d.pegOps.all (fun op => op.remote || ((pegAt op.addr.toNat).map (ownsPeg s q)).getD false)

/-- How often a task is named as a successor. -/
def namedTimes (ds : List TaskDesc) (i : Nat) : Nat := ((ds.flatMap (fun d => d.succs)).filter (· = i)).length

/-- Everything that can be reached along successors, in rounds from a frontier. -/
def reachFrom (ds : List TaskDesc) : Nat → List Nat → List Nat → List Nat
  | 0, _, seen => seen
  | n + 1, front, seen =>
    let new := ((front.flatMap (fun i => (ds.getD i {}).succs)).filter (fun k => !seen.contains k)).eraseDups
    if new.isEmpty then seen else reachFrom ds n new (seen ++ new)

def onCycle (ds : List TaskDesc) (i : Nat) : Bool := (reachFrom ds (ds.length + 1) [i] []).contains i

/-- The first task for which a check fails. -/
def firstBad (n : Nat) (ok : Nat → Bool) : Option Nat := (List.range n).find? (fun i => !ok i)

/-- Task `i` of the task array. -/
def taskRec (tasks : List Byte) (i : Nat) : List Byte := (tasks.drop (128 * i)).take 128

/-- Checks 4 to 7 of a graph that has been read: its tasks, or the status and FIRST_TASK of its rejection. -/
def checkGraph (s : State) (q : Nat) (h tasks tab ovf : List Byte) : Except (Status × Option Nat) (List TaskDesc) :=
  if !graphHeadOk h then .error (Code.descriptorInvalid, none)
  else
    let n := Gh.tasks h
    match firstBad n (fun i => taskOk s h tab ovf i (taskRec tasks i)) with
    | some i => .error (Code.descriptorInvalid, some i)
    | none =>
      let ds := (List.range n).map (fun i => parseTask tab ovf (taskRec tasks i))
      match firstBad n (fun i => taskInside s q (ds.getD i {})) with
      | some i => .error (Code.windowFault, some i)
      | none =>
        match firstBad n (fun i => decide (namedTimes ds i = (ds.getD i {}).predCount)) with
        | some i => .error (Code.descriptorInvalid, some i)
        | none =>
          match firstBad n (fun i => !onCycle ds i) with
          | some i => .error (Code.graphCycle, some i)
          | none => .ok ds

/-- An array inside the partition's windows (check 2); an empty one needs none. -/
def arrayInside (s : State) (q : Nat) (write : Bool) (a n : Nat) : Bool := decide (n = 0) || inWindows s q write a n

/-- Check 2 once the header has been read: counts out of range are taken as the nearest legal value. -/
def arraysInside (s : State) (q ga ra : Nat) (h : List Byte) : Bool :=
  let n := Nat.max 1 (Nat.min (Gh.tasks h) 16384)
  arrayInside s q false ga (128 + 128 * n) && arrayInside s q false (Gh.rangeAddr h) (16 * Nat.min (Gh.ranges h) 65536) &&
    arrayInside s q false (Gh.ovfAddr h) (2 * Nat.min (Gh.ovfs h) 1048576) && (decide (ra = 0) || arrayInside s q true ra (32 * n))

/-- Reading what an entry names and checking it (R223). A header that cannot be read gives the read's status: check 2 needs its counts
(DESIGN CHOICE, log entry 119). -/
def readGraph (q : Nat) (e : List Byte) : Act (Except (Status × Option Nat) (List Byte × List TaskDesc)) := do
  let s ← get
  let ga := at_ e 0 8
  if !entryOk e then pure (.error (Code.descriptorInvalid, none))
  else if !inWindows s q false ga 128 then pure (.error (Code.windowFault, none))
  else do
    let h ← attempt (loadFrom 4 ga 128)
    match h with
    | .error st => pure (.error (st, none))
    | .ok h => do
      let s ← get
      if !arraysInside s q ga (at_ e 8 8) h then pure (.error (Code.windowFault, none))
      else do
        let l ← attempt (do
          let tasks ← loadFrom 4 (ga + 128) (128 * Nat.max 1 (Nat.min (Gh.tasks h) 16384))
          let tab ← loadFrom 4 (Gh.rangeAddr h) (16 * Nat.min (Gh.ranges h) 65536)
          let ovf ← loadFrom 4 (Gh.ovfAddr h) (2 * Nat.min (Gh.ovfs h) 1048576)
          pure (tasks, tab, ovf))
        match l with
        | .error st => pure (.error (st, none))
        | .ok (tasks, tab, ovf) => do
          let s ← get
          match checkGraph s q h tasks tab ovf with
          | .error r => pure (.error r)
          | .ok ds => pure (.ok (h, ds))

/-! ## The walker of each task (R225) -/

/-- The clusters of a partition on a die that own no task; none on a die in SHUTDOWN (R373). -/
def freeClusters (s : State) (q d : Nat) : Nat :=
  if dieDown s d then 0 else ((upFrom (64 * d) 64).filter (fun n => ownsCluster s q n && (clu s n).task.isNone)).length

/-- The die that AFFINITY ANY takes: most free clusters, lowest number on a tie, never one in SHUTDOWN. -/
def anyDie (s : State) (q : Nat) : Nat :=
  ((List.range 4).filter (fun d => !dieDown s d)).foldl
    (fun best d => match best with
      | none => some d
      | some b => if freeClusters s q b < freeClusters s q d then some d else some b) (none : Option Nat) |>.getD 0

/-- The die whose walker takes a task. -/
def walkerOf (s : State) (q : Nat) (d : TaskDesc) : Nat :=
  if d.kind = Kind.bench ∨ d.kind = Kind.maint then d.place / 6 else if d.affinity = 4 then anyDie s q else d.affinity

/-! ## Fetching (R213, R215, R224, R243) -/

/-- Whether the front end may take the next entry of a ring. -/
def canFetch (s : State) (r : Nat) : Bool :=
  let x := ring s r
  decide (x.state = .running) && decide (x.sqHead ≠ x.sqTail) && cqRoom x && x.held.isEmpty && x.waiting.isNone &&
    !portLost (port s (ringPort x))

/-- The ring whose turn it is. -/
def fetchTurn (s : State) : Option Nat := ((List.range 64).map (fun k => (s.hub.rotation + k) % 64)).find? (canFetch s)

/-- Address of the next submission entry. -/
def sqSlot (x : Ring) : Nat := x.sqBase.toNat * 64 + 64 * (x.sqHead.toNat % 2 ^ x.sqLog2.toNat)

/-- An entry is rejected: SQ_HEAD passes it and its completion is made. -/
def rejectEntry (s : State) (r : Nat) (tag : BitVec 64) (st : Status) (first : Option Nat) : State :=
  let c := (ring s r).sqHead
  pushCompletion (modRing s r (fun x => { x with sqHead := x.sqHead + 1 })) r (rejection s tag c st first)

/-- The age of a graph that begins to wait now. -/
def nextWait (s : State) : Nat := 1 + maxOf ((List.range 64).map (fun r => (ring s r).waitSeq))

/-- A graph has passed its checks and waits for room. -/
def holdGraph (s : State) (r : Nat) (e h : List Byte) (ds : List TaskDesc) : State :=
  let x := ring s r
  let q := x.part.toNat
  let g : Graph := {
    ring := r, part := q, sqCount := x.sqHead, userTag := BitVec.ofNat 64 (at_ e 16 8), resultAddr := at_ e 8 8,
    stepAddr := Gh.stepAddr h, tasks := ds, dies := ds.map (walkerOf s q), left := ds.length,
    admitted := decide (Gh.stepAddr h = 0) }
  let n := nextWait s
  modRing s r (fun x => { x with waiting := some g, waitSeq := n })

/-- One turn of a ring: FENCE is read before anything else of the entry. -/
def fetchGraph (r : Nat) : Act Unit := do
  edit (fun s => { s with hub := { s.hub with rotation := (r + 1) % 64 } })
  let s ← get
  let x := ring s r
  let e ← attempt (loadFrom 4 (sqSlot x) 64)
  match e with
  | .error st => edit (fun s =>
      let (tag, s) := freeBelow s (2 ^ 64)
      rejectEntry s r (BitVec.ofNat 64 tag) st none)
  | .ok e =>
    if bit (at_ e 24 1) 0 && decide (x.graphs ≠ 0) then pure ()
    else do
      let g ← readGraph x.part.toNat e
      match g with
      | .error (st, first) => edit (fun s => rejectEntry s r (BitVec.ofNat 64 (at_ e 16 8)) st first)
      | .ok (h, ds) => edit (fun s => holdGraph s r e h ds)

def execGraphFetch (r : Nat) (env : Env) (s : State) : Host.Outcome State Fault Refusal :=
  let s := applyEnv env s
  .next (if frontPaused s || decide (1024 ≤ s.graphs.length) || decide (fetchTurn s ≠ some r) then s
    else settle (fetchGraph r) s (fun _ t => t))

/-! ## Entering (R225, R226) -/

/-- Entries of die `d`'s walker in use. -/
def usedOn (s : State) (d : Nat) : Nat := ((allTasks s).filter (fun e => e.2.entry && decide (e.2.die = d))).length

/-- Entries that a graph needs on die `d`. -/
def needOn (g : Graph) (d : Nat) : Nat := (g.dies.filter (· = d)).length

/-- Entries reserved on die `d` for graphs that have waited longer than age `n`. -/
def reservedOn (s : State) (n d : Nat) : Nat :=
  (s.rings.map (fun e => if e.2.waitSeq < n then (e.2.waiting.map (needOn · d)).getD 0 else 0)).foldl (· + ·) 0

/-- Whether every walker concerned has room for the whole graph, and no die edge on the way to it retrains (Table 13-1). -/
def canEnter (s : State) (n : Nat) (g : Graph) : Bool :=
  decide (s.graphs.length < 1024) &&
    (List.range 4).all (fun d => decide (needOn g d = 0) ||
      (decide (needOn g d + usedOn s d + reservedOn s n d ≤ 16384) && pathUp s 4 d))

/-- Whether the unit of a task is in SHUTDOWN when it is handed over (R373). -/
def offline (s : State) (die : Nat) (d : TaskDesc) : Bool :=
  dieDown s die || (decide (d.kind = Kind.bench ∨ d.kind = Kind.maint) && stackDown s d.place)

/-- The values that pegs hold at entry meet the waits of the task (R228), as far as they reach its walker. -/
def lookWaits (s : State) (t : Task) : Task := t.desc.waits.foldl (fun t w => tellTask s w.peg (pegValue s w.peg) t) t

/-- One task enters its walker's table. -/
def enterTask (g q : Nat) (s : State) (e : Nat × TaskDesc × Nat) : State :=
  { s with tasks := tset none s.tasks (taskKey g e.1) (some (lookWaits s {
      graph := g, index := e.1, die := e.2.2, part := q, desc := e.2.1, preds := e.2.1.predCount })) }

/-- A task that has entered: one whose unit is off ends, one without predecessors waits (R227, R373). -/
def openTask (g : Nat) (s : State) (e : Nat × TaskDesc × Nat) : State :=
  if offline s e.2.2 e.2.1 then endUnstarted s (taskKey g e.1) Code.unitOffline
  else if e.2.1.predCount = 0 then startWaiting s (taskKey g e.1)
  else s

/-- All tasks of a waiting graph enter at once. -/
def enterGraph (s : State) (r : Nat) (x : Graph) : State :=
  let g := s.nextGraph
  let es := (List.range x.tasks.length).zip (x.tasks.zip x.dies)
  let s := modRing s r (fun y => { y with sqHead := y.sqHead + 1, waiting := none, graphs := y.graphs + 1 })
  let s := { s with
    nextGraph := g + 1, graphs := tset none s.graphs g (some x),
    admitQueue := if x.admitted then s.admitQueue else s.admitQueue ++ [g] }
  let s := es.foldl (enterTask g x.part) s
  es.foldl (openTask g) s

def execGraphEnter (r : Nat) (s : State) : Host.Outcome State Fault Refusal :=
  .next (match (ring s r).waiting with
    | some g => if !frontPaused s && canEnter s (ring s r).waitSeq g then enterGraph s r g else s
    | none => s)

end Sys2Proof.Machine
end

