-- ==== Sys2Proof/Machine/Bar4.lean ====
section
/-! DEFINITION. The window of each port into device memory (R399), the order of its writes and doorbells (R87, R259), and the
doorbells themselves (R210). -/

namespace Sys2Proof.Machine
open Sys2Proof

/-! ## Translation (R399) -/

/-- Whether the ports answer all ones and drop writes: STAGE is RESET or AUX_READY (R390). -/
def portsDark (s : State) : Bool := decide (s.hub.stage = .reset) || decide (s.hub.stage = .auxReady)

/-- The local address of BAR4 offset `off`: BASE bits below the BAR's size count as zero. -/
def bar4Addr (s : State) (p : PortId) (off : Nat) : Nat :=
  let q := port s p
  q.bar4Base.toNat / 2 ^ q.bar4Log2 * 2 ^ q.bar4Log2 * 2 ^ 30 + off

/-- Whether the windows of partition PART check the accesses of a port: ALL is 0, or the mode is SERVICE (R397). -/
def bar4Checked (s : State) (p : PortId) : Bool := !(port s p).bar4All || decide (s.hub.mode = 1)

/-- Whether some partition's range holds a peg (R236). -/
def pegOwned (s : State) (m : Nat) : Bool := s.parts.any (fun e => ownsPeg s e.1 m)

/-- Whether the hub serves a BAR4 access of `n` bytes at a local address (R236, R399). -/
def bar4Serves (s : State) (p : PortId) (write : Bool) (a n : Nat) : Bool :=
  let q := port s p
  q.bar4En &&
    (match placeOf a with
      | .host _ _ => false
      | .outside => false
      | .peg m lane =>
        decide (lane = 0) && decide (n = 4) && (if bar4Checked s p then ownsPeg s q.bar4Part.toNat m else pegOwned s m)
      | _ =>
        decide (rowOf (a + n - 1) = rowOf a) && (!bar4Checked s p || inWindows s q.bar4Part.toNat write a n))

/-! ## Writes (R87, R259) -/

/-- A BAR4 write is made at its home, or must wait; one that its home refuses is lost. -/
def makeWrite (s : State) (a : Nat) (bs : List Byte) : Option State :=
  match placeOf a with
  | .peg m _ =>
    if !pathUp s 4 (m / 16384) then none
    else some (if dieDown s (m / 16384) then s else setPeg s m (BitVec.ofNat 32 (leNat bs)))
  | _ =>
    match runAct (storeFrom 4 none a bs) s with
    | (.error .wait, _) => none
    | (_, t) => some t

/-- A doorbell is acted on. -/
def actOnBell (s : State) (p : PortId) (e : Nat × Nat × Word) : State :=
  if e.2.1 = 0 then takeSqTail s p e.1 e.2.2 else takeCqHead s p e.1 e.2.2

/-- A doorbell reaches the hub: it is acted on, or latched while hub firmware is activated (R360). -/
def takeBell (s : State) (p : PortId) (r off : Nat) (value : Word) : State :=
  if firmwarePaused s then modPort s p (fun q => { q with latched := q.latched ++ [(r, off, value)] })
  else actOnBell s p (r, off, value)

/-- The doorbells that a port has latched are acted on, in order (R360). -/
def ringLatched (s : State) (p : PortId) : State :=
  ((port s p).latched).foldl (fun s e => actOnBell s p e) (modPort s p (fun q => { q with latched := [] }))

def makeHeld (s : State) (p : PortId) : HeldWrite → Option State
  | .bar4 a bs => makeWrite s a bs
  | .bell r off value => some (takeBell s p r off value)

/-- What a port holds is made in order, as far as nothing waits. -/
def drainHeld : Nat → State → PortId → State
  | 0, s, _ => s
  | n + 1, s, p =>
    match (port s p).held with
    | [] => s
    | w :: _ =>
      match makeHeld s p w with
      | some t => drainHeld n (modPort t p (fun q => { q with held := q.held.drop 1 })) p
      | none => s

def drainPort (s : State) (p : PortId) : State := drainHeld (port s p).held.length s p

def drainPorts (s : State) : State := drainPort (drainPort s .a) .b

/-- Bytes of BAR4 writes that a port holds. -/
def heldBytes (q : Port) : Nat :=
  (q.held.map (fun w => match w with
    | .bar4 _ bs => bs.length
    | .bell _ _ _ => 0)).foldl (· + ·) 0

def holdWrite (s : State) (p : PortId) (w : HeldWrite) : State := modPort s p (fun q => { q with held := q.held ++ [w] })

/-- A write that is served: made behind everything the port holds, or held while the hub's buffer of 64 KiB, one for both ports, has
room. -/
def queueWrite (s : State) (p : PortId) (a : Nat) (bs : List Byte) : State :=
  let wait := if heldBytes s.portA + heldBytes s.portB + bs.length ≤ 65536 then holdWrite s p (.bar4 a bs) else s
  if (port s p).held.isEmpty then
    match makeWrite s a bs with
    | some t => t
    | none => wait
  else wait

def execBar4Write (p : PortId) (off : Nat) (data : List Byte) (env : Env) (s : State) : Host.Outcome State Fault Refusal :=
  let s := applyEnv env s
  let a := bar4Addr s p off
  .next (if !portTalks s p || decide (s.hub.stage ≠ .mainReady) then s
    else if bar4Serves s p true a data.length then queueWrite (drainPort s p) p a data
    else absentAccess s p a)

/-! ## Reads (R64, R78, R130, R373) -/

/-- Data of a read leave the block. -/
def bar4Give (s : State) (p : PortId) (bs : List Byte) (ep : Bool) : State := emit s (.bar4Data p bs ep)

def ones (n : Nat) : List Byte := List.replicate n 0xFF

/-- How a read that met a status completes. -/
def bar4Failed (s : State) (p : PortId) (a n : Nat) (st : Status) : State :=
  if st = Code.unitAbsent then
    match placeOf a with
    | .stack _ _ => bar4Give (absentAccess s p a) p (zeros n) false
    | _ =>
      let (bs, s) := freeBytes s n
      bar4Give s p bs false
  else bar4Give s p (ones n) true

/-- A read that the hub serves. -/
def bar4Fetch (s : State) (p : PortId) (a n : Nat) : State :=
  match placeOf a with
  | .peg m _ =>
    if !bothWays s 4 (m / 16384) then s
    else if dieDown s (m / 16384) then bar4Give s p (ones 4) true else bar4Give s p (leBytes 4 (pegValue s m).toNat) false
  | _ =>
    settle (loadFrom 4 a n) s (fun r s => match r with
      | .ok bs => bar4Give s p bs false
      | .error st => bar4Failed s p a n st)

def execBar4Read (p : PortId) (off size : Nat) (env : Env) (s : State) : Host.Outcome State Fault Refusal :=
  let s := applyEnv env s
  let a := bar4Addr s p off
  .next (if !portTalks s p then s
    else if portsDark s then bar4Give s p (ones size) false
    else
      let s := drainPort s p
      if !(port s p).held.isEmpty then s
      else if bar4Serves s p false a size then bar4Fetch s p a size
      else bar4Give (absentAccess s p a) p (zeros size) false)

/-! ## Doorbells (R210, R259) -/

/-- A write elsewhere in a doorbell page has no effect; through another port than the ring's it is logged (R210). -/
def deafBell (s : State) (p : PortId) (r off : Nat) (value : Word) : State :=
  if !portTalks s p || decide (s.hub.stage ≠ .mainReady) || ((ring s r).assigned && decide (ringPort (ring s r) = p)) then s
  else logEvent s Cls.doorbellIgnored 0 0 8 (portIdx p) (0x1000 * r + off) value.toNat

/-- A doorbell write reaches the hub: it is dropped where the ports do not serve (R390), and waits for the BAR4 writes that came
before it on its port. -/
def ringBell (s : State) (p : PortId) (r off : Nat) (value : Word) : State :=
  if !portTalks s p || decide (s.hub.stage ≠ .mainReady) then s
  else
    let s := drainPort s p
    if (port s p).held.isEmpty then takeBell s p r off value else holdWrite s p (.bell r off value)

def execSqTail (p : PortId) (ring : Nat) (value : Word) (s : State) : Host.Outcome State Fault Refusal :=
  .next (ringBell s p ring 0 value)

def execCqHead (p : PortId) (ring : Nat) (value : Word) (s : State) : Host.Outcome State Fault Refusal :=
  .next (ringBell s p ring 8 value)

end Sys2Proof.Machine
end

