-- ==== Sys2Proof/Machine/Place.lean ====
section
/-! DEFINITION. Placement of ready tasks (R229 to R231) and the walker's registers (R244, R246). -/

namespace Sys2Proof.Machine
open Sys2Proof

/-- What placement would do with a ready task at this moment. -/
inductive Spot where
  /-- It goes to unit `u` of its kind. -/
  | unit (u : Nat)
  /-- It ends at once with a status (R231), or is a NOP. -/
  | atOnce (st : Status)
  /-- Its unit is busy. -/
  | busy
  deriving DecidableEq, Repr, Inhabited

/-- Whether a walker places tasks: its die is not being reset, and its microcode is not being activated (Table 13-11). -/
def walkerServes (s : State) (d : Nat) : Bool :=
  !inReset s Dom.die d && !(decide (s.mgt.activating.head? = some 2) && decide (s.mgt.unit = d))

/-- Whether a cluster can take a task. -/
def clusterFree (s : State) (n : Nat) : Bool := (clu s n).task.isNone && !inReset s Dom.cluster n

/-- A JIG task (R231). A pinned task is judged by its own cluster alone: one outside the partition gives WINDOW_FAULT, also on a die where
the partition has no cluster (DESIGN CHOICE, log entry 119). -/
def jigSpot (s : State) (x : Task) : Spot :=
  let q := x.part
  if x.desc.pin then
    let n := 64 * x.die + x.desc.place
    if !clusterPresent s n then .atOnce Code.unitAbsent
    else if !ownsCluster s q n then .atOnce Code.windowFault
    else if clusterFree s n then .unit n else .busy
  else
    let own := (upFrom (64 * x.die) 64).filter (ownsCluster s q)
    if own.isEmpty then .atOnce Code.unitAbsent
    else match own.find? (clusterFree s) with
      | some n => .unit n
      | none => .busy

/-- The engine of a die that holds the fewest chains, lowest number on a tie. -/
def leastEngine (s : State) (d : Nat) : Nat :=
  (upFrom (8 * d) 8).foldl (fun b r => if (reg s r).chains.length < (reg s b).chains.length then r else b) (8 * d)

/-- A LAYOUT task. -/
def layoutSpot (s : State) (x : Task) : Spot :=
  let r := if x.desc.pin then 8 * x.die + x.desc.place else leastEngine s x.die
  if (reg s r).chains.length < 64 && !inReset s Dom.region r then .unit r else .busy

/-- A BENCH task (R106). -/
def benchSpot (s : State) (x : Task) : Spot :=
  let i := x.desc.place
  if (stk s i).benchQueue.length + activeSlots (stk s i) < 64 && !inReset s Dom.stack i then .unit i else .busy

/-- A MAINT task: one at a time on each stack. -/
def maintSpot (s : State) (x : Task) : Spot :=
  let i := x.desc.place
  let other := (allTasks s).any (fun e => unfinished e.2 && decide (e.2.desc.kind = Kind.maint) && decide (e.2.unit = some i))
  if !other && (stk s i).maint.isNone && !inReset s Dom.stack i then .unit i else .busy

/-- A task that names a stack in SHUTDOWN ends at once (R373). -/
def onStack (s : State) (x : Task) (p : Spot) : Spot := if stackDown s x.desc.place then .atOnce Code.unitOffline else p

/-- The unit that a ready task competes for (Table 8-12), whether or not its own ranges hold it. -/
def unitSpot (s : State) (x : Task) : Spot :=
  if x.desc.kind = Kind.nop then .atOnce Code.ok
  else if x.desc.kind = Kind.bench then onStack s x (benchSpot s x)
  else if x.desc.kind = Kind.maint then onStack s x (maintSpot s x)
  else if x.desc.kind = Kind.jig then jigSpot s x
  else layoutSpot s x

/-- Where a ready task goes (Table 8-12). A JIG or LAYOUT task with a granule of its ranges under maintenance waits (R71). -/
def spotOf (s : State) (x : Task) : Spot :=
  match unitSpot s x with
  | .unit u =>
    if decide (x.desc.kind = Kind.jig ∨ x.desc.kind = Kind.layout) && rangesBusy s (declared s x) then .busy else .unit u
  | o => o

/-- Whether a task stands before another in the walker's order (R226, R229). -/
def before (a : Nat × Task) (b : Nat × Task) : Bool :=
  decide (b.2.desc.priority < a.2.desc.priority) || (decide (b.2.desc.priority = a.2.desc.priority) && decide (a.1 < b.1))

def isReady (x : Task) : Bool := decide (x.state = .ready) && !x.workDone

def unpinnedJig (x : Task) : Bool := decide (x.desc.kind = Kind.jig) && !x.desc.pin

/-- A jig of a cluster that a task now owns: it has executed nothing of it, and has not halted in it (Table 6-14). -/
def placedJig (g : Jig) : Jig := { g with halted := false, haltCode := 0, bundles := 0, pc := 0, starts := [], astray := false }

/-- A task is placed on a unit. -/
def placeOn (s : State) (t : Nat) (x : Task) (u : Nat) : State :=
  let s := modTask s t (fun x => { x with state := .placed, unit := some u })
  if x.desc.kind = Kind.jig then modClu s u (fun c => { c with
    task := some t, begun := false, ended := 0, jig0 := placedJig c.jig0, jig1 := placedJig c.jig1 })
  else if x.desc.kind = Kind.bench then modStk s u (fun y => { y with benchQueue := y.benchQueue ++ [t] })
  else if x.desc.kind = Kind.layout then submitChain s u { owner := .task t, task := t, addr := x.desc.code }
  else modStk s u (fun y => { y with maintPlaced := some t })

/-- A task that ends at placement: a NOP starts as it leaves READY, the cases of R231 never start. -/
def endAtOnce (s : State) (t : Nat) (x : Task) (st : Status) : State :=
  if x.desc.kind = Kind.nop then endWork (startTask s t) t Code.ok 0 else endUnstarted s t st

/-! ## The order of placement (R229) -/

/-- The ready tasks of the same walker that stand before a task, in the walker's order. -/
def earlierReady (s : State) (t : Nat) (x : Task) : List (Nat × Task) :=
  let es := (allTasks s).filter (fun e => isReady e.2 && decide (e.2.die = x.die) && before e (t, x))
  (List.range 16).reverse.flatMap (fun p => es.filter (fun e => e.2.desc.priority = p))

/-- What the earlier tasks take in their order: the state with those placed that can be, the units that they all compete for, and those of
the ones that have to wait, by kind. -/
structure Claims where
  s : State
  all : List (Nat × Nat) := []
  waiting : List (Nat × Nat) := []

/-- One earlier task takes its unit, or waits for it: where its ranges are under maintenance (R71), or a task before it waits for the same
unit. -/
def claim (c : Claims) (e : Nat × Task) : Claims :=
  match unitSpot c.s e.2 with
  | .unit v =>
    let u := (e.2.desc.kind, v)
    if c.waiting.contains u || spotOf c.s e.2 = .busy then { c with all := u :: c.all, waiting := u :: c.waiting }
    else { c with s := placeOn c.s e.1 e.2 v, all := u :: c.all }
  | _ => c

/-- Whether an earlier ready task keeps a task from unit `u`: it competes for that unit, or both are unpinned JIG tasks of one
partition. -/
def heldBack (s : State) (t : Nat) (x : Task) (u : Nat) : Bool :=
  let es := earlierReady s t x
  (es.foldl claim { s := s }).all.contains (x.desc.kind, u) ||
    (unpinnedJig x && es.any (fun e => unpinnedJig e.2 && decide (e.2.part = x.part)))

def execTaskPlace (task : Nat) (s : State) : Host.Outcome State Fault Refusal :=
  .next (match taskAt s task with
    | some x =>
      if isReady x && walkerServes s x.die then
        match spotOf s x with
        | .unit u => if heldBack s task x u then s else placeOn s task x u
        | .atOnce st => endAtOnce s task x st
        | .busy => s
      else s
    | none => s)

/-! ## The walker's registers (Table 8-18) -/

def isHeld (x : Task) : Bool := decide (x.state = .held) && !x.workDone

/-- The tasks of a walker that a break holds. -/
def heldTasks (s : State) (d : Nat) : List Nat :=
  ((allTasks s).filter (fun e => decide (e.2.die = d) && isHeld e.2)).map Prod.fst

/-- RELEASE_ALL (R244). -/
def releaseAll (s : State) (d : Nat) : State :=
  let l := heldTasks s d
  if l.isEmpty then modWlk s d (fun w => { w with lastCmd := Code.stateConflict })
  else modWlk (l.foldl (fun s t => modTask s t (fun x => { x with state := .ready })) s) d (fun w => { w with lastCmd := Code.ok })

/-- A write of `WLK.CTRL`. -/
def writeWlkCtrl (d : Nat) (value : Word) (s : State) : State := if value.toNat % 4 = 1 then releaseAll s d else s

def execReleaseAll (p : PortId) (d : Nat) (s : State) : Host.Outcome State Fault Refusal :=
  .next (if d < 4 then viseWrite s p (Base.wlk d + 0x18) 1 (writeWlkCtrl d 1) else s)

/-- A write of `WLK.LIMITS`: a 0 leaves its field as it is, and the write is logged. -/
def writeWlkLimits (d : Nat) (value : Word) (s : State) : State :=
  let w : BitVec 16 := BitVec.ofNat 16 (value.toNat >>> 48)
  let t : BitVec 32 := BitVec.ofNat 32 value.toNat
  let s := modWlk s d (fun x => { x with
    waitLimitMs := if w = 0 then x.waitLimitMs else w, taskLimitUs := if t = 0 then x.taskLimitUs else t })
  if w = 0 ∨ t = 0 then setupIgnored s (Base.wlk d + 8) value else s

/-- A write of `WLK.BRK`. -/
def writeWlkBrk (d : Nat) (value : Word) (s : State) : State :=
  modWlk s d (fun x => { x with brkEn := bit value.toNat 63, brkTag := BitVec.ofNat 32 value.toNat })

/-- `WLK.STATUS`. -/
def wlkStatusWord (s : State) (d : Nat) : Nat :=
  (wlk s d).lastCmd.toNat * 2 ^ 56 + (heldTasks s d).length * 2 ^ 32
    + ((allTasks s).filter (fun e => decide (e.2.die = d) && isReady e.2)).length * 65536 + usedOn s d

end Sys2Proof.Machine
end

