-- ==== Sys2Proof/Machine/Links.lean ====
section
/-! DEFINITION. Forset links: training (R315, R319, R320), commands (R341), flits, replay and credits (R316 to R318), the `FST`
and `FLK` registers (R339, R340). -/

namespace Sys2Proof.Machine
open Sys2Proof

/-! ## Nodes of the torus (R312, R319) -/

/-- Coordinate of a node in dimension 0 (x), 1 (y) or 2 (z). -/
def coord (node dim : Nat) : Nat := node / 64 ^ dim % 64

/-- The node with one coordinate replaced. -/
def withCoord (node dim c : Nat) : Nat := node - coord node dim * 64 ^ dim + c * 64 ^ dim

/-- The neighbour of a node in a direction. -/
def neighbour (f : Fst) (node dir : Nat) : Nat :=
  let dim := dir / 2
  let n := extentOf f dim
  let c := coord node dim
  withCoord node dim (if dir % 2 = 0 then (c + 1) % n else (c + n - 1) % n)

/-- The direction opposite to one. -/
def opposite (dir : Nat) : Nat := if dir % 2 = 0 then dir + 1 else dir - 1

/-! ## Training (R315, R319) -/

/-- The lanes that a link comes up on: all eight, the lower or the upper half, or none. -/
def usableLanes (lanes : BitVec 8) : BitVec 8 :=
  if lanes = 0xFF then 0xFF else if lanes &&& 0x0F = 0x0F then 0x0F else if lanes &&& 0xF0 = 0xF0 then 0xF0 else 0

/-- Whether the far end is the one that R312 and R320 name. -/
def rightPeer (s : State) (i : Nat) (r : TrainResult) : Bool :=
  decide (r.peerDie.toNat = i / 6) && decide (r.peerNode.toNat = neighbour s.fst s.fst.node.toNat (linkDir i)) &&
    decide (r.peerDir.toNat = opposite (linkDir i))

/-- A training attempt has failed: the link is DOWN, and the eighth failure in a row is logged. -/
def trainFailed (s : State) (i : Nat) : State :=
  let n := (lnk s i).failures + 1
  let s := modLnk s i (fun l => { l with state := .down, laneMask := 0, failures := n })
  if n = 8 then logEvent s Cls.linkTrainFail 2 0 7 i n 0 else s

/-- A training attempt ends. -/
def endTraining (s : State) (i : Nat) (r : TrainResult) : State :=
  let m := usableLanes r.lanes
  if m = 0 then trainFailed s i
  else
    let s := modLnk s i (fun l => { l with peer := r.peerNode, peerDie := r.peerDie, delayNs := r.delayNs })
    if rightPeer s i r then
      modLnk (clearLink s i (if m = 0xFF then .up else .degraded)) i (fun l => { l with
        laneMask := m, peer := r.peerNode, failures := 0 })
    else trainFailed (logEvent s Cls.linkMiswired 2 0 7 i r.peerDie.toNat r.peerNode.toNat) i

def execLinkTrainEnd (i : Nat) (r : TrainResult) (s : State) : Host.Outcome State Fault Refusal :=
  .next (if i < 24 ∧ (lnk s i).state = .training then endTraining s i r else s)

def execLinkTrainRetry (i : Nat) (s : State) : Host.Outcome State Fault Refusal :=
  .next (if i < 24 ∧ (lnk s i).state = .down ∧ (lnk s i).failures < 8 ∧ mayTrain s i then beginTraining s i else s)

/-- Every link that may train and is DOWN begins to train. -/
def trainAll (s : State) : State :=
  (List.range 24).foldl (fun s i =>
    if (lnk s i).state = .down ∧ mayTrain s i then beginTraining (modLnk s i (fun l => { l with failures := 0 })) i else s) s

/-! ## `FST` registers (Tables 12-9 to 12-13) -/

/-- Whether a node lies inside the extents, and the extents inside 1 to 64 (Table 12-10). -/
def torusOk (node : BitVec 18) (nx ny nz : BitVec 7) : Bool :=
  decide (1 ≤ nx.toNat ∧ nx.toNat ≤ 64 ∧ 1 ≤ ny.toNat ∧ ny.toNat ≤ 64 ∧ 1 ≤ nz.toNat ∧ nz.toNat ≤ 64 ∧
    coord node.toNat 0 < nx.toNat ∧ coord node.toNat 1 < ny.toNat ∧ coord node.toNat 2 < nz.toNat)

/-- A write of RL fields of the fabric: refused and logged while locked, if it would change them. -/
def fabricWrite (s : State) (off : Nat) (value : Word) (ok : Bool) (f : Fst) : State :=
  if s.hub.lockFabric then (if f ≠ s.fst then setupIgnored s off value else s)
  else if ok then { s with fst := f }
  else setupIgnored s off value

/-- Whether this package is the root of the time tree (R338). -/
def isRoot (f : Fst) : Bool := decide (f.node = f.root)

/-- The time state follows NODE, ROOT_NODE and SYNC_EN at once on the root (R338). -/
def rootState (s : State) : State :=
  if isRoot s.fst then
    if s.fst.syncEn then { s with fst := { s.fst with timeState := .locked, everLocked := true, carryLocked := true, holdExpired := false } }
    else if s.fst.timeState = .locked then { s with fst := { s.fst with timeState := .freeRun, carryLocked := false } }
    else s
  else s

/-- `FST.NODE`: setting EN lets the links train. -/
def writeFstNode (value : Word) (s : State) : State :=
  let f : Fst := { s.fst with en := bit value.toNat 63, node := BitVec.ofNat 18 value.toNat }
  let t := fabricWrite s (Base.fst + 0) value (torusOk f.node f.nx f.ny f.nz) f
  let t := if t.fst.node = s.fst.node then t else rootState t
  if t.fst.en && !s.fst.en then trainAll t else t

def writeFstTorus (value : Word) (s : State) : State :=
  let v := value.toNat
  let f : Fst := { s.fst with nx := BitVec.ofNat 7 v, ny := BitVec.ofNat 7 (v >>> 8), nz := BitVec.ofNat 7 (v >>> 16) }
  fabricWrite s (Base.fst + 8) value (torusOk f.node f.nx f.ny f.nz) f

/-- `FST.TIMEOUT`: a timeout outside 200 µs to 10,000,000 µs is ignored and logged (R332). -/
def writeFstTimeout (value : Word) (s : State) : State :=
  let v := value.toNat
  let f : Fst := { s.fst with getRetry := bit v 32, e2eUs := BitVec.ofNat 32 v }
  fabricWrite s (Base.fst + 0x10) value (decide (200 ≤ f.e2eUs.toNat ∧ f.e2eUs.toNat ≤ 10000000)) f

/-- `FST.TIME`. -/
def writeFstTime (value : Word) (s : State) : State :=
  let f : Fst := { s.fst with syncEn := bit value.toNat 31, root := BitVec.ofNat 18 value.toNat }
  rootState (fabricWrite s (Base.fst + 0x18) value true f)

/-- `FST.SYS_OFFSET`: written on the root, read-only elsewhere. -/
def writeSysOffset (value : Word) (s : State) : State :=
  if isRoot s.fst then fabricWrite s (Base.fst + 0x20) value true { s.fst with sysOffset := value } else s

def detourAt (f : Fst) (dir : Nat) : BitVec 16 := tget 0 f.detours dir

/-- Whether a detour entry's HOPS and its directions are legal (Table 12-13). -/
def detourOk (v : Nat) : Bool :=
  let hops := fld v 14 12
  decide (1 ≤ hops ∧ hops ≤ 4) && (List.range hops).all (fun k => decide (v / 8 ^ k % 8 ≤ 5))

def writeDetour (dir : Nat) (value : Word) (s : State) : State :=
  if detourOk value.toNat then { s with fst := { s.fst with detours := tset 0 s.fst.detours dir (value.setWidth 16) } }
  else setupIgnored s (Base.fst + 0x30 + 8 * dir) value

def execNodeEnable (p : PortId) (value : Word) (s : State) : Host.Outcome State Fault Refusal :=
  .next (viseWrite s p Base.fst value (writeFstNode value))

def execSyncEnable (p : PortId) (value : Word) (s : State) : Host.Outcome State Fault Refusal :=
  .next (viseWrite s p (Base.fst + 0x18) value (writeFstTime value))

/-! ## Link commands (R341) -/

/-- Packets that wait for credits go back to the router, and fail over. -/
def returnQueued (s : State) (i : Nat) : State :=
  let q := (lnk s i).txq.flatMap Prod.snd
  q.foldl (fun s p => pushRouter s (i / 6) { pkt := p }) (modLnk s i (fun l => { l with txq := [] }))

def linkStatus (s : State) (i : Nat) (st : Status) : State := modLnk s i (fun l => { l with lastCmd := st })

/-- A link begins to drain. -/
def drainLink (s : State) (i : Nat) (disable : Bool) : State :=
  returnQueued (modLnk s i (fun l => { l with draining := some (disable || l.draining = some true) })) i

/-- A write of `FLK.CTRL`. -/
def writeFlkCtrl (i : Nat) (value : Word) (s : State) : State :=
  let l := lnk s i
  match value.toNat % 4 with
  | 1 => if linkUsable l then linkStatus (drainLink s i false) i Code.ok else linkStatus s i Code.stateConflict
  | 2 =>
    if l.state = .down ∧ l.disabled then linkStatus s i Code.stateConflict
    else if linkUsable l then linkStatus (drainLink s i true) i Code.ok
    else linkStatus (modLnk s i (fun l => { l with state := .down, laneMask := 0, disabled := true })) i Code.ok
  | 3 =>
    if l.disabled then
      let s := linkStatus (modLnk s i (fun l => { l with disabled := false, failures := 0 })) i Code.ok
      if mayTrain s i then beginTraining s i else s
    else linkStatus s i Code.stateConflict
  | _ => s

def flkWrite (s : State) (p : PortId) (i : Nat) (value : Word) : State :=
  if i < 24 then viseWrite s p (Base.flk i + 8) value (writeFlkCtrl i value) else s

def execRecal (p : PortId) (i : Nat) (s : State) : Host.Outcome State Fault Refusal := .next (flkWrite s p i 1)
def execDisable (p : PortId) (i : Nat) (s : State) : Host.Outcome State Fault Refusal := .next (flkWrite s p i 2)
def execEnable (p : PortId) (i : Nat) (s : State) : Host.Outcome State Fault Refusal := .next (flkWrite s p i 3)

def execLinkDrainEnd (i : Nat) (s : State) : Host.Outcome State Fault Refusal :=
  .next (if i < 24 ∧ (lnk s i).replayBuf = [] then
      match (lnk s i).draining with
      | some true => clearLink s i .down
      | some false => if mayTrain s i then beginTraining (clearLink s i .down) i else clearLink s i .down
      | none => s
    else s)

/-! ## Flits sent -/

/-- A DATA flit leaves on a link. -/
def emitData (s : State) (i : Nat) (f : SentFlit) : State :=
  sendFlit s i FlitKind.data f.seq 0 0 f.payload

/-- A new DATA flit is kept for replay and leaves. -/
def sendData (i : Nat) (s : State) (payload : List Byte) : State :=
  let f : SentFlit := { seq := (lnk s i).txSeq, payload := payload }
  emitData (modLnk s i (fun l => { l with
    txSeq := l.txSeq + 1, replayBuf := l.replayBuf ++ [f], ackAt := if l.replayBuf.isEmpty then now s else l.ackAt })) i f

/-- The payloads of a packet: 304 bytes each, filled up with zeros. -/
def payloadsOf (bs : List Byte) : List (List Byte) :=
  (List.range ((bs.length + 303) / 304)).map (fun k =>
    let c := (bs.drop (304 * k)).take 304
    c ++ zeros (304 - c.length))

/-- REPLAY: the receiver asks for everything from the first flit it still needs (R317). -/
def sendReplay (s : State) (i : Nat) : State :=
  let s := modLnk s i (fun l => { l with
    replays := satInc l.replays 1, futileAsked := l.futileAsked + 1,
    errorSince := match l.errorSince with
      | none => some (now s)
      | some t => some t })
  sendFlit s i FlitKind.replay (lnk s i).rxSeq 0 0 []

/-- The sender resends a part of its replay buffer. -/
def resend (s : State) (i : Nat) (l : List SentFlit) : State := l.foldl (fun s f => emitData s i f) s

/-- A REPLAY is answered from the flit that it names. -/
def answerReplay (s : State) (i : Nat) (seq : BitVec 12) : State :=
  resend (modLnk s i (fun x => { x with futileAnswered := x.futileAnswered + 1 })) i
    ((lnk s i).replayBuf.dropWhile (fun f => decide (f.seq ≠ seq)))

/-- No ACK has advanced for 2 µs: everything unacknowledged is sent again, and the next 2 µs begin. -/
def replayOldest (s : State) (i : Nat) : State :=
  resend (modLnk s i (fun x => { x with futileTimed := x.futileTimed + 1, ackAt := now s })) i (lnk s i).replayBuf

/-! ## Flits received (R316 to R318) -/

/-- What the decoder found is counted. -/
def countFec (s : State) (i : Nat) (h : FlitHead) : State :=
  modLnk s i (fun l => { l with
    fecCorr := satInc l.fecCorr (correctedSymbols h.errors), fecUncorr := satInc l.fecUncorr (lostCodewords h.errors) })

/-- The replay buffer after an acknowledgement: everything up to and including the flit named. -/
def ackTo (l : Link) (ack : BitVec 12) (time : Nat) : Link :=
  match l.replayBuf.findIdx? (fun f => f.seq = ack) with
  | some k => { l with replayBuf := l.replayBuf.drop (k + 1), futileAnswered := 0, futileTimed := 0, ackAt := time }
  | none => l

/-- ACK and credits of a received flit. -/
def takeHead (s : State) (i : Nat) (h : FlitHead) : State :=
  modLnk s i (fun l =>
    let l := ackTo l h.ack (now s)
    { l with credits := tmod 0 l.credits h.cvc.toNat (· - h.credits.toNat) })

/-- A flit reaches a link: one on a dead link or of another epoch is discarded, a bad one is answered with REPLAY. -/
def onFlit (s : State) (i : Nat) (h : FlitHead) (kind : BitVec 2) (seq : BitVec 12) (payload : List Byte) (k : State → State) :
    State :=
  if 24 ≤ i ∨ !linkUsable (lnk s i) then s
  else
    let s := countFec s i h
    if !flitGood h kind seq payload then sendReplay s i
    else if h.epoch ≠ (lnk s i).epoch then s
    else k (takeHead s i h)

/-- Whether a packet has crossed the dateline of a dimension when it leaves node `at_` in a direction (R318). -/
def crossed (src node dir : Nat) : Bool :=
  let c := coord node (dir / 2)
  let c0 := coord src (dir / 2)
  if dir % 2 = 0 then decide (c < c0) else decide (c0 < c)

/-- The virtual channel of a packet that leaves a node in a direction (Table 12-3). -/
def vcOf (p : Packet) (node dir : Nat) : Nat :=
  if p.detoured then (if isRequest p then 4 else 5)
  else (if isRequest p then 0 else 2) + b2n (crossed p.src.toNat node dir)

/-- Whether a packet's TYPE is one of Table 12-5. -/
def knownType (p : Packet) : Bool := [1, 2, 3, 4, 8, 9, 10, 11].contains p.typ.toNat

/-- A packet of an unknown type is dropped with its data and counted; its credits go back. -/
def dropUnknown (s : State) (i : Nat) (p : Packet) : State :=
  sendIdle { s with fst := { s.fst with unroutable := satInc s.fst.unroutable 1 } } i
    (vcOf p (lnk s i).peer.toNat (opposite (linkDir i))) (packetUnits p)

/-- Whole packets at the front of the received bytes go to the router of the link's die. A unit of zeros carries nothing; an
unknown type is dropped and counted. -/
def takePackets (i : Nat) : Nat → State → State
  | 0, s => s
  | n + 1, s =>
    let bs := (lnk s i).rxBytes
    let skip (k : Nat) (s : State) : State := modLnk s i (fun l => { l with rxBytes := l.rxBytes.drop k })
    if bs.length < 16 then s
    else if (bs.take 16).all (· = 0) then takePackets i n (skip 16 s)
    else if bs.length < 32 then s
    else
      let p := parsePacket bs
      if bs.length < 16 * packetUnits p then s
      else if !knownType p then takePackets i n (dropUnknown (skip (16 * packetUnits p) s) i p)
      else
        let vc := vcOf p (lnk s i).peer.toNat (opposite (linkDir i))
        takePackets i n (pushRouter (skip (16 * packetUnits p) s) (i / 6) { pkt := p, held := some (i, vc) })

/-- A good DATA flit: accepted in SEQ order; a duplicate is discarded, a gap is answered with REPLAY once. -/
def takeData (s : State) (i : Nat) (seq : BitVec 12) (payload : List Byte) : State :=
  let l := lnk s i
  if seq = l.rxSeq then
    let s := modLnk s i (fun l => { l with rxSeq := l.rxSeq + 1, futileAsked := 0, errorSince := none, rxBytes := l.rxBytes ++ payload })
    sendIdle (takePackets i ((lnk s i).rxBytes.length / 16 + 1) s) i 0 0
  else if (seq - l.rxSeq).toNat < 2048 ∧ l.errorSince = none then sendReplay s i
  else s

def execDataFlit (i : Nat) (h : FlitHead) (seq : BitVec 12) (payload : List Byte) (s : State) : Host.Outcome State Fault Refusal :=
  .next (onFlit s i h FlitKind.data seq payload (fun s => takeData s i seq payload))

def execIdleFlit (i : Nat) (h : FlitHead) (s : State) : Host.Outcome State Fault Refusal :=
  .next (onFlit s i h FlitKind.idle 0 [] (fun s => s))

def execReplayFlit (i : Nat) (h : FlitHead) (seq : BitVec 12) (s : State) : Host.Outcome State Fault Refusal :=
  .next (onFlit s i h FlitKind.replay seq [] (fun s => answerReplay s i seq))

def execReplayTimeout (i : Nat) (s : State) : Host.Outcome State Fault Refusal :=
  .next (if i < 24 ∧ linkUsable (lnk s i) ∧ (lnk s i).replayBuf ≠ [] ∧ (lnk s i).ackAt + 2000 ≤ now s then
      replayOldest s i
    else s)

/-- Whether a link has made no progress for 20 µs, or through 32 replays (R317). -/
def linkStuck (s : State) (l : Link) : Bool :=
  decide (32 ≤ l.futileAsked) || decide (32 ≤ l.futileAnswered) || decide (32 ≤ l.futileTimed) ||
    ((l.errorSince.map (fun t => decide (t + 20000 ≤ now s))).getD false)

/-- The end that sees no progress declares the link DOWN, and the other end follows when the link stops. -/
def execLinkDownTimeout (loss : LinkLoss) (s : State) : Host.Outcome State Fault Refusal :=
  .next (match loss with
    | .noProgress i => if i < 24 ∧ linkUsable (lnk s i) ∧ linkStuck s (lnk s i) then linkDown s i else s
    | .stopped i => if i < 24 ∧ linkUsable (lnk s i) then linkDown s i else s)

/-! ## Sending packets (R318) -/

/-- Whether the router may put new packets into a link (R341). -/
def linkOpen (s : State) (i : Nat) : Bool := linkUsable (lnk s i) && (lnk s i).draining.isNone && s.fst.en

/-- Whether credits for a whole packet are held, and the replay buffer has room for its flits. -/
def maySend (l : Link) (vc : Nat) (p : Packet) : Bool :=
  decide (tget 0 l.credits vc + packetUnits p ≤ 1024) &&
    decide (l.replayBuf.length + (payloadsOf (packetBytes p)).length ≤ 512)

/-- The head of a transmit queue is taken out. -/
def takeQueued (s : State) (i vc : Nat) : State := modLnk s i (fun l => { l with txq := tmod [] l.txq vc (·.drop 1) })

/-- A packet as it leaves a package: one step of its detour is used up (R323). -/
def leaving (p : Packet) : Packet := if p.detoured && decide (p.hops ≠ 0) then { p with route := p.route >>> 3, hops := p.hops - 1 } else p

/-- A packet leaves as DATA flits. -/
def sendPacket (s : State) (i vc : Nat) (p : Packet) : State :=
  let p := leaving p
  let s := modLnk (takeQueued s i vc) i (fun l => { l with credits := tmod 0 l.credits vc (· + packetUnits p) })
  (payloadsOf (packetBytes p)).foldl (sendData i) s

def execPacketSend (i vc : Nat) (s : State) : Host.Outcome State Fault Refusal :=
  .next (match tget [] (lnk s i).txq vc with
    | p :: _ =>
      if 24 ≤ i then s
      else if tooOld s p 2000 then countAged (takeQueued s i vc)
      else if linkUsable (lnk s i) ∧ maySend (lnk s i) vc p then sendPacket s i vc p
      else s
    | [] => s)

/-! ## The registers' words -/

def fstNodeWord (f : Fst) : Nat := b2n f.en * 2 ^ 63 + f.node.toNat
def fstTorusWord (f : Fst) : Nat := f.nz.toNat * 65536 + f.ny.toNat * 256 + f.nx.toNat
def fstTimeoutWord (f : Fst) : Nat := b2n f.getRetry * 2 ^ 32 + f.e2eUs.toNat

def timeCode : TimeState → Nat
  | .freeRun => 0
  | .acquiring => 1
  | .locked => 2
  | .holdover => 3

def fstTimeWord (f : Fst) : Nat :=
  timeCode f.timeState * 2 ^ 62 + f.parentDir.toNat * 2 ^ 59 + f.offsetNs.toNat * 2 ^ 32 + b2n f.syncEn * 2 ^ 31 + f.root.toNat

def lastFailWord (f : Fst) : Nat :=
  f.failReason.toNat * 2 ^ 56 + f.failTag.toNat * 2 ^ 40 + f.failDie.toNat * 2 ^ 38 + f.failDst.toNat

def linkCode : LinkState → Nat
  | .down => 0
  | .training => 1
  | .up => 2
  | .degraded => 3

def flkStatusWord (l : Link) : Nat :=
  linkCode l.state * 2 ^ 62 + b2n l.disabled * 2 ^ 61 + l.lastCmd.toNat * 2 ^ 48 + l.peerDie.toNat * 2 ^ 44
    + l.peer.toNat * 2 ^ 24 + l.laneMask.toNat * 256 + l.epoch.toNat

end Sys2Proof.Machine
end

