-- ==== Sys2Proof/Machine/Router.lean ====
section
/-! DEFINITION. Routing (R321 to R324), the service of requests at their target (R328, R329), answers (R330, R335), ages and
timeouts (R333, R334), time synchronisation (R337, R338). -/

namespace Sys2Proof.Machine
open Sys2Proof

/-! ## Ages (R333) -/

/-- A packet is dropped for its age. -/
def dropAged (s : State) (x : Transit) : State := releaseHeld (countAged s) x

/-! ## The way on (R320 to R323) -/

/-- The direction in which dimension order takes a packet from one node to another. -/
def nextDir (f : Fst) (node dst : Nat) : Option Nat :=
  ([0, 1, 2].find? (fun dim => decide (coord node dim ≠ coord dst dim))).map (fun dim =>
    let n := extentOf f dim
    let up := (coord dst dim + n - coord node dim) % n
    let down := (coord node dim + n - coord dst dim) % n
    2 * dim + (if up ≤ down then 0 else 1))

/-- The directions that serve one: with an extent of 2 the other way round is the same hop. -/
def dirsFor (f : Fst) (dir : Nat) : List Nat := if extentOf f (dir / 2) = 2 then [dir, opposite dir] else [dir]

/-- The dies whose links are tried: the packet's own, then d XOR 1, d XOR 2, d XOR 3 (R322). -/
def dieOrder (d : Nat) : List Nat := [d, Nat.xor d 1, Nat.xor d 2, Nat.xor d 3]

/-- The first usable link among directions of the four planes. -/
def openLink (s : State) (d : Nat) (dirs : List Nat) : Option Nat :=
  ((dieOrder d).flatMap (fun e => dirs.map (fun k => 6 * e + k))).find? (linkOpen s)

/-- What the router does with a packet. -/
inductive Way where
  | link (i : Nat) (p : Packet)
  | unroutable
  deriving DecidableEq, Repr

/-- One step along the packet's detour; ROUTE and HOPS move on when the packet leaves (R323). -/
def detourStep (s : State) (d : Nat) (p : Packet) : Way :=
  match openLink s d [p.route.toNat % 8] with
  | some i => .link i p
  | none => .unroutable

/-- The way on in dimension order, or into the detour of a blocked direction. -/
def orderStep (s : State) (d : Nat) (p : Packet) : Way :=
  match nextDir s.fst s.fst.node.toNat p.dst.toNat with
  | none => .unroutable
  | some dir =>
    match openLink s d (dirsFor s.fst dir) with
    | some i => .link i p
    | none =>
      let e := (detourAt s.fst dir).toNat
      if bit e 15 && decide (p.detours.toNat < 2) then
        detourStep s d { p with
          detoured := true, detours := p.detours + 1, route := BitVec.ofNat 12 e, hops := BitVec.ofNat 3 (e >>> 12) }
      else .unroutable

def wayOf (s : State) (d : Nat) (p : Packet) : Way :=
  if p.detoured && decide (p.hops ≠ 0) then detourStep s d p else orderStep s d p

/-! ## The router (R321, R322, R324) -/

def atHome (s : State) (p : Packet) : Bool := decide (p.dst = s.fst.node)

/-- The die that serves a request here: the owner of its address, or where it stands when no die owns it. -/
def servingDie (d : Nat) (p : Packet) : Nat := if dieOf p.addr.toNat < 4 then dieOf p.addr.toNat else d

/-- A packet is taken out of the router of a die. -/
def takeOut (s : State) (d : Nat) (x : Transit) : State :=
  { s with fst := { s.fst with routers := tmod [] s.fst.routers d (fun l => l.erase x) } }

/-- An unroutable packet: counted, and a request is answered (R324). -/
def dropUnroutable (s : State) (d : Nat) (p : Packet) : State :=
  let s := { s with fst := { s.fst with unroutable := satInc s.fst.unroutable 1 } }
  if isRequest p then sendNak s d p Code.unitAbsent else s

/-- The packet passes to a link, on its virtual channel; its PLANE is the link's. -/
def toLink (s : State) (i : Nat) (p : Packet) : State :=
  let vc := vcOf p s.fst.node.toNat (linkDir i)
  modLnk s i (fun l => { l with txq := tmod [] l.txq vc (· ++ [{ p with plane := BitVec.ofNat 2 (i / 6) }]) })

/-- One packet is routed. Traffic over a die edge that retrains waits (Table 13-1). -/
def routeOne (s : State) (d : Nat) (x : Transit) : State :=
  let p := x.pkt
  if tooOld s p 2000 then dropAged (takeOut s d x) x
  else if atHome s p then
    let e := if s.rst.fatal then d else servingDie d p
    if pathUp s d e then pushIngress (takeOut s d x) e x else s
  else match wayOf s d p with
    | .link i q => if pathUp s d (i / 6) then toLink (releaseHeld (takeOut s d x) x) i q else s
    | .unroutable => dropUnroutable (releaseHeld (takeOut s d x) x) d p

/-- Whether a packet can leave the router now: the die edges of its way are up, or it is to be dropped. -/
def canRoute (s : State) (d : Nat) (p : Packet) : Bool :=
  tooOld s p 2000 ||
    (if atHome s p then pathUp s d (if s.rst.fatal then d else servingDie d p)
     else match wayOf s d p with
      | .link i _ => pathUp s d (i / 6)
      | .unroutable => true)

/-- The first packet that can leave the router: none waits behind one whose die edge retrains (R318). A response that has arrived waits for
its requester instead. -/
def routable (s : State) (d : Nat) : Option Transit :=
  (tget [] s.fst.routers d).find? (fun x => !(atHome s x.pkt && !isRequest x.pkt) && canRoute s d x.pkt)

def execPacketRoute (d : Nat) (s : State) : Host.Outcome State Fault Refusal :=
  .next (match routable s d with
    | some x => routeOne s d x
    | none => s)

/-- The first packet that is too old among those that wait for credits at the head of a link of a die is dropped. -/
def dropQueued (s : State) (d : Nat) : Option State :=
  ((upFrom (6 * d) 6).flatMap (fun i => (List.range 6).map (fun vc => (i, vc)))).findSome? (fun e =>
    match tget [] (lnk s e.1).txq e.2 with
    | p :: _ => if tooOld s p 2000 then some (countAged (takeQueued s e.1 e.2)) else none
    | [] => none)

def execRouterAgeDrop (d : Nat) (index : Nat) (s : State) : Host.Outcome State Fault Refusal :=
  .next (match (tget [] s.fst.routers d)[index]? with
    | some x => if tooOld s x.pkt 2000 then dropAged (takeOut s d x) x else s
    | none => (dropQueued s d).getD s)

/-! ## Requests at their target (Table 12-6) -/

/-- The partition that holds a fabric key (R328). -/
def keyOwner (s : State) (k : BitVec 16) : Option Nat :=
  if k = 0 then none else (List.range 16).find? (fun q => (prt s q).locked && decide ((prt s q).fkey = k))

/-- Check 1. -/
def shapeOk (p : Packet) : Bool :=
  let n := p.length.toNat
  match p.typ.toNat with
  | 1 => decide (1 ≤ n ∧ n ≤ 1024)
  | 2 => decide (1 ≤ n ∧ n ≤ 1024)
  | 3 => decide (n = 16 ∧ p.addr.toNat % 8 = 0)
  | _ => decide (n = 16 ∧ p.addr.toNat % 4 = 0 ∧ (p.pegOp = 1 ∨ p.pegOp = 2))

/-- Check 3 for PUT, GET and ADD: inside the windows and in the stack and scratchpad rows. -/
def remoteRange (s : State) (q : Nat) (write : Bool) (a n : Nat) : Bool :=
  decide (rowOf a = 1 ∨ rowOf a = 2) && decide (rowOf (a + n - 1) = 1 ∨ rowOf (a + n - 1) = 2) && inWindows s q write a n

/-- Check 6 of a put: a part of a sealed sector, or of a scratchpad word, that cannot be read. -/
def probePiece (p : Nat × Nat) : Act Unit := do
  let s ← get
  match placeOf p.1 with
  | .stack i o =>
    if p.2 < 64 && !(gran s i (granOf o)).worked then do
      let _ ← loadSector i (sectorOf o)
      pure ()
  | .spad c o =>
    eachAct (fun w => do
      let s ← get
      if w.2 < 8 && spadBad s c w.1 w.2 then do
        edit (fun s => noteSpadBad s c w.1 w.2)
        throw (.fail Code.poisoned)) (cut 8 o p.2)
  | _ => pure ()

/-- The units that a range touches are not in SHUTDOWN (R373). -/
def onlinePiece (p : Nat × Nat) : Act Unit := do
  let s ← get
  match placeOf p.1 with
  | .stack i _ => need (!stackDown s i) Code.unitOffline
  | .spad c _ => need (!dieDown s (c / 64)) Code.unitOffline
  | _ => pure ()

/-- Check 4: a piece of a range lies where the package has memory. -/
def presentPiece (p : Nat × Nat) : Act Unit := do
  let s ← get
  match placeOf p.1 with
  | .stack i o => need (!absentOff s i o) Code.unitAbsent
  | .spad c _ => need (clusterPresent s c) Code.unitAbsent
  | _ => pure ()

/-- The words of Table 12-6 that precede the range: 1 and 2. -/
def admitRequest (p : Packet) : Act Nat := do
  let s ← get
  need (!s.rst.fatal) Code.unitAbsent
  need (shapeOk p) Code.descriptorInvalid
  match keyOwner s p.fkey with
  | some q => pure q
  | none => throw (.fail Code.windowFault)

/-- Whether a package in its own right may begin the request (R333). -/
def mayBegin (p : Packet) : Act Unit := do
  let s ← get
  needReady (!tooOld s p 0)

def servePut (p : Packet) : Act (List Byte) := do
  mayBegin p
  let q ← admitRequest p
  let s ← get
  let a := p.addr.toNat
  need (remoteRange s q true a p.length.toNat) Code.windowFault
  eachAct presentPiece (cut 64 a p.length.toNat)
  eachAct checkStore (cut 64 a p.length.toNat)
  eachAct probePiece (cut 64 a p.length.toNat)
  storeFrom (dieOf a) none a (p.data.take p.length.toNat)
  pure []

def serveGet (p : Packet) : Act (List Byte) := do
  mayBegin p
  let q ← admitRequest p
  let s ← get
  need (remoteRange s q false p.addr.toNat p.length.toNat) Code.windowFault
  eachAct presentPiece (cut 64 p.addr.toNat p.length.toNat)
  eachAct onlinePiece (cut 64 p.addr.toNat p.length.toNat)
  loadFrom (dieOf p.addr.toNat) p.addr.toNat p.length.toNat

def serveAdd (p : Packet) : Act (List Byte) := do
  mayBegin p
  let q ← admitRequest p
  let s ← get
  let a := p.addr.toNat
  need (remoteRange s q true a 8) Code.windowFault
  checkStore (a, 8)
  let old ← loadFrom (dieOf a) a 8
  storeFrom (dieOf a) none a (leBytes 8 (leNat old + leNat (p.data.take 8)))
  pure old

def servePeg (p : Packet) : Act (List Byte) := do
  mayBegin p
  let q ← admitRequest p
  let s ← get
  match pegAt p.addr.toNat with
  | none => throw (.fail Code.windowFault)
  | some m => do
    need (ownsPeg s q m) Code.windowFault
    need (!dieDown s (m / 16384)) Code.unitOffline
    let v : BitVec 32 := BitVec.ofNat 32 (leNat (p.data.take 4))
    edit (fun s => if p.pegOp = 2 then addPeg s m v else setPeg s m v)
    pure (if p.pegOp = 2 then leBytes 8 (pegValue s m).toNat else zeros 8)

/-- The answer to a request that has been made. -/
def answer (s : State) (d : Nat) (p : Packet) (typ : BitVec 4) (bs : List Byte) : State :=
  respond s d p typ (if typ = Pkt.data then p.length.toNat else if typ = Pkt.result then 8 else 0) 0 bs

/-- A request leaves the ingress queue of its die. -/
def leaveIngress (s : State) (d : Nat) (x : Transit) : State :=
  { s with fst := { s.fst with ingress := tmod [] s.fst.ingress d (fun l => l.erase x) } }

/-- One request is tried: made and answered, refused with a NAK, or left waiting. -/
def tryServe (s : State) (d : Nat) (typ : BitVec 4) (serve : Packet → Act (List Byte)) (x : Transit) : Option State :=
  match runAct (serve x.pkt) s with
  | (.ok bs, t) => some (releaseHeld (answer (leaveIngress t d x) d x.pkt typ bs) x)
  | (.error (.fail st), t) => some (releaseHeld (sendNak (leaveIngress t d x) d x.pkt st) x)
  | (.error .wait, _) => none

/-- Whether the Forset engine of a die serves: not while the die is being reset; in SHUTDOWN it does (Table 14-2), and in FATAL it
answers every request (R353). -/
def engineServes (s : State) (d : Nat) : Bool :=
  s.rst.fatal || !inReset s Dom.die d || (dieDown s d && !inReset s Dom.warm 0)

/-- The first request of a type that can be made at a die. -/
def serveFirst (s : State) (d : Nat) (typ ans : BitVec 4) (serve : Packet → Act (List Byte)) : State :=
  if engineServes s d then
    (((tget [] s.fst.ingress d).filter (fun x => x.pkt.typ = typ)).findSome? (tryServe s d ans serve)).getD s
  else s

def execPutPacket (d : Nat) (env : Env) (s : State) : Host.Outcome State Fault Refusal :=
  .next (serveFirst (applyEnv env s) d Pkt.put Pkt.ack servePut)

def execGetPacket (d : Nat) (env : Env) (s : State) : Host.Outcome State Fault Refusal :=
  .next (serveFirst (applyEnv env s) d Pkt.get Pkt.data serveGet)

def execAddPacket (d : Nat) (env : Env) (s : State) : Host.Outcome State Fault Refusal :=
  .next (serveFirst (applyEnv env s) d Pkt.add Pkt.result serveAdd)

def execPegPacket (d : Nat) (s : State) : Host.Outcome State Fault Refusal :=
  .next (serveFirst s d Pkt.peg Pkt.result servePeg)

def execIngressAgeDrop (d : Nat) (s : State) : Host.Outcome State Fault Refusal :=
  .next (match (tget [] s.fst.ingress d).find? (fun x => tooOld s x.pkt 0) with
    | some x => dropAged (leaveIngress s d x) x
    | none => s)

/-! ## Responses (R335) -/

/-- The task of the cluster that asked waits for a write hold-off (R357). -/
def stallAsker (s : State) (p : Packet) (on : List Nat) : State :=
  match (matching s p).map Outstanding.who with
  | some (.ticket cl _ _) => match (clu s cl).task with
    | some t => markStall s t .answer on
    | none => s
  | _ => s

/-- An absorbed response is dealt with; where its data must wait, it stays in the space that its requester reserved. -/
def dealWith (s : State) (p : Packet) : State :=
  match runAct (takeResponse p) s with
  | (.error .wait, _) =>
    let s := if heldOff (takeResponse p) s then stallAsker s p (keepers (takeResponse p) s) else s
    { s with fst := { s.fst with arrived := s.fst.arrived ++ [p] } }
  | (_, t) => t

/-- A response that has arrived at the router of die `d` crosses to its requester and is absorbed at once (R318): its buffer is free
again. One that was absorbed before is tried again. -/
def absorb (s : State) (d : Nat) (typ : BitVec 4) (p : Packet) : State :=
  match (tget [] s.fst.routers d).find? (fun x => x.pkt = p) with
  | some x =>
    if p.typ = typ && atHome s p && pathUp s d p.reqDie.toNat then dealWith (releaseHeld (takeOut s d x) x) p else s
  | none =>
    if p.typ = typ && s.fst.arrived.contains p then
      dealWith { s with fst := { s.fst with arrived := s.fst.arrived.erase p } } p
    else s

def execAck (d : Nat) (pkt : Packet) (s : State) : Host.Outcome State Fault Refusal := .next (absorb s d Pkt.ack pkt)
def execDataResponse (d : Nat) (pkt : Packet) (s : State) : Host.Outcome State Fault Refusal :=
  .next (absorb s d Pkt.data pkt)
def execResultResponse (d : Nat) (pkt : Packet) (s : State) : Host.Outcome State Fault Refusal :=
  .next (absorb s d Pkt.result pkt)
def execNak (d : Nat) (pkt : Packet) (s : State) : Host.Outcome State Fault Refusal := .next (absorb s d Pkt.nak pkt)

/-! ## Timeouts at the requester (R333, R334) -/

/-- A tag that has timed out rests for 2 µs (R335). -/
def retireTag (s : State) (d : Nat) (tag : BitVec 16) : State :=
  { s with fst := { s.fst with
    retiredTags := s.fst.retiredTags.filter (fun r => decide (now s < r.2.2 + 2000)) ++ [(d, tag, now s)] } }

def timeOut (s : State) (o : Outstanding) : State :=
  let s := retireTag s o.die o.tag
  if o.pkt.typ = Pkt.get && s.fst.getRetry && !o.retried then
    launch { s with fst := { s.fst with requests := s.fst.requests.erase o } } { o with retried := true }
  else settleRequest s o Code.remoteTimeout 0

def execRemoteRequestTimeout (d : Nat) (tag : BitVec 16) (s : State) : Host.Outcome State Fault Refusal :=
  .next (match s.fst.requests.find? (fun o => decide (o.die = d) && decide (o.tag = tag)) with
    | some o => if o.pkt.dropBy.toNat + 2000 ≤ (sysTime s).toNat then timeOut s o else s
    | none => s)

/-! ## Time (R337, R338) -/

/-- Direction and link to the time parent: the first hop towards the root on the lowest plane that is up. -/
def parentLink (s : State) : Option (Nat × Nat) :=
  if !s.fst.syncEn || isRoot s.fst then none
  else match nextDir s.fst s.fst.node.toNat s.fst.root.toNat with
    | none => none
    | some dir =>
      ((dirsFor s.fst dir).flatMap (fun k => (List.range 4).map (fun d => (k, 6 * d + k)))).find? (fun e => linkUsable (lnk s e.2))

/-- Content of a TIME flit: the root and four timestamps (DESIGN CHOICE, log entry 11: the spec gives no layout). -/
def timePayload (root : BitVec 18) (t1 t2 t3 t4 : BitVec 64) : List Byte :=
  leBytes 8 root.toNat ++ leBytes 8 t1.toNat ++ leBytes 8 t2.toNat ++ leBytes 8 t3.toNat ++ leBytes 8 t4.toNat ++ zeros 264

def sendTime (s : State) (i : Nat) (t1 t2 t3 t4 : BitVec 64) : State :=
  sendFlit s i FlitKind.time 0 0 0 (timePayload s.fst.root t1 t2 t3 t4)

def execTimeExchange (s : State) : Host.Outcome State Fault Refusal :=
  .next (match parentLink s with
    | some (dir, i) =>
      let t := sysTime s
      sendTime { modLnk s i (fun l => { l with t1 := some t }) with fst := { s.fst with parentDir := BitVec.ofNat 3 dir } } i t 0 0 0
    | none => s)

/-- The estimate of R337. -/
def offsetOf_ (t : TimeStamps) : Int :=
  ((t.t2.toNat : Int) - t.t1.toNat - ((t.t4.toNat : Int) - t.t3.toNat)) / 2

/-- The offset from the parent that an exchange gives (`FST.TIME.OFFSET_NS`). -/
def noteOffset (s : State) (off : Int) : State :=
  { s with fst := { s.fst with offsetNs := BitVec.ofNat 8 (Nat.min off.natAbs 255) } }

/-- The rate correction towards the parent, within 100 ppm: its sign is that of the offset, its size is open (R338, log entry 61). -/
def steer (s : State) (off : Int) : State :=
  let (k, s) := freeBelow s 100
  let r : Int := (k : Int) + 1
  { s with fst := { s.fst with rate := if off = 0 then 0 else if 0 < off then r else -r } }

/-- An exchange with a LOCKED parent has succeeded: the first sets SYS_OFFSET, an estimate of 50 ns or less locks; from the first lock on
the rate is corrected. -/
def exchangeDone (s : State) (off : Int) : State :=
  let first := !s.fst.everLocked
  let s := noteOffset s off
  let s := if first then s else steer s off
  let f := { s.fst with lastExchange := now s }
  if first then
    { s with fst := { f with everLocked := true, timeState := .acquiring, sysOffset := f.sysOffset + BitVec.ofInt 64 off } }
  else if off.natAbs ≤ 50 then { s with fst := { f with timeState := .locked, carryLocked := true, holdExpired := false } }
  else { s with fst := { f with timeState := .acquiring, carryLocked := false } }

/-- Whether a TIME flit asks: it carries t1 alone (log entry 11). -/
def isQuestion (ts : TimeStamps) : Bool := decide (ts.t2 = 0 ∧ ts.t3 = 0)

/-- A TIME flit: the parent's answer to the exchange under way, or a neighbour's question, which is answered. -/
def takeTime (s : State) (i : Nat) (root : BitVec 18) (ts : TimeStamps) (parentLocked : Bool) : State :=
  if root ≠ s.fst.root then logEvent s Cls.timeRootMismatch 0 0 7 i 0 root.toNat
  else if isQuestion ts then sendTime s i ts.t1 (sysTime s) (sysTime s) 0
  else if (lnk s i).t1 = some ts.t1 ∧ (parentLink s).map Prod.snd = some i then
    let s := modLnk s i (fun l => { l with t1 := none })
    let off := offsetOf_ { ts with t4 := sysTime s }
    if parentLocked then exchangeDone s off else noteOffset s off
  else s

def execTimeFlit (i : Nat) (h : FlitHead) (root : BitVec 18) (ts : TimeStamps) (parentLocked : Bool) (s : State) :
    Host.Outcome State Fault Refusal :=
  .next (onFlit s i h FlitKind.time 0 (timePayload root ts.t1 ts.t2 ts.t3 ts.t4) (fun s => takeTime s i root ts parentLocked))

def execHoldoverEntry (s : State) : Host.Outcome State Fault Refusal :=
  .next (if !isRoot s.fst ∧ (s.fst.timeState = .locked ∨ s.fst.timeState = .acquiring) ∧ s.fst.lastExchange + 1000000 ≤ now s then
      { s with fst := { s.fst with timeState := .holdover, holdSince := now s, carryLocked := !s.fst.holdExpired } }
    else s)

def execHoldoverLimit (s : State) : Host.Outcome State Fault Refusal :=
  .next (if s.fst.timeState = .holdover ∧ s.fst.holdSince + 10000000 ≤ now s then
      { s with fst := { s.fst with carryLocked := false, holdExpired := true } }
    else s)

end Sys2Proof.Machine
end

