-- ==== Sys2Proof/Machine/Faults.lean ====
section
/-! DEFINITION. Reset commands (R349, R363), hang detectors (R357), die edges (R343), and the `RST` and `EVT` blocks (R363,
R364). -/

namespace Sys2Proof.Machine
open Sys2Proof

/-! ## `RST.CTRL` -/

/-- Whether the unit of a reset command is fused off. -/
def unitAbsent (s : State) (d i : Nat) : Bool :=
  (decide (d = Dom.cluster) && !clusterPresent s i) || (decide (d = Dom.stack) && !stackPresent s i)

/-- Whether `RST.CTRL` takes a domain code. -/
def domainNamed (d : Nat) : Bool := [1, 2, 3, 4, 5, 7].contains d

/-- The status of a reset command (Table 13-13). -/
def resetStatus (s : State) (d i : Nat) : Status :=
  if domainCount d ≤ i then Code.descriptorInvalid
  else if unitAbsent s d i then Code.unitAbsent
  else if inReset s d i then Code.stateConflict
  else Code.ok

def rstStatus (s : State) (st : Status) : State := { s with rst := { s.rst with lastCmd := st } }

/-- A reset command with a cause (Table 13-7). -/
def commandReset (cause : BitVec 8) (d i : Nat) (s : State) : State :=
  let st := resetStatus s d i
  let s := rstStatus s st
  if st = Code.ok then beginReset s d i cause else s

/-- A write of `RST.CTRL`. -/
def writeRstCtrl (value : Word) (s : State) : State :=
  let d := fld value.toNat 19 16
  if domainNamed d then commandReset Cause.command d (fld value.toNat 11 0) s else s

def ctrlWrite (s : State) (p : PortId) (d i : Nat) : State :=
  let v := BitVec.ofNat 64 (d * 65536 + i % 4096)
  viseWrite s p Base.rst v (writeRstCtrl v)

def execClusterReset (p : PortId) (index : Nat) (s : State) : Host.Outcome State Fault Refusal :=
  .next (ctrlWrite s p Dom.cluster index)

def execRegionReset (p : PortId) (index : Nat) (s : State) : Host.Outcome State Fault Refusal :=
  .next (ctrlWrite s p Dom.region index)

def execComputeDieReset (p : PortId) (index : Nat) (s : State) : Host.Outcome State Fault Refusal :=
  .next (ctrlWrite s p Dom.die index)

def execStackLogicReset (p : PortId) (index : Nat) (s : State) : Host.Outcome State Fault Refusal :=
  .next (ctrlWrite s p Dom.stack index)

def execLinkReset (p : PortId) (index : Nat) (s : State) : Host.Outcome State Fault Refusal :=
  .next (ctrlWrite s p Dom.link index)

def execPackageWarmReset (p : PortId) (s : State) : Host.Outcome State Fault Refusal :=
  .next (ctrlWrite s p Dom.warm 0)

/-! ## Watchdogs (Table 13-9) -/

/-- Whether the time limit of a started task and `us` microseconds of allowance have passed; the time `stalled`, in which a write hold-off
keeps the watched work back, is left out. -/
def allowancePassed (s : State) (x : Task) (stalled us : Nat) : Bool :=
  x.started && decide (limitEnd s x + stalled + 1000 * us ≤ now s)

def lateTask (s : State) (t : Option Nat) (us : Nat) : Bool :=
  ((t.bind (taskAt s)).map (fun x => allowancePassed s x (stalledNs s x) us)).getD false

def execClusterWatchdog (cl : Nat) (s : State) : Host.Outcome State Fault Refusal :=
  .next (if lateTask s (clu s cl).task s.rst.jigUs.toNat then beginReset s Dom.cluster cl Cause.unitWatchdog else s)

/-- The chain that an engine runs for a task. -/
def engineChain (s : State) (r : Nat) : Option Chain :=
  ((reg s r).chains.head?).bind (fun c => match c.owner with
    | .swap _ _ => none
    | _ => some c)

/-- Whether the chain of an engine is late: its own waits for hold-offs count, not those of the jig that submitted it. -/
def lateChain (s : State) (r us : Nat) : Bool :=
  ((engineChain s r).bind (fun c => (taskAt s c.task).map (fun x => allowancePassed s x (chainStalledNs s x c) us))).getD false

def execLayoutWatchdog (region : Nat) (s : State) : Host.Outcome State Fault Refusal :=
  .next (if lateChain s region s.rst.layoutUs.toNat then beginReset s Dom.region region Cause.unitWatchdog else s)

def execBenchWatchdog (i : Nat) (s : State) : Host.Outcome State Fault Refusal :=
  .next (if lateTask s (runningTask (stk s i)) s.rst.benchUs.toNat then beginReset s Dom.stack i Cause.unitWatchdog else s)

def execWalkerWatchdog (d : Nat) (s : State) : Host.Outcome State Fault Refusal :=
  .next (if d < 4 ∧ s.hub.stage = .mainReady then beginReset s Dom.die d Cause.walkerWatchdog else s)

/-- The hub watchdog rests while the management complex restarts (R414). -/
def execHubWatchdog (s : State) : Host.Outcome State Fault Refusal :=
  .next (if s.hub.stage = .reset ∨ s.mgt.activating.head? = some 6 then s else beginReset s Dom.warm 0 Cause.hubWatchdog)

/-! ## Die edges (Table 13-1) -/

/-- Whether an edge failed within the last second. -/
def edgeFailedLately (s : State) (e : Nat) : Bool :=
  ((tget none s.rst.edgeFailed e).map (fun t => decide (now s ≤ t + 1000000000))).getD false

def execDieEdgeFailure (edge : Nat) (s : State) : Host.Outcome State Fault Refusal :=
  .next (if edge < 6 ∧ s.hub.mainPg then
      let again := edgeFailedLately s edge
      let s := { s with rst := { s.rst with
        pathUe := satInc s.rst.pathUe 1, edgeFailed := tset none s.rst.edgeFailed edge (some (now s)),
        edgeDown := if s.rst.edgeDown.contains edge then s.rst.edgeDown else s.rst.edgeDown ++ [edge] } }
      if again then goFatal s else s
    else s)

/-- The traffic that the edge held goes on: what the hub and the benches kept, and what was on its way to the walkers, goes at once, the rest
as it is tried again. -/
def execDieEdgeRetrainEnd (edge : Nat) (s : State) : Host.Outcome State Fault Refusal :=
  let s := { s with rst := { s.rst with edgeDown := s.rst.edgeDown.filter (· ≠ edge) } }
  .next (makeReports (drainPorts ((List.range 24).foldl flushStaged (walkersHear (abortsGoOn s)))))

/-! ## The other registers of `RST` -/

def writeEpochSel (value : Word) (s : State) : State :=
  { s with rst := { s.rst with epochSel := BitVec.ofNat 16 value.toNat } }

/-- `RST.EPOCH_DATA`: 8, and 7 which names the same domain, select the package. -/
def epochDataWord (s : State) : Nat :=
  let d := fld s.rst.epochSel.toNat 15 12
  let i := fld s.rst.epochSel.toNat 11 0
  if d = 7 ∨ d = 8 then (epochOf s 8 0).toNat
  else if domainNamed d ∧ i < domainCount d then (epochOf s d i).toNat
  else Config.selWord 0 s.rst.epochSel.toNat % 256

def wdogWord (r : Rst) : Nat := r.benchUs.toNat * 2 ^ 32 + r.jigUs.toNat * 65536 + r.layoutUs.toNat

/-- `RST.WDOG`: locked by `HUB.LOCK.RESET`; a zero in any field drops the write. -/
def writeWdog (value : Word) (s : State) : State :=
  let v := value.toNat
  let r : Rst := { s.rst with benchUs := BitVec.ofNat 32 (v >>> 32), jigUs := BitVec.ofNat 16 (v >>> 16), layoutUs := BitVec.ofNat 16 v }
  if r.benchUs = 0 ∨ r.jigUs = 0 ∨ r.layoutUs = 0 then setupIgnored s (Base.rst + 0x20) value
  else if s.hub.lockReset then (if r ≠ s.rst then setupIgnored s (Base.rst + 0x20) value else s)
  else { s with rst := r }

/-- The heartbeat period of a port in milliseconds. -/
def beatPeriod (s : State) : PortId → Nat
  | .a => s.rst.periodA.toNat
  | .b => s.rst.periodB.toNat

/-- A new period begins with the write that sets it. -/
def startBeat (s : State) (p : PortId) (old : Nat) : State :=
  if beatPeriod s p = old then s else modPort s p (fun q => { q with lastBeat := now s })

def writeHbCfg (value : Word) (s : State) : State :=
  let a := beatPeriod s .a
  let b := beatPeriod s .b
  let s := { s with rst := { s.rst with periodB := BitVec.ofNat 16 (value.toNat >>> 16), periodA := BitVec.ofNat 16 value.toNat } }
  startBeat (startBeat s .a a) .b b

def rstStatusWord (r : Rst) : Nat := r.lastCmd.toNat * 2 ^ 56 + r.warmCause.toNat * 2 ^ 40 + r.staleDrops.toNat

/-- The word of an `RST` register. -/
def rstWord (s : State) (off : Nat) : Nat :=
  match off with
  | 0x08 => rstStatusWord s.rst
  | 0x10 => s.rst.epochSel.toNat
  | 0x18 => epochDataWord s
  | 0x20 => wdogWord s.rst
  | 0x28 => s.rst.periodB.toNat * 65536 + s.rst.periodA.toNat
  | 0x38 => s.rst.alive.toNat
  | 0x40 => s.rst.pathUe.toNat * 2 ^ 32 + s.rst.pathCe.toNat
  | 0x48 => s.rst.rcUe.toNat * 2 ^ 32 + s.rst.rcCe.toNat
  | _ => 0

/-! ## `EVT` (R348, R364) -/

/-- `EVT.HEAD` moves neither backwards nor past TAIL. -/
def writeEvtHead (value : Word) (s : State) : State :=
  let h : BitVec 32 := value.setWidth 32
  if (h - s.evt.head).toNat ≤ evtHeld s.evt then { s with evt := { s.evt with head := h } }
  else setupIgnored s (Base.evt + 8) value

def execEvtHeadWrite (p : PortId) (value : Word) (s : State) : Host.Outcome State Fault Refusal :=
  .next (openWrite s p (writeEvtHead value))

def writeEvtIrq (value : Word) (s : State) : State :=
  let v := value.toNat
  { s with evt := { s.evt with
    irqEn := bit v 63, irqPortB := bit v 48, irqVector := BitVec.ofNat 11 (v >>> 32), minSev := BitVec.ofNat 2 v } }

/-- The word of an `EVT` register, or of a record of the log. -/
def evtWord (e : Evt) (off : Nat) : Nat :=
  match off with
  | 0x00 => e.lost.toNat * 2 ^ 32 + evtHeld e
  | 0x08 => e.head.toNat
  | 0x10 => e.tail.toNat
  | 0x18 => b2n e.irqEn * 2 ^ 63 + b2n e.irqPortB * 2 ^ 48 + e.irqVector.toNat * 2 ^ 32 + e.minSev.toNat
  | _ =>
    if 0x1000 ≤ off then at_ (eventBytes (tget {} e.log ((off - 0x1000) / 32))) ((off - 0x1000) % 32) 8 else 0

end Sys2Proof.Machine
end

