-- ==== Sys2Proof/Machine/JigSlots.lean ====
section
/-! DEFINITION. The bundles of jigs: encoding (R157, R159), legality (R176), and what the S and V slots compute (Tables 6-5 and
6-6, R160 to R163). -/

namespace Sys2Proof.Machine
open Sys2Proof

/-! ## Fields of a slot word (Table 6-4) -/

namespace Slot
def op (w : Nat) : Nat := fld w 31 26
def d (w : Nat) : Nat := fld w 25 21
def a (w : Nat) : Nat := fld w 20 16
def b (w : Nat) : Nat := fld w 15 11
def fn (w : Nat) : Nat := fld w 10 5
def e (w : Nat) : Nat := fld w 4 0
def imm (w : Nat) : Nat := fld w 15 0
def fmt (w : Nat) : Nat := fld w 10 7
def bs (w : Nat) : Nat := fld w 6 5
/-- IMM as a signed number, and IMM21. -/
def simm (w : Nat) : Int := Scalar.decodeInt 16 (imm w)
def imm21 (w : Nat) : Int := Scalar.decodeInt 21 w
end Slot

/-- A register that a slot writes. -/
inductive Target where
  | s (n : Nat)
  | v (n : Nat)
  | p (n : Nat)
  deriving DecidableEq, Repr, Inhabited

/-- A register write. -/
inductive RegWrite where
  | s (n : Nat) (x : Word)
  | v (n : Nat) (x : BitVec 512)
  | p (n : Nat) (b : Bool)
  deriving DecidableEq, Repr, Inhabited

/-- A bundle as fetched: header and the words of the slots that its mask names (Table 6-3). -/
structure Bundle where
  head : Nat := 0
  s : Option Nat := none
  v : Option Nat := none
  m : Option Nat := none
  c : Option Nat := none
  deriving DecidableEq, Repr, Inhabited

/-- Bytes of a bundle with this header. -/
def bundleLen (h : Nat) : Nat := 2 + 4 * (b2n (bit h 15) + b2n (bit h 14) + b2n (bit h 13) + b2n (bit h 12))

/-- The bundle in a byte string (R157). -/
def parseBundle (bs : List Byte) : Bundle :=
  let h := at_ bs 0 2
  let o1 := 2 + 4 * b2n (bit h 15)
  let o2 := o1 + 4 * b2n (bit h 14)
  let o3 := o2 + 4 * b2n (bit h 13)
  { head := h,
    s := if bit h 15 then some (at_ bs 2 4) else none, v := if bit h 14 then some (at_ bs o1 4) else none,
    m := if bit h 13 then some (at_ bs o2 4) else none, c := if bit h 12 then some (at_ bs o3 4) else none }

/-- A field that names a predicate: bits [4:3] are zero (R159). -/
def predOk (x : Nat) : Bool := decide (x < 8)

/-! ## Legality, with the registers each slot writes (R159, R176): `none` for an illegal word -/

def ok_ (b : Bool) (l : List Target) : Option (List Target) := if b then some l else none

/-- S slot (Table 6-5). PLOG asks zero bits [4:3] of B too, which names a predicate as D and A do (DESIGN CHOICE, log entry 118). -/
def legalS (w : Nat) : Option (List Target) :=
  let d := Slot.d w
  match Slot.op w with
  | 0x00 => ok_ (decide (Slot.fn w ≤ 0x10) && decide (Slot.e w = 0)) [.s d]
  | 0x01 => some [.s d]
  | 0x02 => some [.s d]
  | 0x03 => some [.s d]
  | 0x04 => some [.s d]
  | 0x05 => some [.s d]
  | 0x06 => some [.s d]
  | 0x07 => some [.s d]
  | 0x08 => ok_ (decide (Slot.fn w ≤ 5) && decide (Slot.e w = 0) && predOk d) [.p d]
  | 0x09 => ok_ (predOk d) [.p d]
  | 0x0A => ok_ (predOk d) [.p d]
  | 0x0B => ok_ (predOk d) [.p d]
  | 0x0C => ok_ (predOk d) [.p d]
  | 0x10 => ok_ (decide (Slot.fn w ≤ 3) && decide (Slot.e w = 0) && predOk d && predOk (Slot.a w) && predOk (Slot.b w)) [.p d]
  | 0x11 => ok_ (decide (Slot.fn w = 0) && predOk (Slot.e w)) [.s d]
  | 0x14 =>
    let fn := Slot.fn w
    let unary := decide (fn = 6 ∨ fn = 7)
    ok_ (decide (fn ≤ 10) && (decide (fn = 5) || decide (Slot.e w = 0)) && (!unary || decide (Slot.b w = 0)) &&
      (decide (fn < 8) || predOk d)) [if 8 ≤ fn then .p d else .s d]
  | 0x18 => ok_ (decide (Slot.fn w ≤ 7) && decide (Slot.a w = 0) && decide (Slot.b w = 0) && decide (Slot.e w = 0)) [.s d]
  | _ => none

def arithFmt (f : Nat) : Bool := [0, 1, 2, 5, 6, 7].contains f
def anyFmt (f : Nat) : Bool := decide (f ≤ 7)
def intFmt (f : Nat) : Bool := [5, 6, 7].contains f

/-- Bits of a lane of a scalar format code. -/
def laneBits (f : Nat) : Nat :=
  match fmtOf f with
  | some (.scalar t) => t.width
  | _ => 32

/-- V slot (Table 6-6). VPDEC and VPENC, which take s[B] themselves, accept BS = 0 alone (DESIGN CHOICE, log entry 118). -/
def legalV (w : Nat) : Option (List Target) :=
  let d := Slot.d w
  let f := Slot.fmt w
  let twoB := decide (Slot.bs w ≤ 1)
  let noB := decide (Slot.b w = 0) && decide (Slot.bs w = 0)
  let noE := decide (Slot.e w = 0)
  match Slot.op w with
  | 0x00 => ok_ (arithFmt f && twoB && noE) [.v d]
  | 0x01 => ok_ (arithFmt f && twoB && noE) [.v d]
  | 0x02 => ok_ (arithFmt f && twoB && noE) [.v d]
  | 0x03 => ok_ (arithFmt f && twoB) [.v d]
  | 0x04 => ok_ (arithFmt f && twoB && noE) [.v d]
  | 0x05 => ok_ (arithFmt f && twoB && noE) [.v d]
  | 0x06 => ok_ (anyFmt f && twoB && noE) [.v d]
  | 0x07 => ok_ (anyFmt f && twoB && noE) [.v d]
  | 0x08 => ok_ (anyFmt f && twoB && noE) [.v d]
  | 0x09 => ok_ (intFmt f && twoB && noE) [.v d]
  | 0x10 => ok_ (decide (f = 0) && noB && noE) [.v d]
  | 0x11 => ok_ (decide (f = 0) && noB && noE) [.v d]
  | 0x12 => ok_ (decide (f = 0) && noB && noE) [.v d]
  | 0x14 =>
    let ws := laneBits f
    let wd := laneBits (Slot.e w)
    ok_ (anyFmt f && decide (Slot.e w ≤ 7) && decide (Slot.bs w = 0) && decide (Slot.b w < 4) &&
      decide (Slot.b w < Nat.max ws wd / Nat.min ws wd)) [.v d]
  | 0x18 => ok_ (arithFmt f && noB && noE) [.v d]
  | 0x19 => ok_ (arithFmt f && noB && noE) [.v d]
  | 0x1A => ok_ (anyFmt f && twoB) [.v d]
  | 0x1B => ok_ (arithFmt f && twoB && decide (Slot.e w ≤ 3)) [.v d]
  | 0x1C => ok_ (intFmt f && twoB && noE) [.v d]
  | 0x1D => ok_ (anyFmt f && noB) [.v d]
  | 0x1E => ok_ (anyFmt f && noB) [.v d]
  | 0x1F => ok_ (anyFmt f && noB) [.s d]
  | 0x20 => ok_ (decide (8 ≤ f) && decide (f ≤ 0xE) && decide (Slot.bs w = 0)) [.v d]
  | 0x21 => ok_ (decide (8 ≤ f) && decide (f ≤ 0xE) && decide (Slot.bs w = 0) && decide (Slot.e w < 16)) [.v d]
  | _ => none

/-- M slot (Table 6-7). -/
def legalM (w : Nat) : Option (List Target) :=
  let d := Slot.d w
  let op := Slot.op w
  let fn0 := decide (Slot.fn w = 0)
  if op ≤ 6 then some [.s d]
  else if 8 ≤ op ∧ op ≤ 0x0B then some []
  else
    match op with
    | 0x0C => some [.v d]
    | 0x0D => some []
    | 0x10 => ok_ (decide (d = 0)) []
    | 0x14 => ok_ (fn0 && decide (Slot.b w = 0) && decide (Slot.e w = 0)) [.s d]
    | 0x15 => ok_ fn0 [.s d]
    | 0x16 => ok_ fn0 [.s d]
    | 0x17 => ok_ (fn0 && decide (Slot.e w = 0)) [.s d]
    | 0x18 => ok_ (fn0 && decide (Slot.b w = 0)) (if d = Slot.e w then [.s d] else [.s d, .s (Slot.e w)])
    | 0x19 => ok_ (decide (Slot.imm w = 0) && predOk d) [.p d]
    | _ => none

/-- C slot (Table 6-8). -/
def legalC (w : Nat) : Option (List Target) :=
  let d := Slot.d w
  let fn := Slot.fn w
  let link : List Target := if bit d 4 then [.s 31] else []
  match Slot.op w with
  | 0x00 => some link
  | 0x01 => ok_ (decide (Slot.b w = 0) && decide (fn = 0) && decide (Slot.e w = 0)) link
  | 0x04 => ok_ (decide (d = 0) && decide (Slot.b w = 0) && decide (fn = 0) && decide (fld (Slot.e w) 3 2 = 0) &&
      (!bit (Slot.e w) 4 || decide (Slot.e w % 4 = 0))) []
  | 0x05 => ok_ (decide (d = 0) && decide (Slot.a w = 0) && decide (Slot.imm w = 0)) []
  | 0x08 => ok_ (decide (fn < 4) && decide (Slot.b w = 0) && decide (Slot.e w < 8) &&
      (if bit fn 1 then predOk d else decide (d = 0))) (if bit fn 1 then [.p d] else [])
  | 0x09 => ok_ (decide (fn < 2) && decide (Slot.a w = 0) && decide (Slot.b w = 0) && decide (Slot.e w < 8))
      [if bit fn 0 then .v d else .s d]
  | 0x0A => ok_ (decide (fn < 2) && decide (Slot.b w = 0) && decide (Slot.e w < 8) && predOk d) [.p d]
  | 0x0B => ok_ (decide (fn = 0) && decide (Slot.a w = 0) && decide (Slot.b w = 0) && decide (Slot.e w < 8)) [.s d]
  | 0x10 =>
    let k := fn % 4
    ok_ (decide (k ≠ 3) && decide (fn &&& 0x34 = 0) && decide (Slot.e w = 0) && (decide (k ≠ 0) || decide (Slot.b w = 0)) &&
      (decide (k ≠ 1) || decide (d = 0))) (if k = 1 then [] else [.s d])
  | 0x11 =>
    let k := fn % 4
    ok_ (decide (k = 1 ∨ k = 2) && decide (fn &&& 0x34 = 0) && decide (Slot.e w = 0)) [.s d]
  | 0x18 => ok_ (decide (d = 0) && decide (Slot.a w = 0) && decide (Slot.imm w < 256)) []
  | 0x19 => ok_ (decide (d = 0) && decide (Slot.a w = 0) && decide (Slot.imm w = 0)) []
  | _ => none

/-- The registers that the slot of a bundle writes; an absent slot writes none. -/
def slotTargets (f : Nat → Option (List Target)) (w : Option Nat) : Option (List Target) :=
  match w with
  | some w => f w
  | none => some []

def distinct : List Target → Bool
  | [] => true
  | x :: xs => !xs.contains x && distinct xs

/-- R176: whether a bundle is legal, as far as its own words say. -/
def legalBundle (b : Bundle) : Bool :=
  decide (b.head / 4096 ≠ 0) && decide (b.head % 256 = 0) &&
    match slotTargets legalS b.s, slotTargets legalV b.v, slotTargets legalM b.m, slotTargets legalC b.c with
    | some x, some y, some z, some u => distinct (x ++ y ++ z ++ u)
    | _, _, _, _ => false

/-! ## Registers -/

def sreg (g : Jig) (n : Nat) : Word := if n = 0 then 0 else tget 0 g.s n
def vreg (g : Jig) (n : Nat) : BitVec 512 := tget 0 g.v n
def preg (g : Jig) (n : Nat) : Bool := decide (n = 0) || bit g.p.toNat n

/-- One register write; s0 and p0 ignore it (Table 6-1). -/
def putReg (g : Jig) : RegWrite → Jig
  | .s n x => if n = 0 then g else { g with s := tset 0 g.s n x }
  | .v n x => { g with v := tset 0 g.v n x }
  | .p n b => if n = 0 then g else { g with p := if b then g.p ||| (1#8 <<< n) else g.p &&& ~~~(1#8 <<< n) }

def putRegs (g : Jig) (l : List RegWrite) : Jig := l.foldl putReg g

/-! ## S slot (R160) -/

def alu (fn : Nat) (x y : Word) : Word :=
  match fn with
  | 0x00 => x + y
  | 0x01 => x - y
  | 0x02 => x &&& y
  | 0x03 => x ||| y
  | 0x04 => x ^^^ y
  | 0x05 => x <<< (y.toNat % 64)
  | 0x06 => x >>> (y.toNat % 64)
  | 0x07 => x.sshiftRight (y.toNat % 64)
  | 0x08 => if x.toInt ≤ y.toInt then x else y
  | 0x09 => if x.toInt ≤ y.toInt then y else x
  | 0x0A => if x.toNat ≤ y.toNat then x else y
  | 0x0B => if x.toNat ≤ y.toNat then y else x
  | 0x0C => x * y
  | 0x0D => BitVec.ofInt 64 (x.toInt * y.toInt / 2 ^ 64)
  | 0x0E => BitVec.ofNat 64 (x.toNat * y.toNat / 2 ^ 64)
  | 0x0F => if y = 0 then BitVec.allOnes 64 else BitVec.ofNat 64 (x.toNat / y.toNat)
  | _ => if y = 0 then x else BitVec.ofNat 64 (x.toNat % y.toNat)

def scalarCmp (fn : Nat) (x y : Word) : Bool :=
  match fn with
  | 0 => decide (x = y)
  | 1 => decide (x ≠ y)
  | 2 => decide (x.toInt < y.toInt)
  | 3 => decide (y.toInt ≤ x.toInt)
  | 4 => decide (x.toNat < y.toNat)
  | _ => decide (y.toNat ≤ x.toNat)

def predOp (fn : Nat) (x y : Bool) : Bool :=
  match fn with
  | 0 => x && y
  | 1 => x || y
  | 2 => xor x y
  | _ => x && !y

/-- Minimum and maximum with the NaN and zero rules of R160. -/
def fmin (x y : Num) : Num := if x.isNan then y else if y.isNan then x else if Num.ltSigned y x then y else x
def fmax (x y : Num) : Num := if x.isNan then y else if y.isNan then x else if Num.ltSigned x y then y else x

/-- The FP32 value in bits [31:0]. -/
def lowFp (x : Word) : Num := v32 (x.toNat % 2 ^ 32)

/-- FPS results that are numbers (R160). F2I sign-extends, as Table 6-5 says of it (DEDUCED, log entry 112). -/
def fps (fn : Nat) (x y z : Word) : Word :=
  let a := lowFp x
  let b := lowFp y
  match fn with
  | 0 => BitVec.ofNat 64 (c32 (Num.add a b))
  | 1 => BitVec.ofNat 64 (c32 (Num.sub a b))
  | 2 => BitVec.ofNat 64 (c32 (Num.mul a b))
  | 3 => BitVec.ofNat 64 (c32 (fmin a b))
  | 4 => BitVec.ofNat 64 (c32 (fmax a b))
  | 5 => BitVec.ofNat 64 (c32 (Num.add (Num.mul a b) (lowFp z)))
  | 6 => BitVec.ofNat 64 (c32 (Scalar.int32.decode (x.toNat % 2 ^ 32)))
  | _ => BitVec.ofInt 64 (Scalar.decodeInt 32 (narrow .int32 a))

def fpsTest (fn : Nat) (x y : Word) : Bool :=
  let a := lowFp x
  let b := lowFp y
  match fn with
  | 8 => Num.lt a b
  | 9 => Num.lt a b || Num.eqv a b
  | _ => Num.eqv a b

/-- The S slot's write; `sys` gives the system values of SYS. -/
def runS (g : Jig) (sys : Nat → Word) (w : Nat) : RegWrite :=
  let d := Slot.d w
  let x := sreg g (Slot.a w)
  let y := sreg g (Slot.b w)
  let fn := Slot.fn w
  let z := BitVec.ofNat 64 (Slot.imm w)
  let i := BitVec.ofInt 64 (Slot.simm w)
  match Slot.op w with
  | 0x00 => .s d (alu fn x y)
  | 0x01 => .s d (x + i)
  | 0x02 => .s d (x &&& z)
  | 0x03 => .s d (x ||| z)
  | 0x04 => .s d (x <<< (Slot.imm w % 64))
  | 0x05 => .s d (x >>> (Slot.imm w % 64))
  | 0x06 => .s d ((x <<< 16) ||| z)
  | 0x07 => .s d (BitVec.ofInt 64 (Slot.imm21 w))
  | 0x08 => .p d (scalarCmp fn x y)
  | 0x09 => .p d (decide (x = i))
  | 0x0A => .p d (decide (x ≠ i))
  | 0x0B => .p d (decide (x.toInt < i.toInt))
  | 0x0C => .p d (decide (i.toInt ≤ x.toInt))
  | 0x10 => .p d (predOp fn (preg g (Slot.a w)) (preg g (Slot.b w)))
  | 0x11 => .s d (if preg g (Slot.e w) then x else y)
  | 0x14 => if 8 ≤ fn then .p d (fpsTest fn x y) else .s d (fps fn x y (sreg g (Slot.e w)))
  | _ => .s d (sys fn)

/-! ## V slot (R161 to R163) -/

/-- Lanes of a vector as codes of `w` bits, lane 0 first. -/
def lanes (w : Nat) (x : BitVec 512) : List Nat := (List.range (512 / w)).map (fun i => fld x.toNat (w * (i + 1) - 1) (w * i))

/-- The vector that lane codes make. -/
def packLanes (w : Nat) (l : List Nat) : BitVec 512 := BitVec.ofNat 512 (l.foldr (fun c acc => c % 2 ^ w + acc <<< w) 0)

def scalarOf (f : Nat) : Scalar :=
  match fmtOf f with
  | some (.scalar t) => t
  | _ => .fp32

/-- Operand B of the V slot: a vector, or s[B] converted and copied to every lane (R159; log entry 26). -/
def vOperand (g : Jig) (w : Nat) : BitVec 512 :=
  if Slot.bs w = 0 then vreg g (Slot.b w)
  else
    let t := scalarOf (Slot.fmt w)
    let x := sreg g (Slot.b w)
    let c := if t.isInt then narrow t (Num.ofInt x.toInt) else narrow t (lowFp x)
    packLanes t.width (List.replicate (512 / t.width) c)

/-- One lane of an arithmetic instruction, VADD to VMAX (R161). -/
def vArith (t : Scalar) (op a b e : Nat) : Nat :=
  if t.isInt then
    let x := Scalar.decodeInt t.width a
    let y := Scalar.decodeInt t.width b
    let z := Scalar.decodeInt t.width e
    match op with
    | 0 => wrapInt t.width (x + y)
    | 1 => wrapInt t.width (x - y)
    | 2 => wrapInt t.width (x * y)
    | 3 => wrapInt t.width (x * y + z)
    | 4 => if x ≤ y then a else b
    | _ => if x ≤ y then b else a
  else
    let x := t.decode a
    let y := t.decode b
    match op with
    | 0 => narrow t (Num.add x y)
    | 1 => narrow t (Num.sub x y)
    | 2 => narrow t (Num.mul x y)
    | 3 => narrow t (Num.add (Num.mul x y) (t.decode e))
    | 4 => narrow t (fmin x y)
    | _ => narrow t (fmax x y)

def zip3 (f : Nat → Nat → Nat → Nat) : List Nat → List Nat → List Nat → List Nat
  | a :: as_, b :: bs, c :: cs => f a b c :: zip3 f as_ bs cs
  | _, _, _ => []

/-- VSAR: the count is taken modulo the lane width. -/
def vSar (t : Scalar) (a b : Nat) : Nat :=
  wrapInt t.width (Scalar.decodeInt t.width a / (2 ^ (b % t.width) : Nat))

/-- VCMP (R161). -/
def vCmp (t : Scalar) (cond a b : Nat) : Bool :=
  let x := t.decode a
  let y := t.decode b
  match cond with
  | 0 => Num.eqv x y
  | 1 => !Num.eqv x y
  | 2 => Num.lt x y
  | _ => Num.lt x y || Num.eqv x y

/-- Pairwise reduction of L lanes, log2 L levels (R161). -/
def reduce {α : Type} (f : α → α → α) : Nat → List α → List α
  | 0, l => l
  | n + 1, l => if l.length ≤ 1 then l else reduce f n (pairUp f l)

/-- Lane 0 of VREDSUM (R161). -/
def redSum (t : Scalar) (l : List Nat) : Nat :=
  if t.isInt then wrapInt t.width ((l.map (Scalar.decodeInt t.width)).foldl (· + ·) 0)
  else narrow t ((reduce (fun x y => r32 (Num.add x y)) 9 (l.map t.decode)).headD Num.zero)

/-- Lane 0 of VREDMAX (R161). -/
def redMax (t : Scalar) (l : List Nat) : Nat :=
  if t.isInt then
    wrapInt t.width ((l.map (Scalar.decodeInt t.width)).foldl (fun m x => if m < x then x else m)
      (Scalar.decodeInt t.width (l.headD 0)))
  else narrow t ((reduce fmax 9 (l.map t.decode)).headD Num.zero)

/-- VCVT (R162). -/
def vCvt (src dst : Scalar) (q : Nat) (x old : BitVec 512) : BitVec 512 :=
  let n := 512 / Nat.max src.width dst.width
  let from_ := lanes src.width x
  let conv (c : Nat) : Nat := narrow dst (src.decode c)
  let olds := lanes dst.width old
  let out :=
    if dst.width < src.width then
      olds.zipIdx.map (fun e => if n * q ≤ e.2 ∧ e.2 < n * q + n then conv (from_.getD (e.2 - n * q) 0) else e.1)
    else if src.width < dst.width then
      olds.zipIdx.map (fun e => if e.2 < n then conv (from_.getD (e.2 + n * q) 0) else e.1)
    else from_.map conv
  packLanes dst.width out

def vecBytes (x : BitVec 512) : List Byte := leBytes 64 x.toNat
def vecOf (bs : List Byte) : BitVec 512 := BitVec.ofNat 512 (leNat (bs.take 64))

def elemOf (f : Nat) : Scalar :=
  match fmtOf f with
  | some (.panel t) => t
  | _ => .e4m3

/-- VPDEC (R163): `n` is the number of non-kerf elements. -/
def vPdec (t : Scalar) (e : Nat) (x : BitVec 512) (n : Nat) : BitVec 512 :=
  let wide := e < 16
  let dst := if wide then Scalar.fp32 else Scalar.bf16
  let k := if wide then 16 else 32
  let g := e % 16
  let sector := vecBytes x
  packLanes dst.width ((upFrom (k * g) k).map (fun i =>
    if n ≤ i ∨ perPanel t ≤ i then 0 else narrow dst (panelValue t sector i)))

/-- One element of VPENC. -/
def pencElement (t : Scalar) (a b : Num) (n : Nat) (acc : List Byte × Bool) (i : Nat) (x : Num) : List Byte × Bool :=
  if perPanel t ≤ i then acc
  else if n ≤ i then (putElement t acc.1 i 0, acc.2)
  else
    let c := elementCode t a b x
    (putElement t acc.1 i c.1, acc.2 || c.2)

/-- VPENC (R163): the new sector, and whether a NaN was zeroed. -/
def vPenc (t : Scalar) (g : Nat) (x old : BitVec 512) (sb : Word) : BitVec 512 × Bool :=
  let sector := putAt (vecBytes old) 0 (leBytes 4 (sb.toNat % 2 ^ 32))
  let xs := (lanes 32 x).map v32
  let r := xs.zipIdx.foldl (fun acc e => pencElement t (panelScale sector) (panelBias sector) sb.toNat acc (16 * g + e.2) e.1)
    (sector, false)
  (vecOf r.1, r.2)

/-- The V slot's write, and whether a VPENC zeroed a NaN. -/
def runV (g : Jig) (w : Nat) : RegWrite × Bool :=
  let d := Slot.d w
  let op := Slot.op w
  let t := scalarOf (Slot.fmt w)
  let W := t.width
  let x := vreg g (Slot.a w)
  let la := lanes W x
  let lb := lanes W (vOperand g w)
  let le := lanes W (vreg g (Slot.e w))
  let L := 512 / W
  let e := Slot.e w % L
  let out (l : List Nat) : RegWrite × Bool := (.v d (packLanes W l), false)
  if op ≤ 5 then out (zip3 (vArith t op) la lb (if op = 3 then le else la))
  else
    match op with
    | 0x06 => (.v d (x &&& vOperand g w), false)
    | 0x07 => (.v d (x ||| vOperand g w), false)
    | 0x08 => (.v d (x ^^^ vOperand g w), false)
    | 0x09 => out (List.zipWith (vSar t) la lb)
    | 0x10 => out (la.map (fun c => c32 (exp2 (v32 c))))
    | 0x11 => out (la.map (fun c => c32 (recip (v32 c))))
    | 0x12 => out (la.map (fun c => c32 (rsqrt (v32 c))))
    | 0x14 => (.v d (vCvt t (scalarOf (Slot.e w)) (Slot.b w) x (vreg g d)), false)
    | 0x18 => out (redSum t la :: List.replicate (L - 1) 0)
    | 0x19 => out (redMax t la :: List.replicate (L - 1) 0)
    | 0x1A => out (zip3 (fun c a b => if c ≠ 0 then a else b) le la lb)
    | 0x1B => out (List.zipWith (fun a b => if vCmp t (Slot.e w) a b then 2 ^ W - 1 else 0) la lb)
    | 0x1C => out (lb.map (fun b => la.getD (b % L) 0))
    | 0x1D => out ((List.range L).map (fun i => if i + e < L then la.getD (i + e) 0 else 0))
    | 0x1E => out ((lanes W (vreg g d)).set e ((sreg g (Slot.a w)).toNat % 2 ^ W))
    | 0x1F => (.s d (BitVec.ofNat 64 (la.getD e 0)), false)
    | 0x20 => (.v d (vPdec (elemOf (Slot.fmt w)) (Slot.e w) x (sreg g (Slot.b w)).toNat), false)
    | _ =>
      let r := vPenc (elemOf (Slot.fmt w)) (Slot.e w) x (vreg g d) (sreg g (Slot.b w))
      (.v d r.1, r.2)

end Sys2Proof.Machine
end

