-- ==== Sys2Proof/Machine/Jig.lean ====
section
/-! DEFINITION. Jigs: the start of a task (R153 to R155), the M and C slots (Tables 6-7 and 6-8, R164 to R172), the execution
of bundles (R158), illegal bundles (R176, R177) and debug (R178, R179). -/

namespace Sys2Proof.Machine
open Sys2Proof

/-! ## The start of a task -/

/-- A jig as a task finds it (R153): its debug set-up stays. DESIGN CHOICE: CAUSE reads 0 again (R180, log entry 110). -/
def freshJig (g : Jig) (cl j hdr : Nat) (params : List Nat) (entry : Option Nat) : Jig :=
  let regs : List RegWrite := [.s 1 (BitVec.ofNat 64 j), .s 2 (BitVec.ofNat 64 cl), .s 3 (BitVec.ofNat 64 hdr)] ++
    params.zipIdx.map (fun e => .s (4 + e.2) (BitVec.ofNat 64 e.1))
  putRegs { starts := entry.toList, brkInsnEn := g.brkInsnEn, holdLimit := g.holdLimit, stopBoth := g.stopBoth, brkTagEn := g.brkTagEn,
            brkCountEn := g.brkCountEn, brkCount := g.brkCount, brkTag := g.brkTag, dbgSel := g.dbgSel,
            cacheCe := g.cacheCe, cacheUe := g.cacheUe, halted := entry.isNone,
            pc := BitVec.ofNat 46 (entry.getD 0) } regs

/-- ENTRY of jig `j` in a header; none for 0xFFFF_FFFF. -/
def entryOf (h : List Byte) (j : Nat) : Option Nat :=
  let e := at_ h (8 + 4 * j) 4
  if e = 0xFFFFFFFF then none else some e

/-- The last check of R155. -/
def headerOk (a : Nat) (h : List Byte) : Bool :=
  decide (a % 64 = 0) && decide (at_ h 0 8 < 2 ^ 46) && decide (at_ h 0 8 % 2 = 0) && decide (at_ h 16 16 = 0) &&
    [0, 1].all (fun j => decide ((entryOf h j).getD 0 % 2 = 0))

/-- Acquire and header of a JIG task (R155, R230, R254). -/
def jigBegin (cl : Nat) (x : Task) : Act (List Byte) := do
  let s ← get
  rcAcquire (regionOfCluster cl) (acquireRanges s x.desc.ins)
  testWindows x.part false x.desc.code 64
  let h ← viaLoad (regionOfCluster cl) 0 x.desc.code 64
  need (headerOk x.desc.code h) Code.descriptorInvalid
  pure h

/-- Queue, scoreboard and drawers of a task that starts are empty (R126); its jigs stand at their entries (R153). -/
def startCluster (s : State) (cl : Nat) (x : Task) (h : List Byte) : State :=
  let params := (List.range 4).map (fun i => at_ h (32 + 8 * i) 8)
  let entry (j : Nat) : Option Nat := (entryOf h j).map (fun e => at_ h 0 8 + e)
  modClu s cl (fun c => { c with
    begun := true, ended := 0, queue := [], drawers := [], notes := [], nanZeroed := false, putFailed := false,
    jig0 := freshJig c.jig0 cl 0 x.desc.code params (entry 0), jig1 := freshJig c.jig1 cl 1 x.desc.code params (entry 1) })

/-- The start of a JIG task, then its acquire and its header (R155, R230, R255). -/
def startJigTask (s : State) (cl t : Nat) (x : Task) : State :=
  settle (jigBegin cl x) (startOnce s t) (fun r u => match r with
    | .ok h => startCluster u cl x h
    | .error st => modClu u cl (fun c => { c with begun := true, ended := st }))

def execJigTaskStart (cl : Nat) (env : Env) (s : State) : Host.Outcome State Fault Refusal :=
  let s := applyEnv env s
  .next (match (clu s cl).task with
    | some t =>
      match taskAt s t with
      | some x =>
        if (clu s cl).begun || decide ((clu s cl).ended ≠ 0) || x.workDone || inReset s Dom.cluster cl then s
        else startJigTask s cl t x
      | none => s
    | none => s)

/-! ## The running task -/

/-- What a bundle needs to know of its task. -/
structure Ctx where
  cl : Nat := 0
  j : Nat := 0
  task : Nat := 0
  part : Nat := 0
  outs : List (Nat × Nat) := []
  tag : Nat := 0
  /-- Whether the jig's host-window writes of earlier bundles are home. -/
  clean : Bool := true
  deriving DecidableEq, Repr, Inhabited

def Ctx.region (c : Ctx) : Nat := regionOfCluster c.cl
def Ctx.die (c : Ctx) : Nat := c.cl / 64

/-- Where a task may store: its declared outputs and its cluster's own scratchpad (R166). -/
def Ctx.storable (c : Ctx) : List (Nat × Nat) := (spadBase c.cl, 0x400000) :: c.outs

/-- A jig's load of `n` bytes within their natural alignment (R165, R166). -/
def mLoad (c : Ctx) (hint a n : Nat) : Act (List Byte) := do
  testWindows c.part false a n
  let s ← get
  match placeOf a with
  | .stack i o => do
    need (!absentOff s i o) Code.unitAbsent
    dRead c.cl c.j hint (some c.task) a n
  | .spad k o => do
    need (clusterPresent s k) Code.unitAbsent
    if k = c.cl then do
      needReady (!padWaits (clu s k) o false)
      loadSpad k o n
    else do
      readPath c.die a
      loadHome a n
  | .host _ _ => do
    readPath c.die a
    loadHome a n
  | _ => throw (.fail Code.windowFault)

/-- The window and range tests on a store (R166). -/
def storeAllowed (c : Ctx) (a n : Nat) : Act Unit := do
  testWindows c.part true a n
  need (decide (rowOf a ≠ 3)) Code.windowFault
  need (inRanges c.storable a n) Code.windowFault

/-- A jig's store within its natural alignment (R165, R166). -/
def mStore (c : Ctx) (hint a : Nat) (bs : List Byte) : Act Unit := do
  storeAllowed c a bs.length
  let s ← get
  match placeOf a with
  | .stack i o => do
    need (!absentOff s i o) Code.unitAbsent
    dWrite c.cl c.j hint (some c.task) a bs
  | .spad k o => do
    need (clusterPresent s k) Code.unitAbsent
    if k = c.cl then do
      needReady (!padWaits (clu s k) o true)
      storeSpad k o bs
    else do
      writePath c.die a
      storeHome (some c.task) a bs
  | .host q _ => do
    writePath c.die a
    hostStore (some c.task) a bs
    edit (fun s => modJig s c.cl c.j (jigWrote q (portLost (port s q))))
  | _ => throw (.fail Code.windowFault)

/-- Address and hint of a load or store (R164). -/
def mAddr (g : Jig) (w n : Nat) : Nat :=
  (sreg g (Slot.a w) + BitVec.ofInt 64 (Scalar.decodeInt 14 (Slot.imm w))).toNat / n * n
def mHint (w : Nat) : Nat := Slot.imm w / 2 ^ 14

/-! ## Tickets (R168, R169) -/

def freeTickets (g : Jig) : List Nat := (List.range 16).filter (fun t => decide (tget none g.tickets t = none))

/-- The lowest free ticket is taken; with none free the bundle is held. -/
def takeTicket (c : Ctx) (kind : TicketKind) (left : Nat) (dest : List (Nat × Nat)) : Act Nat := do
  let s ← get
  match freeTickets (jig s c.cl c.j) with
  | t :: _ => do
    edit (fun s => setTicket s c.cl c.j t (some { kind := kind, left := left, dest := dest }))
    pure t
  | [] => throw .wait

/-- A remote operation refused at issue finishes its ticket (R326, R330). -/
def refuseTicket (s : State) (c : Ctx) (t : Nat) (kind : TicketKind) (global : Nat) : State :=
  if kind = .rput then
    let s := noteLastFail s Code.descriptorInvalid 0 c.die (BitVec.ofNat 18 (global / 2 ^ 46))
    finishTicket (modClu s c.cl (fun k => { k with putFailed := true })) c.cl c.j t Code.remoteTimeout 0
  else finishTicket s c.cl c.j t Code.descriptorInvalid 0

/-- Sending the packets of a ticket. -/
def sendPackets (s : State) (c : Ctx) (t : Nat) (l : List (Packet × Nat)) : State :=
  l.foldl (fun s x => submit s { die := c.die, pkt := x.1, who := .ticket c.cl c.j t, local_ := x.2 }) s

/-- The local bytes that an RPUT sends, each of which may be loaded (R166, R326). DESIGN CHOICE: this read is made by the ticket's hardware and waits for
no unretired press operation (R143, log entry 135). -/
def putSource (c : Ctx) (a n : Nat) : Act (List Byte) := do
  testWindows c.part false a n
  need (decide (rowOf a ≠ 3)) Code.windowFault
  match placeOf a with
  | .stack _ _ => do
    let s ← get
    need (!rangeAbsent s a n) Code.unitAbsent
    rcLoad c.region 0 a n
  | _ => do
    readPath c.die a
    loadHome a n

/-- The packets of a put: cut at every 1,024-byte boundary of the target (R326). -/
def putPackets (s : State) (part global : Nat) (bs : List Byte) : List (Packet × Nat) :=
  (cut 1024 global bs.length).map (fun p =>
    ({ requestTo s part Pkt.put p.1 with
        length := BitVec.ofNat 11 p.2, data := (bs.drop (p.1 - global)).take p.2 }, 0))

def getPackets (s : State) (part global dest n : Nat) : List (Packet × Nat) :=
  (cut 1024 global n).map (fun p =>
    ({ requestTo s part Pkt.get p.1 with length := BitVec.ofNat 11 p.2 }, dest + (p.1 - global)))

/-- Whether a byte count of RPUT and RGET is in range (R326). -/
def countOk (n : Nat) : Bool := decide (1 ≤ n) && decide (n ≤ 16777216)

/-- A call takes effect after every earlier store of the jig: its dirty lines go into the region cache (R258). With no ticket free the
bundle is held; one is taken only once the call's own checks have passed. -/
def callStart (c : Ctx) : Act Unit := do
  let s ← get
  needReady (!(freeTickets (jig s c.cl c.j)).isEmpty)
  dFlush c.cl c.j (some c.task)

/-- A remote operation refused at issue takes a ticket that has finished (R326, R330). -/
def refusedCall (c : Ctx) (kind : TicketKind) (global : Nat) : Act Nat := do
  let t ← takeTicket c kind 0 []
  edit (fun s => refuseTicket s c t kind global)
  pure t

/-- A remote operation takes a ticket and sends its packets. -/
def sentCall (c : Ctx) (kind : TicketKind) (dest : List (Nat × Nat)) (l : List (Packet × Nat)) : Act Nat := do
  let t ← takeTicket c kind l.length dest
  edit (fun s => sendPackets s c t l)
  pure t

def runRput (c : Ctx) (src global n : Nat) : Act Nat := do
  callStart c
  let s ← get
  if !countOk n || remoteRefused s c.part global then refusedCall c .rput global
  else do
    let bs ← putSource c src n
    let s ← get
    sentCall c .rput [] (putPackets s c.part global bs)

def runRget (c : Ctx) (global dest n : Nat) : Act Nat := do
  callStart c
  let s ← get
  if !countOk n || remoteRefused s c.part global then refusedCall c .rget global
  else do
    storeAllowed c dest n
    need (decide (rowOf dest ≠ 1) || !rangeAbsent s dest n) Code.unitAbsent
    sentCall c .rget [(dest, n)] (getPackets s c.part global dest n)

def runRadd (c : Ctx) (global : Nat) (v : Word) : Act Nat := do
  callStart c
  let s ← get
  if global % 8 ≠ 0 || remoteRefused s c.part global then refusedCall c .radd global
  else
    sentCall c .radd []
      [({ requestTo s c.part Pkt.add global with length := 16, data := leBytes 8 v.toNat ++ zeros 8 }, 0)]

/-- LCALL: the chain goes to the engine of the cluster's region (R182, R258). -/
def runLcall (c : Ctx) (a : Nat) : Act Nat := do
  callStart c
  let t ← takeTicket c .lcall 0 []
  edit (fun s => submitChain s c.region { owner := .ticket c.cl c.j t, task := c.task, addr := a })
  pure t

/-- AWAIT (R168, R169, R257): status and result of a finished ticket, which is freed. -/
def runAwait (c : Ctx) (t : Nat) : Act (Status × Word) := do
  let s ← get
  match ticketAt s c.cl c.j t with
  | none => pure (Code.stateConflict, 0)
  | some x => do
    needReady x.finished
    edit (fun s =>
      let s := setTicket s c.cl c.j t none
      x.dest.foldl (fun s r => dDropClean s c.cl c.j r.1 (r.1 + r.2)) s)
    pure (x.status, x.result)

/-! ## M slot -/

/-- A prefetch that may not be made, or must wait, is dropped (Table 6-7). -/
def prefetch (c : Ctx) (hint a : Nat) : Act Unit := do
  let s ← get
  match placeOf a with
  | .stack _ _ =>
    match runAct (mLoad c hint a 64) s with
    | (.ok _, t) => set t
    | (.error (.fail _), t) => set t
    | (.error .wait, _) => pure ()
  | _ => pure ()

def word64 (n : Nat) : Word := BitVec.ofNat 64 n

/-- Loaded bytes as a scalar: zero-extended, or sign-extended from `n` bytes. -/
def loaded (signed : Bool) (bs : List Byte) : Word :=
  if signed then BitVec.ofInt 64 (Scalar.decodeInt (8 * bs.length) (leNat bs)) else word64 (leNat bs)

/-- Bytes of a scalar load or store by opcode. -/
def sizeOf_ (op : Nat) : Nat := 2 ^ (op % 4)

/-- The M slot: what it does and the registers it writes. -/
def runM (c : Ctx) (g : Jig) (w : Nat) : Act (List RegWrite) := do
  let d := Slot.d w
  let op := Slot.op w
  let a := (sreg g (Slot.a w)).toNat
  let b := (sreg g (Slot.b w)).toNat
  let e := (sreg g (Slot.e w)).toNat
  if op ≤ 6 then do
    let n := sizeOf_ op
    let bs ← mLoad c (mHint w) (mAddr g w n) n
    pure [.s d (loaded (decide (4 ≤ op)) bs)]
  else if op ≤ 0x0B then do
    let n := sizeOf_ op
    mStore c (mHint w) (mAddr g w n) (leBytes n (sreg g d).toNat)
    pure []
  else if op = 0x0C then do
    let bs ← mLoad c (mHint w) (mAddr g w 64) 64
    pure [.v d (vecOf bs)]
  else if op = 0x0D then do
    mStore c (mHint w) (mAddr g w 64) (vecBytes (vreg g d))
    pure []
  else if op = 0x10 then do
    prefetch c (mHint w) (mAddr g w 64)
    pure []
  else if op = 0x14 then do
    let t ← runLcall c a
    pure [.s d (word64 t)]
  else if op = 0x15 then do
    let t ← runRput c a b e
    pure [.s d (word64 t)]
  else if op = 0x16 then do
    let t ← runRget c a b e
    pure [.s d (word64 t)]
  else if op = 0x17 then do
    let t ← runRadd c a (sreg g (Slot.b w))
    pure [.s d (word64 t)]
  else if op = 0x18 then do
    let r ← runAwait c a
    pure [.s d (word64 r.1.toNat), .s (Slot.e w) r.2]
  else do
    let s ← get
    pure [.p d (((ticketAt s c.cl c.j a).map (fun x => x.finished)).getD false)]

/-! ## C slot -/

/-- What the C slot adds to a bundle: register writes, a branch target, a halt, a break. -/
structure CEffect where
  writes : List RegWrite := []
  target : Option Nat := none
  halt : Option Status := none
  fail : Option Status := none
  brk : Bool := false
  deriving DecidableEq, Repr, Inhabited

/-- Whether all puts of the task have been acknowledged (R172). -/
def putsDone (g : Jig) : Bool :=
  g.tickets.all (fun e => (e.2.map (fun t => decide (t.kind ≠ .rput) || t.finished)).getD true)

/-- REL (R172): the jig's stores, its press operations and its finished calls are home. The stores are those of earlier bundles:
a host-window store of the same bundle is not waited for (DEDUCED, log entry 100). -/
def relReady (c : Ctx) (remote : Bool) : Act Unit := do
  let s ← get
  needReady (!((clu s c.cl).queue.any (fun o => o.jig = c.j)))
  if remote then needReady (putsDone (clu s c.cl).jig0 && putsDone (clu s c.cl).jig1)
  dFlush c.cl c.j (some c.task)
  rcRelease c.region c.task
  let s ← get
  needReady c.clean
  need (decide ((jig s c.cl c.j).relFail = 0)) (jig s c.cl c.j).relFail

/-- PEG (R172). -/
def runPeg (c : Ctx) (g : Jig) (w : Nat) : Act (List RegWrite) := do
  let a := (sreg g (Slot.a w)).toNat
  let v : BitVec 32 := (sreg g (Slot.b w)).setWidth 32
  let k := Slot.fn w % 4
  let s ← get
  match pegAt a with
  | none => throw (.fail Code.windowFault)
  | some m => do
    need (ownsPeg s c.part m) Code.windowFault
    need (!dieDown s (m / 16384)) Code.unitOffline
    if k = 1 then writePath c.die a else readPath c.die a
    if bit (Slot.fn w) 3 then relReady c false
    let s ← get
    let old := word64 (pegValue s m).toNat
    if k = 0 then pure [.s (Slot.d w) old]
    else if k = 1 then do
      edit (fun s => setPeg s m v)
      pure []
    else do
      edit (fun s => addPeg s m v)
      pure [.s (Slot.d w) old]

/-- RPEG (R172, R326). -/
def runRpeg (c : Ctx) (g : Jig) (w : Nat) : Act (List RegWrite) := do
  let a := (sreg g (Slot.a w)).toNat
  let v := (sreg g (Slot.b w)).toNat % 2 ^ 32
  callStart c
  if bit (Slot.fn w) 3 then relReady c true
  let s ← get
  let t ← if a % 4 ≠ 0 || remoteRefused s c.part a then refusedCall c .rpeg a
    else sentCall c .rpeg [] [({ requestTo s c.part Pkt.peg a with
        length := 16, pegOp := BitVec.ofNat 2 (Slot.fn w % 4), data := leBytes 16 v }, 0)]
  pure [.s (Slot.d w) (word64 t)]

/-- DPUSH (R146, R148, R171). -/
def runDpush (c : Ctx) (g : Jig) (w : Nat) : Act (List RegWrite) := do
  let fn := Slot.fn w
  let k := Slot.e w
  let words : List Word := if bit fn 0 then (lanes 64 (vreg g (Slot.a w))).map word64 else [sreg g (Slot.a w)]
  let s ← get
  let room := pushRoom (drawer s c.cl k) c.j words.length
  if room then do
    edit (fun s => modDrawer s c.cl k (fun d => words.foldl (pushWord c.j) d))
    pure (if bit fn 1 then [.p (Slot.d w) true] else [])
  else if bit fn 1 then pure [.p (Slot.d w) false]
  else throw .wait

/-- DPOP (R144, R147, R148): the words popped, and POISONED where one of them is uncorrectable. -/
def runDpop (c : Ctx) (w : Nat) : Act CEffect := do
  let k := Slot.e w
  let n := if bit (Slot.fn w) 0 then 8 else 1
  let s ← get
  let d := drawer s c.cl k
  let m := Nat.min n (available d)
  let hard := markedWords m true d
  edit (fun s => modClu (modDrawer s c.cl k (popWords m)) c.cl (fun x => { x with
    dwCe := satInc x.dwCe (markedWords m false d), dwUe := satInc x.dwUe hard }))
  let ws := poppedWords m d ++ List.replicate (n - m) 0
  pure {
    writes := if n = 8 then [.v (Slot.d w) (packLanes 64 (ws.map BitVec.toNat))] else [.s (Slot.d w) (ws.headD 0)]
    fail := if hard = 0 then none else some Code.poisoned }

/-- DCFG (R145, R171). DESIGN CHOICE: a completion note is pending for a drawer from its operation's retirement on (log entry 133). -/
def runDcfg (c : Ctx) (g : Jig) (w : Nat) : Act (List RegWrite) := do
  let k := Slot.e w
  let t := (sreg g (Slot.a w)).toNat
  let s ← get
  let ok := drawerEmpty (drawer s c.cl k) && !((clu s c.cl).notes.any (fun n => n.drawer = k)) && decide (t ≤ 1024)
  if ok then edit (fun s => modDrawer s c.cl k (fun d => { d with
    packet := bit (Slot.fn w) 0, threshold := t, openLeft := 0, headLeft := 0 }))
  pure [.p (Slot.d w) ok]

/-- A branch whose condition holds (Table 6-8). -/
def branchTaken (g : Jig) (w : Nat) : Bool := xor (preg g (Slot.d w % 8)) (bit (Slot.d w) 3)

def linkWrite (w next : Nat) : List RegWrite := if bit (Slot.d w) 4 then [.s 31 (word64 next)] else []

/-- The C slot but for PISSUE. -/
def runC (c : Ctx) (g : Jig) (pc next : Nat) (w : Nat) : Act CEffect := do
  match Slot.op w with
  | 0x00 =>
    if branchTaken g w then
      pure { writes := linkWrite w next, target := some (((pc : Int) + 2 * Slot.imm21 w) % 2 ^ 46).toNat }
    else pure {}
  | 0x01 =>
    if branchTaken g w then
      pure { writes := linkWrite w next, target := some ((sreg g (Slot.a w)).toNat % 2 ^ 46 / 2 * 2) }
    else pure {}
  | 0x05 => do
    let s ← get
    needReady (clu s c.cl).queue.isEmpty
    pure {}
  | 0x08 => do
    let l ← runDpush c g w
    pure { writes := l }
  | 0x09 => runDpop c w
  | 0x0A => do
    let l ← runDcfg c g w
    pure { writes := l }
  | 0x0B => do
    let s ← get
    pure { writes := [.s (Slot.d w) (word64 (available (drawer s c.cl (Slot.e w))))] }
  | 0x10 => do
    let l ← runPeg c g w
    pure { writes := l }
  | 0x11 => do
    let l ← runRpeg c g w
    pure { writes := l }
  | 0x18 => pure { halt := some (haltCode (BitVec.ofNat 8 (Slot.imm w))) }
  | 0x19 => pure { brk := true }
  | _ => pure {}

/-- PISSUE (R131, R133, R170): held without room; a refused record ends the task, and the bundle has no effect. Which of the two comes
first for a refused record without room is open: the record is refused at once (DESIGN CHOICE, log entry 99). -/
def runPissue (c : Ctx) (x : Task) (g : Jig) (s0 : State) (w : Nat) : Act CEffect := do
  let r := vecBytes (vreg g (Slot.a w))
  let st := recordStatus s0 x r
  if st ≠ 0 then do
    set s0
    throw (.fail st)
  else do
    let s ← get
    needReady (issueRoom (clu s c.cl) r)
    edit (fun s => issueOp s c.cl c.j (if bit (Slot.e w) 4 then none else some (Slot.e w % 4)) r)
    pure {}

/-! ## Bundles (R158) -/

/-- The system values of SYS (Table 6-5); the cluster clock is a free value within its range (R21). Device time is the hub's exactly: how
far the island's copy lies from it, up to 16 ns, is open (R22; DESIGN CHOICE, log entry 101). -/
def sysValue (s : State) (c : Ctx) (bundles mhz fn : Nat) : Word :=
  match fn with
  | 0 => s.time
  | 1 => word64 bundles
  | 2 => word64 c.cl
  | 3 => word64 c.j
  | 4 => word64 (c.tag % 2 ^ 32)
  | 5 => word64 c.part
  | 6 => word64 (600 + mhz)
  | _ => word64 (spadBase c.cl)

/-- One slot that may be absent. -/
def optSlot {α : Type} (d : α) (f : Nat → Act α) (w : Option Nat) : Act α :=
  match w with
  | some w => f w
  | none => pure d

/-- A bundle has retired, and control flow reaches an address (R158, R176). -/
def goOn (g : Jig) (a : Nat) : Jig :=
  { g with pc := BitVec.ofNat 46 a, bundles := g.bundles + 1, starts := addWord g.starts (a % 2 ^ 46), astray := false }

/-- A legal bundle whose guard holds: every slot reads first, effects come in slot order, registers are written last. DESIGN CHOICE: the ticket that
an AWAIT in M frees may be taken by C of the same bundle (R168, log entry 136). -/
def runBundle (c : Ctx) (x : Task) (pc : Nat) (b : Bundle) : Act CEffect := do
  let s0 ← get
  let g := jig s0 c.cl c.j
  let next := (pc + bundleLen b.head) % 2 ^ 46
  let s ← get
  let (mhz, s) := freeBelow s (dieCeiling s (c.cl / 64) - 599)
  set s
  let ws := match b.s with
    | some w => [runS g (sysValue s0 c g.bundles.toNat mhz) w]
    | none => []
  let wv := match b.v with
    | some w => some (runV g w)
    | none => none
  let wm ← optSlot [] (runM c g) b.m
  let ce ← optSlot {} (fun w => if Slot.op w = 0x04 then runPissue c x g s0 w else runC c g pc next w) b.c
  edit (fun s =>
    let s := modJig s c.cl c.j (fun g => putRegs g (ws ++ (wv.map Prod.fst).toList ++ wm ++ ce.writes))
    let s := if (wv.map Prod.snd).getD false then modClu s c.cl (fun k => { k with nanZeroed := true }) else s
    modJig s c.cl c.j (fun g => goOn g (ce.target.getD next)))
  pure ce

/-- A bundle whose guard does not hold: no effect; it counts as retired (R158). -/
def skipBundle (s : State) (c : Ctx) (pc : Nat) (b : Bundle) : State :=
  modJig s c.cl c.j (fun g => goOn g (pc + bundleLen b.head))

/-- Bytes of code from `a`, tested against the windows and taken from the instruction cache (R166, Table 6-9). -/
def fetchBytes (c : Ctx) (a n : Nat) : Act (List Byte) := do
  testWindows c.part false a n
  let bs ← mapAct (fun p => do
    let s ← get
    match placeOf p.1 with
    | .stack i o => need (!absentOff s i o) Code.unitAbsent
    | _ => pure ()
    let l ← iLine c.cl c.j (p.1 / 64)
    pure ((l.drop (p.1 % 64)).take p.2)) (cut 64 a n)
  pure bs.flatten

/-- The cached bytes of a piece of code, and what stood around its line when it was fetched. -/
def codePiece (s : State) (c : Ctx) (p : Nat × Nat) : Option (List Byte × CacheLine) :=
  (lineOf (jig s c.cl c.j).icache (p.1 / 64)).map (fun x => (mbytes x.data (p.1 % 64) p.2, x))

/-- Whether a bundle of `n` bytes is a mixture of old and new code: it lies in two lines that were fetched apart, and is neither what
stood there when the first was fetched nor what stood there when the second was (R181). -/
def mixedBundle (s : State) (c : Ctx) (a n : Nat) : Bool :=
  match cut 64 a n with
  | [p, q] =>
    match codePiece s c p, codePiece s c q with
    | some (x, u), some (y, v) =>
      let then2 := (u.around.2.drop (q.1 % 64)).take q.2
      let then1 := (v.around.1.drop (p.1 % 64)).take p.2
      !then1.isEmpty && !then2.isEmpty && decide (y ≠ then2) && decide (x ≠ then1)
    | _, _ => false
  | _ => false

/-- The bundle at an address, and whether it is illegal for what R176 says of its words, its address or its code's age. -/
def fetchBundle (c : Ctx) (pc : Nat) : Act (Bundle × Bool) := do
  let h ← fetchBytes c pc 2
  let n := bundleLen (at_ h 0 2)
  let bs ← fetchBytes c pc n
  let b := parseBundle bs
  let s ← get
  pure (b, !legalBundle b || (jig s c.cl c.j).astray || mixedBundle s c pc n)

/-- Whether a bundle's C slot is a peg operation with REL (R172). -/
def relBundle (b : Bundle) : Bool :=
  match b.c with
  | some w => (decide (Slot.op w = 0x10) || decide (Slot.op w = 0x11)) && bit (Slot.fn w) 3
  | none => false

/-! ## Illegal bundles (R176, R177): registers, predicates, scratchpad, drawers and one press issue are free values -/

def freeJig (n J : Nat) (g : Jig) : Jig := { g with
  s := (upFrom 1 31).foldl (fun t i => tset 0 t i (word64 (Config.freeAt n (1000 * J + i)))) g.s
  v := (List.range 32).foldl (fun t i => tset 0 t i (BitVec.ofNat 512 (Config.freeAt n (1000 * J + 100 + i)))) g.v
  p := BitVec.ofNat 8 (Config.freeAt n (1000 * J + 200)) }

def freeDrawer (n k : Nat) : Drawer := {
  words := (List.range (Config.freeAt n (4000 + k) % 1025)).map (fun i => word64 (Config.freeAt n (10000 + 2000 * k + i))),
  packet := decide (Config.freeAt n (4010 + k) % 2 = 1), threshold := Config.freeAt n (4020 + k) % 1025,
  openBy := Config.freeAt n (4030 + k) % 2, openLeft := Config.freeAt n (4040 + k) % 1024,
  headLeft := Config.freeAt n (4050 + k) % 1024 }

/-- A press operation that an illegal bundle may issue, checked like any other (R133). -/
def freeIssue (s : State) (c : Ctx) (x : Task) (n : Nat) : State :=
  let r := (List.range 64).map (Config.freeByte n)
  let p := Config.freeAt n 6001 % 5
  if Config.freeAt n 6000 % 2 = 0 || !issueRoom (clu s c.cl) r then s
  else if recordStatus s x r ≠ 0 then endJigTask s c.cl (recordStatus s x r)
  else issueOp s c.cl c.j (if p = 4 then none else some p) r

/-- The halt codes an illegal bundle may leave. -/
def freeCode (k : Nat) : Status :=
  match k % 4 with
  | 0 => Code.ok
  | 1 => Code.clamped
  | 2 => Code.nanZeroed
  | _ => Code.descriptorInvalid

/-- Free bytes at free places of the cluster's scratchpad (R176). -/
def freePad (s : State) (cl n : Nat) : State :=
  { s with spad := (List.range (Config.freeAt n 5000)).foldl (fun m i =>
      mset m (spadBase cl + Config.freeAt n (100000 + i) % 0x400000) (Config.freeByte n (64 + i))) s.spad }

/-- The result of an illegal bundle. -/
def havoc (s : State) (c : Ctx) (x : Task) : State :=
  let n := s.freeCtr
  let s := { s with freeCtr := n + 1 }
  let s := modClu (freePad s c.cl n) c.cl (fun k => { k with
    jig0 := freeJig n 0 k.jig0, jig1 := freeJig n 1 k.jig1,
    drawers := (List.range 8).foldl (fun t i => tset {} t i (freeDrawer n i)) k.drawers })
  let s := modJig s c.cl c.j (fun g => { goOn g (Config.freeAt n 3000 % 2 ^ 45 * 2) with
    halted := decide (Config.freeAt n 3001 % 2 = 1), haltCode := freeCode (Config.freeAt n 3002) })
  freeIssue s c x n

/-! ## Execution -/

/-- After a bundle has retired: a halt (R156), the end of a single step, a BRK (R178). A BRK that is a single step stops the jig as the end
of the step, and a HALT halts it, without a STEP stop (DESIGN CHOICE, log entry 110). -/
def afterBundle (s : State) (c : Ctx) (ce : CEffect) : State :=
  let g := jig s c.cl c.j
  let stepping := g.stepping
  let s := modJig s c.cl c.j (fun g => { g with skipBreak := false, stepping := false })
  match ce.fail with
  | some st => endJigTask s c.cl st
  | none => match ce.halt with
  | some code => refreshHold (modJig s c.cl c.j (fun g => { g with halted := true, haltCode := code })) c.cl
  | none =>
    if stepping then stopJig s c.cl c.j 5
    else if ce.brk && g.brkInsnEn then stopJig s c.cl c.j 3
    else s

/-- The break that stops a jig before its next bundle, if any (R178); where the count and the tag meet, the count is the cause (DESIGN CHOICE,
log entry 110). -/
def breakCause (g : Jig) (tag : Nat) : Option (BitVec 3) :=
  if g.skipBreak then none
  else if g.brkCountEn && decide (g.bundles = g.brkCount) then some 1
  else if g.brkTagEn && decide (g.bundles = 0) && decide (tag % 2 ^ 32 = g.brkTag.toNat) then some 2
  else none

def guardOf (g : Jig) (b : Bundle) : Bool := xor (preg g (fld b.head 11 9)) (bit b.head 8)

/-- A legal bundle whose guard holds. Where it is held and is a peg operation with REL, the jig's host-window writes are asked home
(R249). DESIGN CHOICE: where the C slot faults, what the M slot has stored or sent stays (R158, log entry 126). -/
def tryBundle (s : State) (c : Ctx) (x : Task) (pc : Nat) (b : Bundle) : State :=
  match runAct (runBundle c x pc b) s with
  | (.ok ce, t) => afterBundle t c ce
  | (.error (.fail st), t) => endJigTask t c.cl st
  | (.error .wait, _) =>
    let s := if heldOff (runBundle c x pc b) s then markStall s c.task (.jig c.j) (keepers (runBundle c x pc b) s) else s
    if relBundle b then flushJig s c.cl c.j else s

/-- One bundle of a jig whose task runs: held, retired, or the end of the task. -/
def oneBundle (s : State) (c : Ctx) (x : Task) : State :=
  let pc := (jig s c.cl c.j).pc.toNat
  settle (fetchBundle c pc) s (fun r s => match r with
    | .error st => endJigTask s c.cl st
    | .ok (b, illegal) =>
      if illegal then afterBundle (havoc s c x) c {}
      else if !guardOf (jig s c.cl c.j) b then afterBundle (skipBundle s c pc b) c {}
      else tryBundle s c x pc b)

/-- The context of a cluster's task. -/
def ctxOf (s : State) (cl j t : Nat) (x : Task) : Ctx :=
  { cl := cl, j := j, task := t, part := x.part, outs := localRanges s x.desc.outs, tag := x.desc.tag.toNat,
    clean := (jig s cl j).hostPorts.isEmpty && (jig s cl j).flushOut.isEmpty }

/-- A jig that is neither stopped nor without a task executes one bundle, or stops before it. -/
def runJig (s : State) (cl j : Nat) : State :=
  match (clu s cl).task.bind (fun t => (taskAt s t).map (fun x => (t, x))) with
  | some (t, x) =>
    if jigActive s cl j && !(jig s cl j).stopped then
      let c := ctxOf s cl j t x
      match breakCause (jig s cl j) c.tag with
      | some cause => stopJig s cl j cause
      | none => oneBundle s c x
    else s
  | none => s

def execBundleExecute (cl j : Nat) (env : Env) (s : State) : Host.Outcome State Fault Refusal :=
  .next (runJig (applyEnv env s) cl j)

/-! ## Debug commands (R178, R179) -/

def execJigHaltReq (p : PortId) (cl j : Nat) (s : State) : Host.Outcome State Fault Refusal :=
  .next (clusterWrite s p cl (Base.jig cl j) 0x4 (fun s => stopJig s cl j 4))

/-- A stopped jig leaves the stopped state, with CAUSE 0; the bundle at which it stopped runs without a break, also without one that it has not
taken because it was stopped there for another cause (DESIGN CHOICE, log entry 110). -/
def resumeJig (s : State) (cl j : Nat) (stepping : Bool) : State :=
  if (jig s cl j).stopped then
    refreshHold (modJig s cl j (fun g => { g with stopped := false, cause := 0, skipBreak := true, stepping := stepping })) cl
  else s

def execJigResume (p : PortId) (cl j : Nat) (s : State) : Host.Outcome State Fault Refusal :=
  .next (clusterWrite s p cl (Base.jig cl j) 0x8 (fun s => resumeJig s cl j false))

def execJigStep (p : PortId) (cl j : Nat) (env : Env) (s : State) : Host.Outcome State Fault Refusal :=
  .next (clusterWrite (applyEnv env s) p cl (Base.jig cl j) 0x10 (fun s =>
    if (jig s cl j).stopped then runJig (resumeJig s cl j true) cl j else s))

/-- The value that DBG_DATA writes (Table 6-15). A bundle at an address that neither jig's control flow has reached is illegal
(R176; DEDUCED, log entry 24). -/
def dbgWrite (other g : Jig) (value : Word) : Jig :=
  let reg := fld g.dbgSel.toNat 7 3
  let word := fld g.dbgSel.toNat 2 0
  match fld g.dbgSel.toNat 10 8 with
  | 0 => putReg g (.s reg value)
  | 1 =>
    let l := (lanes 64 (vreg g reg)).set word value.toNat
    putReg g (.v reg (packLanes 64 l))
  | 2 => { g with p := BitVec.ofNat 8 (value.toNat % 256 / 2 * 2) }
  | 3 =>
    let a := value.toNat % 2 ^ 46 / 2 * 2
    { g with pc := BitVec.ofNat 46 a, astray := !(g.starts.contains a || other.starts.contains a) }
  | _ => g

def execJigDbgDataWrite (p : PortId) (cl j : Nat) (value : Word) (s : State) : Host.Outcome State Fault Refusal :=
  .next (clusterWrite s p cl (Base.jig cl j + 0x38) value (fun s =>
    if (jig s cl j).stopped then modJig s cl j (fun g => dbgWrite (jig s cl (1 - j)) g value) else s))

end Sys2Proof.Machine
end

