-- ==== Sys2Proof/Machine/Parts.lean ====
section
/-! DEFINITION. The `PART` blocks (R400), the lock of a partition (R401, R402, Table 15-9), and what the lock latches and
rebuilds (R271, R307, Tables 10-11 and 11-11). -/

namespace Sys2Proof.Machine
open Sys2Proof

/-! ## Words (Tables 15-7 and 15-8) -/

def winAt (p : Part) (w : Nat) : Window := tget {} p.windows w

def partConfigWord (p : Part) : Nat :=
  b2n p.locked * 2 ^ 63 + b2n p.valid * 2 ^ 62 + b2n p.privileged * 2 ^ 61 + p.fkey.toNat * 2 ^ 32

def partStatusWord (p : Part) : Nat :=
  p.lastCmd.toNat * 2 ^ 56 + p.failedCheck.toNat * 2 ^ 48 + b2n p.locked * 2 + b2n p.busy

def winBaseWord (w : Window) : Nat := b2n w.en * 2 ^ 63 + b2n w.write * 2 ^ 62 + w.base.toNat * 4096

/-- The word of a `PART` register; 0 where none is assigned. -/
def partWord (p : Part) (off : Nat) : Nat :=
  match off with
  | 0x00 => partConfigWord p
  | 0x08 => partStatusWord p
  | 0x30 => p.stackTab.toNat
  | 0x38 => p.pegCount.toNat * 2 ^ 32 + p.pegFirst.toNat
  | 0x40 => p.kvTable.toNat * 64
  | 0x48 => p.venTable.toNat * 64
  | _ =>
    if 0x10 ≤ off ∧ off ≤ 0x28 then (tget 0 p.clusters ((off - 0x10) / 8)).toNat
    else if 0x80 ≤ off ∧ off ≤ 0xF8 then
      let w := winAt p ((off - 0x80) / 16)
      if off % 16 = 0 then winBaseWord w else w.limit.toNat * 4096
    else 0

/-- Whether a `PART` block has a register at an offset. -/
def partHas (off : Nat) : Bool := decide (off ≤ 0x48) || (decide (0x80 ≤ off) && decide (off ≤ 0xF8))

/-! ## Writes -/

/-- The block with the fields of one register replaced. -/
def putPart (p : Part) (off : Nat) (v : Nat) : Part :=
  match off with
  | 0x00 => { p with valid := bit v 62, privileged := bit v 61, fkey := BitVec.ofNat 16 (v >>> 32) }
  | 0x30 => { p with stackTab := BitVec.ofNat 24 v }
  | 0x38 => { p with pegCount := BitVec.ofNat 17 (v >>> 32), pegFirst := BitVec.ofNat 16 v }
  | 0x40 => { p with kvTable := BitVec.ofNat 40 (v >>> 6) }
  | 0x48 => { p with venTable := BitVec.ofNat 40 (v >>> 6) }
  | _ =>
    if 0x10 ≤ off ∧ off ≤ 0x28 then { p with clusters := tset 0 p.clusters ((off - 0x10) / 8) (BitVec.ofNat 64 v) }
    else if 0x80 ≤ off ∧ off ≤ 0xF8 then
      let k := (off - 0x80) / 16
      let w := winAt p k
      let b : BitVec 34 := BitVec.ofNat 34 (v >>> 12)
      let w : Window := if off % 16 = 0 then { w with en := bit v 63, write := bit v 62, base := b } else { w with limit := b }
      { p with windows := tset {} p.windows k w }
    else p

/-- The bits of a write that name fused-off clusters. -/
def fusedBits (s : State) (off : Nat) (value : Word) : Word :=
  if 0x10 ≤ off ∧ off ≤ 0x28 then value &&& tget 0 s.hub.fusedOff ((off - 0x10) / 8) else 0

/-- A partition's attempt takes its place behind the others. -/
def nextLock (s : State) : Nat := 1 + maxOf (s.parts.map (fun e => e.2.lockAge))

/-- A lock write (R401). -/
def startLock (s : State) (q : Nat) (value : Word) : State :=
  let p := prt s q
  if p.locked || p.busy || !bit value.toNat 62 then modPrt s q (fun p => { p with lastCmd := Code.stateConflict, failedCheck := 0 })
  else
    let n := nextLock s
    modPrt s q (fun p => { putPart p 0 value.toNat with busy := true, lockAge := n })

/-- A write of a `PART` register; each bit of a fused-off cluster is logged once. It is frozen while the partition is locked or its lock runs (R395, R401). `src` is the writer. -/
def writePart (q off src : Nat) (value : Word) (s : State) : State :=
  let p := prt s q
  if off = 8 then s
  else if off = 0 ∧ bit value.toNat 63 then startLock s q value
  else
    let v := value &&& ~~~(fusedBits s off value)
    let p' := putPart p off v.toNat
    if p.locked || p.busy then (if p' = p then s else setupIgnored s (Base.part q + off) value)
    else
      let s := modPrt s q (fun _ => p')
      ((List.range 64).filter (bit (fusedBits s off value).toNat)).foldl (fun s _ => logEvent s Cls.absentAccess 0 0 0 0 src (Base.part q + off)) s

def execPartitionLock (p : PortId) (part : Nat) (value : Word) (s : State) : Host.Outcome State Fault Refusal :=
  let v := value ||| (1#64 <<< 63)
  .next (if part < 16 then viseWrite s p (Base.part part) v (writePart part 0 (portIdx p) v) else s)

/-! ## The lock checks (Table 15-9) -/

def openWindows (p : Part) : List Window := ((List.range 8).map (winAt p)).filter (fun w => w.en)

def winLo (w : Window) : Nat := w.base.toNat * 4096
def winHi (w : Window) : Nat := (w.limit.toNat + 1) * 4096

/-- Check 1. -/
def lockShape (s : State) (q : Nat) : Bool :=
  let p := prt s q
  (openWindows p).all (fun w =>
    decide (w.base.toNat ≤ w.limit.toNat) && decide (rowOf (winLo w) ≠ 0) && decide (rowOf (winLo w) = rowOf (winHi w - 1))) &&
    decide (p.pegFirst.toNat + p.pegCount.toNat ≤ 65536) &&
    (decide (p.kvTable = 0) || inWindows s q false (p.kvTable.toNat * 64) 256) &&
    (decide (p.venTable = 0) || inWindows s q false (p.venTable.toNat * 64) 64)

/-- Whether a window covers some part of [lo, hi). -/
def covers (p : Part) (lo hi : Nat) : Bool := (openWindows p).any (fun w => decide (winLo w < hi) && decide (lo < winHi w))

/-- Check 2. -/
def lockOwned (s : State) (q : Nat) : Bool :=
  let p := prt s q
  (List.range 24).all (fun i => ownsStack s q i || !covers p (stackBase i) (stackBase (i + 1))) &&
    (List.range 256).all (fun n => ownsCluster s q n || !covers p (spadBase n) (spadBase (n + 1)))

/-- Check 3. -/
def lockStacks (s : State) (q : Nat) : Bool := (List.range 24).all (fun i => !ownsStack s q i || (stk s i).lock)

/-- The other locked partitions. -/
def othersLocked (s : State) (q : Nat) : List Nat := (List.range 16).filter (fun o => decide (o ≠ q) && (prt s o).locked)

/-- Whether two partitions own a unit in common, or hold the same fabric key. -/
def clash (s : State) (q o : Nat) : Bool :=
  let p := prt s q
  let r := prt s o
  (List.range 4).any (fun d => decide (tget 0 p.clusters d &&& tget 0 r.clusters d ≠ 0)) || decide (p.stackTab &&& r.stackTab ≠ 0) ||
    (decide (p.pegCount ≠ 0 ∧ r.pegCount ≠ 0) && decide (p.pegFirst.toNat < r.pegFirst.toNat + r.pegCount.toNat) &&
      decide (r.pegFirst.toNat < p.pegFirst.toNat + p.pegCount.toNat)) ||
    (decide (p.fkey ≠ 0) && decide (p.fkey = r.fkey))

/-- Check 4. -/
def lockAlone (s : State) (q : Nat) : Bool :=
  let os := othersLocked s q
  !os.any (clash s q) && (!(prt s q).privileged || decide ((os.filter (fun o => (prt s o).privileged)).length < 2))

/-- The pool fields of stack `i` in a KV header (Table 10-3): first slab and how many. -/
def poolField (h : List Byte) (i : Nat) : Nat × Nat := (fld (at_ h (8 + 8 * i) 8) 8 0, fld (at_ h (8 + 8 * i) 8) 25 16)

/-- Slabs of a channel. -/
def channelSlabs (s : State) : Nat := channelBytes s / 2097152

/-- SEQ_COUNT over the other locked partitions. -/
def otherSeqs (s : State) (q : Nat) : Nat := ((othersLocked s q).map (fun o => (prt s o).seqCount)).foldl (· + ·) 0

/-- Check 6 on a KV header (R271). -/
def kvHeaderOk (s : State) (q : Nat) (h : List Byte) : Bool :=
  let n := at_ h 0 4
  decide (1 ≤ n ∧ n ≤ 16384 ∧ at_ h 4 4 = 0) && (h.drop 200).all (· = 0) &&
    (List.range 24).all (fun i =>
      decide (fld (at_ h (8 + 8 * i) 8) 63 26 = 0 ∧ fld (at_ h (8 + 8 * i) 8) 15 9 = 0 ∧ (poolField h i).2 ≤ channelSlabs s)) &&
    decide (otherSeqs s q + n ≤ 65536)

/-- Check 6 on a veneer header (Table 11-8). -/
def venHeaderOk (h : List Byte) : Bool :=
  let n := at_ h 0 2
  let first := at_ h 8 1
  let count := at_ h 9 1
  decide (1 ≤ n ∧ n ≤ 16384 ∧ 1 ≤ at_ h 2 1 ∧ at_ h 3 1 = 0 ∧ at_ h 4 4 % 64 = 0 ∧ first ≤ 23 ∧ 1 ≤ count ∧ first + count ≤ 24) &&
    (h.drop 10).all (· = 0)

/-- A header, where the partition has the table. -/
def readHeader (table : BitVec 40) (n : Nat) : Act (Option (List Byte)) :=
  if table = 0 then pure none
  else do
    let b ← loadFrom 4 (table.toNat * 64) n
    pure (some b)

/-- What the lock found: the two headers, or the status and the order number of the check that failed. -/
def lockChecks (q : Nat) : Act (Except (Status × Nat) (Option (List Byte) × Option (List Byte))) := do
  let s ← get
  if !lockShape s q then pure (.error (Code.descriptorInvalid, 1))
  else if !lockOwned s q then pure (.error (Code.windowFault, 2))
  else if !lockStacks s q then pure (.error (Code.stateConflict, 3))
  else if !lockAlone s q then pure (.error (Code.stateConflict, 4))
  else do
    let h ← attempt (do
      let kv ← readHeader (prt s q).kvTable 256
      let ven ← readHeader (prt s q).venTable 64
      pure (kv, ven))
    let s ← get
    match h with
    | .error st => pure (.error (st, 5))
    | .ok (kv, ven) =>
      if (kv.map (kvHeaderOk s q)).getD true && (ven.map venHeaderOk).getD true then pure (.ok (kv, ven))
      else pure (.error (Code.descriptorInvalid, 6))

/-! ## What the lock latches (R271, R307) -/

/-- Whether a pool is disabled with an event. -/
def poolRefused (s : State) (q : Nat) (h : List Byte) (i : Nat) : Bool :=
  let p := poolField h i
  decide (p.2 ≠ 0) && (!ownsStack s q i || !(stk s i).sharded || decide (channelSlabs s < p.1 + p.2))

/-- One pool of a header. -/
def latchPool (q : Nat) (h : List Byte) (s : State) (i : Nat) : State :=
  if poolRefused s q h i then logEvent s Cls.kvPoolDisabled 0 0 9 q i 0
  else if (poolField h i).2 = 0 then s
  else modPrt s q (fun p => { p with pools := tset none p.pools i (some (poolField h i)) })

/-- A sequence as its descriptor reports it (Table 10-4); a copy that a warm reset cut short counts as not made. -/
def seqFrom (d : List Byte) : KvSeq :=
  let state := match kvStateOf (at_ d 0 1 % 8) with
    | .swappingOut => .resident
    | .swappingIn => .swapped
    | x => x
  if state = .free then {}
  else {
    state := state, poison := bit (at_ d 0 1) 7, home := at_ d 1 1 % 32, pageLog2 := at_ d 3 1 % 16,
    layout := bit (at_ d 4 1) 4, fmt := at_ d 4 1 % 16, kvh := at_ d 5 1, d := at_ d 6 1, layers := at_ d 7 1, base := at_ d 16 4,
    slabs := at_ d 20 4, pageBytes := at_ d 32 8, capacity := at_ d 40 4, maxTokens := at_ d 8 4, swapAddr := at_ d 24 8 }

/-- The KV manager's copy of sequence `n`, from its descriptor (log entry 12). -/
def rebuildSeq (q n : Nat) : Act Unit := do
  let d ← attempt (readDesc q n)
  match d with
  | .error _ => pure ()
  | .ok d =>
    edit (fun s => modSeq s q n (fun _ => seqFrom d))
    if [2, 4].contains (at_ d 0 1 % 8) then reportSeq q n

/-- The hub's copy of veneer slot `k`, from its record: a retiring generation is freed. -/
def rebuildSlot (q k : Nat) : Act Unit := do
  let s ← get
  let r ← attempt (loadFrom 4 ((prt s q).venTable.toNat * 64 + 64 + 32 * k) 32)
  match r with
  | .error _ => pure ()
  | .ok r =>
    let cur : BitVec 32 := BitVec.ofNat 32 (at_ r 0 4)
    edit (fun s => freeRetired (modVen s q k (fun _ => {
      curGen := cur, curVco := if cur = 0 then 0xFFFFFFFF else BitVec.ofNat 32 (at_ r 4 4), lastGen := cur,
      retGen := BitVec.ofNat 32 (at_ r 8 4), retVco := if at_ r 8 4 = 0 then 0xFFFFFFFF else BitVec.ofNat 32 (at_ r 12 4) })) q k)
    if at_ r 8 4 ≠ 0 ∨ at_ r 16 8 ≠ 0 then reportSlot q k

/-- Step 1 of R402. -/
def latchHeaders (q : Nat) (kv ven : Option (List Byte)) : Act Unit := do
  match kv with
  | some h =>
    edit (fun s => (List.range 24).foldl (latchPool q h) (modPrt s q (fun p => { p with seqCount := at_ h 0 4 })))
    eachAct (rebuildSeq q) (List.range (at_ h 0 4))
  | none => pure ()
  match ven with
  | some h =>
    edit (fun s => modPrt s q (fun p => { p with
      venSlots := at_ h 0 2, venLayers := at_ h 2 1, venBytes := at_ h 4 4, venFirst := at_ h 8 1, venCount := at_ h 9 1 }))
    eachAct (rebuildSlot q) (List.range (at_ h 0 2))
  | none => pure ()

/-- Step 2 of R402. -/
def zeroPads (s : State) (q : Nat) : State := ((List.range 256).filter (ownsCluster s q)).foldl zeroSpad s

/-- Steps 1 to 3 of R402, or the first check that fails. -/
def finishLock (q : Nat) : Act Unit := do
  let r ← lockChecks q
  match r with
  | .error (st, k) => edit (fun s => modPrt s q (fun p => { p with
      busy := false, lockAge := 0, lastCmd := st, failedCheck := BitVec.ofNat 8 k }))
  | .ok (kv, ven) => do
    latchHeaders q kv ven
    edit (fun s => modPrt (zeroPads s q) q (fun p => { p with
      busy := false, lockAge := 0, locked := true, lastCmd := Code.ok, failedCheck := 0 }))

/-- Whether a partition's attempt is the oldest that runs. -/
def lockTurn (s : State) (q : Nat) : Bool :=
  (prt s q).busy && s.parts.all (fun e => !e.2.busy || decide ((prt s q).lockAge ≤ e.2.lockAge))

def execPartitionLockDone (part : Nat) (env : Env) (s : State) : Host.Outcome State Fault Refusal :=
  let s := applyEnv env s
  .next (if lockTurn s part then settle (finishLock part) s (fun _ t => t) else s)

end Sys2Proof.Machine
end

