-- ==== Sys2Proof/Machine/Flash.lean ====
section
/-! DEFINITION. The boot flash of the module (R413) and the anti-rollback fuses (R415): erases, programs and fuse writes, and
their wait for the temperature ranges of R375. -/

namespace Sys2Proof.Machine
open Sys2Proof

/-! ## Image slots (Table 16-4) -/

/-- The slot of a component: A (`false`) or B. -/
def imageAt (s : State) (c : Nat) (b : Bool) : Image := tget {} s.mgt.images (2 * c + b2n b)

/-- Whether slot B of a component is active. -/
def runsB (s : State) (c : Nat) : Bool := tget false s.mgt.activeB c

def modImage (s : State) (c : Nat) (b : Bool) (f : Image → Image) : State :=
  { s with mgt := { s.mgt with images := tmod {} s.mgt.images (2 * c + b2n b) f } }

/-- The running image of a component, and the other one. -/
def activeImage (s : State) (c : Nat) : Image := imageAt s c (runsB s c)
def idleImage (s : State) (c : Nat) : Image := imageAt s c (!runsB s c)
def modIdle (s : State) (c : Nat) (f : Image → Image) : State := modImage s c (!runsB s c) f

/-- The inactive slot of a component is left invalid. -/
def spoilIdle (s : State) (c : Nat) : State := modIdle s c (fun x => { x with valid := false, pendingSlot := false })

/-! ## Management events (Table 16-8) -/

/-- An event of the management complex or the root of trust: the unit is the hub (R419). -/
def logMgmt (s : State) (cls : BitVec 8) (sev : BitVec 2) (d0 d1 : Nat) : State := logEvent s cls sev 0 0 0 d0 d1

/-! ## Waiting for the flash range (R375, R413) -/

/-- The domain of the hub. -/
def hubDomain : Nat := 28

/-- Whether an erase or program of the flash may start. -/
def flashReady (s : State) : Bool := writeRange (sourceTemp (dom s hubDomain)) s.pwr.flashHeld

/-- The wait begins: the update is held, and WRITE_RANGE is raised once. -/
def holdFlash (s : State) : State :=
  if s.pwr.flashHeld then s
  else
    let s := { s with mgt := { s.mgt with heldFrom := s.mgt.updateState, updateState := 7 } }
    logThermal { s with pwr := { s.pwr with flashHeld := true } } 0x69 0 hubDomain 0 (sourceWord s hubDomain)

/-- The wait is over. -/
def freeFlash (s : State) : State :=
  if s.pwr.flashHeld then
    { s with
      pwr := { s.pwr with flashHeld := false },
      mgt := { s.mgt with updateState := s.mgt.heldFrom } }
  else s

/-- ApplyComplete: the slot is marked pending in the directory (R413). -/
def markPending (s : State) : State :=
  let c := s.mgt.updateComponent.toNat
  let s := modIdle s c (fun x => { x with pendingSlot := true })
  { s with mgt := { s.mgt with updateState := 5, flashWant := 0, sessionPending := s.mgt.sessionPending.filter (· ≠ c) ++ [c] } }

/-- The components that an update may name (R411, Table 16-4). -/
def updatable (s : State) (c : Nat) : Bool := decide (1 ≤ c) && decide (c ≤ if romOnly s then 1 else 6)

/-- Whether the component in progress is served: the ROM-resident services take a session that they find for component 0x01 alone
(R411). -/
def componentServed (s : State) : Bool := decide (s.mgt.updateComponent = 0) || updatable s s.mgt.updateComponent.toNat

/-- The operation that waits starts, if none runs, its component is served and the hub's source lies within the range. -/
def tryFlash (s : State) : State :=
  if s.mgt.flashWant = 0 ∨ s.mgt.flashOp ≠ 0 ∨ !componentServed s then s
  else if flashReady s then
    let s := freeFlash s
    if s.mgt.flashWant = 3 then markPending s
    else { s with mgt := { s.mgt with flashOp := s.mgt.flashWant, flashWant := 0 } }
  else holdFlash s

/-- A flash operation is asked for: 1 an erase, 2 a program, 3 the pending mark. -/
def askFlash (s : State) (op : Nat) : State := tryFlash { s with mgt := { s.mgt with flashWant := op } }

/-! ## Anti-rollback counters (R415) -/

/-- Increments of a counter not yet used. -/
def svnLeft (s : State) (c : Nat) : Nat := 64 - tget 0 s.mgt.svnUsed c

/-- The fuse write: the counter of a component goes to the SVN of its running image, as far as its increments reach. -/
def burnSvn (s : State) (c : Nat) : State :=
  let old := (tget 0 s.mgt.svnCounter c).toNat
  let k := Nat.min ((activeImage s c).svn.toNat - old) (svnLeft s c)
  let s := { s with mgt := { s.mgt with
    svnCounter := tset 0 s.mgt.svnCounter c (BitVec.ofNat 8 (old + k)), svnUsed := tset 0 s.mgt.svnUsed c (tget 0 s.mgt.svnUsed c + k),
    svnWait := s.mgt.svnWait.filter (· ≠ c) } }
  logMgmt s 0x72 0 c (svnLeft s c * 256 + old + k)

/-- The fuse writes that wait are made while the hub's source lies within the fuse range. -/
def tryFuse (s : State) : State :=
  if s.mgt.svnWait.isEmpty then s
  else if fuseReady s hubDomain then s.mgt.svnWait.foldl burnSvn (freeFuse s hubDomain)
  else holdFuse s hubDomain

/-- After a successful activation the counter follows the new image, where `MGT.CTRL.SVN_AUTO` is set. -/
def advanceSvn (s : State) (c : Nat) : State :=
  if s.mgt.svnAuto && decide ((tget 0 s.mgt.svnCounter c).toNat < (activeImage s c).svn.toNat) then
    tryFuse { s with mgt := { s.mgt with svnWait := s.mgt.svnWait.filter (· ≠ c) ++ [c] } }
  else s

end Sys2Proof.Machine
end

