-- ==== Sys2Proof/Machine/Power.lean ====
section
/-! DEFINITION. Temperatures and power (spec/14): the models (R367), sensors (R368), sources (R369), domain states (R370 to
R374), write hold-off (R86), the cap, the ramp and shim load (R376 to R381), the coolant (R383), and the `PWR` block (R385). -/

namespace Sys2Proof.Machine
open Sys2Proof

/-! ## The three kinds of domain (Tables 14-1 and 14-3) -/

/-- The coefficients of a domain: R in mK/W and 1 - exp(-100 µs / τ) in 10^-12, for the three stages. The typical values of
Table 14-1 stand for the module's calibration record (DESIGN CHOICE, log entry 13). -/
def stages (n : Nat) : List (Nat × Nat) :=
  if n < 4 then [(12, 32783899518), (13, 99995000), (50, 4999988)]
  else if n < 28 then [(100, 19801326693), (200, 49998750), (400, 3333328)]
  else [(50, 48770575499), (80, 99995000), (120, 4999988)]

def throttleAbove (n : Nat) : Int := (if n < 28 then 95 else 100) * degree
def releaseBelow (n : Nat) : Int := (if n < 28 then 92 else 97) * degree
def tripAt (n : Nat) : Int := (if n < 28 then 110 else 115) * degree

/-! ## Tripping (R371, R373) -/

/-- How many tasks the domains that a shutdown resets hold. -/
def endedBy (s : State) (d i : Nat) : Nat := if inReset s d i then 0 else (tasksHeld s d i).length

/-- Shim load of a die's presses stops, and its budget is gone. -/
def clearShim (s : State) (d : Nat) : State :=
  (upFrom (64 * d) 64).foldl (fun s n => modClu s n (fun c => { c with shim := 0 }))
    (modDom s d (fun x => { x with shimBudgetW := 0, shimTopW := 0, shimHeld := false }))

/-- A compute die or a stack is put into SHUTDOWN: it is reset and held in reset, and its shim load ends (R380). -/
def holdDomain (s : State) (n : Nat) : State :=
  let (d, i) := if n < 4 then (Dom.die, n) else (Dom.stack, n - 4)
  let s := beginReset (logMerged s d i) d i Cause.command
  let s := if n < 4 then clearShim s n else s
  modDom s n (fun x => { x with down := true, state := .shutdown })

/-- The tasks that a shutdown of domain `n` ends. -/
def shutdownCount (s : State) (n : Nat) : Nat :=
  if n < 4 then endedBy s Dom.die n
  else if n < 28 then endedBy s Dom.stack (n - 4)
  else (tasksWhere s (fun _ _ => true)).length

/-- SHUTDOWN of a domain, with its event; that of the hub is FATAL and takes every other domain along (Table 14-2). -/
def shutDown (s : State) (n : Nat) (cls : BitVec 8) (d0 : Nat) : State :=
  let ended := shutdownCount s n
  let s := if n < 28 then holdDomain s n
    else
      let s := ((List.range 28).filter (fun k => !(dom s k).down)).foldl holdDomain s
      modDom { s with rst := { s.rst with fatal := true } } 28 (fun x => { x with down := true, state := .shutdown })
  logThermal { s with hub := { s.hub with thermtrip := true } } cls 3 n d0 ended

/-! ## Sources and states (R369, R370) -/

/-- Whether the telemetry of a domain's rails arrived within the last 1 ms. -/
def fresh (s : State) (d : Domain) : Bool := decide (now s ≤ d.telemetry + 1000000)

/-- Whether a domain's model is trustworthy (R369, R411). -/
def modelTrusted (s : State) (d : Domain) : Bool :=
  fresh s d && decide (s.pwr.inlet.fault = 0) && decide (s.pwr.outlet.fault = 0) && !d.diverged && !s.mgt.calBad

/-- The source of a domain at this moment. -/
def chooseSource (s : State) (d : Domain) : Source :=
  if modelTrusted s d then .model else if d.diode.fault = 0 then .diode else .none

def sourceCode : Source → Nat
  | .model => 0
  | .diode => 1
  | .none => 2

/-- A new source is taken, with its event. DESIGN CHOICE: the divergence is the latest diode reading less Tm, signed (log entry 104). -/
def takeSource (s : State) (n : Nat) : State :=
  let d := dom s n
  let x := chooseSource s d
  if x = d.source then s
  else
    let s := modDom s n (fun d => { d with source := x, noneSince := if x = .none then now s else d.noneSince })
    logThermal s 0x65 0 n (sourceCode x) (tempWord d.gap)

/-- Whether the source temperature of a domain satisfies a condition; never under NONE. -/
def tempIs (s : State) (n : Nat) (p : Int → Bool) : Bool := ((sourceTemp (dom s n)).map p).getD false

/-- The throttle condition of a domain, with hysteresis and its event. -/
def takeThrottle (s : State) (n : Nat) : State :=
  let d := dom s n
  let on := tempIs s n (fun t => decide (throttleAbove n < t)) || (d.throttled && !tempIs s n (fun t => decide (t < releaseBelow n)))
  if on = d.throttled then s
  else
    let s := modDom s n (fun d => { d with throttled := on, ceilingAt := now s, dutyAt := now s })
    logThermal s 0x60 0 n (b2n on) (sourceWord s n)

/-- The clock ceiling of a compute die under THROTTLE: 50 MHz down per 1 ms, up per 10 ms. -/
def takeCeiling (s : State) (n : Nat) : State :=
  let d := dom s n
  if tempIs s n (fun t => decide (throttleAbove n < t)) ∧ d.ceilingAt + 1000000 ≤ now s then
    modDom s n (fun d => { d with ceiling := Nat.max 600 (d.ceiling - 50), ceilingAt := now s })
  else if tempIs s n (fun t => decide (t < releaseBelow n)) ∧ d.ceiling < 2100 ∧ d.ceilingAt + 10000000 ≤ now s then
    modDom s n (fun d => { d with ceiling := Nat.min 2100 (d.ceiling + 50), ceilingAt := now s })
  else s

/-- The duty of a bench array under THROTTLE, in eighths: halved per 10 ms, doubled per 100 ms. -/
def takeDuty (s : State) (n : Nat) : State :=
  let d := dom s n
  if tempIs s n (fun t => decide (throttleAbove n < t)) ∧ d.dutyAt + 10000000 ≤ now s then
    modDom s n (fun d => { d with duty := Nat.max 1 (d.duty / 2), dutyAt := now s })
  else if tempIs s n (fun t => decide (t < releaseBelow n)) ∧ d.duty < 8 ∧ d.dutyAt + 100000000 ≤ now s then
    modDom s n (fun d => { d with duty := Nat.min 8 (d.duty * 2), dutyAt := now s })
  else s

/-- The causes of FLOOR (R371, R372, R383). -/
def takeFloors (s : State) (n : Nat) : State :=
  let cool := tempIs s n (fun t => decide (t < releaseBelow n))
  let package := decide (s.pwr.inlet.fault ≠ 0) || decide (s.pwr.outlet.fault ≠ 0) || s.pwr.hot
  modDom s n (fun d => { d with
    floorSensor := decide (d.diode.fault ≠ 0), floorNone := decide (d.source = .none), floorPackage := package,
    floorRate := d.floorRate && !(decide (100 ≤ d.rateQuiet) && cool) })

/-- The most restrictive state that a domain's conditions call for. -/
def stateOf (d : Domain) : ThermState :=
  if d.down then .shutdown
  else if d.floorSensor || d.floorRate || d.floorNone || d.floorPackage then .floor
  else if d.throttled then .throttle
  else .normal

/-- The state of a domain follows its conditions; shim load never runs on a die outside NORMAL (R380). -/
def takeState (s : State) (n : Nat) : State :=
  let s := modDom s n (fun d => { d with state := stateOf d })
  if n < 4 ∧ (dom s n).state ≠ .normal ∧ 0 < (dom s n).shimBudgetW then clearShim s n else s

/-- The write hold-off of a stack begins or ends (R86, R87), and its refresh rate follows its temperature (R83). -/
def takeHold (s : State) (i : Nat) : State :=
  let n := 4 + i
  let untrusted := decide ((dom s n).source = .none)
  let start := untrusted || tempIs s n (fun t => decide (105 * degree < t ∨ t < 0))
  let stop := tempIs s n (fun t => decide (2 * degree ≤ t ∧ t ≤ 103 * degree))
  let hot := tempIs s n (fun t => decide (85 * degree < t))
  let cool := tempIs s n (fun t => decide (t < 82 * degree))
  let was := (stk s i).writeHold
  let on := start || (was && !stop)
  let s := modStk s i (fun st => { st with
    tempUntrusted := untrusted, writeHold := on, refresh2x := hot || (st.refresh2x && !cool) })
  if on = was then s
  else
    let s := logEvent s Cls.writeHold 0 0 5 i (b2n on) 0
    if on then s else flushStaged (endStalls s) i

/-- A domain is judged afresh: its source, its throttle and knobs, its floors, its trip, its state. -/
def judge (s : State) (n : Nat) : State :=
  let s := takeThrottle (takeSource s n) n
  let s := if n < 4 then takeCeiling s n else if n < 28 then takeDuty s n else s
  let s := takeFloors s n
  let s := if n < 4 ∨ n = 28 then s else takeHold s (n - 4)
  let s := if tempIs s n (fun t => decide (tripAt n ≤ t)) && !(dom s n).down then shutDown s n 0x61 (sourceWord s n) else s
  takeState s n

/-- Every domain is judged; flash and fuse writes that waited for the hub, staged bench writes, writes that a hold-off kept in the hub,
and POISON reports that had to wait go on. -/
def judgeAll (s : State) : State :=
  let s := (List.range 24).foldl flushStaged (tryFuse (tryFlash ((List.range 29).foldl judge s)))
  makeReports (drainPorts { s with pwr := { s.pwr with packageFloor := (dom s 0).floorPackage } })

/-! ## The model (R367) -/

/-- One stage: th moves towards P × R by its share. Temperatures of stages are in 10^-12 °C, powers in mW. -/
def stageStep (th : Int) (mw : Nat) (c : Nat × Nat) : Int :=
  th + ((mw : Int) * (c.1 : Int) * 1000000 - th) * (c.2 : Int) / 1000000000000

/-- The power sample of a domain, or the last one where none arrived. -/
def sampleOf (l : List (Nat × Nat)) (n : Nat) : Option Nat := (l.find? (fun e => decide (e.1 = n))).map Prod.snd

/-- One period of a domain's model. -/
def modelStep (l : List (Nat × Nat)) (s : State) (n : Nat) : State :=
  modDom s n (fun d =>
    let x := sampleOf l n
    let mw := x.getD (d.powers.head?.getD 0)
    let k := stages n
    let a := stageStep d.th0 mw (k.getD 0 (0, 0))
    let b := stageStep d.th1 mw (k.getD 1 (0, 0))
    let c := stageStep d.th2 mw (k.getD 2 (0, 0))
    { d with
      th0 := a, th1 := b, th2 := c, tm := (s.pwr.inlet.microC + s.pwr.outlet.microC) / 2 + (a + b + c) / 1000000,
      powers := (mw :: d.powers).take 10, telemetry := if x.isSome then now s else d.telemetry })

/-! ## Shim load (R379, R380) -/

/-- Whether a press of a die runs shim load. -/
def shimRuns (s : State) (d : Nat) : Bool := (upFrom (64 * d) 64).any (fun n => decide ((clu s n).shim ≠ 0))

/-- The part of the budget that the cap gives, and the part that the up-ramp gives (R377, R378). Only a new cap below present power is approached
at the down-ramp (R377): any other cap stands before the down-ramp (R380). -/
def capPart (p : Pwr) (avg : Nat) : Nat :=
  if p.rampEn && p.capApproach then Nat.max p.capW.toNat (avg - p.downW.toNat) else p.capW.toNat
def upPart (p : Pwr) (avg : Nat) : Nat := avg + p.upW.toNat

/-- The budget of the next window: what the cap gives, and at most the up-ramp above the last average (R377, R378). -/
def budgetFor (p : Pwr) (avg : Nat) : Nat :=
  if p.rampEn then Nat.min (upPart p avg) (capPart p avg) else capPart p avg

/-- The shim budgets of some dies together, and the levels that they may take within the window. -/
def shimTotal (s : State) (ds : List Nat) : Nat := (ds.map (fun d => (dom s d).shimBudgetW)).foldl (· + ·) 0
def topTotal (s : State) (ds : List Nat) : Nat := (ds.map (fun d => (dom s d).shimTopW)).foldl (· + ·) 0

/-- A die's budget, as its share of a total for dies that may take `old` together; without a share its shim load ends. -/
def scaleShim (old total : Nat) (s : State) (d : Nat) : State :=
  let w := (dom s d).shimTopW * total / Nat.max 1 old
  if w = 0 then clearShim s d else modDom s d (fun x => { x with shimBudgetW := w })

/-- The shim budgets of some dies come to a total, in one factor on what each may take, and not above it (log entry 105). -/
def setShim (s : State) (ds : List Nat) (total : Nat) : State :=
  let old := topTotal s ds
  ds.foldl (scaleShim old (Nat.min old total)) s

/-- The power of all domains in mW: of the latest samples, and averaged over those of the last 1 ms. -/
def sampledMw (s : State) : Nat := ((List.range 29).map (fun n => (dom s n).powers.headD 0)).foldl (· + ·) 0
def averagedMw (s : State) : Nat :=
  ((List.range 29).map (fun n => (dom s n).powers.foldl (· + ·) 0 / Nat.max 1 (dom s n).powers.length)).foldl (· + ·) 0

/-- The module's power at this moment: the average of the last window, and what the samples of the domains have changed since it
(DESIGN CHOICE, log entry 105). -/
def moduleNow (s : State) : Nat := s.pwr.powerW.toNat + sampledMw s / 1000 - s.pwr.meanMw / 1000

/-- The power to which shim load may fill the module up: DOWN_W_MS below the last window (R379), and never above the cap (R380). -/
def shimFloor (p : Pwr) : Nat := Nat.min (p.powerW.toNat - p.downW.toNat) (capPart p p.powerW.toNat)

/-- The dies on which shim load runs. -/
def shimDies (s : State) : List Nat := (List.range 4).filter (shimRuns s)

/-- The budgets are set so that the module declines at DOWN_W_MS (R379): shim load gives up what lies above that, and takes again what other
loads have given up below it, within what each die may take. -/
def steerShim (s : State) : State :=
  let run := shimDies s
  setShim s run (shimTotal s run + shimFloor s.pwr - moduleNow s)

/-- A die has no shim budget outside NORMAL or without ramp limits (R380). -/
def shimStep (s : State) (d : Nat) : State :=
  let x := dom s d
  if s.pwr.rampEn && decide (x.state = .normal) && decide (0 < x.shimBudgetW) then s else clearShim s d

/-- The shim budgets that the controller gives the dies for the next 100 µs (R379): once every die with shim load has sent its power. -/
def shimUpdate (l : List (Nat × Nat)) (s : State) : State :=
  let s := (List.range 4).foldl shimStep s
  if (shimDies s).all (fun d => (sampleOf l d).isSome) then steerShim s else s

def execThermalModelUpdate (milliwatts : List (Nat × Nat)) (s : State) : Host.Outcome State Fault Refusal :=
  .next (if s.hub.auxOn then shimUpdate milliwatts (judgeAll ((List.range 29).foldl (modelStep milliwatts) s)) else s)

/-! ## Sensors (R368) -/

/-- The fault that a reading shows: 1 OPEN, 2 SHORT, 3 STUCK, 4 RANGE, 0 none. -/
def faultOf (x : Sensor) (r : SensorReading) (lo hi : Int) : BitVec 4 :=
  if r.circuit = 1 then 1
  else if r.circuit = 2 then 2
  else if 100 ≤ x.same ∧ x.moved then 3
  else if r.microC < lo * degree ∨ hi * degree < r.microC then 4
  else 0

/-- A reading is taken: `ref` is the quantity whose movement by more than `bound` shows a stuck code. -/
def takeReading (x : Sensor) (r : SensorReading) (ref bound lo hi : Int) : Sensor :=
  let same := decide (0 < x.same) && decide (r.raw = x.raw)
  let x : Sensor := { x with
    microC := if r.circuit = 0 then r.microC else x.microC, raw := r.raw, same := if same then x.same + 1 else 1,
    refTemp := if same then x.refTemp else ref,
    moved := same && (x.moved || decide (bound < ref - x.refTemp ∨ bound < x.refTemp - ref)) }
  let f := faultOf x r lo hi
  if f ≠ 0 then { x with fault := f, good := 0 }
  else { x with good := x.good + 1, fault := if 100 ≤ x.good + 1 then 0 else x.fault }

/-- SENSOR_FAULT, when a sensor becomes faulty. -/
def noteFault (s : State) (old new : Sensor) (unit d0 : Nat) : State :=
  if old.fault = 0 ∧ new.fault ≠ 0 then logThermal s 0x64 2 unit (d0 + new.fault.toNat) new.raw.toNat else s

/-- The model is compared with a fault-free diode (R369); a faulty reading breaks a run of agreeing ones. -/
def compareModel (d : Domain) : Domain :=
  if d.diode.fault ≠ 0 then { d with agree := 0 }
  else
    let diff := (d.diode.microC - d.tm).natAbs
    let agree := if diff ≤ 4000000 then d.agree + 1 else 0
    { d with
      divergence := BitVec.ofNat 8 (Nat.min 255 (diff / 1000000)), gap := d.diode.microC - d.tm, agree := agree,
      diverged := decide (8000000 < diff) || (d.diverged && decide (agree < 100)) }

/-- One reading of a diode or a thermistor. -/
def oneReading (s : State) (r : SensorReading) : State :=
  if r.sensor < 29 then
    let d := dom s r.sensor
    let x := takeReading d.diode r d.tm 5000000 (-40) 150
    let s := modDom s r.sensor (fun d => compareModel { d with diode := x })
    noteFault s d.diode x r.sensor 0
  else if r.sensor = 29 then
    let x := takeReading s.pwr.inlet r s.pwr.powerW.toNat 500 (-20) 100
    noteFault { s with pwr := { s.pwr with inlet := x } } s.pwr.inlet x 29 0
  else if r.sensor = 30 then
    let x := takeReading s.pwr.outlet r s.pwr.powerW.toNat 500 (-20) 100
    noteFault { s with pwr := { s.pwr with outlet := x } } s.pwr.outlet x 29 256
  else s

/-! ## The coolant (R383) -/

def coolantD1 (p : Pwr) : Nat := tempWord p.inlet.microC % 2 ^ 32 * 2 ^ 32 + tempWord p.outlet.microC % 2 ^ 32

/-- COOLANT_ALERT. -/
def coolantAlert (s : State) : State :=
  logThermal s 0x67 1 29 (b2n s.pwr.inletHigh + 2 * b2n s.pwr.riseHigh + 4 * b2n s.pwr.hot) (coolantD1 s.pwr)

/-- The inlet: alert above 40 °C, the package floor above 45 °C until below 43 °C. -/
def takeInlet (s : State) : State :=
  let t := s.pwr.inlet.microC
  let on := decide (40 * degree < t)
  let again := on && decide (1000 ≤ s.pwr.inletQuiet)
  let s := { s with pwr := { s.pwr with
    inletHigh := on, inletQuiet := if on then 0 else s.pwr.inletQuiet + 1,
    hot := decide (45 * degree < t) || (s.pwr.hot && decide (43 * degree ≤ t)) } }
  if again then coolantAlert s else s

/-- The rise: alert above 15 K. -/
def takeRise (s : State) : State :=
  let on := decide (15 * degree < s.pwr.outlet.microC - s.pwr.inlet.microC)
  let again := on && decide (1000 ≤ s.pwr.riseQuiet)
  let s := { s with pwr := { s.pwr with riseHigh := on, riseQuiet := if on then 0 else s.pwr.riseQuiet + 1 } }
  if again then coolantAlert s else s

/-- The thermistors are looked at while they are free of fault. -/
def takeCoolant (s : State) : State :=
  if s.pwr.inlet.fault ≠ 0 then s
  else
    let s := takeInlet s
    if s.pwr.outlet.fault ≠ 0 then s else takeRise s

/-! ## The rate of rise (R372) -/

/-- Ts: the source temperature less the fastest stage, where the telemetry is fresh. -/
def slowTemp (s : State) (n : Nat) : Option Int :=
  let d := dom s n
  (sourceTemp d).map (fun t => t - (if fresh s d then d.th0 / 1000000 else 0))

/-- The rate in whole degrees per second, as events report it. -/
def rateWord (r : Int) : Nat := (r / degree).toNat

/-- (Ts(now) - Ts(now - 50 ms)) / 0.05 s; 0 until 50 ms have been seen. -/
def rateOf (history : List Int) (t : Int) : Int :=
  match history[4]? with
  | some x => (t - x) * 20
  | none => 0

/-- The rate of one domain, every 10 ms; without a source there is none. -/
def takeRate (s : State) (n : Nat) : State :=
  match slowTemp s n with
  | none => modDom s n (fun d => { d with rate := 0, history := [], rateQuiet := d.rateQuiet + 1 })
  | some t =>
    let d := dom s n
    let rate := rateOf d.history t
    let alert := decide (10 * degree < rate)
    let floor := decide (40 * degree < rate)
    let s := modDom s n (fun d => { d with
      rate := rate, history := (t :: d.history).take 5, rateAlert := alert, floorRate := d.floorRate || floor,
      rateQuiet := if rate < 10 * degree then d.rateQuiet + 1 else 0 })
    let s := if alert && !d.rateAlert then logThermal s 0x62 0 n (rateWord rate) (sourceWord s n) else s
    if floor && !d.floorRate then logThermal s 0x63 1 n (rateWord rate) (sourceWord s n) else s

def execSensorRead (readings : List SensorReading) (s : State) : Host.Outcome State Fault Refusal :=
  .next (if s.hub.auxOn then
      let s := takeCoolant (readings.foldl oneReading s)
      let s := (List.range 29).foldl takeSource s
      judgeAll ((List.range 29).foldl takeRate s)
    else s)

/-! ## A source that stays lost (R371) and RESTORE (R374) -/

def execNoSourceTimeout (n : Nat) (s : State) : Host.Outcome State Fault Refusal :=
  .next (if n ≤ 28 ∧ (dom s n).source = .none ∧ !(dom s n).down ∧ (dom s n).noneSince + 100000000 ≤ now s then
      shutDown s n 0x66 0
    else s)

def pwrStatus (s : State) (st : Status) : State := { s with pwr := { s.pwr with lastCmd := st } }

/-- Whether RESTORE brings a domain back. -/
def restorable (s : State) (n : Nat) : Bool :=
  decide (n < 28) && (dom s n).down && tempIs s n (fun t => decide (t < 80 * degree))

/-- The reset that a shutdown held has drained. -/
def releaseDomain (s : State) (d i : Nat) : State :=
  { wipeDomain s d i with rst := { s.rst with
    resetting := s.rst.resetting.map (fun r => if r.domain = d ∧ r.index = i then { r with drained := true, started := now s } else r) } }

/-- A domain leaves SHUTDOWN through its reset exit. -/
def restoreDomain (s : State) (n : Nat) : State :=
  let s := if n < 4 then releaseDomain s Dom.die n else releaseDomain s Dom.stack (n - 4)
  let s := takeState (modDom s n (fun d => { d with down := false })) n
  let s := { s with hub := { s.hub with thermtrip := s.pwr.domains.any (fun e => e.2.down) } }
  logThermal s 0x6A 0 n 0 (sourceWord s n)

/-- A write of `PWR.CTRL`. -/
def writePwrCtrl (value : Word) (s : State) : State :=
  let n := fld value.toNat 12 8
  if value.toNat % 4 = 1 then
    (if restorable s n then pwrStatus (restoreDomain s n) Code.ok else pwrStatus s Code.stateConflict)
  else s

def execRestore (p : PortId) (n : Nat) (s : State) : Host.Outcome State Fault Refusal :=
  let v := BitVec.ofNat 64 (n % 32 * 256 + 1)
  .next (viseWrite s p (Base.pwr + 0x40) v (writePwrCtrl v))

/-! ## Cap and ramp (R376 to R381) -/

/-- Whether a window average breaks a ramp limit: rising, falling. -/
def rampBreaks (p : Pwr) (avg : Nat) : Bool × Bool :=
  (p.rampEn && decide (p.powerW.toNat + p.upW.toNat < avg), p.rampEn && decide (avg + p.downW.toNat < p.powerW.toNat))

/-- A broken window is counted, and reported at most once per second where the ramp controls could not prevent it. -/
def countBreak (s : State) (avg : Nat) (unpreventable : Bool) : State :=
  let p := s.pwr
  let b := rampBreaks p avg
  if !b.1 && !b.2 then s
  else
    let step := Nat.max p.violStep (Nat.max (avg - p.powerW.toNat) (p.powerW.toNat - avg))
    let s := { s with pwr := { p with
      violUp := if b.1 then satInc p.violUp 1 else p.violUp, violDown := if b.2 then satInc p.violDown 1 else p.violDown,
      violSince := p.violSince + 1, violStep := step } }
    if unpreventable && ((p.violAt.map (fun t => decide (t + 1000000000 ≤ now s))).getD true) then
      let s := logEvent s 0x68 0 0 0 0 (p.violSince + 1) step
      { s with pwr := { s.pwr with violSince := 0, violStep := 0, violAt := some (now s) } }
    else s

/-- The knobs of the cap and the up-ramp for the next window (R377, R378). A window above its budget lowers the clock ceiling, and at
the floor of the clocks the bench duty; how far is open. Below the budget the knobs are as the demand asks, which is open too, the duty only at
the floor of the clocks (log entry 106). -/
def setKnobs (s : State) (tight : Bool) : State :=
  let p := s.pwr
  let (c, s) := freeBelow s (if tight then Nat.max 1 (p.capCeiling - 600) else 1501)
  let ceiling := 600 + c
  let (d, s) := freeBelow s (if tight && decide (p.capCeiling = 600) then Nat.max 1 (p.capDuty - 1) else 8)
  { s with pwr := { s.pwr with capCeiling := ceiling, capDuty := if ceiling = 600 then Nat.max 1 (d + 1) else 8 } }

/-- Which limit restrains demand: the one that gives the budget, while a knob is below its top (Table 14-9). -/
def noteLimits (s : State) (avg : Nat) : State :=
  let p := s.pwr
  let held := decide (p.capCeiling < 2100) || decide (p.capDuty < 8)
  { s with pwr := { p with
    capLimited := held && (!p.rampEn || decide (capPart p avg ≤ upPart p avg)),
    upLimited := held && p.rampEn && decide (upPart p avg ≤ capPart p avg) } }

/-- Whether a press of a die has an operation. -/
def dieBusy (s : State) (d : Nat) : Bool := (upFrom (64 * d) 64).any (fun n => !(clu s n).queue.isEmpty)

/-- A NORMAL die's budget is armed at the press power of its last window, which is telemetry: a free level within the module's power
(log entry 105). On a die where shim load ends, only busy presses draw more than it. -/
def armShim (avg : Nat) (run : List Nat) (s : State) (d : Nat) : State :=
  if decide ((dom s d).state = .normal) && (!run.contains d || dieBusy s d) then
    let (w, s) := freeBelow s (avg + 1)
    modDom s d (fun x =>
      if run.contains d then { x with shimBudgetW := x.shimBudgetW + w, shimTopW := x.shimTopW + w }
      else { x with shimBudgetW := w, shimTopW := w })
  else s

/-- Dies on which shim load ran all through a window may take what they drew in it: no more together than its shim power. -/
def boundShim (s : State) (ds : List Nat) (shimW : Nat) : State :=
  let s := setShim s ds (Nat.min shimW (shimTotal s ds))
  ds.foldl (fun s d => modDom s d (fun x => { x with shimTopW := x.shimBudgetW })) s

/-- The end of a window (R377 to R380): shim load declines as `steerShim` says, in one factor on all dies on which it runs; every other
NORMAL die is armed. Without the ramp no shim load runs (log entry 105). -/
def windowShim (s : State) (avg shimW : Nat) : State :=
  let ds := List.range 4
  if !s.pwr.rampEn then ds.foldl clearShim s
  else
    let run := shimDies s
    let s := steerShim (boundShim s (run.filter (fun d => (dom s d).shimHeld)) shimW)
    let s := ds.foldl (armShim avg run) s
    ds.foldl (fun s d => modDom s d (fun x => { x with shimHeld := shimRuns s d })) s

/-- Whether a window calls for lower clocks, or a lower duty: it has gone above the cap, or above the budget that was set for it (R377,
R378). -/
def overBudget (p : Pwr) (avg : Nat) : Bool :=
  decide (p.capW.toNat < avg) || (decide (0 < p.budgetW.toNat) && decide (p.budgetW.toNat < avg))

def execPowerWindow (avgW shimW energyMj shimMj : Nat) (unpreventable : Bool) (s : State) : Host.Outcome State Fault Refusal :=
  .next (if s.hub.auxOn then
      let s := countBreak s avgW unpreventable
      let p := s.pwr
      let tight := overBudget p avgW
      let approach := p.capApproach && decide (p.capW.toNat < avgW)
      let s := { s with pwr := { p with
        powerW := BitVec.ofNat 16 avgW, shimW := BitVec.ofNat 16 shimW, shimActive := decide (0 < shimW),
        meanMw := averagedMw s, capApproach := approach,
        budgetW := BitVec.ofNat 16 (budgetFor { p with capApproach := approach } avgW),
        energyMj := p.energyMj + BitVec.ofNat 64 energyMj, shimMj := p.shimMj + BitVec.ofNat 64 shimMj } }
      noteLimits (setKnobs (windowShim s avgW shimW) tight) avgW
    else s)

/-! ## The `PWR` block (Tables 14-8 to 14-10) -/

/-- The value that `PWR.CAP` takes from a write, where it is in range. -/
def capOf (v : Nat) : Option (BitVec 13) :=
  let c : BitVec 13 := BitVec.ofNat 13 v
  if 1500 ≤ c.toNat ∧ c.toNat ≤ 5000 then some c else none

/-- The cap is written: a new one below present power is approached from there (R377). -/
def putCap (v : Nat) (s : State) : Option State :=
  (capOf v).map (fun c => { s with pwr := { s.pwr with
    capW := c, capApproach := if c = s.pwr.capW then s.pwr.capApproach else decide (c.toNat < s.pwr.powerW.toNat) } })

def putRamp (v : Nat) (s : State) : Option State :=
  let down : BitVec 9 := BitVec.ofNat 9 (v >>> 32)
  let up : BitVec 9 := BitVec.ofNat 9 v
  if 5 ≤ down.toNat ∧ down.toNat ≤ 500 ∧ 5 ≤ up.toNat ∧ up.toNat ≤ 500 then
    some { s with pwr := { s.pwr with rampEn := bit v 63, downW := down, upW := up } }
  else none

def writePwrCap (value : Word) (s : State) : State := (putCap value.toNat s).getD (setupIgnored s Base.pwr value)
def writePwrRamp (value : Word) (s : State) : State := (putRamp value.toNat s).getD (setupIgnored s (Base.pwr + 8) value)

def writeDomSel (value : Word) (s : State) : State :=
  if fld value.toNat 4 0 ≤ 28 then { s with pwr := { s.pwr with domSel := BitVec.ofNat 5 value.toNat } }
  else setupIgnored s (Base.pwr + 0x30) value

def rampWord (p : Pwr) : Nat := b2n p.rampEn * 2 ^ 63 + p.downW.toNat * 2 ^ 32 + p.upW.toNat

def pwrStatusWord (p : Pwr) : Nat :=
  p.lastCmd.toNat * 2 ^ 56 + p.powerW.toNat * 2 ^ 40 + p.budgetW.toNat * 2 ^ 24 + p.shimW.toNat * 256 + b2n p.packageFloor * 16
    + b2n p.capLimited * 8 + b2n p.upLimited * 4 + b2n p.shimActive * 2

/-- The average of a domain's samples, in W. -/
def domainWatts (d : Domain) : Nat :=
  if d.powers.isEmpty then 0 else d.powers.foldl (· + ·) 0 / d.powers.length / 1000

def thermCode : ThermState → Nat
  | .normal => 0
  | .throttle => 1
  | .floor => 2
  | .shutdown => 3

/-- `PWR.DOM_STATUS` of a domain. -/
def domStatusWord (s : State) (n : Nat) : Nat :=
  let d := dom s n
  sourceWord s n % 65536 * 2 ^ 48 + sourceCode d.source * 2 ^ 46 + thermCode d.state * 2 ^ 44 + b2n d.floorSensor * 2 ^ 43
    + b2n d.floorRate * 2 ^ 42 + b2n d.floorNone * 2 ^ 41 + b2n d.floorPackage * 2 ^ 40 + d.diode.fault.toNat * 2 ^ 36
    + d.divergence.toNat * 2 ^ 24 + Nat.min 255 (rateWord d.rate) * 65536 + domainWatts d % 65536

def coolantWord (p : Pwr) : Nat :=
  tempWord p.inlet.microC % 65536 * 2 ^ 48 + tempWord p.outlet.microC % 65536 * 2 ^ 32 + p.inlet.fault.toNat * 2 ^ 28
    + p.outlet.fault.toNat * 2 ^ 24

/-- The word of a `PWR` register. -/
def pwrWord (s : State) (off : Nat) : Nat :=
  let p := s.pwr
  match off with
  | 0x00 => p.capW.toNat
  | 0x08 => rampWord p
  | 0x10 => pwrStatusWord p
  | 0x18 => p.energyMj.toNat
  | 0x20 => p.shimMj.toNat
  | 0x28 => p.violDown.toNat * 2 ^ 32 + p.violUp.toNat
  | 0x30 => p.domSel.toNat
  | 0x38 => domStatusWord s p.domSel.toNat
  | 0x48 => coolantWord p
  | _ => 0

end Sys2Proof.Machine
end

