-- ==== Sys2Proof/Machine/Regs.lean ====
section
/-! DEFINITION. The BAR0 map (R391, Table 15-2): which register an offset names, what it reads, and what a set-up write does to
it. The writer of a set-up write is 0 Port A, 1 Port B, 2 the management complex. -/

namespace Sys2Proof.Machine
open Sys2Proof

/-- The block that a BAR0 offset lies in, with the instance and the offset inside it. -/
inductive Block where
  | hub (o : Nat)
  | rst (o : Nat)
  | pwr (o : Nat)
  | fst (o : Nat)
  | flk (i o : Nat)
  | ring (r o : Nat)
  | wlk (d o : Nat)
  | part (q o : Nat)
  | evt (o : Nat)
  | mgt (o : Nat)
  | stk (i o : Nat)
  | lay (r o : Nat)
  | clu (n o : Nat)
  | jig (n j o : Nat)
  | none
  deriving DecidableEq, Repr

/-- Table 15-2, the MSI-X structures apart. -/
def blockOf (a : Nat) : Block :=
  let page := a / 0x1000
  let o := a % 0x1000
  if page = 0 then .hub o
  else if page = 1 then .rst o
  else if page = 2 then .pwr o
  else if page = 3 then .fst o
  else if 0x10 ≤ page ∧ page < 0x28 then .flk (page - 0x10) o
  else if 0x40 ≤ page ∧ page < 0x44 then .ring ((a - 0x40000) / 0x100) (a % 0x100)
  else if 0x50 ≤ page ∧ page < 0x54 then .wlk (page - 0x50) o
  else if 0x60 ≤ page ∧ page < 0x70 then .part (page - 0x60) o
  else if 0x80 ≤ page ∧ page < 0xC1 then .evt (a - 0x80000)
  else if 0xF0 ≤ page ∧ page < 0x100 then .mgt (a - 0xF0000)
  else if 0x100 ≤ page ∧ page < 0x118 then .stk (page - 0x100) o
  else if 0x200 ≤ page ∧ page < 0x220 then .lay (page - 0x200) o
  else if 0x400 ≤ page ∧ page < 0x500 then .clu (page - 0x400) o
  else if 0x800 ≤ page ∧ page < 0xA00 then .jig ((page - 0x800) / 2) ((page - 0x800) % 2) o
  else .none

/-- Whether a block assigns a register to an offset, a multiple of 8. -/
def assignedReg : Block → Bool
  | .hub o => decide (o ≤ 0x68)
  | .rst o => decide (o ≤ 0x48)
  | .pwr o => decide (o ≤ 0x48)
  | .fst o => decide (o ≤ 0x78)
  | .flk _ o => decide (o ≤ 0x20)
  | .ring _ o => decide (o ≤ 0x30)
  | .wlk _ o => decide (o ≤ 0x20)
  | .part _ o => partHas o
  | .evt o => decide (o ≤ 0x18) || decide (0x1000 ≤ o)
  | .mgt o => decide (o ≤ 0x28)
  | .stk _ o => decide (o ≤ 0x68)
  | .lay _ o => decide (o ≤ 0x10)
  | .clu _ o => decide (o ≤ 0x20)
  | .jig _ _ o => decide (o ≤ 0x40)
  | .none => false

/-- The cluster to whose blocks an offset belongs. -/
def clusterOf : Block → Option Nat
  | .clu n _ => some n
  | .jig n _ _ => some n
  | _ => none

/-! ## `HUB` (Tables 15-3 and 15-4) -/

def stageCode : Stage → Nat
  | .reset => 0
  | .auxReady => 1
  | .mainReady => 2
  | .fault => 3

def lockWord (h : Hub) : Nat := b2n h.lockReset * 8 + b2n h.lockFabric * 4 + b2n h.lockRings * 2 + b2n h.lockHost
def viseWord (h : Hub) : Nat := h.claims.toNat * 2 ^ 32 + h.vise.toNat * 256

def bootWord (h : Hub) : Nat := h.bootErr.toNat * 256 + b2n h.fwImageB * 32 + b2n h.mainPg * 16 + stageCode h.stage

def winWord (p : Port) : Nat := p.hostBase.toNat * 4096 + b2n p.winEn

def bar4MapWord (p : Port) : Nat := p.bar4Base.toNat * 2 ^ 30 + b2n p.bar4En * 256 + b2n p.bar4All * 128 + p.bar4Part.toNat

/-- The cluster fuse map of a die (R6). -/
def fuseWord (s : State) (d : Nat) : Nat := (~~~(tget 0 s.hub.fusedOff d)).toNat

def hubWord (s : State) (o : Nat) : Nat :=
  match o with
  | 0x00 => s.hub.ident.toNat
  | 0x08 => s.hub.fuseStacks.toNat
  | 0x10 => fuseWord s 0
  | 0x18 => fuseWord s 1
  | 0x20 => fuseWord s 2
  | 0x28 => fuseWord s 3
  | 0x30 => viseWord s.hub
  | 0x38 => lockWord s.hub
  | 0x40 => s.hub.mode.toNat
  | 0x48 => bootWord s.hub
  | 0x50 => winWord s.portA
  | 0x58 => winWord s.portB
  | 0x60 => bar4MapWord s.portA
  | 0x68 => bar4MapWord s.portB
  | _ => 0

/-- A lock bit is set by writing 1; a 0 has no effect (R395). -/
def writeLock (value : Word) (s : State) : State :=
  let v := value.toNat
  let h := s.hub
  { s with hub := { h with
    lockHost := h.lockHost || bit v 0, lockRings := h.lockRings || bit v 1, lockFabric := h.lockFabric || bit v 2,
    lockReset := h.lockReset || bit v 3 } }

def writeMode (value : Word) (s : State) : State := tapGate { s with hub := { s.hub with mode := BitVec.ofNat 2 value.toNat } }

/-- `HUB.WIN_A` or `HUB.WIN_B`. -/
def writeWin (p : PortId) (off : Nat) (value : Word) (s : State) : State :=
  let q : Port := { port s p with hostBase := BitVec.ofNat 52 (value.toNat >>> 12), winEn := bit value.toNat 0 }
  if s.hub.lockHost then (if q = port s p then s else setupIgnored s off value) else modPort s p (fun _ => q)

/-- `HUB.BAR4_MAP_A` or `_B`: ALL and PART under the lock, BASE and EN always (R395). -/
def writeBar4Map (p : PortId) (off : Nat) (value : Word) (s : State) : State :=
  let v := value.toNat
  let q : Port := { port s p with bar4Base := BitVec.ofNat 16 (v >>> 30), bar4En := bit v 8 }
  let r : Port := { q with bar4All := bit v 7, bar4Part := BitVec.ofNat 4 v }
  if s.hub.lockHost then
    let s := modPort s p (fun _ => q)
    if q = r then s else setupIgnored s off value
  else modPort s p (fun _ => r)

def writeHub (o : Nat) (value : Word) (s : State) : State :=
  match o with
  | 0x38 => writeLock value s
  | 0x40 => writeMode value s
  | 0x50 => writeWin .a 0x50 value s
  | 0x58 => writeWin .b 0x58 value s
  | 0x60 => writeBar4Map .a 0x60 value s
  | 0x68 => writeBar4Map .b 0x68 value s
  | _ => s

/-! ## `STK` (Tables 3-14 to 3-18, 4-12) -/

/-- An entry of the granule table (Table 3-5). -/
def granWord (s : State) (i g : Nat) : Nat :=
  let e := gran s i g
  let absent := absentOff s i (g * 2097152)
  let state := if (stk s i).initBusy && !absent then 3 else e.state.toNat
  let listed := ((stk s i).poison.filter (fun x => (x.2.map (fun p => decide (p.sector / 32768 = g))).getD false)).length
  b2n absent * 2 ^ 31 + b2n e.worked * 2 ^ 30 + state * 2 ^ 28 + e.role.toNat * 2 ^ 26 + e.partner * 2 ^ 21
    + b2n e.poisonAll * 2 ^ 20 + Nat.min listed 4095 * 256

/-- An entry of the poison list (Table 3-9). -/
def poisonWord (st : Stack) (k : Nat) : Nat :=
  match tget none st.poison k with
  | some p => 2 ^ 31 + b2n p.worked * 2 ^ 30 + p.sector
  | none => 0

def arbWord (st : Stack) : Nat := st.extSlots.toNat * 256 + st.maintSlots.toNat

def stkStatusWord (st : Stack) : Nat :=
  b2n st.initBusy * 2 ^ 31 + b2n st.writeHold * 2 ^ 30 + b2n st.refresh2x * 2 ^ 29 + b2n st.tempUntrusted * 2 ^ 28
    + st.sparesUsed.toNat * 2 ^ 24 + (activeChannels st).length * 65536 + poisonCount st

def benchStatusWord (st : Stack) : Nat :=
  st.forcedRefresh.toNat * 2 ^ 32 + (st.benchQueue.length + activeSlots st) * 65536 + activeSlots st * 256 + (32 - regsHeld st)

def retrainWord (st : Stack) : Nat := st.retrainStatus.toNat * 65536 + b2n st.retrainBusy * 64 + st.retrainChannel.toNat

def stkWord (s : State) (i o : Nat) : Nat :=
  let st := stk s i
  match o with
  | 0x00 => stkConfigWord st
  | 0x08 => arbWord st
  | 0x10 => st.periodH.toNat
  | 0x18 => st.ceThreshold.toNat
  | 0x20 => stkStatusWord st
  | 0x28 => st.chAbsent.toNat
  | 0x30 => st.spare1.toNat * 256 + st.spare0.toNat
  | 0x38 => st.granSel.toNat
  | 0x40 => granWord s i st.granSel.toNat
  | 0x48 => st.poisonSel.toNat
  | 0x50 => poisonWord st st.poisonSel.toNat
  | 0x58 => st.ceSel.toNat * 65536 + Nat.min 65535 (recent s st.ceEvents st.ceSel.toNat)
  | 0x60 => benchStatusWord st
  | 0x68 => retrainWord st
  | _ => 0

/-- `STK.ARB`: impossible guarantees are ignored and logged. -/
def writeArb (i : Nat) (value : Word) (s : State) : State :=
  let st := stk s i
  let st' : Stack := { st with extSlots := BitVec.ofNat 5 (value.toNat >>> 8), maintSlots := BitVec.ofNat 5 value.toNat }
  if st.lock then (if st' = st then s else setupIgnored s (Base.stk i + 8) value)
  else if 16 < st'.extSlots.toNat + st'.maintSlots.toNat ∨ 4 < st'.maintSlots.toNat then setupIgnored s (Base.stk i + 8) value
  else modStk s i (fun _ => st')

def writeStk (i o : Nat) (value : Word) (s : State) : State :=
  let v := value.toNat
  match o with
  | 0x00 => writeStkConfig i (Base.stk i) value s
  | 0x08 => writeArb i value s
  | 0x10 => modStk s i (fun st => { st with periodH := BitVec.ofNat 16 v })
  | 0x18 => (List.range 64).foldl (fun s h => thresholdAsk s i h) (modStk s i (fun st => { st with ceThreshold := BitVec.ofNat 32 v }))
  | 0x38 => modStk s i (fun st => { st with granSel := BitVec.ofNat 15 v })
  | 0x48 => modStk s i (fun st => { st with poisonSel := BitVec.ofNat 12 v })
  | 0x58 => modStk s i (fun st => { st with ceSel := BitVec.ofNat 6 (v >>> 16) })
  | 0x68 => writeRetrain i value s
  | _ => s

/-! ## `CLU` and `JIG` (Tables 5-9, 5-10, 6-12 to 6-15) -/

def cluStatusWord (c : Cluster) : Nat :=
  let busy (p : Nat) : Nat := b2n (c.queue.any (fun o => decide (o.press = p) && o.running)) * 2 ^ p
  c.notesDropped.toNat * 2 ^ 48 + 2 ^ 31 + b2n c.task.isSome * 2 ^ 30 + boardUsed c * 65536 + c.queue.length * 256
    + (busy 0 + busy 1 + busy 2 + busy 3) * 16 + c.shim.toNat

def cluWord (c : Cluster) (o : Nat) : Nat :=
  match o with
  | 0x00 => cluStatusWord c
  | 0x08 => c.spUe.toNat * 2 ^ 32 + c.spCe.toNat
  | 0x10 => c.dwUe.toNat * 2 ^ 32 + c.dwCe.toNat
  | 0x18 => (c.spBad.map (fun a => 2 ^ 63 + a.toNat / 8 * 8)).getD 0
  | 0x20 => c.retired.toNat
  | _ => 0

def ticketsHeld (g : Jig) : Nat := ((List.range 16).filter (fun k => (tget none g.tickets k).isSome)).length

def dbgCtrlWord (g : Jig) : Nat :=
  b2n g.brkInsnEn * 512 + b2n g.holdLimit * 256 + b2n g.stopBoth * 128 + b2n g.brkTagEn * 64 + b2n g.brkCountEn * 32

def dbgStatusWord (c : Cluster) (g : Jig) : Nat :=
  b2n g.stopped * 2 ^ 31 + g.cause.toNat * 2 ^ 28 + b2n g.halted * 2 ^ 27 + b2n (c.task.isSome && !g.halted) * 2 ^ 26
    + ticketsHeld g % 16 * 65536 + b2n (decide (ticketsHeld g = 16)) * 2 ^ 15

/-- What `JIG.DBG_DATA` reads. -/
def dbgRead (g : Jig) : Nat :=
  let reg := fld g.dbgSel.toNat 7 3
  let word := fld g.dbgSel.toNat 2 0
  match fld g.dbgSel.toNat 10 8 with
  | 0 => (sreg g reg).toNat
  | 1 => fld (vreg g reg).toNat (64 * word + 63) (64 * word)
  | 2 => g.p.toNat / 2 * 2 + 1
  | 3 => g.pc.toNat
  | _ => 0

def jigWord (c : Cluster) (g : Jig) (o : Nat) : Nat :=
  match o with
  | 0x00 => dbgCtrlWord g
  | 0x08 => dbgStatusWord c g
  | 0x10 => g.brkCount.toNat
  | 0x18 => g.brkTag.toNat
  | 0x20 => g.bundles.toNat
  | 0x28 => g.pc.toNat
  | 0x30 => g.dbgSel.toNat
  | 0x38 => dbgRead g
  | 0x40 => g.cacheUe.toNat * 2 ^ 32 + g.cacheCe.toNat
  | _ => 0

/-- `JIG.DBG_CTRL`: the enables first, then STEP, or RESUME, or HALT_REQ. DESIGN CHOICE: of several command bits STEP comes before RESUME, and
HALT_REQ does nothing while the jig is stopped (log entry 110). -/
def writeDbgCtrl (n j : Nat) (value : Word) (s : State) : State :=
  let v := value.toNat
  let s := refreshHold (modJig s n j (fun g => { g with
    brkInsnEn := bit v 9, holdLimit := bit v 8, stopBoth := bit v 7, brkTagEn := bit v 6, brkCountEn := bit v 5 })) n
  if (jig s n j).stopped then
    (if bit v 4 then runJig (resumeJig s n j true) n j else if bit v 3 then resumeJig s n j false else s)
  else if bit v 2 then stopJig s n j 4
  else s

def writeJig (n j o : Nat) (value : Word) (s : State) : State :=
  let v := value.toNat
  match o with
  | 0x00 => writeDbgCtrl n j value s
  | 0x10 => modJig s n j (fun g => { g with brkCount := BitVec.ofNat 48 v })
  | 0x18 => modJig s n j (fun g => { g with brkTag := BitVec.ofNat 32 v })
  | 0x30 => modJig s n j (fun g => { g with dbgSel := BitVec.ofNat 11 v })
  | 0x38 => if (jig s n j).stopped then modJig s n j (fun g => dbgWrite (jig s n (1 - j)) g value) else s
  | _ => s

/-! ## `LAY`, `RING`, `WLK`, `FST`, `FLK` -/

def layWord (r : Region) (o : Nat) : Nat :=
  match o with
  | 0x00 => b2n (r.chains.any (fun c => c.started)) * 2 ^ 15 + r.chains.length
  | 0x08 => r.calls.toNat
  | 0x10 => r.mitreUe.toNat * 2 ^ 32 + r.mitreCe.toNat
  | _ => 0

def ringCode : RingState → Nat
  | .stopped => 0
  | .running => 1
  | .stopping => 2

/-- `RING.STATUS`; CQ_FULL reads 1 while the completion ring is full, in R215's words (log entry 40). -/
def ringStatusWord (x : Ring) : Nat :=
  x.lastCmd.toNat * 2 ^ 56 + ringCode x.state * 2 ^ 48 + b2n (!cqRoom x) * 2 ^ 32 + x.sqHead.toNat

def ringWord (x : Ring) (o : Nat) : Nat :=
  match o with
  | 0x00 => x.sqBase.toNat * 64
  | 0x08 => x.cqBase.toNat * 64
  | 0x10 => ringConfigWord x
  | 0x20 => ringStatusWord x
  | 0x28 => x.cqHead.toNat * 2 ^ 32 + x.cqTail.toNat
  | 0x30 => x.graphs
  | _ => 0

def writeRing (r o : Nat) (value : Word) (s : State) : State :=
  match o with
  | 0x00 => writeSqBase r value s
  | 0x08 => writeCqBase r value s
  | 0x10 => writeRingConfig r value s
  | 0x18 => writeRingCtrl r value s
  | _ => s

def wlkWord (s : State) (d o : Nat) : Nat :=
  let w := wlk s d
  match o with
  | 0x00 => wlkStatusWord s d
  | 0x08 => w.waitLimitMs.toNat * 2 ^ 48 + w.taskLimitUs.toNat
  | 0x10 => b2n w.brkEn * 2 ^ 63 + w.brkTag.toNat
  | 0x20 => w.startedCount.toNat
  | _ => 0

def writeWlk (d o : Nat) (value : Word) (s : State) : State :=
  match o with
  | 0x08 => writeWlkLimits d value s
  | 0x10 => writeWlkBrk d value s
  | 0x18 => writeWlkCtrl d value s
  | _ => s

def fstWord (s : State) (o : Nat) : Nat :=
  let f := s.fst
  match o with
  | 0x00 => fstNodeWord f
  | 0x08 => fstTorusWord f
  | 0x10 => fstTimeoutWord f
  | 0x18 => fstTimeWord f
  | 0x20 => f.sysOffset.toNat
  | 0x28 => (sysTime s).toNat
  | 0x60 => lastFailWord f
  | 0x68 => f.late.toNat * 2 ^ 32 + f.aged.toNat
  | 0x70 => f.naksSent.toNat * 2 ^ 32 + f.naksReceived.toNat
  | 0x78 => f.unroutable.toNat
  | _ => if 0x30 ≤ o ∧ o ≤ 0x58 then (detourAt f ((o - 0x30) / 8)).toNat else 0

def writeFst (o : Nat) (value : Word) (s : State) : State :=
  match o with
  | 0x00 => writeFstNode value s
  | 0x08 => writeFstTorus value s
  | 0x10 => writeFstTimeout value s
  | 0x18 => writeFstTime value s
  | 0x20 => writeSysOffset value s
  | _ => if 0x30 ≤ o ∧ o ≤ 0x58 then writeDetour ((o - 0x30) / 8) value s else s

def flkWord (l : Link) (o : Nat) : Nat :=
  match o with
  | 0x00 => flkStatusWord l
  | 0x10 => l.replays.toNat * 2 ^ 32 + l.fecUncorr.toNat
  | 0x18 => l.fecCorr.toNat
  | 0x20 => l.delayNs.toNat
  | _ => 0

/-! ## `MGT` (Table 16-9) -/

/-- Whether a component has a slot (Table 16-4): the calibration record has one only. -/
def hasSlot (c : Nat) (b : Bool) : Bool := (decide (1 ≤ c) && decide (c ≤ 6)) || (decide (c = 15) && !b)

/-- `MGT.IMG_A` and `MGT.IMG_B` (Table 16-9). While only the boot ROM runs no slot does, so that ACTIVE reads 0 (R411). -/
def imgWord (s : State) (c : Nat) (b : Bool) : Nat :=
  let x := imageAt s c b
  let f := Config.selWord (if b then 2 else 1) c
  if hasSlot c b then x.version.toNat * 2 ^ 32 + x.svn.toNat * 256 + b2n x.valid * 2
      + b2n (decide (runsB s c = b) && x.valid && !romOnly s)
  else fld f 63 32 * 2 ^ 32 + fld f 15 8 * 256 + f % 4

def mgtStatusWord (m : Mgt) : Nat :=
  m.eid.toNat * 2 ^ 40 + m.smbusAddr.toNat * 2 ^ 32 + m.updateState.toNat * 256 + m.updateComponent.toNat

def mgtCtrlWord (m : Mgt) : Nat := b2n m.svnAuto * 65536 + b2n m.vdmB * 512 + b2n m.vdmA * 256 + m.evtMin.toNat

def mgtWord (s : State) (o : Nat) : Nat :=
  let m := s.mgt
  let c := m.imgSel.toNat
  match o with
  | 0x00 => mgtStatusWord m
  | 0x08 => mgtCtrlWord m
  | 0x10 => c
  | 0x18 => imgWord s c false
  | 0x20 => imgWord s c true
  | 0x28 => if hasSlot c true then (64 - tget 0 m.svnUsed c) * 256 + (tget 0 m.svnCounter c).toNat
    else Config.selWord 3 c % 65536
  | _ => 0

def writeMgt (o : Nat) (value : Word) (s : State) : State :=
  let v := value.toNat
  match o with
  | 0x08 => { s with mgt := { s.mgt with
      svnAuto := bit v 16, vdmB := bit v 9, vdmA := bit v 8, evtMin := BitVec.ofNat 2 v } }
  | 0x10 => { s with mgt := { s.mgt with imgSel := BitVec.ofNat 4 v } }
  | _ => s

/-! ## The whole map -/

/-- The word that a register reads; 0 where none is assigned (R390). -/
def blockWord (s : State) : Block → Nat
  | .hub o => hubWord s o
  | .rst o => rstWord s o
  | .pwr o => pwrWord s o
  | .fst o => fstWord s o
  | .flk i o => flkWord (lnk s i) o
  | .ring r o => ringWord (ring s r) o
  | .wlk d o => wlkWord s d o
  | .part q o => partWord (prt s q) o
  | .evt o => evtWord s.evt o
  | .mgt o => mgtWord s o
  | .stk i o => stkWord s i o
  | .lay r o => layWord (reg s r) o
  | .clu n o => cluWord (clu s n) o
  | .jig n j o => jigWord (clu s n) (jig s n j) o
  | .none => 0

/-- A set-up write that has passed the vise. -/
def writeBlock (src : Nat) (value : Word) (s : State) : Block → State
  | .hub o => writeHub o value s
  | .rst o =>
    (match o with
      | 0x00 => writeRstCtrl value s
      | 0x10 => writeEpochSel value s
      | 0x20 => writeWdog value s
      | 0x28 => writeHbCfg value s
      | _ => s)
  | .pwr o =>
    (match o with
      | 0x00 => writePwrCap value s
      | 0x08 => writePwrRamp value s
      | 0x30 => writeDomSel value s
      | 0x40 => writePwrCtrl value s
      | _ => s)
  | .fst o => writeFst o value s
  | .flk i o => if o = 8 then writeFlkCtrl i value s else s
  | .ring r o => writeRing r o value s
  | .wlk d o => writeWlk d o value s
  | .part q o => writePart q o src value s
  | .evt o => if o = 0x18 then writeEvtIrq value s else s
  | .mgt o => writeMgt o value s
  | .stk i o => writeStk i o value s
  | .jig n j o => writeJig n j o value s
  | _ => s

/-- Whether an offset lies in a block of a fused-off cluster or its jigs (R390). -/
def fusedBlock (s : State) (b : Block) : Bool := ((clusterOf b).map (fun n => !clusterPresent s n)).getD false

/-- ABSENT_ACCESS by any writer or reader of BAR0. -/
def absentBy (s : State) (src off : Nat) : State := logEvent s Cls.absentAccess 0 0 0 0 src off

/-- An aligned 8-byte set-up write at an offset, behind the vise. -/
def setRegister (src off : Nat) (value : Word) (s : State) : State :=
  let b := blockOf off
  if fusedBlock s b then absentBy s src off else writeBlock src value s b

end Sys2Proof.Machine
end

