-- ==== Sys2Proof/Machine/Ports.lean ====
section
/-! DEFINITION. The two host ports: reads and writes of BAR0 (R389, R390), the vise and the lock bits (R393 to R397), MSI-X
(R403), heartbeats (R358), and the loss and return of a port (R355, R387, R433). -/

namespace Sys2Proof.Machine
open Sys2Proof

/-! ## MSI-X structures (R403) -/

def msixBase : Nat := 0x3F00000
def pbaBase : Nat := 0x3F10000

/-- Whether an offset lies in the port's MSI-X table or pending-bit array. -/
def inMsix (off : Nat) : Bool :=
  (decide (msixBase ≤ off) && decide (off < msixBase + 32768)) || (decide (pbaBase ≤ off) && decide (off < pbaBase + 256))

/-- A pending message is sent once its vector and the function are unmasked. -/
def msixServe (s : State) (p : PortId) (v : Nat) : State :=
  let q := port s p
  let e := msixAt q v
  if e.pend && !e.masked && !q.funcMask && q.msixEnable then
    let s := modPort s p (fun q => { q with msix := tset {} q.msix v { e with pend := false } })
    if portTalks s p then emit s (.msix p v) else s
  else s

/-- The 16 bytes of a table entry as a number. -/
def msixEntryNat (e : MsixEntry) : Nat := b2n e.masked * 2 ^ 96 + e.data.toNat * 2 ^ 64 + e.addr.toNat

/-- A 4-byte or 8-byte word of the MSI-X structures. -/
def msixWord (q : Port) (off : Nat) : Nat :=
  if off < pbaBase then fld (msixEntryNat (msixAt q ((off - msixBase) / 16))) (off % 16 * 8 + 63) (off % 16 * 8)
  else ((List.range 64).map (fun k => b2n (msixAt q ((off - pbaBase) * 8 + k)).pend * 2 ^ k)).foldl (· + ·) 0

/-- A write of `n` bytes to a table entry; the pending-bit array is read-only. -/
def writeMsix (p : PortId) (off n : Nat) (value : Word) (s : State) : State :=
  if pbaBase ≤ off || !((n = 4 && off % 4 = 0) || (n = 8 && off % 8 = 0)) then s
  else
    let v := (off - msixBase) / 16
    let lo := off % 16 * 8
    let old := msixEntryNat (msixAt (port s p) v)
    let new := old - fld old (lo + 8 * n - 1) lo * 2 ^ lo + value.toNat % 2 ^ (8 * n) * 2 ^ lo
    let s := modPort s p (fun q => { q with msix := tset {} q.msix v { msixAt q v with
      addr := BitVec.ofNat 64 new, data := BitVec.ofNat 32 (new >>> 64), masked := bit new 96 } })
    msixServe s p v

/-- Whether a port answers configuration requests: its link is up and STAGE has reached MAIN_READY; until then it asks for a retry
(R404). -/
def configOpen (s : State) (p : PortId) : Bool := (port s p).linkUp && decide (s.hub.stage = .mainReady)

/-- The configuration space identifies the function (R387): Device ID and Vendor ID, then the class code 0x12_0000. -/
def configIdentity (s : State) : Nat × Nat := (fld s.hub.ident.toNat 63 48 * 65536 + Config.vendorId.toNat, 0x120000)

/-- A vector is unmasked in the table, or the Message Control word is written: MSI-X Enable and the function mask. What is pending and no
longer masked is sent. -/
def execMsixUnmask (p : PortId) (what : MsixWrite) (s : State) : Host.Outcome State Fault Refusal :=
  .next (match what with
    | .vector v => openWrite s p (fun s => if v < 2048 then
        msixServe (modPort s p (fun q => { q with msix := tset {} q.msix v { msixAt q v with masked := false } })) p v
      else s)
    | .control enable mask =>
      if configOpen s p then
        (List.range 2048).foldl (fun s v => msixServe s p v) (modPort s p (fun q => { q with msixEnable := enable, funcMask := mask }))
      else s)

/-! ## BAR0 (R390) -/

/-- Half of a word, or the whole. -/
def cutWord (w off size : Nat) : Word := BitVec.ofNat 64 (if size = 4 then w / 2 ^ (off % 8 * 8) % 2 ^ 32 else w)

/-- The data of a BAR0 read leave the block. -/
def bar0Give (s : State) (p : PortId) (v : Word) : State := emit s (.bar0Data p v)

/-- An offset from here on names BAR2, which holds the doorbell pages (R389, R210): its reads return zero (DESIGN CHOICE, log entry 109: how
the command names the BAR). -/
def bar2Base : Nat := 0x4000000

/-- A write of BAR2. -/
def writeBar2 (p : PortId) (o : Nat) (value : Word) (s : State) : State :=
  let off := o % 0x1000
  if off = 0 ∨ off = 8 then ringBell s p (o / 0x1000) off value else deafBell s p (o / 0x1000) off value

def execBar0Read (p : PortId) (off size : Nat) (s : State) : Host.Outcome State Fault Refusal :=
  let b := blockOf off
  .next (if !portTalks s p then s
    else if portsDark s then bar0Give s p (cutWord (2 ^ 64 - 1) off size)
    else if bar2Base ≤ off then bar0Give s p 0
    else if inMsix off then bar0Give s p (cutWord (msixWord (port s p) (off / 8 * 8)) off size)
    else if fusedBlock s b then bar0Give (absentBy s (portIdx p) off) p 0
    else bar0Give s p (cutWord (blockWord s (blockOf (off / 8 * 8))) off size))

/-- A write of `HUB.VISE` (R394). -/
def writeVise (p : PortId) (value : Word) (s : State) : State :=
  let code : BitVec 8 := value.setWidth 8
  let h := s.hub
  if code = 0 then
    (if h.vise = portCode p then { s with hub := { h with vise := 0 } } else setupIgnored s 0x30 value)
  else if code ≠ portCode p then setupIgnored s 0x30 value
  else if h.vise = 0 then { s with hub := { h with vise := code, claims := h.claims + 1 } }
  else if h.vise = code then s
  else setupIgnored s 0x30 value

/-- A write of `RST.HEARTBEAT` renews the port's heartbeat, and brings a lapsed port back (R355). -/
def writeBeat (p : PortId) (value : Word) (s : State) : State :=
  if bit value.toNat 0 then modPort s p (fun q => { q with lastBeat := now s, lapsed := false }) else s

/-- An 8-byte aligned BAR0 write. -/
def writeBar0 (p : PortId) (off : Nat) (value : Word) (s : State) : State :=
  if off = 0x30 then openWrite s p (writeVise p value)
  else if off = Base.evt + 8 then openWrite s p (writeEvtHead value)
  else if off = Base.rst + 0x30 then openWrite s p (writeBeat p value)
  else viseWrite s p off value (setRegister (portIdx p) off value)

def execRegisterWrite (p : PortId) (off size : Nat) (value : Word) (s : State) : Host.Outcome State Fault Refusal :=
  .next (if bar2Base ≤ off then writeBar2 p (off - bar2Base) value s
    else if inMsix off then openWrite s p (writeMsix p off size value)
    else if size ≠ 8 ∨ off % 8 ≠ 0 ∨ (!assignedReg (blockOf off) ∧ !fusedBlock s (blockOf off)) then
      openWrite s p (fun s => setupIgnored s off value)
    else writeBar0 p off value s)

def execPortViseClaim (p : PortId) (code : BitVec 8) (s : State) : Host.Outcome State Fault Refusal :=
  .next (openWrite s p (writeVise p (code.setWidth 64)))

def execPortViseRelease (p : PortId) (s : State) : Host.Outcome State Fault Refusal :=
  .next (openWrite s p (writeVise p 0))

/-! ## Lock bits and mode (R395, R397) -/

def execLockHost (p : PortId) (s : State) : Host.Outcome State Fault Refusal := .next (viseWrite s p 0x38 1 (writeLock 1))
def execLockRings (p : PortId) (s : State) : Host.Outcome State Fault Refusal := .next (viseWrite s p 0x38 2 (writeLock 2))
def execLockFabric (p : PortId) (s : State) : Host.Outcome State Fault Refusal := .next (viseWrite s p 0x38 4 (writeLock 4))
def execLockReset (p : PortId) (s : State) : Host.Outcome State Fault Refusal := .next (viseWrite s p 0x38 8 (writeLock 8))

def execModeWrite (p : PortId) (mode : BitVec 2) (s : State) : Host.Outcome State Fault Refusal :=
  let v : Word := mode.setWidth 64
  .next (viseWrite s p 0x40 v (writeMode v))

/-! ## Losing a port and its return (R355) -/

/-- One ring of a lost port: as after STOP, its held completions are dropped. -/
def loseRing (p : PortId) (s : State) (r : Nat) : State :=
  let x := ring s r
  if x.assigned && decide (ringPort x = p) then drainRing (if x.state = .running then stopRing s r else s) r else s

/-- A port is lost: its vise is released, the loss is logged, its rings stop, its flushing reads fail and so do the KV swaps through it. -/
def losePort (s : State) (p : PortId) (cls : BitVec 8) (d0 : Nat) : State :=
  let s := if holdsVise s p then { s with hub := { s.hub with vise := 0 } } else s
  let s := logEvent s cls 2 0 8 (portIdx p) d0 0
  let s := (List.range 64).foldl (loseRing p) s
  loseSwaps (endFlush s p (port s p).flushSent false) p

/-- The port's link is gone; a port in D3hot was lost already. -/
def dropLink (s : State) (p : PortId) : State :=
  let q := port s p
  if q.linkUp then
    let s := modPort s p (fun q => { q with linkUp := false, d3hot := false })
    if q.d3hot then s else losePort s p Cls.hostLinkDown 0
  else s

def execHostLinkDown (p : PortId) (s : State) : Host.Outcome State Fault Refusal := .next (dropLink s p)

def execPerstAssert (p : PortId) (s : State) : Host.Outcome State Fault Refusal :=
  .next (dropLink (modPort s p (fun q => { q with perst := true })) p)

def execPerstDeassert (p : PortId) (s : State) : Host.Outcome State Fault Refusal :=
  .next (modPort s p (fun q => { q with perst := false }))

def execHostLinkUp (p : PortId) (s : State) : Host.Outcome State Fault Refusal :=
  .next (if bar0Open s && s.hub.mainPg && !(port s p).perst && !(port s p).linkUp then
      modPort s p (fun q => { q with linkUp := true, d3hot := false })
    else s)

def execHostD3hotEntry (p : PortId) (s : State) : Host.Outcome State Fault Refusal :=
  .next (if configOpen s p && !(port s p).d3hot then
      losePort (modPort s p (fun q => { q with d3hot := true })) p Cls.hostLinkDown 0
    else s)

def execPortReturnToD0 (p : PortId) (s : State) : Host.Outcome State Fault Refusal :=
  .next (if configOpen s p then modPort s p (fun q => { q with d3hot := false }) else s)

def execResizableBarWrite (p : PortId) (log2GiB : Nat) (s : State) : Host.Outcome State Fault Refusal :=
  .next (if configOpen s p && decide (log2GiB ≤ 6) then modPort s p (fun q => { q with bar4Log2 := log2GiB })
    else s)

/-! ## Heartbeats (R358) -/

def execHeartbeatWrite (p : PortId) (value : Word) (s : State) : Host.Outcome State Fault Refusal :=
  .next (openWrite s p (writeBeat p value))

def execHeartbeatLapse (p : PortId) (s : State) : Host.Outcome State Fault Refusal :=
  let period := beatPeriod s p
  .next (if period ≠ 0 ∧ !(port s p).lapsed ∧ (port s p).lastBeat + 1000000 * period ≤ now s then
      losePort (modPort s p (fun q => { q with lapsed := true })) p Cls.heartbeatLost period
    else s)

/-- The hub firmware runs: it has started, and neither restarts nor is being replaced. -/
def firmwareRuns (s : State) : Bool :=
  decide (s.hub.stage ≠ .reset) && !romOnly s && !inReset s Dom.warm 0 && !firmwarePaused s

def execHubAliveTick (s : State) : Host.Outcome State Fault Refusal :=
  .next (if firmwareRuns s then { s with rst := { s.rst with alive := s.rst.alive + 1 } } else s)

end Sys2Proof.Machine
end

