-- ==== Sys2Proof/Machine/Mgmt.lean ====
section
/-! DEFINITION. The management complex (spec/16): its bindings (R406, R407), MCTP control, PLDM base and platform monitoring
(R408, R409), and the vendor-defined commands (R411, R412, R417). Codes and layouts that the DMTF specifications fix are PRESUMED
(log entry 28). -/

namespace Sys2Proof.Machine
open Sys2Proof

/-! ## Bindings (Table 16-1) -/

/-- Whether a binding carries messages; nothing is answered while the complex restarts (R414). -/
def bindingUp (s : State) (b : Binding) : Bool :=
  decide (s.mgt.activating.head? ≠ some 6) && decide (s.hub.stage ≠ .reset) &&
    match b with
    | .smbus => true
    | .vdmA => portTalks s .a && s.mgt.vdmA
    | .vdmB => portTalks s .b && s.mgt.vdmB

-- Message types (Table 16-2).
namespace Mctp
def control : BitVec 8 := 0x00
def pldm : BitVec 8 := 0x01
def spdm : BitVec 8 := 0x05
def vendor : BitVec 8 := 0x7F
end Mctp

-- Completion codes of the DMTF specifications (PRESUMED, log entry 28).
namespace Cc
def success : BitVec 8 := 0x00
def invalidData : BitVec 8 := 0x02
def unsupported : BitVec 8 := 0x05
def noSuchId : BitVec 8 := 0x80
def notInUpdate : BitVec 8 := 0x80
def inUpdate : BitVec 8 := 0x81
def invalidRecord : BitVec 8 := 0x82
def invalidType : BitVec 8 := 0x83
def invalidState : BitVec 8 := 0x84
end Cc

/-- A message leaves on a binding. -/
def reply (s : State) (b : Binding) (typ cmd code : BitVec 8) (body : List Byte) : State := emit s (.mgmt b typ cmd code body)

/-- A message of the complex's own: the binding may be down. -/
def tell (s : State) (b : Binding) (typ cmd code : BitVec 8) (body : List Byte) : State :=
  if bindingUp s b then reply s b typ cmd code body else s

/-- A request that arrives on a binding is served; on a binding that is down nothing arrives. -/
def served (s : State) (b : Binding) (k : State → State) : Host.Outcome State Fault Refusal :=
  .next (if bindingUp s b then k s else s)

/-- A request that the ROM-resident services do not serve (R411): a vendor message is dropped, a PLDM command is unsupported. -/
def servedByFirmware (s : State) (b : Binding) (typ cmd : BitVec 8) (k : State → State) : Host.Outcome State Fault Refusal :=
  served s b (fun s =>
    if romOnly s then (if typ = Mctp.pldm then reply s b typ cmd Cc.unsupported [] else s) else k s)

/-- The first `n` bytes of an identity document. -/
def identity (doc n : Nat) : List Byte := (List.range n).map (Config.identityByte doc)

/-! ## MCTP control -/

/-- Endpoint IDs 0 and 0xFF name no endpoint. -/
def assignable (x : BitVec 8) : Bool := decide (x ≠ 0) && decide (x ≠ 0xFF)

def execSetEndpointId (b : Binding) (eid : BitVec 8) (s : State) : Host.Outcome State Fault Refusal :=
  served s b (fun s =>
    if assignable eid then reply { s with mgt := { s.mgt with eid := eid } } b Mctp.control 1 Cc.success [eid]
    else reply s b Mctp.control 1 Cc.invalidData [])

def execGetEndpointId (b : Binding) (s : State) : Host.Outcome State Fault Refusal :=
  served s b (fun s => reply s b Mctp.control 2 Cc.success [s.mgt.eid])

def execGetEndpointUuid (b : Binding) (s : State) : Host.Outcome State Fault Refusal :=
  served s b (fun s => reply s b Mctp.control 3 Cc.success (identity 0 16))

/-- The message types that are served. -/
def typesServed (s : State) : List (BitVec 8) :=
  if romOnly s then [Mctp.control, Mctp.pldm, Mctp.spdm] else [Mctp.control, Mctp.pldm, Mctp.spdm, Mctp.vendor]

def execGetMctpVersionSupport (b : Binding) (typ : BitVec 8) (s : State) : Host.Outcome State Fault Refusal :=
  served s b (fun s =>
    if (typesServed s).contains typ then reply s b Mctp.control 4 Cc.success (identity (16 + typ.toNat) 4)
    else reply s b Mctp.control 4 Cc.noSuchId [])

def execGetMessageTypeSupport (b : Binding) (s : State) : Host.Outcome State Fault Refusal :=
  served s b (fun s => reply s b Mctp.control 5 Cc.success (BitVec.ofNat 8 (typesServed s).length :: typesServed s))

def execGetVendorDefinedMsgSupport (b : Binding) (s : State) : Host.Outcome State Fault Refusal :=
  served s b (fun s => reply s b Mctp.control 6 Cc.success (identity 1 6))

/-- Whether a served type lists a command (Table 16-2); a PLDM command is told by its PLDM type, which is not given here. -/
def listed (typ cmd : BitVec 8) : Bool :=
  if typ = Mctp.control then decide (1 ≤ cmd.toNat ∧ cmd.toNat ≤ 6)
  else if typ = Mctp.spdm then [0x81, 0x82, 0x83, 0x84, 0xE0, 0xE1, 0xE3].contains cmd.toNat
  else if typ = Mctp.vendor then decide (1 ≤ cmd.toNat ∧ cmd.toNat ≤ 7)
  else false

def execMctpUnsupported (b : Binding) (typ command : BitVec 8) (s : State) : Host.Outcome State Fault Refusal :=
  served s b (fun s =>
    if (typesServed s).contains typ && !listed typ command then reply s b typ command Cc.unsupported [] else s)

/-! ## PLDM base -/

/-- A PLDM response: its first body byte is the PLDM type. -/
def pldm (s : State) (b : Binding) (t : Nat) (cmd code : BitVec 8) (body : List Byte) : State :=
  reply s b Mctp.pldm cmd code (BitVec.ofNat 8 t :: body)

def execSetTid (b : Binding) (tid : BitVec 8) (s : State) : Host.Outcome State Fault Refusal :=
  served s b (fun s =>
    if assignable tid then pldm { s with mgt := { s.mgt with tid := tid } } b 0 1 Cc.success []
    else pldm s b 0 1 Cc.invalidData [])

def execGetTid (b : Binding) (s : State) : Host.Outcome State Fault Refusal :=
  served s b (fun s => pldm s b 0 2 Cc.success [s.mgt.tid])

/-- The PLDM types that are served. -/
def pldmTypes (s : State) : List Nat := if romOnly s then [0, 5] else [0, 2, 5]

def execGetPldmVersion (b : Binding) (typ : BitVec 8) (s : State) : Host.Outcome State Fault Refusal :=
  served s b (fun s =>
    if (pldmTypes s).contains typ.toNat then pldm s b 0 3 Cc.success (identity (272 + typ.toNat) 4)
    else pldm s b 0 3 Cc.invalidType [])

/-- A bit map of `n` bytes with the given bits set. -/
def bitmap (n : Nat) (bits : List Nat) : List Byte := leBytes n ((bits.map (fun k => 2 ^ k)).foldl (· + ·) 0)

def execGetPldmTypes (b : Binding) (s : State) : Host.Outcome State Fault Refusal :=
  served s b (fun s => pldm s b 0 4 Cc.success (bitmap 8 (pldmTypes s)))

/-- The commands of a PLDM type (Table 16-2). -/
def pldmCommands : Nat → List Nat
  | 0 => [1, 2, 3, 4, 5]
  | 2 => [0x04, 0x0A, 0x11, 0x21, 0x31, 0x32, 0x50, 0x51]
  | 5 => [0x01, 0x02, 0x10, 0x13, 0x14, 0x15, 0x16, 0x17, 0x18, 0x1A, 0x1B, 0x1C, 0x1D]
  | _ => []

def execGetPldmCommands (b : Binding) (typ : BitVec 8) (s : State) : Host.Outcome State Fault Refusal :=
  served s b (fun s =>
    if (pldmTypes s).contains typ.toNat then pldm s b 0 5 Cc.success (bitmap 32 (pldmCommands typ.toNat))
    else pldm s b 0 5 Cc.invalidType [])

/-! ## Platform monitoring (Table 16-3) -/

/-- Kinds of PDR. -/
inductive PdrKind where
  | sensor | state | effecter
  deriving DecidableEq, Repr

/-- The repository: kind and ID of every sensor and effecter. -/
def pdrs : List (PdrKind × Nat) :=
  (upFrom 0x100 29).map (fun i => (.sensor, i)) ++ [(.sensor, 0x120), (.sensor, 0x121), (.sensor, 0x200), (.sensor, 0x201), (.sensor, 0x202)]
    ++ (upFrom 0x300 29).map (fun i => (.sensor, i)) ++ (upFrom 0x400 29).map (fun i => (.state, i))
    ++ (upFrom 0x500 24).map (fun i => (.state, i)) ++ [(.state, 0x600), (.state, 0x601), (.state, 0x602)]
    ++ (upFrom 0x800 4).map (fun i => (.effecter, i))

/-- The least and the greatest value of an effecter. -/
def effecterRange (id : Nat) : Nat × Nat := if id = 0x800 then (1500, 5000) else if id = 0x803 then (0, 1) else (5, 500)

def pdrKindCode : PdrKind → Nat
  | .sensor => 2
  | .state => 4
  | .effecter => 9

def execGetPdrRepositoryInfo (b : Binding) (s : State) : Host.Outcome State Fault Refusal :=
  servedByFirmware s b Mctp.pldm 0x50 (fun s => pldm s b 2 0x50 Cc.success (leBytes 4 pdrs.length))

/-- Unit and rate unit of a numeric sensor or effecter, and its resolution as a 32-bit real (Table 16-3). The codes of °C, W, J and of
a rate per millisecond are PRESUMED (log entry 28). -/
def pdrUnit (e : PdrKind × Nat) : Nat × Nat × Nat :=
  if e.1 = .effecter then (if e.2 = 0x803 then (0, 0, 0x3F800000) else (7, if e.2 = 0x800 then 0 else 2, 0x3F800000))
  else if e.2 < 0x200 then (2, 0, 0x3D800000)
  else if e.2 = 0x201 then (8, 0, 0x3F800000)
  else (7, 0, 0x3F800000)

/-- How many states a state sensor has; they are numbered from 0 in the order of Table 16-3. -/
def stateCount (id : Nat) : Nat := if id < 0x601 then 4 else 2

/-- A record: the handle of the next one (0 behind the last), its kind and ID; then the states that a state sensor has, or unit, rate unit and
resolution, with the range of an effecter. -/
def pdrBytes (k : Nat) (e : PdrKind × Nat) : List Byte :=
  leBytes 4 (if k + 1 < pdrs.length then k + 2 else 0) ++ leBytes 1 (pdrKindCode e.1) ++ leBytes 2 e.2 ++
    (if e.1 = .state then leBytes 1 (stateCount e.2) ++ (List.range (stateCount e.2)).map (BitVec.ofNat 8)
     else
      let u := pdrUnit e
      leBytes 1 u.1 ++ leBytes 1 u.2.1 ++ leBytes 4 u.2.2 ++
        (if e.1 = .effecter then leBytes 4 (effecterRange e.2).1 ++ leBytes 4 (effecterRange e.2).2 else []))

/-- Record handles count from 1; 0 asks for the first. -/
def execGetPdr (b : Binding) (record : Nat) (s : State) : Host.Outcome State Fault Refusal :=
  servedByFirmware s b Mctp.pldm 0x51 (fun s =>
    match pdrs[record - 1]? with
    | some e => pldm s b 2 0x51 Cc.success (pdrBytes (record - 1) e)
    | none => pldm s b 2 0x51 Cc.invalidRecord [])

/-- What a numeric sensor reads, and whether it is available. -/
def sensorValue (s : State) (id : Nat) : Nat × Bool :=
  if id < 0x120 then (sourceWord s (id - 0x100), decide ((dom s (id - 0x100)).source ≠ .none))
  else if id = 0x120 then (tempWord s.pwr.inlet.microC, true)
  else if id = 0x121 then (tempWord s.pwr.outlet.microC, true)
  else if id = 0x200 then (s.pwr.powerW.toNat, true)
  else if id = 0x201 then (s.pwr.energyMj.toNat / 1000, true)
  else if id = 0x202 then (s.pwr.shimW.toNat, true)
  else (domainWatts (dom s (id - 0x300)), true)

/-- A reading: operational state (0 enabled, 2 unavailable), then the value. -/
def execGetSensorReading (b : Binding) (id : Nat) (s : State) : Host.Outcome State Fault Refusal :=
  servedByFirmware s b Mctp.pldm 0x11 (fun s =>
    if pdrs.contains (.sensor, id) then
      let v := sensorValue s id
      pldm s b 2 0x11 Cc.success (leBytes 1 (if v.2 then 0 else 2) ++ leBytes 8 v.1)
    else pldm s b 2 0x11 Cc.noSuchId [])

/-- What a state sensor reads, by the code of the register that holds it. -/
def stateValue (s : State) (id : Nat) : Nat :=
  if id < 0x500 then thermCode (dom s (id - 0x400)).state
  else if id < 0x600 then linkCode (lnk s (id - 0x500)).state
  else if id = 0x600 then stageCode s.hub.stage
  else b2n (port s (portOf (id = 0x602))).linkUp

def execGetStateSensorReadings (b : Binding) (id : Nat) (s : State) : Host.Outcome State Fault Refusal :=
  servedByFirmware s b Mctp.pldm 0x21 (fun s =>
    if pdrs.contains (.state, id) then pldm s b 2 0x21 Cc.success (leBytes 1 (stateValue s id))
    else pldm s b 2 0x21 Cc.noSuchId [])

def effecterValue (p : Pwr) (id : Nat) : Nat :=
  if id = 0x800 then p.capW.toNat else if id = 0x801 then p.downW.toNat else if id = 0x802 then p.upW.toNat else b2n p.rampEn

def execGetNumericEffecterValue (b : Binding) (id : Nat) (s : State) : Host.Outcome State Fault Refusal :=
  servedByFirmware s b Mctp.pldm 0x32 (fun s =>
    if pdrs.contains (.effecter, id) then pldm s b 2 0x32 Cc.success (leBytes 4 (effecterValue s.pwr id))
    else pldm s b 2 0x32 Cc.noSuchId [])

/-- A field of `PWR` is written without the vise (R385, R409). -/
def setEffecter (s : State) (id v : Nat) : State :=
  let p := s.pwr
  { s with pwr :=
      if id = 0x800 then { p with capW := BitVec.ofNat 13 v }
      else if id = 0x801 then { p with downW := BitVec.ofNat 9 v }
      else if id = 0x802 then { p with upW := BitVec.ofNat 9 v }
      else { p with rampEn := decide (v = 1) } }

def execSetNumericEffecterValue (b : Binding) (id value : Nat) (s : State) : Host.Outcome State Fault Refusal :=
  servedByFirmware s b Mctp.pldm 0x31 (fun s =>
    if !pdrs.contains (.effecter, id) then pldm s b 2 0x31 Cc.noSuchId []
    else if (effecterRange id).1 ≤ value ∧ value ≤ (effecterRange id).2 then pldm (setEffecter s id value) b 2 0x31 Cc.success []
    else pldm s b 2 0x31 Cc.invalidData [])

/-! ## Event messages (R409) -/

/-- A receiver is set, or taken away; records stored from then on are sent. -/
def execSetEventReceiver (b : Binding) (receiver : Option (BitVec 8)) (s : State) : Host.Outcome State Fault Refusal :=
  servedByFirmware s b Mctp.pldm 0x04 (fun s =>
    pldm { s with mgt := { s.mgt with receiver := receiver, nextEvent := s.evt.tail, awaiting := 0 } } b 2 0x04 Cc.success [])

/-- The counter values of the records in the log that have not been sent, oldest first. -/
def unsentRecords (s : State) : List (BitVec 32) :=
  let n := (s.evt.tail - s.mgt.nextEvent).toNat
  let n := Nat.min n 8192
  (List.range n).map (fun k => s.evt.tail - BitVec.ofNat 32 (n - k))

def recordAt (s : State) (t : BitVec 32) : Event := tget {} s.evt.log (t.toNat % 8192)

/-- The next record to send: the first one whose severity is at least EVT_MIN. -/
def nextRecord (s : State) : Option (BitVec 32) := (unsentRecords s).find? (fun t => decide (s.mgt.evtMin ≤ (recordAt s t).sev))

/-- One try of a message: class 0xF0 and the record. -/
def tryEvent (s : State) (r : BitVec 8) (t : BitVec 32) (n : Nat) : State :=
  let s := { s with mgt := { s.mgt with nextEvent := t, awaiting := n, sentAt := now s } }
  emit s (.platformEvent r (0xF0 :: eventBytes (recordAt s t)))

/-- Whether the complex's firmware runs and sends messages of its own. -/
def mgmtRuns (s : State) : Bool := decide (s.hub.stage ≠ .reset) && decide (s.mgt.activating.head? ≠ some 6) && !romOnly s

def execPlatformEventMessage (s : State) : Host.Outcome State Fault Refusal :=
  .next (match s.mgt.receiver, nextRecord s with
    | some r, some t => if mgmtRuns s && decide (s.mgt.awaiting = 0) then tryEvent s r t 1 else s
    | _, _ => s)

/-- The record is done with: it was acknowledged, or it is skipped. -/
def endEvent (s : State) : State := { s with mgt := { s.mgt with nextEvent := s.mgt.nextEvent + 1, awaiting := 0 } }

def execPlatformEventRetry (s : State) : Host.Outcome State Fault Refusal :=
  .next (match s.mgt.receiver with
    | some r =>
      if mgmtRuns s && decide (s.mgt.awaiting ≠ 0) && decide (s.mgt.sentAt + 1000000000 ≤ now s) then
        (if s.mgt.awaiting = 1 then tryEvent s r s.mgt.nextEvent 2 else endEvent s)
      else s
    | none => s)

/-- A response that acknowledges ends the wait; another one does not. -/
def execPlatformEventMessageResponse (ok : Bool) (s : State) : Host.Outcome State Fault Refusal :=
  .next (if ok && mgmtRuns s && decide (s.mgt.awaiting ≠ 0) then endEvent s else s)

/-! ## Vendor-defined commands (Table 16-5) -/

/-- The vise code of the management complex. -/
def mgmtCode : BitVec 8 := 0x4D

def mgmtHolds (s : State) : Bool := decide (s.hub.vise = mgmtCode)

/-- A vendor-defined response. -/
def vendor (s : State) (b : Binding) (cmd : BitVec 8) (body : List Byte) : State := reply s b Mctp.vendor cmd Cc.success body

/-- VISE_CLAIM: R394 with code 0x4D. -/
def mgmtClaim (s : State) : State × Status :=
  let h := s.hub
  if h.vise = 0 then (logMgmt { s with hub := { h with vise := mgmtCode, claims := h.claims + 1 } } 0x73 0 1 0, Code.ok)
  else if h.vise = mgmtCode then (s, Code.ok)
  else (setupIgnored s 0x30 (mgmtCode.setWidth 64), Code.stateConflict)

def mgmtRelease (s : State) : State × Status :=
  if mgmtHolds s then (logMgmt { s with hub := { s.hub with vise := 0 } } 0x73 0 0 0, Code.ok)
  else (setupIgnored s 0x30 0, Code.stateConflict)

def execViseClaim (b : Binding) (s : State) : Host.Outcome State Fault Refusal :=
  servedByFirmware s b Mctp.vendor 1 (fun s =>
    let r := mgmtClaim s
    vendor r.1 b 1 (r.2 :: leBytes 8 (viseWord r.1.hub)))

def execViseRelease (b : Binding) (s : State) : Host.Outcome State Fault Refusal :=
  servedByFirmware s b Mctp.vendor 2 (fun s =>
    let r := mgmtRelease s
    vendor r.1 b 2 [r.2])

/-- REG_READ: the aligned word of BAR0 that holds the offset. -/
def execRegRead (b : Binding) (off : Nat) (s : State) : Host.Outcome State Fault Refusal :=
  servedByFirmware s b Mctp.vendor 3 (fun s =>
    let k := blockOf (off / 8 * 8)
    if fusedBlock s k then vendor (absentBy s 2 off) b 3 (zeros 8) else vendor s b 3 (leBytes 8 (blockWord s k)))

/-- Whether an offset is written without the vise by the management complex: `PWR.CAP` and `PWR.RAMP` (R385), `EVT.HEAD` and
`RST.HEARTBEAT` (R393). -/
def viseFree (off : Nat) : Bool := [Base.pwr, Base.pwr + 8, Base.evt + 8, Base.rst + 0x30].contains off

/-- The status of a REG_WRITE that has been made: a write of `RST.CTRL` gives what LAST_CMD_STATUS shows (R412). -/
def writeStatus (t : State) (off : Nat) (value : Word) : Status :=
  if off = Base.rst ∧ domainNamed (fld value.toNat 19 16) then t.rst.lastCmd else Code.ok

/-- REG_WRITE as a set-up write (R393, R395, R412): the state after it and its status. -/
def mgmtWrite (s : State) (off : Nat) (value : Word) : State × Status :=
  if off = 0x30 then (if value.setWidth 8 = mgmtCode then mgmtClaim s else if value.setWidth 8 = (0 : BitVec 8) then mgmtRelease s
    else (setupIgnored s off value, Code.stateConflict))
  else if !viseFree off && !mgmtHolds s then (setupIgnored s off value, Code.stateConflict)
  else if off % 8 ≠ 0 || (!assignedReg (blockOf off) && !fusedBlock s (blockOf off)) then
    (setupIgnored s off value, Code.descriptorInvalid)
  else if fusedBlock s (blockOf off) then (absentBy s 2 off, Code.unitAbsent)
  else
    let t := if off = Base.evt + 8 then writeEvtHead value s else setRegister 2 off value s
    (t, if t = setupIgnored s off value then Code.stateConflict else writeStatus t off value)

def execRegWrite (b : Binding) (off : Nat) (value : Word) (s : State) : Host.Outcome State Fault Refusal :=
  servedByFirmware s b Mctp.vendor 4 (fun s =>
    let r := mgmtWrite s off value
    vendor r.1 b 4 [r.2])

/-- RESET_REQUEST: a package warm reset needs no vise. -/
def mgmtReset (s : State) (d i : Nat) : State × Status :=
  if !domainNamed d then (s, Code.descriptorInvalid)
  else if d ≠ Dom.warm ∧ !mgmtHolds s then (s, Code.stateConflict)
  else
    let st := resetStatus s d i
    (if st = Code.ok then beginReset s d i Cause.management else s, st)

def execResetRequest (b : Binding) (domain index : Nat) (s : State) : Host.Outcome State Fault Refusal :=
  servedByFirmware s b Mctp.vendor 5 (fun s =>
    let r := mgmtReset s domain index
    vendor r.1 b 5 [r.2])

/-- The stack fields of the fuse map: all ones until MAIN_READY (R417). -/
def stackFuses (s : State) (i : Nat) : List Byte :=
  if s.hub.stage = .mainReady then leBytes 8 (stk s i).chAbsent.toNat ++ leBytes 1 (stk s i).sparesUsed.toNat
  else List.replicate 9 0xFF

/-- The identity and the fuse maps of the hub (R5, R6). -/
def hubFuses (s : State) : List Byte :=
  leBytes 8 s.hub.ident.toNat ++ leBytes 8 s.hub.fuseStacks.toNat ++ (List.range 4).flatMap (fun d => leBytes 8 (fuseWord s d))

def execGetFuseMap (b : Binding) (s : State) : Host.Outcome State Fault Refusal :=
  servedByFirmware s b Mctp.vendor 6 (fun s => vendor s b 6 (hubFuses s ++ (List.range 24).flatMap (stackFuses s)))

/-- The time constants of the three stages in microseconds (Table 14-1). -/
def stageTimes (n : Nat) : List Nat :=
  if n < 4 then [3000, 1000000, 20000000] else if n < 28 then [5000, 2000000, 30000000] else [2000, 1000000, 20000000]

/-- The calibration record: R in mK/W and τ in microseconds of each stage of each domain. -/
def calibrationBytes : List Byte :=
  (List.range 29).flatMap (fun n => ((stages n).zip (stageTimes n)).flatMap (fun e => leBytes 4 e.1.1 ++ leBytes 4 e.2))

def execGetCalibration (b : Binding) (s : State) : Host.Outcome State Fault Refusal :=
  servedByFirmware s b Mctp.vendor 7 (fun s => vendor s b 7 calibrationBytes)

end Sys2Proof.Machine
end

