-- ==== Sys2Proof/Machine/Update.lean ====
section
/-! DEFINITION. Firmware update (R413), live activation (R360, R414) and the end of flash operations (R375). -/

namespace Sys2Proof.Machine
open Sys2Proof

/-! ## The session -/

/-- A PLDM firmware-update response. -/
def fwReply (s : State) (b : Binding) (cmd : Nat) (code : BitVec 8) (body : List Byte) : State :=
  pldm s b 5 (BitVec.ofNat 8 cmd) code body

/-- A command of an update session: refused without a session or in another state, else carried out and answered. The binding
that brings it carries the session from then on (R421). -/
def sessionCmd (s : State) (b : Binding) (cmd : Nat) (states : List Nat) (k : State → State) : State :=
  if !s.mgt.session then fwReply s b cmd Cc.notInUpdate []
  else if !states.contains s.mgt.updateState.toNat then fwReply s b cmd Cc.invalidState []
  else k { s with mgt := { s.mgt with updateVia := b } }

/-- A command that goes on with the update: refused on a component that is not served. The cancelling ones are not, so that a session that
the ROM-resident services find can be given up (DEDUCED, log entry 81). -/
def inSession (s : State) (b : Binding) (cmd : Nat) (states : List Nat) (k : State → State) : State :=
  sessionCmd s b cmd states (fun t => if componentServed s then k t else fwReply s b cmd Cc.invalidState [])

def setUpdate (s : State) (state c : Nat) : State :=
  { s with mgt := { s.mgt with updateState := BitVec.ofNat 8 state, updateComponent := BitVec.ofNat 4 c } }

/-- The session is over. -/
def closeSession (s : State) : State :=
  setUpdate { s with mgt := { s.mgt with session := false, table := [], sessionPending := [] } } 0 0

def execQueryDeviceIdentifiers (b : Binding) (s : State) : Host.Outcome State Fault Refusal :=
  served s b (fun s => fwReply s b 0x01 Cc.success (leBytes 8 s.hub.ident.toNat))

/-- Of each component: its code, the version that runs, and the version that is pending, or 0. -/
def parameterBytes (s : State) (c : Nat) : List Byte :=
  leBytes 1 c ++ leBytes 4 (activeImage s c).version.toNat ++
    leBytes 4 (if (idleImage s c).pendingSlot then (idleImage s c).version.toNat else 0)

def execGetFirmwareParameters (b : Binding) (s : State) : Host.Outcome State Fault Refusal :=
  served s b (fun s => fwReply s b 0x02 Cc.success (((upFrom 1 6).filter (updatable s)).flatMap (parameterBytes s)))

def execRequestUpdate (b : Binding) (s : State) : Host.Outcome State Fault Refusal :=
  served s b (fun s =>
    if s.mgt.session then fwReply s b 0x10 Cc.inUpdate []
    else fwReply (setUpdate { s with mgt := { s.mgt with session := true, updateVia := b } } 1 0) b 0x10 Cc.success [])

def execPassComponentTable (b : Binding) (classifier : BitVec 16) (component : Nat) (s : State) : Host.Outcome State Fault Refusal :=
  served s b (fun s => inSession s b 0x13 [1] (fun s =>
    if classifier = 0xFFFF ∧ updatable s component then
      fwReply { s with mgt := { s.mgt with table := s.mgt.table.filter (· ≠ component) ++ [component] } } b 0x13 Cc.success []
    else fwReply s b 0x13 Cc.invalidData []))

/-- The erases of the slot: the model erases in blocks of 64 KiB (Table 16-10). -/
def erasesFor (size : Nat) : Nat := (size + 65535) / 65536

/-- UpdateComponent: the inactive slot is erased. -/
def beginComponent (s : State) (c size : Nat) : State :=
  let s := setUpdate (spoilIdle s c) 2 c
  askFlash { s with mgt := { s.mgt with
    imageSize := size, imageDone := 0, piece := 0, erasesLeft := erasesFor size,
    sessionPending := s.mgt.sessionPending.filter (· ≠ c) } } 1

def execUpdateComponent (b : Binding) (component size : Nat) (s : State) : Host.Outcome State Fault Refusal :=
  served s b (fun s => inSession s b 0x14 [1, 5] (fun s =>
    if s.mgt.table.contains component ∧ updatable s component ∧ 0 < size then
      fwReply (beginComponent s component size) b 0x14 Cc.success []
    else fwReply s b 0x14 Cc.invalidData []))

/-- The device asks for the next piece of the image. -/
def askPiece (s : State) : State :=
  let n := Nat.min 4096 (s.mgt.imageSize - s.mgt.imageDone)
  tell s s.mgt.updateVia Mctp.pldm 0x15 Cc.success (5 :: leBytes 4 s.mgt.imageDone ++ leBytes 4 n)

/-- Whether the download waits for a piece: the slot is erased, nothing runs or waits, and bytes are missing. -/
def wantsPiece (s : State) : Bool :=
  s.mgt.session && componentServed s && decide (s.mgt.updateState = 2 ∧ s.mgt.erasesLeft = 0 ∧ s.mgt.flashOp = 0 ∧ s.mgt.flashWant = 0) &&
    decide (s.mgt.imageDone < s.mgt.imageSize)

def execRequestFirmwareData (b : Binding) (bytes : Nat) (s : State) : Host.Outcome State Fault Refusal :=
  served s b (fun s =>
    if wantsPiece s ∧ 0 < bytes ∧ bytes ≤ Nat.min 4096 (s.mgt.imageSize - s.mgt.imageDone) then
      askFlash { s with mgt := { s.mgt with piece := bytes, updateVia := b } } 2
    else s)

/-- The component in progress is given up: its inactive slot stays invalid, and the table may name another. -/
def dropComponent (s : State) : State :=
  let s := spoilIdle s s.mgt.updateComponent.toNat
  setUpdate { s with
    mgt := { s.mgt with flashWant := 0, flashStale := decide (s.mgt.flashOp ≠ 0), erasesLeft := 0, piece := 0 },
    pwr := { s.pwr with flashHeld := false } } 1 0

/-- A flash operation of the component in progress has ended well; nothing more is asked for one that is not served (R411). -/
def flashDone (s : State) (op : Nat) : State :=
  if op = 1 then
    let s := { s with mgt := { s.mgt with erasesLeft := s.mgt.erasesLeft - 1 } }
    if !componentServed s then s else if s.mgt.erasesLeft = 0 then askPiece s else askFlash s 1
  else
    let s := { s with mgt := { s.mgt with imageDone := s.mgt.imageDone + s.mgt.piece, piece := 0 } }
    if componentServed s && decide (s.mgt.imageDone < s.mgt.imageSize) then askPiece s else s

def execFlashOperationEnd (ok : Bool) (address : BitVec 64) (s : State) : Host.Outcome State Fault Refusal :=
  .next (if s.mgt.flashOp = 0 then s
    else
      let op := s.mgt.flashOp
      let stale := s.mgt.flashStale
      let s := { s with mgt := { s.mgt with flashOp := 0, flashStale := false } }
      let s := if ok then s else logMgmt s 0x74 2 (op - 1) address.toNat
      if stale then tryFlash s
      else if ok then flashDone s op
      else dropComponent s)

def execTransferComplete (b : Binding) (s : State) : Host.Outcome State Fault Refusal :=
  served s b (fun s =>
    if s.mgt.session ∧ componentServed s ∧ s.mgt.updateState = 2 ∧ s.mgt.flashOp = 0 ∧ s.mgt.flashWant = 0 ∧ 0 < s.mgt.imageSize ∧
        s.mgt.imageDone = s.mgt.imageSize then
      reply (setUpdate s 3 s.mgt.updateComponent.toNat) b Mctp.pldm 0x16 Cc.success [5]
    else s)

/-- Whether an image passes R410. -/
def imageTrusted (s : State) (c : Nat) (svn : BitVec 8) (sigOk : Bool) : Bool :=
  sigOk && decide (tget 0 s.mgt.svnCounter c ≤ svn)

/-- The verification of the written slot. -/
def verifySlot (s : State) (c : Nat) (version : BitVec 32) (svn : BitVec 8) (sigOk : Bool) : State :=
  let ok := imageTrusted s c svn sigOk
  let s := modIdle s c (fun _ => { version := version, svn := svn, valid := ok, content := s.freeCtr + 1 })
  let s := { s with freeCtr := s.freeCtr + 1 }
  if ok then logMgmt (setUpdate s 4 c) 0x71 0 c version.toNat else setUpdate s 1 0

def execVerifyComplete (b : Binding) (version : BitVec 32) (svn : BitVec 8) (sigOk : Bool) (s : State) :
    Host.Outcome State Fault Refusal :=
  served s b (fun s =>
    if s.mgt.session ∧ componentServed s ∧ s.mgt.updateState = 3 then
      let c := s.mgt.updateComponent.toNat
      reply (verifySlot s c version svn sigOk) b Mctp.pldm 0x17 Cc.success [5, BitVec.ofNat 8 (b2n (!imageTrusted s c svn sigOk))]
    else s)

def execApplyComplete (b : Binding) (s : State) : Host.Outcome State Fault Refusal :=
  served s b (fun s =>
    if s.mgt.session ∧ componentServed s ∧ s.mgt.updateState = 4 then reply (askFlash s 3) b Mctp.pldm 0x18 Cc.success [5] else s)

/-- The state of the update: UPDATE_STATE, the component and the bytes programmed. -/
def execGetStatus (b : Binding) (s : State) : Host.Outcome State Fault Refusal :=
  served s b (fun s =>
    fwReply s b 0x1B Cc.success ([s.mgt.updateState, s.mgt.updateComponent.setWidth 8] ++ leBytes 4 s.mgt.imageDone))

def execCancelUpdateComponent (b : Binding) (s : State) : Host.Outcome State Fault Refusal :=
  served s b (fun s => sessionCmd s b 0x1C [2, 3, 4, 7] (fun s => fwReply (dropComponent s) b 0x1C Cc.success []))

/-- The whole update is cancelled: every slot that it has written stays invalid. -/
def cancelAll (s : State) : State :=
  let s := s.mgt.sessionPending.foldl spoilIdle s
  closeSession (if s.mgt.updateComponent = 0 then s else dropComponent s)

def execCancelUpdate (b : Binding) (s : State) : Host.Outcome State Fault Refusal :=
  served s b (fun s => sessionCmd s b 0x1D [1, 2, 3, 4, 5, 7] (fun s => fwReply (cancelAll s) b 0x1D Cc.success []))

/-! ## Live activation (R360, R414) -/

/-- The units of a component (Table 13-11). -/
def unitsOf (c : Nat) : Nat :=
  match c with
  | 2 => 4
  | 3 => 24
  | 4 => 24
  | 5 => 24
  | _ => 1

/-- The unit that an activation event names: the hub, a die or a stack (Table 13-4); a link is named by its die. -/
def unitKind (c : Nat) : Nat :=
  match c with
  | 2 => 1
  | 3 => 5
  | 4 => 1
  | 5 => 5
  | _ => 0

def unitIndex (c u : Nat) : Nat :=
  match c with
  | 2 => u
  | 3 => u
  | 4 => u / 6
  | 5 => u
  | _ => 0

/-- The components with a pending slot, in the order of their codes. -/
def pendingComponents (s : State) : List Nat := (upFrom 1 6).filter (fun c => (idleImage s c).pendingSlot && updatable s c)

/-- The SerDes tables of a link are applied by RECAL (R341). -/
def recalLink (s : State) (i : Nat) : State := if linkUsable (lnk s i) then drainLink s i false else s

/-- The channels of a stack that have not got their new tables. -/
def channelsLeft (s : State) (i : Nat) : List Nat :=
  if stackPresent s i then (activeChannels (stk s i)).filter (fun h => decide (s.mgt.channel ≤ h)) else []

/-- The next channel of the running stack is retrained for its tables, once no other retrain and no spare copy runs there (R361). -/
def startChannel (s : State) : State :=
  let i := s.mgt.unit
  match channelsLeft s i with
  | h :: _ =>
    if (stk s i).retrainBusy || (stk s i).sparing.isSome || !dieServes s i then s
    else modStk { s with mgt := { s.mgt with channel := h, channelRuns := true, unitSince := now s } } i (fun st => { st with
      retrainBusy := true, retrainHeld := BitVec.ofNat 6 h })
  | [] => s

/-- A unit begins to activate. -/
def startUnit (s : State) (u : Nat) : State :=
  let s := { s with mgt := { s.mgt with unit := u, unitSince := now s, channel := 0, channelRuns := false } }
  if s.mgt.activating.head? = some 4 then recalLink s u
  else if s.mgt.activating.head? = some 5 then startChannel s
  else s

/-- Whether the running unit waits for another part of the package: its domain to serve again (R365), or its stack to be free of another
retrain or a spare copy. -/
def unitWaits (s : State) : Bool :=
  (activationDomain s.mgt).any (fun e => inReset s e.1 e.2) ||
    (decide (s.mgt.activating.head? = some 5) && !s.mgt.channelRuns && !(channelsLeft s s.mgt.unit).isEmpty)

/-- A retrain for new tables has ended: the channel is done. -/
def endChannel (s : State) : State :=
  if s.mgt.channelRuns && !(stk s s.mgt.unit).retrainBusy then
    { s with mgt := { s.mgt with channel := s.mgt.channel + 1, channelRuns := false } }
  else s

/-- The activation of the first component of the list begins; with none left the session is over. -/
def startComponent (s : State) : State :=
  match s.mgt.activating with
  | c :: _ => startUnit (setUpdate { s with mgt := { s.mgt with unitDone := [] } } 6 c) 0
  | [] => closeSession { s with mgt := { s.mgt with unit := 0, unitDone := [] } }

/-- UPDATE_STATE in which an activation may be asked for: with a slot pending, or back at the table after a component was given up or
failed its verification while an earlier one is pending (R413). -/
def activateStates (s : State) : List Nat := if pendingComponents s = [] then [5] else [1, 5]

def execActivateFirmware (b : Binding) (selfContained : Bool) (s : State) : Host.Outcome State Fault Refusal :=
  served s b (fun s => inSession s b 0x1A (activateStates s) (fun s =>
    let s := fwReply s b 0x1A Cc.success []
    if selfContained then startComponent { s with mgt := { s.mgt with activating := pendingComponents s } }
    else closeSession s))

/-- Whether the running unit can report ready: its domain is not in a reset, its work has paused, its links have retrained. -/
def unitQuiet (s : State) (c u : Nat) : Bool :=
  match c with
  | 1 => !inReset s Dom.warm 0
  | 2 => !inReset s Dom.die u
  | 3 => !inReset s Dom.stack u && (stk s u).running.isNone
  | 4 => decide ((lnk s u).draining = none ∧ (lnk s u).state ≠ .training)
  | 5 => !inReset s Dom.stack u && !(stk s u).retrainBusy
  | _ => true

/-- UPDATE_ACTIVATED of one unit. -/
def logActivated (c : Nat) (s : State) (u : Nat) : State :=
  logEvent s Cls.updateActivated 0 0 (unitKind c) (unitIndex c u) c (activeImage s c).version.toNat

/-- The doorbells that were latched are acted on, and held completions are written (Table 13-11). -/
def resumeHub (s : State) : State := (List.range 64).foldl drainRing (ringLatched (ringLatched s .a) .b)

/-- Every unit of a component runs on its new image: the slot becomes active in the directory. -/
def finishComponent (s : State) (c : Nat) : State :=
  let s := modIdle s c (fun x => { x with pendingSlot := false })
  let s := { s with mgt := { s.mgt with
    activeB := tset false s.mgt.activeB c (!runsB s c), activating := s.mgt.activating.drop 1,
    sessionPending := s.mgt.sessionPending.filter (· ≠ c) } }
  let s := if c = 1 then { s with hub := { s.hub with fwImageB := runsB s 1 } } else s
  let s := (List.range (unitsOf c)).foldl (logActivated c) s
  let s := if c = 1 then resumeHub s else s
  advanceSvn s c

def execActivationReady (s : State) : Host.Outcome State Fault Refusal :=
  .next (match s.mgt.activating with
    | c :: _ =>
      let s := if c = 5 ∧ !unitWaits s then endChannel s else s
      let u := s.mgt.unit
      if c = 5 ∧ (s.mgt.channelRuns ∨ channelsLeft s u ≠ []) then (if s.mgt.channelRuns then s else startChannel s)
      else if unitQuiet s c u then
        let s := { s with mgt := { s.mgt with unitDone := s.mgt.unitDone ++ [u] } }
        if u + 1 < unitsOf c then startUnit s (u + 1) else startComponent (finishComponent s c)
      else s
    | [] => s)

/-- The time in which a unit must be ready, in nanoseconds (Table 13-11, R414); for stack interface tables, a channel. -/
def readyWithin (c : Nat) : Nat :=
  match c with
  | 1 => 2000000000
  | 2 => 100000
  | 3 => 200000
  | 4 => 100000000
  | 5 => 100000
  | _ => 500000000

/-- A unit has failed: the units before it return to the old image, the slot is invalid, and UPDATE_FAILED is logged once. -/
def failComponent (s : State) (c : Nat) : State :=
  let version := (idleImage s c).version.toNat
  let s := if c = 4 then s.mgt.unitDone.foldl recalLink s else s
  let s := { spoilIdle s c with mgt := { (spoilIdle s c).mgt with
    activating := s.mgt.activating.drop 1, sessionPending := s.mgt.sessionPending.filter (· ≠ c) } }
  let s := logEvent s Cls.updateFailed 1 0 (unitKind c) (unitIndex c s.mgt.unit) c version
  if c = 1 then resumeHub s else s

def execActivationTimeout (s : State) : Host.Outcome State Fault Refusal :=
  .next (match s.mgt.activating with
    | c :: _ =>
      if !unitWaits s ∧ s.mgt.unitSince + readyWithin c ≤ now s then startComponent (failComponent s c) else s
    | [] => s)

end Sys2Proof.Machine
end

