-- ==== Sys2Proof/Machine/Spdm.lean ====
section
/-! DEFINITION. Attestation (R416, Table 16-7): the SPDM responder. Message layouts and error codes are those of SPDM 1.3
(PRESUMED, log entry 28); digests, certificates and signatures are open values (R12). -/

namespace Sys2Proof.Machine
open Sys2Proof

/-- A response; an error response carries SPDM's error code. -/
def spdm (s : State) (b : Binding) (cmd : BitVec 8) (body : List Byte) : State := reply s b Mctp.spdm cmd Cc.success body
def spdmError (s : State) (b : Binding) (cmd : BitVec 8) : State := reply s b Mctp.spdm cmd 1 []

/-- The SHA-384 digest of a document. -/
def digest (doc : List Byte) : List Byte := (List.range 48).map (Config.digestByte doc)

/-- The device identity chain. -/
def chain : List Byte := identity 2 Config.chainLength

/-- Version 1.3 alone. -/
def execGetVersion (b : Binding) (s : State) : Host.Outcome State Fault Refusal :=
  served s b (fun s => spdm s b 0x84 [1, 0x00, 0x13])

/-- CERT_CAP, CHAL_CAP, MEAS_CAP with signatures and MEAS_FRESH_CAP. -/
def execGetCapabilities (b : Binding) (s : State) : Host.Outcome State Fault Refusal :=
  served s b (fun s => spdm s b 0xE1 (leBytes 4 0x36))

/-- ECDSA with NIST P-384 and SHA-384. -/
def execNegotiateAlgorithms (b : Binding) (s : State) : Host.Outcome State Fault Refusal :=
  served s b (fun s => spdm s b 0xE3 (leBytes 4 0x80 ++ leBytes 4 0x02))

/-- Slot 0 alone holds a chain. -/
def execGetDigests (b : Binding) (s : State) : Host.Outcome State Fault Refusal :=
  served s b (fun s => spdm s b 0x81 (1 :: digest chain))

/-- A portion of the chain and how much is left behind it. -/
def execGetCertificate (b : Binding) (slot offset length : Nat) (s : State) : Host.Outcome State Fault Refusal :=
  served s b (fun s =>
    if slot = 0 ∧ offset < Config.chainLength then
      let part := (chain.drop offset).take length
      spdm s b 0x82 (0 :: leBytes 2 part.length ++ leBytes 2 (Config.chainLength - offset - part.length) ++ part)
    else spdmError s b 0x82)

/-- A nonce of the device and a signature by its identity key, which nothing determines. -/
def signature (s : State) : List Byte × State := freeBytes s (32 + 96)

def execChallenge (b : Binding) (slot : Nat) (_nonce : List Byte) (s : State) : Host.Outcome State Fault Refusal :=
  served s b (fun s =>
    if slot = 0 then
      let (sig, s) := signature s
      spdm s b 0x83 (0 :: digest chain ++ sig)
    else spdmError s b 0x83)

/-! ## Measurements (Table 16-7) -/

/-- What an image slot of a component holds, as a document. -/
def imageDoc (s : State) (c : Nat) : List Byte := BitVec.ofNat 8 c :: BitVec.ofNat 8 (b2n (runsB s c)) :: leBytes 8 (activeImage s c).content

/-- The registers of a locked `PART` block. -/
def partDoc (p : Part) : List Byte :=
  ((List.range 32).map (8 * ·)).flatMap (fun o => if partHas o then leBytes 8 (partWord p o) else [])

/-- The configuration: `HUB.LOCK`, `HUB.MODE` and every locked `PART` block in partition order. -/
def configDoc (s : State) : List Byte :=
  leBytes 8 (lockWord s.hub) ++ leBytes 8 s.hub.mode.toNat ++
    ((List.range 16).filter (fun q => (prt s q).locked)).flatMap (fun q => partDoc (prt s q))

/-- The anti-rollback counters of components 1 to 6. -/
def countersDoc (s : State) : List Byte := (upFrom 1 6).map (fun c => tget 0 s.mgt.svnCounter c)

/-- The value of a measurement block, 1 to 10. -/
def measurement (s : State) (k : Nat) : List Byte :=
  if k = 1 then digest (identity 3 32)
  else if k ≤ 7 then digest (imageDoc s (k - 1)) ++ leBytes 4 (activeImage s (k - 1)).version.toNat
  else if k = 8 then digest (hubFuses s)
  else if k = 9 then digest (countersDoc s)
  else digest (configDoc s)

/-- A block with its index and length. -/
def measurementBlock (s : State) (k : Nat) : List Byte := leBytes 1 k ++ leBytes 2 (measurement s k).length ++ measurement s k

/-- The blocks that a request names: 0 their number alone, 0xFF all of them. -/
def measurementBody (s : State) (index : Nat) : Option (List Byte) :=
  if index = 0 then some [10]
  else if index ≤ 10 then some (1 :: measurementBlock s index)
  else if index = 0xFF then some (10 :: (upFrom 1 10).flatMap (measurementBlock s))
  else none

def execGetMeasurements (b : Binding) (index : Nat) (signed : Bool) (_nonce : List Byte) (s : State) :
    Host.Outcome State Fault Refusal :=
  served s b (fun s =>
    match measurementBody s index with
    | none => spdmError s b 0xE0
    | some body =>
      if signed then
        let (sig, s) := signature s
        spdm s b 0xE0 (body ++ sig)
      else spdm s b 0xE0 body)

end Sys2Proof.Machine
end

