-- ==== Sys2Proof/Machine/Module.lean ====
section
/-! DEFINITION. The module (spec/17): power and bring-up (R404, R427 to R429), secure boot (R411), cables (R426), and boundary
scan (R418, R433). -/

namespace Sys2Proof.Machine
open Sys2Proof

/-! ## Secure boot (R410, R411) -/

/-- Whether a slot fails its verification: its image is bad, the slot was left invalid, or its SVN is behind the fuses. -/
def slotBad (s : State) (bad : List Nat) (c : Nat) (b : Bool) : Bool :=
  bad.contains (2 * c + b2n b) || !(imageAt s c b).valid || decide ((imageAt s c b).svn < tget 0 s.mgt.svnCounter c)

def markBad (s : State) (c : Nat) (b : Bool) : State := modImage s c b (fun x => { x with valid := false, pendingSlot := false })

def setBootErr (s : State) (code : Nat) : State := { s with hub := { s.hub with bootErr := BitVec.ofNat 8 code } }

/-- The other slot of a component is booted in place of the active one, with its event. -/
def fallBack (s : State) (c : Nat) : State :=
  let s := setBootErr (markBad s c (runsB s c)) c
  let s := { s with mgt := { s.mgt with activeB := tset false s.mgt.activeB c (!runsB s c) } }
  logMgmt s 0x70 2 c (activeImage s c).version.toNat

/-- The images of one component are selected. -/
def bootComponent (bad : List Nat) (s : State) (c : Nat) : State :=
  let b := runsB s c
  if !slotBad s bad c b then s
  else if !slotBad s bad c (!b) then fallBack s c
  else
    let s := setBootErr (markBad (markBad s c b) c (!b)) (0x10 + c)
    { s with hub := { s.hub with stage := .fault, romOnly := s.hub.romOnly || decide (c = 1) } }

/-- The calibration record, component 0x0F, is verified (R410, R411). -/
def bootCalibration (s : State) (calBad : Bool) : State :=
  let s := modImage { s with mgt := { s.mgt with calBad := calBad } } 0xF false (fun x => { x with valid := !calBad })
  if calBad then setBootErr s 0x21 else s

/-- Hub firmware start: RECOVERY after a fallback of the hub firmware, else START-UP (Table 15-6). -/
def startFirmware (s : State) (calBad : Bool) (bad : List Nat) : State :=
  let fell := slotBad s bad 1 (runsB s 1)
  let s := (upFrom 1 6).foldl (bootComponent bad) s
  bootCalibration { s with hub := { s.hub with
    fallback := fell, fwImageB := runsB s 1, mode := if fell then 3 else 0 } } calBad

/-- Whether the hub firmware starts: after the auxiliary rail, or in a package warm reset. -/
def booting (s : State) : Bool := s.hub.auxOn && (decide (s.hub.stage = .reset) || inReset s Dom.warm 0)

/-- A bad slot 0 or 1, which no component has, stands for a flash that is not found (Table 16-6). -/
def noFlash (bad : List Nat) : Bool := bad.contains 0 || bad.contains 1

/-- The images are selected: STAGE reads AUX_READY, or FAULT. -/
def bootEnd (s : State) (bad : List Nat) (calBad : Bool) : State :=
  let s := { s with hub := { s.hub with stage := .auxReady, bootErr := 0, romOnly := false } }
  if noFlash bad then setBootErr { s with hub := { s.hub with stage := .fault, romOnly := true } } 0x20
  else if slotBad s bad 1 false && slotBad s bad 1 true then bootComponent bad s 1
  else startFirmware s calBad bad

/-- Reads of the flash that failed during the boot are logged (R419). -/
def logReads (s : State) (addresses : List (BitVec 64)) : State := addresses.foldl (fun s a => logMgmt s 0x74 2 2 a.toNat) s

def execFirmwareBootEnd (badSlots : List Nat) (reads : BootReads) (s : State) : Host.Outcome State Fault Refusal :=
  .next (if booting s then bootEnd (logReads s reads.errors) badSlots reads.calBad else s)

/-! ## The rails (R427 to R429) -/

/-- The auxiliary rail comes within its range (R404, R433). -/
def execAuxPowerUp (addrSel : BitVec 2) (s : State) : Host.Outcome State Fault Refusal :=
  .next (if s.hub.auxOn then s
    else { s with
      time := 0,
      hub := { s.hub with auxOn := true, straps := addrSel, stage := .reset },
      mgt := { s.mgt with smbusAddr := 0x4C + addrSel.setWidth 7 } })

/-- The supply pins as they stand now. -/
def setSupply (s : State) (millivolts : Nat) (pwrEn : Bool) : State :=
  { s with hub := { s.hub with millivolts := millivolts, pwrEn := pwrEn } }

/-- Whether the hot-swap controller may switch the main rails on (R427); STAGE reads AUX_READY in a package warm reset too (R404). -/
def mainMayOn (s : State) : Bool :=
  s.hub.auxOn && decide (s.hub.stage = .auxReady) && s.hub.pwrEn && decide (40000 ≤ s.hub.millivolts ∧ s.hub.millivolts ≤ 59500)

def execMainPowerOn (millivolts : Nat) (pwrEn : Bool) (s : State) : Host.Outcome State Fault Refusal :=
  .next (if s.hub.mainPg then s
    else
      let s := setSupply s millivolts pwrEn
      if mainMayOn s then { s with hub := { s.hub with mainPg := true } } else s)

/-- Whether a write hold-off keeps the zero fill of a present stack from ending (R86). -/
def fillHeld (s : State) (i : Nat) : Bool := stackPresent s i && (stk s i).initBusy && (stk s i).writeHold

/-- Training and zero fill have ended (Table 3-17), or a stack or die edge has failed training (R404). DEDUCED: without hub firmware nothing
trains them (R411, log entry 122). -/
def execMainReady (trainErr : BitVec 8) (s : State) : Host.Outcome State Fault Refusal :=
  .next (if s.hub.mainPg && decide (s.hub.stage = .auxReady) && !s.hub.romOnly && !inReset s Dom.warm 0 then
      if trainErr = 0 then
        if (List.range 24).any (fillHeld s) then s
        else
        let s := (List.range 24).foldl (fun s i => modStk s i (fun st => { st with initBusy := false })) s
        tapGate { s with hub := { s.hub with stage := .mainReady, trained := true } }
      else { s with hub := { s.hub with stage := .fault, bootErr := trainErr } }
    else s)

/-- A stack as package cold leaves it: the repair record alone stays (Table 13-6). -/
def coldStack (st : Stack) : Stack := { chAbsent := st.chAbsent }

/-- A port as package cold leaves it: its host's memory and its PERST# pin are the outside's. -/
def coldPort (p : Port) : Port := { mem := p.mem, badLines := p.badLines, perst := p.perst }

/-- A link as package cold leaves it. -/
def coldLink (l : Link) : Link := { cableHigh := l.cableHigh }

/-- What the controller keeps at a main-power loss: it runs on; domains that lost their state are no longer in SHUTDOWN. -/
def keptDomain (n : Nat) (d : Domain) : Domain := if n < 28 then { d with down := false, state := stateOf { d with down := false } } else d

/-- What a main-power loss leaves (R428): only the always-on part keeps its state, and STAGE returns to AUX_READY. DEDUCED: it starts no hub
firmware: where none runs the ROM-resident services alone go on (`romOnly`, R411), and a package warm reset under way still selects its images
(log entry 122). -/
def lostState (s : State) : State :=
  let s := dropLink (dropLink s .a) .b
  let s := advanceAll s Dom.warm 0
  let h := s.hub
  let kept : Hub := {
    ident := h.ident, fuseStacks := h.fuseStacks, fusedOff := h.fusedOff, mode := if h.fallback then 3 else 0, bootErr := h.bootErr,
    fwImageB := h.fwImageB, fallback := h.fallback, stage := .auxReady, romOnly := h.romOnly, auxOn := true, millivolts := h.millivolts, pwrEn := h.pwrEn,
    straps := h.straps, thermtrip := (dom s 28).down }
  let rst : Rst := {
    warmCause := s.rst.warmCause, staleDrops := s.rst.staleDrops, alive := s.rst.alive, pathUe := s.rst.pathUe,
    pathCe := s.rst.pathCe, rcUe := s.rst.rcUe, rcCe := s.rst.rcCe, epochs := s.rst.epochs, fatal := s.rst.fatal,
    resetting := s.rst.resetting.filter (fun r => decide (r.domain = Dom.warm)) }
  { s with
    hub := kept, portA := coldPort s.portA, portB := coldPort s.portB, rst := rst,
    pwr := { warmPwr s.pwr with fuseHeld := s.pwr.fuseHeld.filter (fun n => decide (n < 4 ∨ 28 ≤ n)), domains := (s.pwr.domains.map (fun e => (e.1, keptDomain e.1 e.2))).filter (fun e => decide (e.2 ≠ {})) },
    fst := { sysOffset := s.fst.sysOffset, everLocked := s.fst.everLocked }, mgt := warmMgt s.mgt,
    links := tmapAll {} (fun l => { coldLink l with epoch := l.epoch }) s.links,
    rings := [], parts := [], walkers := [], regions := [], clusters := [],
    stackTab := tmapAll {} coldStack s.stackTab, graphs := [], tasks := [], steps := [], admitQueue := [],
    dram := [], spad := [], bbuf := [], pegs := [] }

/-- A main-power loss; a boundary-scan instruction drives its pins again from then on (R418). -/
def mainLoss (s : State) : State := tapGate (lostState s)

/-- The main rails switch off when PWR_EN falls, or the input leaves 38 V to 61 V (Table 17-5). -/
def execMainPowerLoss (millivolts : Nat) (pwrEn : Bool) (s : State) : Host.Outcome State Fault Refusal :=
  .next (if s.hub.mainPg && (!pwrEn || decide (millivolts < 38000 ∨ 61000 < millivolts)) then
      mainLoss (setSupply s millivolts pwrEn)
    else s)

/-- A dip of the input between 38 V and 40 V has lasted more than 10 ms (Table 17-5). -/
def execMainInputDipTimeout (millivolts : Nat) (s : State) : Host.Outcome State Fault Refusal :=
  .next (if s.hub.mainPg && decide (38000 ≤ millivolts ∧ millivolts < 40000) then mainLoss (setSupply s millivolts s.hub.pwrEn) else s)

/-- Package cold (R429): fuses, repair records, the flash and the outside stay. -/
def coldState (s : State) : State :=
  let r := State.reset
  { r with
    pending := s.pending,
    hub := { r.hub with ident := s.hub.ident, fuseStacks := s.hub.fuseStacks, fusedOff := s.hub.fusedOff,
                        millivolts := s.hub.millivolts, pwrEn := s.hub.pwrEn },
    portA := coldPort s.portA, portB := coldPort s.portB,
    mgt := { r.mgt with images := s.mgt.images, activeB := s.mgt.activeB, svnCounter := s.mgt.svnCounter,
                        svnUsed := s.mgt.svnUsed, tapReset := s.mgt.tapReset },
    links := tmapAll {} coldLink s.links,
    stackTab := tmapAll {} coldStack s.stackTab,
    out := s.out, freeCtr := s.freeCtr }

def execAuxPowerLoss (s : State) : Host.Outcome State Fault Refusal := .next (if s.hub.auxOn then coldState s else s)

/-! ## Cables (R426) -/

/-- A connector without a cable does not train, and logs no LINK_TRAIN_FAIL. -/
def unplugged (s : State) (i : Nat) : State :=
  if (lnk s i).state = .training then modLnk s i (fun l => { l with state := .down, laneMask := 0 }) else s

/-- A cable lets the link train. -/
def plugged (s : State) (i : Nat) : State :=
  let s := modLnk s i (fun l => { l with failures := 0 })
  if (lnk s i).state = .down ∧ mayTrain s i then beginTraining s i else s

def execCablePresenceChange (link : Nat) (high : Bool) (s : State) : Host.Outcome State Fault Refusal :=
  .next (if link < 24 then
      let s := modLnk s link (fun l => { l with cableHigh := high })
      if high then unplugged s link else plugged s link
    else s)

/-! ## Boundary scan (R418, R433) -/

-- The instructions, as `Config.tapCode` numbers them.
namespace Tap
def idcode : Nat := 0
def bypass : Nat := 1
def sample : Nat := 2
def extest : Nat := 3
def clamp : Nat := 4
def highz : Nat := 5
end Tap

/-- TRST# low holds the TAP controller in reset: it drives nothing. -/
def execTrstAssert (s : State) : Host.Outcome State Fault Refusal :=
  let s := letGo s
  .next { s with mgt := { s.mgt with tapReset := true, tapInstr := Config.tapCode Tap.idcode, tapWants := .normal } }

def execTrstDeassert (s : State) : Host.Outcome State Fault Refusal := .next { s with mgt := { s.mgt with tapReset := false } }

/-- An instruction is loaded, where the TAP controller runs: the auxiliary rail is on and TRST# is high. -/
def loadTap (s : State) (k : Nat) (f : State → State) : Host.Outcome State Fault Refusal :=
  .next (if s.hub.auxOn && !s.mgt.tapReset then
      f { s with mgt := { s.mgt with tapInstr := Config.tapCode k, tapWants := .normal, tapRefused := false } }
    else s)

/-- The IDCODE register. -/
def idcodeWord (h : Hub) : Nat := fld h.ident.toNat 39 36 * 2 ^ 28 + fld h.ident.toNat 63 48 * 2 ^ 12 + 0x5A3 * 2 + 1

def execIdcode (s : State) : Host.Outcome State Fault Refusal :=
  loadTap s Tap.idcode (fun s => emit (letGo s) (.tap (Config.tapCode Tap.idcode) (BitVec.ofNat 64 (idcodeWord s.hub))))

/-- The bypass register: one bit, which reads 0 first. -/
def giveBypass (s : State) (k : Nat) : State := emit s (.tap (Config.tapCode k) 0)

def execBypass (s : State) : Host.Outcome State Fault Refusal := loadTap s Tap.bypass (fun s => giveBypass (letGo s) Tap.bypass)

/-- The boundary register takes what is sampled or shifted in. -/
def execSamplePreload (pins : List Bool) (s : State) : Host.Outcome State Fault Refusal :=
  loadTap s Tap.sample (fun s =>
    let s := letGo s
    { s with mgt := { s.mgt with boundary := boundaryBits pins } })

/-- An instruction that drives or floats the pins; where it may not, it acts as BYPASS, with TAP_REFUSED once per load. -/
def loadDriving (s : State) (k : Nat) (drive : PinDrive) : Host.Outcome State Fault Refusal :=
  loadTap s k (fun s =>
    let s := { s with mgt := { s.mgt with tapWants := drive } }
    if tapAllowed s then drivePins s else giveBypass (refuseTap s) k)

def execExtest (s : State) : Host.Outcome State Fault Refusal := loadDriving s Tap.extest .levels
def execClamp (s : State) : Host.Outcome State Fault Refusal := loadDriving s Tap.clamp .levels
def execHighz (s : State) : Host.Outcome State Fault Refusal := loadDriving s Tap.highz .floating

end Sys2Proof.Machine
end

