-- ==== Sys2Proof/Machine/Dispatch.lean ====
section
/-! DEFINITION. The dispatch: one arm per command, each one direct call of its meaning. -/

namespace Sys2Proof.Machine
open Sys2Proof

/-- The effect of a command on everything but the queue. -/
def exec (i : Instr) (s : State) : Host.Outcome State Fault Refusal :=
  match i with
  | .auxPowerUp addrSel => Sys2Proof.Machine.execAuxPowerUp addrSel s
  | .firmwareBootEnd badSlots reads => Sys2Proof.Machine.execFirmwareBootEnd badSlots reads s
  | .mainPowerOn millivolts pwrEn => Sys2Proof.Machine.execMainPowerOn millivolts pwrEn s
  | .mainReady trainErr => Sys2Proof.Machine.execMainReady trainErr s
  | .mainPowerLoss millivolts pwrEn => Sys2Proof.Machine.execMainPowerLoss millivolts pwrEn s
  | .mainInputDipTimeout millivolts => Sys2Proof.Machine.execMainInputDipTimeout millivolts s
  | .auxPowerLoss => Sys2Proof.Machine.execAuxPowerLoss s
  | .perstAssert p => Sys2Proof.Machine.execPerstAssert p s
  | .perstDeassert p => Sys2Proof.Machine.execPerstDeassert p s
  | .cablePresenceChange link high => Sys2Proof.Machine.execCablePresenceChange link high s
  | .trstAssert => Sys2Proof.Machine.execTrstAssert s
  | .hostLinkDown p => Sys2Proof.Machine.execHostLinkDown p s
  | .hostLinkUp p => Sys2Proof.Machine.execHostLinkUp p s
  | .hostD3hotEntry p => Sys2Proof.Machine.execHostD3hotEntry p s
  | .heartbeatWrite p value => Sys2Proof.Machine.execHeartbeatWrite p value s
  | .heartbeatLapse p => Sys2Proof.Machine.execHeartbeatLapse p s
  | .hubAliveTick => Sys2Proof.Machine.execHubAliveTick s
  | .registerWrite p off size value => Sys2Proof.Machine.execRegisterWrite p off size value s
  | .portViseClaim p code => Sys2Proof.Machine.execPortViseClaim p code s
  | .portViseRelease p => Sys2Proof.Machine.execPortViseRelease p s
  | .lockHost p => Sys2Proof.Machine.execLockHost p s
  | .lockRings p => Sys2Proof.Machine.execLockRings p s
  | .lockFabric p => Sys2Proof.Machine.execLockFabric p s
  | .lockReset p => Sys2Proof.Machine.execLockReset p s
  | .modeWrite p mode => Sys2Proof.Machine.execModeWrite p mode s
  | .partitionLock p part value => Sys2Proof.Machine.execPartitionLock p part value s
  | .partitionLockDone part env => Sys2Proof.Machine.execPartitionLockDone part env s
  | .ringConfigWrite p ring value => Sys2Proof.Machine.execRingConfigWrite p ring value s
  | .msixUnmask p what => Sys2Proof.Machine.execMsixUnmask p what s
  | .bar4Read p off size env => Sys2Proof.Machine.execBar4Read p off size env s
  | .bar4Write p off data env => Sys2Proof.Machine.execBar4Write p off data env s
  | .evtHeadWrite p value => Sys2Proof.Machine.execEvtHeadWrite p value s
  | .sqTail p ring value => Sys2Proof.Machine.execSqTail p ring value s
  | .cqHead p ring value => Sys2Proof.Machine.execCqHead p ring value s
  | .start p ring => Sys2Proof.Machine.execStart p ring s
  | .stop p ring => Sys2Proof.Machine.execStop p ring s
  | .abort p ring => Sys2Proof.Machine.execAbort p ring s
  | .graphFetch ring env => Sys2Proof.Machine.execGraphFetch ring env s
  | .graphEnter ring => Sys2Proof.Machine.execGraphEnter ring s
  | .stepAdmission graph env => Sys2Proof.Machine.execStepAdmission graph env s
  | .swapCopyEnd part seq env => Sys2Proof.Machine.execSwapCopyEnd part seq env s
  | .taskPlace task => Sys2Proof.Machine.execTaskPlace task s
  | .releaseAll p d => Sys2Proof.Machine.execReleaseAll p d s
  | .jigTaskStart cl env => Sys2Proof.Machine.execJigTaskStart cl env s
  | .benchTaskActivate k env => Sys2Proof.Machine.execBenchTaskActivate k env s
  | .layoutChainStart region env => Sys2Proof.Machine.execLayoutChainStart region env s
  | .maintTaskStart k env => Sys2Proof.Machine.execMaintTaskStart k env s
  | .taskComplete task env => Sys2Proof.Machine.execTaskComplete task env s
  | .taskTimeLimit task => Sys2Proof.Machine.execTaskTimeLimit task s
  | .waitLimit task => Sys2Proof.Machine.execWaitLimit task s
  | .hostFlushReadComplete p => Sys2Proof.Machine.execHostFlushReadComplete p s
  | .bundleExecute cl j env => Sys2Proof.Machine.execBundleExecute cl j env s
  | .jigHaltReq p cl j => Sys2Proof.Machine.execJigHaltReq p cl j s
  | .jigResume p cl j => Sys2Proof.Machine.execJigResume p cl j s
  | .jigStep p cl j env => Sys2Proof.Machine.execJigStep p cl j env s
  | .jigDbgDataWrite p cl j value => Sys2Proof.Machine.execJigDbgDataWrite p cl j value s
  | .pressOpStart cl press env => Sys2Proof.Machine.execPressOpStart cl press env s
  | .pressOpRetire cl press => Sys2Proof.Machine.execPressOpRetire cl press s
  | .notePush cl press => Sys2Proof.Machine.execNotePush cl press s
  | .shimLoadStop cl press => Sys2Proof.Machine.execShimLoadStop cl press s
  | .benchOperationStart k env => Sys2Proof.Machine.execBenchOperationStart k env s
  | .benchOperationEnd k env => Sys2Proof.Machine.execBenchOperationEnd k env s
  | .layoutCallEnd region env => Sys2Proof.Machine.execLayoutCallEnd region env s
  | .stackModeWrite p k sharded => Sys2Proof.Machine.execStackModeWrite p k sharded s
  | .stackConfigLock p k => Sys2Proof.Machine.execStackConfigLock p k s
  | .stackFillEnd k => Sys2Proof.Machine.execStackFillEnd k s
  | .retrain p k value => Sys2Proof.Machine.execRetrain p k value s
  | .retrainEnd k repaired => Sys2Proof.Machine.execRetrainEnd k repaired s
  | .maintTaskEnd k => Sys2Proof.Machine.execMaintTaskEnd k s
  | .conversionResume k env => Sys2Proof.Machine.execConversionResume k env s
  | .correctedWriteback k sector => Sys2Proof.Machine.execCorrectedWriteback k sector s
  | .mirrorReadReturn k sector env => Sys2Proof.Machine.execMirrorReadReturn k sector env s
  | .scrubTick k env => Sys2Proof.Machine.execScrubTick k env s
  | .spareCopyEnd k unreadable => Sys2Proof.Machine.execSpareCopyEnd k unreadable s
  | .refreshCommand k => Sys2Proof.Machine.execRefreshCommand k s
  | .forcedRefresh k => Sys2Proof.Machine.execForcedRefresh k s
  | .linkTrainEnd link r => Sys2Proof.Machine.execLinkTrainEnd link r s
  | .linkTrainRetry link => Sys2Proof.Machine.execLinkTrainRetry link s
  | .nodeEnable p value => Sys2Proof.Machine.execNodeEnable p value s
  | .syncEnable p value => Sys2Proof.Machine.execSyncEnable p value s
  | .recal p link => Sys2Proof.Machine.execRecal p link s
  | .disable p link => Sys2Proof.Machine.execDisable p link s
  | .enable p link => Sys2Proof.Machine.execEnable p link s
  | .linkDrainEnd link => Sys2Proof.Machine.execLinkDrainEnd link s
  | .dataFlit link h seq payload => Sys2Proof.Machine.execDataFlit link h seq payload s
  | .idleFlit link h => Sys2Proof.Machine.execIdleFlit link h s
  | .replayFlit link h seq => Sys2Proof.Machine.execReplayFlit link h seq s
  | .timeFlit link h root ts parentLocked => Sys2Proof.Machine.execTimeFlit link h root ts parentLocked s
  | .replayTimeout link => Sys2Proof.Machine.execReplayTimeout link s
  | .linkDownTimeout loss => Sys2Proof.Machine.execLinkDownTimeout loss s
  | .packetSend link vc => Sys2Proof.Machine.execPacketSend link vc s
  | .packetRoute d => Sys2Proof.Machine.execPacketRoute d s
  | .putPacket d env => Sys2Proof.Machine.execPutPacket d env s
  | .getPacket d env => Sys2Proof.Machine.execGetPacket d env s
  | .addPacket d env => Sys2Proof.Machine.execAddPacket d env s
  | .pegPacket d => Sys2Proof.Machine.execPegPacket d s
  | .ack d pkt => Sys2Proof.Machine.execAck d pkt s
  | .dataResponse d pkt => Sys2Proof.Machine.execDataResponse d pkt s
  | .resultResponse d pkt => Sys2Proof.Machine.execResultResponse d pkt s
  | .nak d pkt => Sys2Proof.Machine.execNak d pkt s
  | .remoteRequestTimeout d tag => Sys2Proof.Machine.execRemoteRequestTimeout d tag s
  | .ingressAgeDrop d => Sys2Proof.Machine.execIngressAgeDrop d s
  | .timeExchange => Sys2Proof.Machine.execTimeExchange s
  | .holdoverEntry => Sys2Proof.Machine.execHoldoverEntry s
  | .holdoverLimit => Sys2Proof.Machine.execHoldoverLimit s
  | .dieEdgeFailure edge => Sys2Proof.Machine.execDieEdgeFailure edge s
  | .dieEdgeRetrainEnd edge => Sys2Proof.Machine.execDieEdgeRetrainEnd edge s
  | .clusterReset p index => Sys2Proof.Machine.execClusterReset p index s
  | .regionReset p index => Sys2Proof.Machine.execRegionReset p index s
  | .computeDieReset p index => Sys2Proof.Machine.execComputeDieReset p index s
  | .stackLogicReset p index => Sys2Proof.Machine.execStackLogicReset p index s
  | .linkReset p index => Sys2Proof.Machine.execLinkReset p index s
  | .packageWarmReset p => Sys2Proof.Machine.execPackageWarmReset p s
  | .resetDrainEnd domain index => Sys2Proof.Machine.execResetDrainEnd domain index s
  | .domainServeAgain domain index => Sys2Proof.Machine.execDomainServeAgain domain index s
  | .resetEscalation domain index => Sys2Proof.Machine.execResetEscalation domain index s
  | .clusterWatchdog cl => Sys2Proof.Machine.execClusterWatchdog cl s
  | .layoutWatchdog region => Sys2Proof.Machine.execLayoutWatchdog region s
  | .benchWatchdog k => Sys2Proof.Machine.execBenchWatchdog k s
  | .walkerWatchdog d => Sys2Proof.Machine.execWalkerWatchdog d s
  | .hubWatchdog => Sys2Proof.Machine.execHubWatchdog s
  | .activationReady => Sys2Proof.Machine.execActivationReady s
  | .activationTimeout => Sys2Proof.Machine.execActivationTimeout s
  | .thermalModelUpdate milliwatts => Sys2Proof.Machine.execThermalModelUpdate milliwatts s
  | .sensorRead readings => Sys2Proof.Machine.execSensorRead readings s
  | .noSourceTimeout n => Sys2Proof.Machine.execNoSourceTimeout n s
  | .powerWindow avgW shimW energyMj shimMj unpreventable => Sys2Proof.Machine.execPowerWindow avgW shimW energyMj shimMj unpreventable s
  | .restore p n => Sys2Proof.Machine.execRestore p n s
  | .setEndpointId b eid => Sys2Proof.Machine.execSetEndpointId b eid s
  | .getEndpointId b => Sys2Proof.Machine.execGetEndpointId b s
  | .getEndpointUuid b => Sys2Proof.Machine.execGetEndpointUuid b s
  | .getMctpVersionSupport b typ => Sys2Proof.Machine.execGetMctpVersionSupport b typ s
  | .getMessageTypeSupport b => Sys2Proof.Machine.execGetMessageTypeSupport b s
  | .getVendorDefinedMsgSupport b => Sys2Proof.Machine.execGetVendorDefinedMsgSupport b s
  | .mctpUnsupported b typ command => Sys2Proof.Machine.execMctpUnsupported b typ command s
  | .setTid b tid => Sys2Proof.Machine.execSetTid b tid s
  | .getTid b => Sys2Proof.Machine.execGetTid b s
  | .getPldmVersion b typ => Sys2Proof.Machine.execGetPldmVersion b typ s
  | .getPldmTypes b => Sys2Proof.Machine.execGetPldmTypes b s
  | .getPldmCommands b typ => Sys2Proof.Machine.execGetPldmCommands b typ s
  | .getPdrRepositoryInfo b => Sys2Proof.Machine.execGetPdrRepositoryInfo b s
  | .getPdr b record => Sys2Proof.Machine.execGetPdr b record s
  | .getSensorReading b id => Sys2Proof.Machine.execGetSensorReading b id s
  | .getStateSensorReadings b id => Sys2Proof.Machine.execGetStateSensorReadings b id s
  | .getNumericEffecterValue b id => Sys2Proof.Machine.execGetNumericEffecterValue b id s
  | .setNumericEffecterValue b id value => Sys2Proof.Machine.execSetNumericEffecterValue b id value s
  | .setEventReceiver b receiver => Sys2Proof.Machine.execSetEventReceiver b receiver s
  | .platformEventMessage => Sys2Proof.Machine.execPlatformEventMessage s
  | .platformEventRetry => Sys2Proof.Machine.execPlatformEventRetry s
  | .queryDeviceIdentifiers b => Sys2Proof.Machine.execQueryDeviceIdentifiers b s
  | .getFirmwareParameters b => Sys2Proof.Machine.execGetFirmwareParameters b s
  | .requestUpdate b => Sys2Proof.Machine.execRequestUpdate b s
  | .passComponentTable b classifier component => Sys2Proof.Machine.execPassComponentTable b classifier component s
  | .updateComponent b component size => Sys2Proof.Machine.execUpdateComponent b component size s
  | .requestFirmwareData b bytes => Sys2Proof.Machine.execRequestFirmwareData b bytes s
  | .transferComplete b => Sys2Proof.Machine.execTransferComplete b s
  | .verifyComplete b version svn sigOk => Sys2Proof.Machine.execVerifyComplete b version svn sigOk s
  | .applyComplete b => Sys2Proof.Machine.execApplyComplete b s
  | .activateFirmware b selfContained => Sys2Proof.Machine.execActivateFirmware b selfContained s
  | .getStatus b => Sys2Proof.Machine.execGetStatus b s
  | .cancelUpdateComponent b => Sys2Proof.Machine.execCancelUpdateComponent b s
  | .cancelUpdate b => Sys2Proof.Machine.execCancelUpdate b s
  | .getVersion b => Sys2Proof.Machine.execGetVersion b s
  | .getCapabilities b => Sys2Proof.Machine.execGetCapabilities b s
  | .negotiateAlgorithms b => Sys2Proof.Machine.execNegotiateAlgorithms b s
  | .getDigests b => Sys2Proof.Machine.execGetDigests b s
  | .getCertificate b slot offset length => Sys2Proof.Machine.execGetCertificate b slot offset length s
  | .challenge b slot nonce => Sys2Proof.Machine.execChallenge b slot nonce s
  | .getMeasurements b index signed nonce => Sys2Proof.Machine.execGetMeasurements b index signed nonce s
  | .viseClaim b => Sys2Proof.Machine.execViseClaim b s
  | .viseRelease b => Sys2Proof.Machine.execViseRelease b s
  | .regRead b off => Sys2Proof.Machine.execRegRead b off s
  | .regWrite b off value => Sys2Proof.Machine.execRegWrite b off value s
  | .resetRequest b domain index => Sys2Proof.Machine.execResetRequest b domain index s
  | .getFuseMap b => Sys2Proof.Machine.execGetFuseMap b s
  | .getCalibration b => Sys2Proof.Machine.execGetCalibration b s
  | .idcode => Sys2Proof.Machine.execIdcode s
  | .bypass => Sys2Proof.Machine.execBypass s
  | .samplePreload pins => Sys2Proof.Machine.execSamplePreload pins s
  | .extest => Sys2Proof.Machine.execExtest s
  | .clamp => Sys2Proof.Machine.execClamp s
  | .highz => Sys2Proof.Machine.execHighz s
  | .platformEventMessageResponse ok => Sys2Proof.Machine.execPlatformEventMessageResponse ok s
  | .flashOperationEnd ok address => Sys2Proof.Machine.execFlashOperationEnd ok address s
  | .maintGranuleDone k env => Sys2Proof.Machine.execMaintGranuleDone k env s
  | .routerAgeDrop d index => Sys2Proof.Machine.execRouterAgeDrop d index s
  | .resizableBarWrite p log2GiB => Sys2Proof.Machine.execResizableBarWrite p log2GiB s
  | .portReturnToD0 p => Sys2Proof.Machine.execPortReturnToD0 p s
  | .trstDeassert => Sys2Proof.Machine.execTrstDeassert s
  | .bar0Read p off size => Sys2Proof.Machine.execBar0Read p off size s

end Sys2Proof.Machine
end

