-- ==== Sys2Proof/Safety.lean ====
section
/-! DEFINITION. What counts as a safe run: no step stops. The block has no stop of its own, so a run of a whole model
never ends; FATAL (R353) is a state, not the end of a run. -/

namespace Sys2Proof

/-- A command runs in a state when its outcome is a next state. -/
def Runs (i : Instr) (s : Machine.State) : Prop := ∃ t, Machine.exec i s = .next t

/-- A state is safe when its next step answers a next state. -/
def Safe (s : Machine.State) : Prop := ∃ t, Machine.step s = .next t

end Sys2Proof
end

