-- ==== Sys2Proof/Certificates/Slice0/Obligations.lean ====
section
/-! DEFINITION. The statements for the provers: what spec/ says the commands of the block do, by family. A statement about a
command that takes effect names the conditions on the state and the operands under which it does, gives the next state, and
with it everything that stays as it was. -/

namespace Sys2Proof.Claims
open Sys2Proof Sys2Proof.Machine

/-- Every addressed memory of the block, and each host's, has its canonical form. -/
abbrev Canonical (s : State) : Prop :=
  Memory.wf s.dram = true ∧ Memory.wf s.spad = true ∧ Memory.wf s.bbuf = true ∧ Memory.wf s.portA.mem = true ∧
    Memory.wf s.portB.mem = true

/-- Requests of a port reach the hub, and the hub takes writes (R387, R390). -/
abbrev MayWrite (s : State) (p : PortId) : Prop :=
  (port s p).linkUp = true ∧ (port s p).d3hot = false ∧ (s.hub.stage = .mainReady ∨ s.hub.stage = .fault)

/-- A port's writes reach set-up registers: it also holds the vise (R393). -/
abbrev MaySet (s : State) (p : PortId) : Prop := MayWrite s p ∧ s.hub.vise = portCode p

/-- What a main-power loss keeps (R428): device time, the fuses, `FST.SYS_OFFSET`, the EID and every field of `MGT`, the event log, to which
a port whose link goes down adds its record (R355), and the epochs, each advanced by 1. -/
abbrev KeptByMainPowerLoss (s t : State) : Prop :=
  t.time = s.time ∧ t.hub.ident = s.hub.ident ∧ t.hub.fuseStacks = s.hub.fuseStacks ∧ t.hub.fusedOff = s.hub.fusedOff ∧
  t.fst.sysOffset = s.fst.sysOffset ∧ t.mgt.eid = s.mgt.eid ∧
  (s.mgt.activating = [] → t.mgt = { s.mgt with tapPins := t.mgt.tapPins }) ∧
  t.evt = (dropLink (dropLink s .a) .b).evt ∧ (s.portA.linkUp = false → s.portB.linkUp = false → t.evt = s.evt) ∧
  (twf {} s.links = true → twf 0 s.rst.epochs = true →
    ∀ d i, (d, i) ∈ innerDomains Dom.warm 0 → epochOf t d i = epochOf s d i + 1) ∧
  (∀ d i, (d, i) ∈ innerDomains Dom.warm 0 ↔
    (d = 1 ∧ i < 256) ∨ (d = 2 ∧ i < 32) ∨ (d = 3 ∧ i < 4) ∨ (d = 4 ∧ i < 24) ∨ (d = 5 ∧ i < 24) ∨ (d = 8 ∧ i = 0))

/-- The hops that a packet at `node` still has to go in one dimension of the torus, the shorter way round. -/
abbrev hopsLeft (f : Fst) (node dst dim : Nat) : Nat :=
  Nat.min ((coord dst dim + extentOf f dim - coord node dim) % extentOf f dim)
    ((coord node dim + extentOf f dim - coord dst dim) % extentOf f dim)

/-- The binding on which a request of management arrives (R406 to R417); every other command comes on none. -/
def bindingOf : Instr → Option Binding
  | .setEndpointId b _ | .getEndpointId b | .getEndpointUuid b | .getMctpVersionSupport b _ | .getMessageTypeSupport b
  | .getVendorDefinedMsgSupport b | .mctpUnsupported b _ _ | .setTid b _ | .getTid b | .getPldmVersion b _ | .getPldmTypes b
  | .getPldmCommands b _ | .getPdrRepositoryInfo b | .getPdr b _ | .getSensorReading b _ | .getStateSensorReadings b _
  | .getNumericEffecterValue b _ | .setNumericEffecterValue b _ _ | .setEventReceiver b _ | .queryDeviceIdentifiers b
  | .getFirmwareParameters b | .requestUpdate b | .passComponentTable b _ _ | .updateComponent b _ _ | .requestFirmwareData b _
  | .transferComplete b | .verifyComplete b _ _ _ | .applyComplete b | .activateFirmware b _ | .getStatus b
  | .cancelUpdateComponent b | .cancelUpdate b | .getVersion b | .getCapabilities b | .negotiateAlgorithms b | .getDigests b
  | .getCertificate b _ _ _ | .challenge b _ _ | .getMeasurements b _ _ _ | .viseClaim b | .viseRelease b | .regRead b _
  | .regWrite b _ _ | .resetRequest b _ _ | .getFuseMap b | .getCalibration b => some b
  | _ => none

end Sys2Proof.Claims

open Sys2Proof Sys2Proof.Machine Sys2Proof.Claims

/-! ## The step, time and memory -/

/-- A step takes the command at the front of the queue and runs it with the queue's rest.
On an empty queue a step is one nanosecond of device time, as FST's rate corrects it: the rate, in parts per million, is summed, and
where the sum reaches a whole nanosecond that one is taken off it and device time moves by 2 in place of 1, and where it reaches minus one, by
0; nothing else changes
(R22, R338; the tick of the idle step is the model's choice, log entry 1, and so is the rate, log entry 61). -/
def Obligations.StepTakesTheFrontCommand : Prop :=
  (∀ (c : Instr) (q : List Instr) (s : State), step { s with pending := c :: q } = exec c { s with pending := q }) ∧
  (∀ s : State, s.pending = [] → s.fst.rate = 0 → s.fst.rateSum.natAbs < 1000000 →
    step s = .next { s with time := s.time + 1 }) ∧
  (∀ (s : State) (e : Int), s.pending = [] →
    (1000000 ≤ s.fst.rateSum + s.fst.rate ∧ e = 1) ∨ (s.fst.rateSum + s.fst.rate ≤ -1000000 ∧ e = -1) ∨
      (-1000000 < s.fst.rateSum + s.fst.rate ∧ s.fst.rateSum + s.fst.rate < 1000000 ∧ e = 0) →
    step s = .next { s with
      time := s.time + BitVec.ofInt 64 (1 + e),
      fst := { s.fst with rateSum := s.fst.rateSum + s.fst.rate - e * 1000000 } })

/-- Every step keeps every memory of the block, and the memory of each host, in its canonical form. -/
def Obligations.StepKeepsMemoryCanonical : Prop :=
  ∀ s t : State, Canonical s → step s = .next t → Canonical t

/-- No command but the coming and going of the auxiliary rail touches device time, and no command at all touches the queue of
waiting commands (R22). -/
def Obligations.CommandsKeepQueueAndTime : Prop :=
  ∀ (c : Instr) (s t : State), Canonical s → exec c s = .next t →
    t.pending = s.pending ∧ (c ≠ .auxPowerLoss → (∀ a, c ≠ .auxPowerUp a) → t.time = s.time)

/-- The block as it stands cold: memories canonical, time 0, nothing pending, STAGE RESET, the vise free, no lock set, mode
START-UP, every ring and partition at its reset value (R22, R54, R394, R395, R397, R404). -/
def Obligations.ResetState : Prop :=
  Canonical State.reset ∧ State.reset.time = 0 ∧ State.reset.pending = [] ∧ State.reset.hub.stage = .reset ∧
    State.reset.hub.vise = 0 ∧ State.reset.hub.claims = 0 ∧ State.reset.hub.lockHost = false ∧
    State.reset.hub.lockRings = false ∧ State.reset.hub.lockFabric = false ∧ State.reset.hub.lockReset = false ∧
    State.reset.hub.mode = 0 ∧ (∀ r, ring State.reset r = {}) ∧ (∀ q, prt State.reset q = {}) ∧
    (∀ i o, mbytes State.reset.dram (stackBase i + o) 1 = [0]) ∧ (∀ m, tget 0 State.reset.pegs m = 0)

/-- Bytes written are read back, and every byte outside them reads as before, in every canonical memory (R10).
The local address map (Table 3-2): which row an address names, and its offset there. -/
def Obligations.AddressesAndMemory : Prop :=
  (∀ (m : Memory) (a : Nat) (bs : List Byte), Memory.wf m = true →
    mbytes (mwrite m a bs) a bs.length = bs ∧
    (∀ c, c < a ∨ a + bs.length ≤ c → mget (mwrite m a bs) c = mget m c) ∧ Memory.wf (mwrite m a bs) = true) ∧
  (∀ a : Nat,
    (a < 24 * 2 ^ 36 → placeOf a = .stack (a / 2 ^ 36) (a % 2 ^ 36)) ∧
    (0x100000000000 ≤ a → a < 0x100000000000 + 256 * 2 ^ 22 →
      placeOf a = .spad ((a - 0x100000000000) / 2 ^ 22) ((a - 0x100000000000) % 2 ^ 22)) ∧
    (0x200000000000 ≤ a → a < 0x200000000000 + 4 * 65536 →
      placeOf a = .peg ((a - 0x200000000000) / 4) ((a - 0x200000000000) % 4)) ∧
    (0x300000000000 ≤ a → a < 0x380000000000 → placeOf a = .host .a (a - 0x300000000000)) ∧
    (0x380000000000 ≤ a → a < 0x400000000000 → placeOf a = .host .b (a - 0x380000000000)) ∧
    (0x400000000000 ≤ a → placeOf a = .outside))

/-! ## Bring-up and power -/

/-- The rails come up, the firmware boots from sound images, the package becomes ready, a cable is pulled: each command's effect
and nothing else (R404, R411, R426, R427, R433). The main rails come up on R427's four conditions alone, in a package warm reset too; that
MAIN_READY waits for a hub image while the boot ROM alone runs is the model's choice (log entry 122). -/
def Obligations.BringUpReachesMainReady : Prop :=
  (∀ (a : BitVec 2) (s : State), s.hub.auxOn = false →
    exec (.auxPowerUp a) s = .next { s with
      time := 0, hub := { s.hub with auxOn := true, straps := a, stage := .reset },
      mgt := { s.mgt with smbusAddr := 0x4C + a.setWidth 7 } }) ∧
  (∀ s : State, s.hub.auxOn = true → s.hub.stage = .reset → (∀ c, 1 ≤ c → c ≤ 6 → slotBad s [] c (runsB s c) = false) →
    exec (.firmwareBootEnd [] {}) s = .next (modImage { s with
      hub := { s.hub with stage := .auxReady, bootErr := 0, romOnly := false, fallback := false, fwImageB := runsB s 1, mode := 0 },
      mgt := { s.mgt with calBad := false } } 0xF false (fun x => { x with valid := true }))) ∧
  (∀ (mv : Nat) (s : State), s.hub.mainPg = false → s.hub.auxOn = true → s.hub.stage = .auxReady →
    40000 ≤ mv → mv ≤ 59500 →
    exec (.mainPowerOn mv true) s = .next { s with hub := { s.hub with mainPg := true, millivolts := mv, pwrEn := true } }) ∧
  (∀ s : State, s.hub.mainPg = true → s.hub.stage = .auxReady → s.hub.romOnly = false → inReset s Dom.warm 0 = false → s.mgt.tapWants = .normal →
    (∀ i, i < 24 → stackPresent s i = true → (stk s i).initBusy = true → (stk s i).writeHold = false) → ∃ t, exec (.mainReady 0) s = .next t ∧ t = { s with hub := { s.hub with stage := .mainReady, trained := true }, stackTab := t.stackTab } ∧
      ∀ i, i < 24 → stk t i = { stk s i with initBusy := false }) ∧
  (∀ (link : Nat) (s : State), link < 24 → (lnk s link).state = .training →
    exec (.cablePresenceChange link true) s = .next
      (modLnk (modLnk s link (fun l => { l with cableHigh := true })) link (fun l => { l with state := .down, laneMask := 0 })))

/-- The main rails and the auxiliary rail go: what is lost and what stays (R428, R429, Table 17-5). A main-power loss keeps device time,
the event log (to which the ports that go down add their records, R355), every epoch, advanced by 1, `FST.SYS_OFFSET`, the EID and every
`MGT` field, with the fuses; STAGE is AUX_READY then. The loss of the auxiliary rail keeps the fuses and the flash with its security version
counters. The model's choices: that an activation which a main-power loss cuts short is left (log entry 81), which other fields the always-on
supply keeps (log entry 84), that a package which runs from the boot ROM alone goes on so, in AUX_READY (log entry 122), and that a TAP
whose driving instruction may act again does so (log entry 76). -/
def Obligations.PowerLossKeepsTheAlwaysOnPart : Prop :=
  (∀ (mv : Nat) (en : Bool) (s : State), s.hub.mainPg = true → (en = false ∨ mv < 38000 ∨ 61000 < mv) →
    ∃ t, exec (.mainPowerLoss mv en) s = .next t ∧ t.hub.mainPg = false ∧
      t.hub.stage = .auxReady ∧ t.hub.romOnly = s.hub.romOnly ∧
      KeptByMainPowerLoss { s with hub := { s.hub with millivolts := mv, pwrEn := en } } t ∧ t.hub.millivolts = mv ∧ t.hub.pwrEn = en ∧ t.hub.vise = 0 ∧ t.dram = [] ∧ t.spad = [] ∧ t.bbuf = [] ∧ t.pegs = [] ∧
      t.rings = [] ∧ t.parts = [] ∧ t.graphs = [] ∧ t.tasks = [] ∧ t.portA.linkUp = false ∧ t.portB.linkUp = false) ∧
  (∀ (mv : Nat) (s : State), s.hub.mainPg = true → 38000 ≤ mv → mv < 40000 →
    ∃ t, exec (.mainInputDipTimeout mv) s = .next t ∧ t.hub.mainPg = false ∧
      t.hub.stage = .auxReady ∧ t.hub.romOnly = s.hub.romOnly ∧
      KeptByMainPowerLoss { s with hub := { s.hub with millivolts := mv } } t ∧ t.hub.millivolts = mv ∧ t.dram = [] ∧ t.spad = [] ∧ t.bbuf = [] ∧ t.pegs = [] ∧
      t.rings = [] ∧ t.parts = [] ∧ t.graphs = [] ∧ t.tasks = []) ∧
  (∀ s : State, s.hub.auxOn = true →
    ∃ t, exec .auxPowerLoss s = .next t ∧ t.time = 0 ∧ t.hub.auxOn = false ∧ t.hub.mainPg = false ∧ t.hub.stage = .reset ∧
      t.hub.ident = s.hub.ident ∧ t.hub.fuseStacks = s.hub.fuseStacks ∧ t.hub.fusedOff = s.hub.fusedOff ∧
      t.mgt.images = s.mgt.images ∧ t.mgt.activeB = s.mgt.activeB ∧ t.mgt.svnCounter = s.mgt.svnCounter ∧ t.evt = {} ∧
      t.rst = {} ∧ t.dram = [] ∧ t.spad = [] ∧ t.bbuf = [] ∧ t.pegs = [] ∧ t.rings = [] ∧ t.parts = [] ∧ t.graphs = [] ∧
      t.tasks = [] ∧ t.pending = s.pending ∧ t.out = s.out)

/-- The TAP controller: an instruction is loaded while the auxiliary rail is on and TRST# is high; the driving instructions put the
boundary register's levels on its pins, or float them, before MAIN_READY (in SERVICE mode not: Table 15-6) and in TEST mode, and
otherwise act as BYPASS with one TAP_REFUSED record; every other load lets the pins go. When the mode or STAGE changes, a driving
instruction that is still loaded drives from then on where it may, and stops where it may not, with its record if it has made none (R397,
R418, R433; that low TRST# loads IDCODE, the instruction codes, and one record for each load are presumed, log entry 76). -/
def Obligations.BoundaryScanInstructions : Prop :=
  ∀ s : State,
    exec .trstAssert s = .next { letGo s with mgt := { (letGo s).mgt with
      tapReset := true, tapInstr := Config.tapCode 0, tapWants := .normal } } ∧
    exec .trstDeassert s = .next { s with mgt := { s.mgt with tapReset := false } } ∧
    (s.mgt.tapPins = .normal → letGo s = s) ∧
    (s.mgt.tapPins ≠ .normal → letGo s = { s with mgt := { s.mgt with tapPins := .normal }, out := s.out ++ [.pins []] }) ∧
    (s.mgt.tapWants = .normal → tapGate s = s) ∧
    (tapAllowed s = true ↔ s.hub.mode = 2 ∨ s.hub.stage ≠ .mainReady ∧ s.hub.mode ≠ 1) ∧
    (s.mgt.tapWants ≠ .normal → tapAllowed s = true →
      (s.mgt.tapPins ≠ .normal → tapGate s = s) ∧
      (s.mgt.tapPins = .normal → s.mgt.tapWants = .levels → tapGate s = { s with
        mgt := { s.mgt with tapPins := .levels },
        out := s.out ++ [.pins (boundaryPins.zip ((boundaryBits s.mgt.boundary).map some))] }) ∧
      (s.mgt.tapPins = .normal → s.mgt.tapWants = .floating → tapGate s = { s with
        mgt := { s.mgt with tapPins := .floating }, out := s.out ++ [.pins (boundaryPins.map (fun p => (p, none)))] })) ∧
    (s.mgt.tapWants ≠ .normal → tapAllowed s = false →
      (s.mgt.tapPins = .normal → tapGate s = s) ∧
      (s.mgt.tapPins ≠ .normal → s.mgt.tapRefused = true → tapGate s = letGo s) ∧
      (s.mgt.tapPins ≠ .normal → s.mgt.tapRefused = false → tapGate s = logMgmt { letGo s with
        mgt := { (letGo s).mgt with tapRefused := true } } 0x75 0 s.mgt.tapInstr.toNat 0)) ∧
    (s.hub.auxOn = true → s.mgt.tapReset = false → ∀ (load : Nat → State) (refused : Nat → PinDrive → State),
      (∀ k, load k = letGo { s with mgt := { s.mgt with
        tapInstr := Config.tapCode k, tapWants := .normal, tapRefused := false } }) →
      (∀ k d, refused k d = giveBypass (logMgmt { letGo s with mgt := { (letGo s).mgt with
        tapInstr := Config.tapCode k, tapWants := d, tapRefused := true } } 0x75 0 (Config.tapCode k).toNat 0) k) →
      exec .idcode s = .next { load 0 with
        out := (load 0).out ++ [.tap (Config.tapCode 0) (BitVec.ofNat 64 (idcodeWord s.hub))] } ∧
      exec .bypass s = .next { load 1 with out := (load 1).out ++ [.tap (Config.tapCode 1) 0] } ∧
      (∀ pins, exec (.samplePreload pins) s = .next { load 2 with mgt := { (load 2).mgt with boundary := boundaryBits pins } }) ∧
      (s.hub.mode = 2 ∨ s.hub.stage ≠ .mainReady ∧ s.hub.mode ≠ 1 →
        exec .extest s = .next { s with
          mgt := { s.mgt with tapInstr := Config.tapCode 3, tapWants := .levels, tapRefused := false, tapPins := .levels },
          out := s.out ++ [.pins (boundaryPins.zip ((boundaryBits s.mgt.boundary).map some))] } ∧
        exec .clamp s = .next { s with
          mgt := { s.mgt with tapInstr := Config.tapCode 4, tapWants := .levels, tapRefused := false, tapPins := .levels },
          out := s.out ++ [.pins (boundaryPins.zip ((boundaryBits s.mgt.boundary).map some))] } ∧
        exec .highz s = .next { s with
          mgt := { s.mgt with tapInstr := Config.tapCode 5, tapWants := .floating, tapRefused := false, tapPins := .floating },
          out := s.out ++ [.pins (boundaryPins.map (fun p => (p, none)))] }) ∧
      (s.hub.mode ≠ 2 → s.hub.stage = .mainReady ∨ s.hub.mode = 1 →
        exec .extest s = .next (refused 3 .levels) ∧ exec .clamp s = .next (refused 4 .levels) ∧
        exec .highz s = .next (refused 5 .floating))) ∧
    (∀ k, giveBypass s k = { s with out := s.out ++ [.tap (Config.tapCode k) 0] })

/-! ## Ports, the vise, locks, interrupts -/

/-- A port's pins and its link (R355, R387, R389, R433): PERST# high is noted; the link comes up in an open hub (that it does so in FAULT
too, while the main rails are up, is the model's choice, log entry 74); D0 and the BAR4 size are taken; a link that goes down, a PERST# that falls and a D3hot entry set the port's state, free the vise that the port holds, log
HOST_LINK_DOWN and let the port's flushing reads fail: with no ring to drain, nothing else changes, and of the tasks only those that
wait for one of these reads take HOST_UNREACHABLE. The port's running rings go on as after STOP (R355 step 2): with no completion held,
each is STOPPING, or STOPPED with no graph in flight, and lets its waiting graph go; the other rings stay as they are.
Heartbeats (R358): a write of bit 0 renews the port's heartbeat and ends a lapse, with no vise; a lapse is due once a period
of PERIOD milliseconds has passed since the last renewal, and is reported once; ALIVE counts while the hub firmware runs. -/
def Obligations.PortsAndHeartbeats : Prop :=
  (∀ (p : PortId) (s : State),
    exec (.perstDeassert p) s = .next (modPort s p (fun q => { q with perst := false })) ∧
    ((port s p).linkUp = true → s.hub.stage = .mainReady →
      exec (.portReturnToD0 p) s = .next (modPort s p (fun q => { q with d3hot := false }))) ∧
    (s.hub.stage = .mainReady ∨ s.hub.stage = .fault → s.hub.mainPg = true → (port s p).perst = false → (port s p).linkUp = false →
      exec (.hostLinkUp p) s = .next (modPort s p (fun q => { q with linkUp := true, d3hot := false }))) ∧
    (s.hub.stage = .mainReady → (port s p).linkUp = true → ∀ n, n ≤ 6 →
      exec (.resizableBarWrite p n) s = .next (modPort s p (fun q => { q with bar4Log2 := n }))) ∧
    ((port s p).linkUp = true → (port s p).d3hot = false →
      exec (.hostLinkDown p) s = .next
        (losePort (modPort s p (fun q => { q with linkUp := false, d3hot := false })) p Cls.hostLinkDown 0) ∧
      exec (.perstAssert p) s = .next (losePort (modPort (modPort s p (fun q => { q with perst := true })) p
        (fun q => { q with linkUp := false, d3hot := false })) p Cls.hostLinkDown 0) ∧
      (s.hub.stage = .mainReady →
        exec (.hostD3hotEntry p) s = .next (losePort (modPort s p (fun q => { q with d3hot := true })) p Cls.hostLinkDown 0))) ∧
    (∀ (cls : BitVec 8) (d0 : Nat) (u : State), s.rings = [] →
      u = logEvent (if s.hub.vise = portCode p then { s with hub := { s.hub with vise := 0 } } else s) cls 2 0 8 (portIdx p) d0 0 →
      losePort s p cls d0 = loseSwaps (endFlush u p (port u p).flushSent false) p ∧
      (∀ n ok, port (endFlush u p n ok) p = { port u p with flushDone := n }) ∧
      (∀ n ok t x, taskAt u t = some x → taskAt (endFlush u p n ok) t = some (taskFlushed p n ok x))) ∧
    (∀ (cls : BitVec 8) (d0 r : Nat) (t : State), r < 64 → twf {} s.rings = true → (∀ q, (ring s q).held = []) →
      t = losePort s p cls d0 →
      ((ring s r).assigned = false ∨ ringPort (ring s r) ≠ p → ring t r = ring s r) ∧
      ((ring s r).assigned = true → ringPort (ring s r) = p → (ring s r).state = .running →
        ring t r = { ring s r with state := if (ring s r).graphs = 0 then .stopped else .stopping, waiting := none })) ∧
    (∀ (n : Nat) (x : Task), (∃ k, (p, k) ∈ x.flushOut ∧ k ≤ n) → x.relFail = 0 →
      (taskFlushed p n false x).relFail = Code.hostUnreachable) ∧
    (∀ (n : Nat) (ok : Bool) (x : Task), (∀ k, (p, k) ∈ x.flushOut → n < k) → taskFlushed p n ok x = x)) ∧
  (∀ (p : PortId) (s : State),
    (MayWrite s p → ∀ v : Word, v.toNat.testBit 0 = true →
      exec (.heartbeatWrite p v) s = .next (modPort s p (fun q => { q with lastBeat := now s, lapsed := false }))) ∧
    (beatPeriod s p ≠ 0 → (port s p).lapsed = false → (port s p).lastBeat + 1000000 * beatPeriod s p ≤ now s →
      exec (.heartbeatLapse p) s = .next
        (losePort (modPort s p (fun q => { q with lapsed := true })) p Cls.heartbeatLost (beatPeriod s p))) ∧
    (beatPeriod s p = 0 ∨ (port s p).lapsed = true → exec (.heartbeatLapse p) s = .next s) ∧
    (firmwareRuns s = true →
      exec .hubAliveTick s = .next { s with rst := { s.rst with alive := s.rst.alive + 1 } }))

/-- The vise (R394): a port claims it while it is free, with its own code, and CLAIM_COUNT counts; a claim by its holder changes
nothing; the holder releases it; any other claim or release is ignored and logged. -/
def Obligations.ViseHasOneHolder : Prop :=
  ∀ (p : PortId) (s : State), MayWrite s p →
    (s.hub.vise = 0 → exec (.portViseClaim p (portCode p)) s = .next { s with
      hub := { s.hub with vise := portCode p, claims := s.hub.claims + 1 } }) ∧
    (s.hub.vise = portCode p → exec (.portViseClaim p (portCode p)) s = .next s) ∧
    (s.hub.vise ≠ 0 → s.hub.vise ≠ portCode p →
      exec (.portViseClaim p (portCode p)) s = .next (setupIgnored s 0x30 ((portCode p).setWidth 64))) ∧
    (∀ c : BitVec 8, c ≠ 0 → c ≠ portCode p →
      exec (.portViseClaim p c) s = .next (setupIgnored s 0x30 (c.setWidth 64))) ∧
    (s.hub.vise = portCode p → exec (.portViseRelease p) s = .next { s with hub := { s.hub with vise := 0 } }) ∧
    (s.hub.vise ≠ portCode p → exec (.portViseRelease p) s = .next (setupIgnored s 0x30 0))

/-- A set-up write is made by the port that holds the vise and by nobody else: a port without it changes no register, and its
write is logged as SETUP_IGNORED with the offset and the value (R393, R395, R397). The four lock bits are set and never cleared
by a write, whatever its zero bits; a locked host window keeps its value, and a write that would change it is logged; the mode is set, and a TAP that may no longer drive pins stops (R418). -/
def Obligations.SetUpNeedsTheVise : Prop :=
  ∀ (p : PortId) (s : State), MayWrite s p →
    (s.hub.vise = portCode p →
      exec (.lockHost p) s = .next { s with hub := { s.hub with lockHost := true } } ∧
      exec (.lockRings p) s = .next { s with hub := { s.hub with lockRings := true } } ∧
      exec (.lockFabric p) s = .next { s with hub := { s.hub with lockFabric := true } } ∧
      exec (.lockReset p) s = .next { s with hub := { s.hub with lockReset := true } } ∧
      (∀ v : Word, exec (.registerWrite p 0x38 8 v) s = .next { s with hub := { s.hub with
        lockHost := s.hub.lockHost || v.toNat.testBit 0, lockRings := s.hub.lockRings || v.toNat.testBit 1,
        lockFabric := s.hub.lockFabric || v.toNat.testBit 2, lockReset := s.hub.lockReset || v.toNat.testBit 3 } }) ∧
      (∀ (q : PortId) (v : Word), s.hub.lockHost = true → exec (.registerWrite p (0x50 + 8 * portIdx q) 8 v) s = .next
        (if (port s q).hostBase = BitVec.ofNat 52 (v.toNat / 2 ^ 12) ∧ (port s q).winEn = v.toNat.testBit 0 then s
         else setupIgnored s (0x50 + 8 * portIdx q) v)) ∧
      (∀ (q : PortId) (v : Word), s.hub.lockHost = false → exec (.registerWrite p (0x50 + 8 * portIdx q) 8 v) s = .next
        (modPort s q (fun x => { x with hostBase := BitVec.ofNat 52 (v.toNat / 2 ^ 12), winEn := v.toNat.testBit 0 }))) ∧
      (∀ m : BitVec 2, exec (.modeWrite p m) s = .next (tapGate { s with hub := { s.hub with mode := m } })) ∧
      (∀ v : Word, exec (.registerWrite p 0x40 8 v) s = .next
        (tapGate { s with hub := { s.hub with mode := BitVec.ofNat 2 v.toNat } }))) ∧
    (s.hub.vise ≠ portCode p →
      exec (.lockHost p) s = .next (setupIgnored s 0x38 1) ∧ exec (.lockRings p) s = .next (setupIgnored s 0x38 2) ∧
      exec (.lockFabric p) s = .next (setupIgnored s 0x38 4) ∧ exec (.lockReset p) s = .next (setupIgnored s 0x38 8) ∧
      (∀ m : BitVec 2, exec (.modeWrite p m) s = .next (setupIgnored s 0x40 (m.setWidth 64))) ∧
      (∀ (off : Nat) (v : Word), assignedReg (blockOf off) = true → inMsix off = false → off % 8 = 0 → off ≠ 0x30 →
        off ≠ Base.evt + 8 → off ≠ Base.rst + 0x30 → off < bar2Base →
        exec (.registerWrite p off 8 v) s = .next (setupIgnored s off v)))

/-- Reads of BAR0 through a port whose link is up and whose function is in D0 (R387, R390, R391): the identity and fuse registers give
the fused values, a set bit of FUSE_CLUSTERS is a cluster that is present (R6), the vise, the locks and the boot register give their
fields; the read changes nothing but what has left the
block. An aligned read of 4 bytes gives its half of the register (log entry 73), and an offset that no block takes reads zero; that an offset
above the map names BAR2, whose doorbells read zero too, is the model's choice (log entry 109). In STAGE RESET and AUX_READY every read, wherever it lies, gives all ones. -/
def Obligations.Bar0ReadsRegisters : Prop :=
  ∀ (p : PortId) (s : State), (port s p).linkUp = true → (port s p).d3hot = false →
    (portsDark s = false →
      exec (.bar0Read p 0x00 8) s = .next { s with out := s.out ++ [.bar0Data p s.hub.ident] } ∧
      exec (.bar0Read p 0x08 8) s = .next { s with out := s.out ++ [.bar0Data p (s.hub.fuseStacks.setWidth 64)] } ∧
      exec (.bar0Read p 0x30 8) s = .next { s with
        out := s.out ++ [.bar0Data p (BitVec.ofNat 64 (s.hub.claims.toNat * 2 ^ 32 + s.hub.vise.toNat * 256))] } ∧
      (∀ d, d < 4 → exec (.bar0Read p (0x10 + 8 * d) 8) s = .next { s with
        out := s.out ++ [.bar0Data p (~~~(tget 0 s.hub.fusedOff d))] }) ∧
      (∀ n, n < 256 → (clusterPresent s n = true ↔ (~~~(tget 0 s.hub.fusedOff (n / 64))).toNat.testBit (n % 64) = true)) ∧
      exec (.bar0Read p 0x38 8) s = .next { s with out := s.out ++ [.bar0Data p (BitVec.ofNat 64
        ((if s.hub.lockReset then 8 else 0) + (if s.hub.lockFabric then 4 else 0) + (if s.hub.lockRings then 2 else 0) +
          (if s.hub.lockHost then 1 else 0)))] } ∧
      (∀ stage : Nat, (s.hub.stage = .mainReady ∧ stage = 2) ∨ (s.hub.stage = .fault ∧ stage = 3) →
        exec (.bar0Read p 0x48 8) s = .next { s with out := s.out ++ [.bar0Data p (BitVec.ofNat 64
          (s.hub.bootErr.toNat * 2 ^ 8 + (if s.hub.fwImageB then 2 ^ 5 else 0) + (if s.hub.mainPg then 2 ^ 4 else 0) + stage))] }) ∧
      (∀ off, inMsix off = false → off % 8 = 0 → fusedBlock s (blockOf off) = false →
        exec (.bar0Read p off 8) s = .next { s with
          out := s.out ++ [.bar0Data p (BitVec.ofNat 64 (blockWord s (blockOf off)))] }) ∧
      (∀ off w : Nat, inMsix off = false → inMsix (off + 4) = false → off % 8 = 0 → off < bar2Base →
        fusedBlock s (blockOf off) = false → w = blockWord s (blockOf off) →
        exec (.bar0Read p off 4) s = .next { s with out := s.out ++ [.bar0Data p (BitVec.ofNat 64 (w % 2 ^ 32))] } ∧
        exec (.bar0Read p (off + 4) 4) s = .next { s with out := s.out ++ [.bar0Data p (BitVec.ofNat 64 (w / 2 ^ 32 % 2 ^ 32))] }) ∧
      (∀ off n, bar2Base ≤ off → exec (.bar0Read p off n) s = .next { s with out := s.out ++ [.bar0Data p 0] })) ∧
    (portsDark s = true → ∀ off,
      exec (.bar0Read p off 8) s = .next { s with out := s.out ++ [.bar0Data p (BitVec.allOnes 64)] } ∧
      (off % 4 = 0 → exec (.bar0Read p off 4) s = .next { s with out := s.out ++ [.bar0Data p 0xFFFFFFFF] }))

/-- Messages and the event log (R346, R403): unmasking a vector sends the message that was pending, and only that; the capability's
control write sets the enable and the function mask; a message of a masked or disabled function stays pending (that a disabled one
does is presumed, log entry 108); freeing records moves EVT.HEAD, never past the tail. -/
def Obligations.InterruptsAndTheEventLog : Prop :=
  ∀ (p : PortId) (s : State), MayWrite s p →
    (∀ v, v < 2048 → (msixAt (port s p) v).pend = false →
      exec (.msixUnmask p (.vector v)) s = .next (modPort s p (fun q => { q with
        msix := tset {} q.msix v { msixAt q v with masked := false } }))) ∧
    (∀ v, v < 2048 → (msixAt (port s p) v).pend = true → (port s p).funcMask = false → (port s p).msixEnable = true →
      twf {} (port s p).msix = true → ∃ t, exec (.msixUnmask p (.vector v)) s = .next t ∧ t.out = s.out ++ [.msix p v] ∧
        msixAt (port t p) v = { msixAt (port s p) v with masked := false, pend := false } ∧
        t = { modPort s p (fun q => { q with msix := (port t p).msix }) with out := t.out }) ∧
    (∀ enable mask, s.hub.stage = .mainReady → (∀ v, (msixAt (port s p) v).pend = false) →
      exec (.msixUnmask p (.control enable mask)) s =
        .next (modPort s p (fun q => { q with msixEnable := enable, funcMask := mask }))) ∧
    (∀ v, (port s p).msixEnable = false ∨ (port s p).funcMask = true ∨ (msixAt (port s p) v).masked = true →
      raiseMsix s p v = modPort s p (fun q => { q with msix := tset {} q.msix v { msixAt q v with pend := true } })) ∧
    (∀ v : Word, ((v.setWidth 32 : BitVec 32) - s.evt.head).toNat ≤ (s.evt.tail - s.evt.head).toNat →
      exec (.evtHeadWrite p v) s = .next { s with evt := { s.evt with head := v.setWidth 32 } }) ∧
    (∀ v : Word, (s.evt.tail - s.evt.head).toNat < ((v.setWidth 32 : BitVec 32) - s.evt.head).toNat →
      exec (.evtHeadWrite p v) s = .next (setupIgnored s 0x80008 v))

/-- An event record (R344, R348): it takes the tail's place with the next sequence number, device time and the unit's epoch; when the
log is full it is counted as lost. A stored record of at least MIN_SEVERITY raises the event message on its port and vector while
`EVT.IRQ.EN` is set (R348, R403), which leaves at once where the link is up in D0 and the vector may send (R387); that a message which the
link cannot carry is lost, with no pending bit, is the model's choice (log entry 20). -/
def Obligations.EventRecordsKeepTheirOrder : Prop :=
  ∀ (s : State) (cls : BitVec 8) (sev : BitVec 2) (st : Status) (kind index d0 d1 : Nat),
    (∀ t : State, evtStores s.evt cls sev = true → t = { s with
        evt := { s.evt with
          seq := s.evt.seq + 1, tail := s.evt.tail + 1,
          log := tset {} s.evt.log (s.evt.tail.toNat % 8192) {
            time := s.time, seq := s.evt.seq, cls := cls, sev := sev, status := st, kind := BitVec.ofNat 4 kind,
            index := BitVec.ofNat 12 index, epoch := unitEpoch s kind index, d0 := BitVec.ofNat 32 d0,
            d1 := BitVec.ofNat 64 d1 } } } →
      (s.evt.irqEn = false ∨ sev.toNat < s.evt.minSev.toNat → logEvent s cls sev st kind index d0 d1 = t) ∧
      (s.evt.irqEn = true → s.evt.minSev.toNat ≤ sev.toNat →
        logEvent s cls sev st kind index d0 d1 = raiseMsix t (if s.evt.irqPortB then .b else .a) s.evt.irqVector.toNat)) ∧
    (∀ (p : PortId) (v : Nat), (port s p).msixEnable = true → (port s p).funcMask = false → (msixAt (port s p) v).masked = false →
      ((port s p).linkUp = true → (port s p).d3hot = false → raiseMsix s p v = { s with out := s.out ++ [.msix p v] }) ∧
      ((port s p).linkUp = false ∨ (port s p).d3hot = true → raiseMsix s p v = s)) ∧
    (evtStores s.evt cls sev = false →
      logEvent s cls sev st kind index d0 d1 = { s with
        evt := { s.evt with seq := s.evt.seq + 1, lost := satInc s.evt.lost 1 } }) ∧
    (evtStores s.evt cls sev = true ↔ evtHeld s.evt < 8128 ∨ (evtHeld s.evt < 8192 ∧ (cls = Cls.reset ∨ sev = 3)))

/-- Locking a partition (R401, R402): the lock write takes the configuration and starts the checks; one with VALID 0, or to a partition that
is locked or busy, completes with STATE_CONFLICT and FAILED_CHECK 0. The checks of Table 15-9 run in order, and the first that fails gives its
status and its number: then LOCK stays 0, both are recorded, and every field may be written again, which is frozen while the partition is busy
or locked: a write that would change it is logged (R395). Where every check of the oldest attempt passes, the hub latches the headers that
the partition has (a KV header's count and pools, a refused pool disabled and logged; a veneer header's fields), zeroes the partition's own
scratchpads and locks it. What the latch rebuilds from each descriptor and record (`rebuildSeq`, `rebuildSlot`) is log entry 12's choice. -/
def Obligations.PartitionsLockOnce : Prop :=
  (∀ (p : PortId) (q : Nat) (v : Word) (s : State), MaySet s p → q < 16 → v.toNat.testBit 62 = true → (prt s q).locked = false →
    (prt s q).busy = false →
    exec (.partitionLock p q v) s = .next (modPrt s q (fun x => { putPart x 0 (v ||| (1#64 <<< 63)).toNat with
      busy := true, lockAge := nextLock s }))) ∧
  (∀ (p : PortId) (q : Nat) (v : Word) (s : State), MaySet s p → q < 16 →
    (prt s q).locked = true ∨ (prt s q).busy = true ∨ v.toNat.testBit 62 = false →
    exec (.partitionLock p q v) s = .next (modPrt s q (fun x => { x with lastCmd := Code.stateConflict, failedCheck := 0 }))) ∧
  (∀ (p : PortId) (q off : Nat) (v : Word) (s : State) (x : Part), MaySet s p → q < 16 → partHas off = true → off % 8 = 0 → off ≠ 8 →
    (off = 0 → v.toNat.testBit 63 = false) → (∀ k, off = 0x10 + 8 * k → k < 4 → v &&& tget 0 s.hub.fusedOff k = 0) →
    x = putPart (prt s q) off v.toNat →
    ((prt s q).locked = false → (prt s q).busy = false →
      exec (.registerWrite p (0x60000 + 0x1000 * q + off) 8 v) s = .next (modPrt s q (fun _ => x))) ∧
    ((prt s q).locked = true ∨ (prt s q).busy = true → exec (.registerWrite p (0x60000 + 0x1000 * q + off) 8 v) s = .next
      (if x = prt s q then s else setupIgnored s (0x60000 + 0x1000 * q + off) v))) ∧
  (∀ (q : Nat) (s : State),
    (lockShape s q = false → runAct (lockChecks q) s = (.ok (.error (Code.descriptorInvalid, 1)), s)) ∧
    (lockShape s q = true → lockOwned s q = false → runAct (lockChecks q) s = (.ok (.error (Code.windowFault, 2)), s)) ∧
    (lockShape s q = true → lockOwned s q = true → lockStacks s q = false →
      runAct (lockChecks q) s = (.ok (.error (Code.stateConflict, 3)), s)) ∧
    (lockShape s q = true → lockOwned s q = true → lockStacks s q = true → lockAlone s q = false →
      runAct (lockChecks q) s = (.ok (.error (Code.stateConflict, 4)), s)) ∧
    (lockShape s q = true → lockOwned s q = true → lockStacks s q = true → lockAlone s q = true →
      ∀ (kv : Option (List Byte)) (u : State),
        (∀ st, runAct (readHeader (prt s q).kvTable 256) s = (.error (.fail st), u) →
          runAct (lockChecks q) s = (.ok (.error (st, 5)), u)) ∧
        (runAct (readHeader (prt s q).kvTable 256) s = (.ok kv, u) → ∀ (ven : Option (List Byte)) (w : State),
          (∀ st, runAct (readHeader (prt s q).venTable 64) u = (.error (.fail st), w) →
            runAct (lockChecks q) s = (.ok (.error (st, 5)), w)) ∧
          (runAct (readHeader (prt s q).venTable 64) u = (.ok ven, w) →
            ((∀ h, kv = some h → kvHeaderOk w q h = true) → (∀ h, ven = some h → venHeaderOk h = true) →
              runAct (lockChecks q) s = (.ok (.ok (kv, ven)), w)) ∧
            ((∃ h, kv = some h ∧ kvHeaderOk w q h = false) ∨ (∃ h, ven = some h ∧ venHeaderOk h = false) →
              runAct (lockChecks q) s = (.ok (.error (Code.descriptorInvalid, 6)), w))))) ∧
    runAct (readHeader 0 256) s = (.ok none, s) ∧ runAct (readHeader 0 64) s = (.ok none, s) ∧
    (∀ (table : BitVec 40) (n : Nat) (h : List Byte) (u : State), table ≠ 0 →
      runAct (loadFrom 4 (table.toNat * 64) n) s = (.ok h, u) → runAct (readHeader table n) s = (.ok (some h), u))) ∧
  (∀ (q : Nat) (e : Env) (s u : State), lockTurn (applyEnv e s) q = true →
    (∀ (st : Status) (k : Nat), runAct (lockChecks q) (applyEnv e s) = (.ok (.error (st, k)), u) →
      exec (.partitionLockDone q e) s = .next (modPrt u q (fun x => { x with
        busy := false, lockAge := 0, lastCmd := st, failedCheck := BitVec.ofNat 8 k }))) ∧
    (∀ (kv ven : Option (List Byte)) (w : State), runAct (lockChecks q) (applyEnv e s) = (.ok (.ok (kv, ven)), u) →
      runAct (latchHeaders q kv ven) u = (.ok (), w) →
      exec (.partitionLockDone q e) s = .next (modPrt (zeroPads w q) q (fun x => { x with
        busy := false, lockAge := 0, locked := true, lastCmd := Code.ok, failedCheck := 0 })))) ∧
  (∀ (q : Nat) (h : List Byte) (s : State),
    runAct (latchHeaders q none none) s = (.ok (), s) ∧
    runAct (latchHeaders q (some h) none) s = runAct (eachAct (rebuildSeq q) (List.range (at_ h 0 4)))
      ((List.range 24).foldl (latchPool q h) (modPrt s q (fun x => { x with seqCount := at_ h 0 4 }))) ∧
    runAct (latchHeaders q none (some h)) s = runAct (eachAct (rebuildSlot q) (List.range (at_ h 0 2)))
      (modPrt s q (fun x => { x with
        venSlots := at_ h 0 2, venLayers := at_ h 2 1, venBytes := at_ h 4 4, venFirst := at_ h 8 1, venCount := at_ h 9 1 })) ∧
    (∀ i, poolRefused s q h i = true → latchPool q h s i = logEvent s Cls.kvPoolDisabled 0 0 9 q i 0) ∧
    (∀ i, poolRefused s q h i = false → (poolField h i).2 ≠ 0 → latchPool q h s i =
      modPrt s q (fun x => { x with pools := tset none x.pools i (some (poolField h i)) })) ∧
    (∀ i, (poolField h i).2 = 0 → latchPool q h s i = s))

/-- BAR4 in MAIN_READY (R399), after what the outside has done (`applyEnv`, log entry 7): a read served by the hub gives the
bytes and changes nothing more but what has left the block, a write that meets no held write is made at its home, and an
access that is refused is logged as ABSENT_ACCESS with its local address (log entry 64): the read gives zero, the write is dropped. A
access comes from the hub, so it takes the die edges that lie between, of which none may be retraining (R18, Table 13-1). A
peg is reached by an aligned 4-byte access alone, within the partition's pegs, or with ALL 1 outside SERVICE within any partition's: the
read gives its value, the write is SET (R236). -/
def Obligations.Bar4ReachesMemory : Prop :=
  ∀ (p : PortId) (off : Nat) (e : Env) (s0 s : State), s = applyEnv e s0 → (port s p).linkUp = true → (port s p).d3hot = false →
    s.hub.stage = .mainReady → (port s p).held = [] →
    (∀ n bs u, portsDark s = false → bar4Serves s p false (bar4Addr s p off) n = true →
      (∀ m l, placeOf (bar4Addr s p off) ≠ .peg m l) → runAct (loadFrom 4 (bar4Addr s p off) n) s = (.ok bs, u) →
      exec (.bar4Read p off n e) s0 = .next { u with out := u.out ++ [.bar4Data p bs false] }) ∧
    (∀ bs u, bar4Serves s p true (bar4Addr s p off) bs.length = true → (∀ m l, placeOf (bar4Addr s p off) ≠ .peg m l) →
      runAct (storeFrom 4 none (bar4Addr s p off) bs) s = (.ok (), u) → exec (.bar4Write p off bs e) s0 = .next u) ∧
    (∀ bs, bar4Serves s p true (bar4Addr s p off) bs.length = false →
      exec (.bar4Write p off bs e) s0 = .next (absentAccess s p (bar4Addr s p off))) ∧
    (∀ (n : Nat) (t : State), bar4Serves s p false (bar4Addr s p off) n = false → t = absentAccess s p (bar4Addr s p off) →
      exec (.bar4Read p off n e) s0 = .next { t with out := t.out ++ [.bar4Data p (List.replicate n 0) false] }) ∧
    (∀ m l, placeOf (bar4Addr s p off) = .peg m l →
      (∀ w n, bar4Serves s p w (bar4Addr s p off) n = true ↔ (port s p).bar4En = true ∧ l = 0 ∧ n = 4 ∧
        (bar4Checked s p = true → ownsPeg s (port s p).bar4Part.toNat m = true) ∧
        (bar4Checked s p = false → ∃ q, ownsPeg s q m = true)) ∧
      (bar4Serves s p false (bar4Addr s p off) 4 = true → dieDown s (m / 16384) = false → bothWays s 4 (m / 16384) = true →
        exec (.bar4Read p off 4 e) s0 =
        .next { s with out := s.out ++ [.bar4Data p (leBytes 4 (tget 0 s.pegs m).toNat) false] }) ∧
      (∀ bs, bar4Serves s p true (bar4Addr s p off) bs.length = true → dieDown s (m / 16384) = false → pathUp s 4 (m / 16384) = true →
        exec (.bar4Write p off bs e) s0 = .next (setPeg s m (BitVec.ofNat 32 (leNat bs))) ∧
        (setPeg s m (BitVec.ofNat 32 (leNat bs))).pegs = tset 0 s.pegs m (BitVec.ofNat 32 (leNat bs))))

/-! ## Rings -/

/-- Ring commands of the vise holder (R217, Table 8-4): START of a stopped, assigned ring with sound sizes and memory sets the four
counts to 0 and the ring RUNNING, and changes nothing but the status of a ring that is not assigned (STATE_CONFLICT) or not soundly set up
(DESCRIPTOR_INVALID; that the whole of both rings' memory is checked, and not their bases alone, is the model's choice, log entry 53); STOP of a running ring with graphs in flight sets it STOPPING, and it fetches nothing more;
ABORT also ends every task of the ring's graphs that has not started with SKIPPED, where the die edges to its walker are up (R18; that it is
told there later otherwise is the model's choice, log entry 125). Each leaves its status in LAST_CMD_STATUS,
and the configuration of a stopped ring is written field by field: ASSIGNED takes 1 only for a locked partition, and otherwise it,
PARTITION and PORT keep their values, the other fields are written, and the write is logged (R396). -/
def Obligations.RingCommands : Prop :=
  ∀ (p : PortId) (r : Nat) (s : State), MaySet s p → r < 64 →
    ((ring s r).state = .stopped → (ring s r).assigned = true → ringSetUp s (ring s r) = true →
      exec (.start p r) s = .next (ringStatus (modRing s r (fun x => { x with
        state := .running, sqHead := 0, sqTail := 0, cqHead := 0, cqTail := 0 })) r Code.ok)) ∧
    ((ring s r).state ≠ .stopped ∨ (ring s r).assigned = false →
      exec (.start p r) s = .next (ringStatus s r Code.stateConflict)) ∧
    ((ring s r).state = .stopped → (ring s r).assigned = true → ringSetUp s (ring s r) = false →
      exec (.start p r) s = .next (ringStatus s r Code.descriptorInvalid)) ∧
    (∀ x : Ring, ringSetUp s x = true ↔ 4 ≤ x.sqLog2.toNat ∧ x.sqLog2.toNat ≤ 16 ∧ 4 ≤ x.cqLog2.toNat ∧ x.cqLog2.toNat ≤ 16 ∧
      ∀ write a n, (write, a, n) ∈ [(false, x.sqBase.toNat * 64, 64 * 2 ^ x.sqLog2.toNat),
          (true, x.cqBase.toNat * 64, 32 * 2 ^ x.cqLog2.toNat)] →
        hostBaseOf (ringPort x) ≤ a ∧ a + n ≤ hostBaseOf (ringPort x) + 2 ^ 43 ∧ inWindows s x.part.toNat write a n = true) ∧
    ((ring s r).state = .running → exec (.stop p r) s = .next (ringStatus (restRing (modRing s r (fun x => { x with
      state := .stopping, waiting := none })) r) r Code.ok)) ∧
    ((ring s r).state ≠ .running → exec (.stop p r) s = .next (ringStatus s r Code.stateConflict)) ∧
    ((ring s r).state ≠ .stopped → exec (.abort p r) s = .next
      (ringStatus ((ringTasks s r).foldl abortTask (stopRing s r)) r Code.ok)) ∧
    (∀ (k : Nat) (x : Task) (u : State), taskAt u k = some x →
      (pathUp u 4 x.die = true → abortTask u k = endUnstarted u k Code.skipped ∧
        ((x.started = true ∨ x.workDone = true → abortTask u k = u) ∧
          (x.started = false → x.workDone = false → abortTask u k = endWork (unplace u k x) k Code.skipped 0))) ∧
      (pathUp u 4 x.die = false → abortTask u k = { u with hub := { u.hub with abortsHeld := u.hub.abortsHeld ++ [k] } })) ∧
    ((ring s r).state = .stopped → exec (.abort p r) s = .next (ringStatus s r Code.stateConflict)) ∧
    (∀ v : Word, (ring s r).state = .stopped → s.hub.lockRings = false → v.toNat.testBit 31 = false →
      exec (.ringConfigWrite p r v) s = .next (modRing s r (fun x => { x with
        irqEn := v.toNat.testBit 43, vector := BitVec.ofNat 11 (v.toNat >>> 32), cqLog2 := BitVec.ofNat 5 (v.toNat >>> 8),
        sqLog2 := BitVec.ofNat 5 v.toNat, assigned := false, part := BitVec.ofNat 4 (v.toNat >>> 24),
        portB := v.toNat.testBit 16 }))) ∧
    (∀ v : Word, (ring s r).state = .stopped → s.hub.lockRings = false → v.toNat.testBit 31 = true →
      ((prt s (fld v.toNat 27 24)).locked = true → exec (.ringConfigWrite p r v) s = .next (modRing s r (fun x => { x with
        irqEn := v.toNat.testBit 43, vector := BitVec.ofNat 11 (v.toNat >>> 32), cqLog2 := BitVec.ofNat 5 (v.toNat >>> 8),
        sqLog2 := BitVec.ofNat 5 v.toNat, assigned := true, part := BitVec.ofNat 4 (v.toNat >>> 24),
        portB := v.toNat.testBit 16 }))) ∧
      ((prt s (fld v.toNat 27 24)).locked = false → exec (.ringConfigWrite p r v) s = .next (setupIgnored
        (modRing s r (fun x => { x with
          irqEn := v.toNat.testBit 43, vector := BitVec.ofNat 11 (v.toNat >>> 32), cqLog2 := BitVec.ofNat 5 (v.toNat >>> 8),
          sqLog2 := BitVec.ofNat 5 v.toNat })) (0x40000 + 0x100 * r + 0x10) v)))

/-- Doorbells (R210, R211, R215): a tail that a running ring of the port accepts is taken, a tail further ahead than the ring is
long or from another port is ignored and logged; a completion head within what has been written is taken, and one past it is
ignored and logged. While hub firmware is being activated a doorbell is latched, and acted on when that ends (R360). That the record names
the doorbell by its BAR2 offset is deduced (log entry 52). -/
def Obligations.DoorbellsMoveTheCounts : Prop :=
  ∀ (p : PortId) (r : Nat) (v : Word) (s : State), (port s p).linkUp = true → (port s p).d3hot = false → s.hub.stage = .mainReady →
    (port s p).held = [] → r < 64 →
    (firmwarePaused s = true →
      exec (.sqTail p r v) s = .next (modPort s p (fun q => { q with latched := q.latched ++ [(r, 0, v)] })) ∧
      exec (.cqHead p r v) s = .next (modPort s p (fun q => { q with latched := q.latched ++ [(r, 8, v)] }))) ∧
    ((port s p).latched = [(r, 0, v)] → ringLatched s p = actOnBell (modPort s p (fun q => { q with latched := [] })) p (r, 0, v)) ∧
    (firmwarePaused s = false → exec (.sqTail p r v) s = .next (actOnBell s p (r, 0, v)) ∧
      exec (.cqHead p r v) s = .next (actOnBell s p (r, 8, v))) ∧
    (firmwarePaused s = false → (ring s r).assigned = true → ringPort (ring s r) = p → (ring s r).state = .running →
      ((v.setWidth 32 : BitVec 32) - (ring s r).sqHead).toNat ≤ 2 ^ (ring s r).sqLog2.toNat →
      ((v.setWidth 32 : BitVec 32) - (ring s r).sqTail).toNat ≤ 2 ^ (ring s r).sqLog2.toNat →
      exec (.sqTail p r v) s = .next (modRing s r (fun x => { x with sqTail := v.setWidth 32 }))) ∧
    (firmwarePaused s = false → (ring s r).assigned = false ∨ ringPort (ring s r) ≠ p →
      exec (.sqTail p r v) s = .next (logEvent s Cls.doorbellIgnored 0 0 8 (portIdx p) (0x1000 * r + 0) v.toNat) ∧
      exec (.cqHead p r v) s = .next (logEvent s Cls.doorbellIgnored 0 0 8 (portIdx p) (0x1000 * r + 8) v.toNat)) ∧
    (firmwarePaused s = false → (v.setWidth 32 : BitVec 32) ≠ (ring s r).sqTail →
      2 ^ (ring s r).sqLog2.toNat < ((v.setWidth 32 : BitVec 32) - (ring s r).sqHead).toNat →
      exec (.sqTail p r v) s = .next (logEvent s Cls.doorbellIgnored 0 0 8 (portIdx p) (0x1000 * r + 0) v.toNat)) ∧
    (firmwarePaused s = false → (ring s r).assigned = true → ringPort (ring s r) = p →
      ((v.setWidth 32 : BitVec 32) - (ring s r).cqHead).toNat ≤ ((ring s r).cqTail - (ring s r).cqHead).toNat →
      (ring s r).held = [] → (ring s r).state = .running → twf {} s.rings = true →
      exec (.cqHead p r v) s = .next (modRing s r (fun x => { x with cqHead := v.setWidth 32 }))) ∧
    (firmwarePaused s = false → ((ring s r).cqTail - (ring s r).cqHead).toNat < ((v.setWidth 32 : BitVec 32) - (ring s r).cqHead).toNat →
      exec (.cqHead p r v) s = .next (logEvent s Cls.doorbellIgnored 0 0 8 (portIdx p) (0x1000 * r + 8) v.toNat))

/-- The front end (R213, R223, R224): the ring whose turn it is has its next entry read; an entry that cannot be read is
rejected with the read's status, one with its FENCE bit set is left while graphs of its ring are in flight, one whose graph passes every check waits for room in the walkers, one whose graph fails a check
is rejected with that check's status and first task. A waiting graph enters as soon as every walker it needs has room:
SQ_HEAD passes it, the ring counts it, and each of its tasks is in the walker of its die, those with predecessors pending (R225,
R226); the tag in the rejection of an entry that could not be read is a free value (log entry 8). -/
def Obligations.GraphsAreFetchedAndEnter : Prop :=
  (∀ (r : Nat) (env : Env) (s0 s u w : State) (e h : List Byte) (ds : List TaskDesc), s = applyEnv env s0 → frontPaused s = false →
    s.graphs.length < 1024 → fetchTurn s = some r →
    runAct (loadFrom 4 (sqSlot (ring s r)) 64) { s with hub := { s.hub with rotation := (r + 1) % 64 } } = (.ok e, u) →
    (bit (at_ e 24 1) 0 = true → (ring s r).graphs ≠ 0 → exec (.graphFetch r env) s0 = .next u) ∧
    (bit (at_ e 24 1) 0 = false ∨ (ring s r).graphs = 0 → runAct (readGraph (ring s r).part.toNat e) u = (.ok (.ok (h, ds)), w) →
      exec (.graphFetch r env) s0 = .next (holdGraph w r e h ds))) ∧
  (∀ (r : Nat) (env : Env) (s0 s u w : State) (e : List Byte) (st : Status) (first : Option Nat), s = applyEnv env s0 →
    frontPaused s = false → s.graphs.length < 1024 → fetchTurn s = some r → bit (at_ e 24 1) 0 = false ∨ (ring s r).graphs = 0 →
    runAct (loadFrom 4 (sqSlot (ring s r)) 64) { s with hub := { s.hub with rotation := (r + 1) % 64 } } = (.ok e, u) →
    runAct (readGraph (ring s r).part.toNat e) u = (.ok (.error (st, first)), w) →
    exec (.graphFetch r env) s0 = .next (rejectEntry w r (BitVec.ofNat 64 (at_ e 16 8)) st first)) ∧
  (∀ (r : Nat) (s : State) (g : Graph), (ring s r).waiting = some g → frontPaused s = false →
    canEnter s (ring s r).waitSeq g = true → g.tasks = [] → g.admitted = true →
    exec (.graphEnter r) s = .next { modRing s r (fun y => { y with
      sqHead := y.sqHead + 1, waiting := none, graphs := y.graphs + 1 }) with
        nextGraph := s.nextGraph + 1, graphs := tset none s.graphs s.nextGraph (some g) }) ∧
  (∀ (r : Nat) (env : Env) (s0 s u : State) (st : Status), s = applyEnv env s0 → frontPaused s = false → s.graphs.length < 1024 →
    fetchTurn s = some r →
    runAct (loadFrom 4 (sqSlot (ring s r)) 64) { s with hub := { s.hub with rotation := (r + 1) % 64 } } = (.error (.fail st), u) →
    exec (.graphFetch r env) s0 = .next (rejectEntry { u with freeCtr := u.freeCtr + 1 } r
      (BitVec.ofNat 64 (Config.freeNat u.freeCtr % 2 ^ 64)) st none)) ∧
  (∀ (r : Nat) (s : State) (g : Graph), (ring s r).waiting = some g → frontPaused s = false →
    canEnter s (ring s r).waitSeq g = true → ∃ t, t = enterGraph s r g ∧ exec (.graphEnter r) s = .next t ∧
      t.nextGraph = s.nextGraph + 1 ∧ graphAt t s.nextGraph = some g ∧
      t.admitQueue = (if g.admitted then s.admitQueue else s.admitQueue ++ [s.nextGraph]) ∧
      (twf {} s.rings = true → (ring t r).sqHead = (ring s r).sqHead + 1 ∧ (ring t r).waiting = none ∧
        (ring t r).graphs = (ring s r).graphs + 1 ∧ ∀ q, q ≠ r → ring t q = ring s q) ∧
      (twf none s.tasks = true → g.dies.length = g.tasks.length → g.tasks.length ≤ 16384 →
        ∀ i d, g.tasks[i]? = some d → ∃ x, taskAt t (taskKey s.nextGraph i) = some x ∧ x.graph = s.nextGraph ∧ x.index = i ∧
          x.part = g.part ∧ g.dies[i]? = some x.die ∧ x.desc.kind = d.kind ∧ x.desc.tag = d.tag ∧ x.preds = d.predCount ∧
          (0 < d.predCount → offline s x.die d = false → x.state = .pending)))

/-- Serving steps and KV copies (R277, R294, R298, R311): a step whose descriptor fails a check ends its graph with that status; one whose
descriptor passes is admitted, at the device time t0 when its admission began, whatever it has waited for since; that it waits while a step
of its partition that has completed still writes its records is the model's choice (log entry 121). A copy whose chains have all ended, and whose flushing reads have come back, gives its sequence the state it asked for: a SWAP_OUT
SWAPPED, a SWAP_IN RESIDENT; a failed one returns to the state before. -/
def Obligations.StepsAndCopiesEnd : Prop :=
  (∀ (g : Nat) (env : Env) (s0 s b : State) (x y : Graph), s = applyEnv env s0 → frontPaused s = false →
    s.admitQueue.head? = some g → graphAt s g = some x →
    (completing s x.part = true → exec (.stepAdmission g env) s0 = .next s) ∧
    (completing s x.part = false → y = { x with admitStart := some (x.admitStart.getD s.time) } → b = modGraph s g (fun _ => y) →
      (∀ (u : State) (st : Status), runAct (readStep y.part y.stepAddr) b = (.error (.fail st), u) →
        exec (.stepAdmission g env) s0 = .next (rejectGraph u g st)) ∧
      (∀ (u : State) (h : List Byte) (es cs : List (List Byte)), runAct (readStep y.part y.stepAddr) b = (.ok (h, es, cs), u) →
        (∀ w z, runAct (admitStep g y h es cs) u = (.ok (), w) → runAct (endGraph g) w = (.ok (), z) →
          exec (.stepAdmission g env) s0 = .next z) ∧
        (∀ w, runAct (admitStep g y h es cs) u = (.error .wait, w) → exec (.stepAdmission g env) s0 = .next b)))) ∧
  (∀ (s : State) (q : Nat), completing s q = true ↔ ∃ g y, (g, some y) ∈ s.steps ∧ y.part = q ∧ y.finals.isSome = true) ∧
  (∀ (q n : Nat) (env : Env) (s0 s u : State), s = applyEnv env s0 → frontPaused s = false →
    ((seqAt s q n).state = .swappingOut ∨ (seqAt s q n).state = .swappingIn) → (seqAt s q n).swapLeft = 0 →
    (seqAt s q n).swapFlush = [] → (seqAt s q n).swapGraph = none →
    runAct (reportSeq q n) (modSeq s q n (fun k => afterCopy k k.swapStatus)) = (.ok (), u) →
    exec (.swapCopyEnd q n env) s0 = .next u) ∧
  (∀ (k : KvSeq) (st : Status),
    (k.state = .swappingOut → (afterCopy k st).state = if st = 0 then .swapped else .resident) ∧
    (k.state = .swappingIn → (afterCopy k st).state = if st = 0 then .resident else .swapped))

/-! ## Tasks -/

/-- The walker places a ready task on a free unit that no earlier task keeps from it (R229, R230), ends a NOP at once, and
RELEASE_ALL makes the tasks ready that a break holds (R244). A JIG task that may begin starts its two jigs at its code. -/
def Obligations.TasksArePlaced : Prop :=
  (∀ (t u : Nat) (x : Task) (s : State), taskAt s t = some x → isReady x = true → walkerServes s x.die = true →
    spotOf s x = .unit u → heldBack s t x u = false →
    exec (.taskPlace t) s = .next (placeOn s t x u)) ∧
  (∀ (t : Nat) (x : Task) (s : State), taskAt s t = some x → isReady x = true → walkerServes s x.die = true →
    x.desc.kind = Kind.nop → exec (.taskPlace t) s = .next (endWork (startTask s t) t Code.ok 0)) ∧
  (∀ (t u : Nat) (x : Task) (s : State), taskAt s t = some x → x.desc.kind = Kind.bench →
    placeOn s t x u = modStk (modTask s t (fun x => { x with state := .placed, unit := some u })) u
      (fun y => { y with benchQueue := y.benchQueue ++ [t] })) ∧
  (∀ (p : PortId) (d : Nat) (s : State), MaySet s p → d < 4 → heldTasks s d ≠ [] →
    exec (.releaseAll p d) s = .next (modWlk ((heldTasks s d).foldl (fun s t => modTask s t (fun x => { x with state := .ready })) s)
      d (fun w => { w with lastCmd := Code.ok }))) ∧
  (∀ (p : PortId) (d : Nat) (s : State), MaySet s p → d < 4 → heldTasks s d = [] →
    exec (.releaseAll p d) s = .next (modWlk s d (fun w => { w with lastCmd := Code.stateConflict }))) ∧
  (∀ (cl t : Nat) (x : Task) (env : Env) (s0 s u : State) (h : List Byte), s = applyEnv env s0 → (clu s cl).task = some t →
    taskAt s t = some x → (clu s cl).begun = false → (clu s cl).ended = 0 → x.workDone = false → inReset s Dom.cluster cl = false →
    runAct (jigBegin cl x) (startOnce s t) = (.ok h, u) → exec (.jigTaskStart cl env) s0 = .next (startCluster u cl x h)) ∧
  (∀ (cl t : Nat) (x : Task) (env : Env) (s0 s u : State) (st : Status), s = applyEnv env s0 → (clu s cl).task = some t →
    taskAt s t = some x → (clu s cl).begun = false → (clu s cl).ended = 0 → x.workDone = false → inReset s Dom.cluster cl = false →
    runAct (jigBegin cl x) (startOnce s t) = (.error (.fail st), u) →
    exec (.jigTaskStart cl env) s0 = .next (modClu u cl (fun c => { c with begun := true, ended := st })))

/-- Completion and limits (R232, R235, R239, R249): a task whose work has ended, that has written nothing through a cache or a port
and asks for no remote operation, concludes in one step; its run ends with its writes, whatever then waits (R240); a started task past its
limit stops as its kind says, but for a JIG task whose cluster has come to rest: its outcome is fixed (R253); one whose work has ended fails
with RUN_TIMEOUT while it releases, unless its release had failed before its limit; a waiting task past its peg-wait limit ends with
WAIT_TIMEOUT. That a task whose result record cannot be made yet has completed all the same, has told its successors and counts in its
graph, and makes the record alone later, is the model's choice (log entry 121). A task, a jig or an LCALL's chain that has written to a host sends a flushing read through each port that those
writes used; that a read which has come back frees what waited for it and for the earlier ones of its port is deduced (log entry 33). -/
def Obligations.TasksCompleteOrRunOut : Prop :=
  (∀ (t : Nat) (env : Env) (s0 s u v w : State) (x y z : Task), s = applyEnv env s0 →
    taskAt s t = some x → x.unit = none → x.workDone = true → x.state ≠ .completed → runAct (releaseRegions t) s = (.ok (), u) → twf none u.tasks = true →
    taskAt u t = some y → y.hostPorts = [] → y.flushOut = [] → y.remoteSent = false →
    v = sendRemoteOps (modTask u t (fun x => { x with endTime := now u, status := releasedStatus u y })) t →
    taskAt v t = some z → z.remoteLeft = 0 →
    (runAct (concludeTask t z) v = (.ok (), w) → exec (.taskComplete t env) s0 = .next w) ∧
    (runAct (concludeTask t z) v = (.error .wait, w) → exec (.taskComplete t env) s0 = .next v)) ∧
  (∀ (t : Nat) (env : Env) (s0 s w : State) (x : Task), s = applyEnv env s0 → taskAt s t = some x → x.unit = none →
    x.workDone = true → x.state = .completed → runAct (recordTask t) s = (.ok (), w) → exec (.taskComplete t env) s0 = .next w) ∧
  (∀ (t : Nat) (x : Task) (s u w : State) (st : Status), st = lateStatus s x x.status →
    u = fixStep (countIn (modTask
      ((x.desc.succs.map (taskKey x.graph)).foldl (tellSuccessor (!isSuccess st && !x.desc.onFail)) (localOps s x st)) t
      (fun x => { x with state := .completed, status := st })) x st) x.graph →
    (opsReach s x st = false → (runAct (concludeTask t x) s).1 = .error .wait) ∧ (opsReach s x st = true →
    (runAct (recordTask t) u = (.ok (), w) → runAct (concludeTask t x) s = (.ok (), w)) ∧
    (runAct (recordTask t) u = (.error .wait, w) → runAct (concludeTask t x) s = (.ok (), u)))) ∧
  (∀ (t : Nat) (x : Task) (s u : State), taskAt s t = some x →
    (x.recorded = true → runAct (recordTask t) s = runAct (endGraph x.graph) s) ∧
    (x.recorded = false → runAct (writeRecord x x.status) s = (.ok (), u) → runAct (recordTask t) s =
      runAct (endGraph x.graph) (modTask u t (fun x => { x with recorded := true, entry := false })))) ∧
  (∀ (s : State) (x : Task) (g : Graph) (st : Status), graphAt s x.graph = some g →
    graphAt (countIn s x st) x.graph = some { countTask g (now s) x.index st with
      stepFail := if isSuccess st || x.desc.onFail then g.stepFail else earlier g.stepFail (now s, x.index, st) }) ∧
  (∀ (t : Nat) (s : State) (x : Task), taskAt s t = some x → limitReached s x = true →
    exec (.taskTimeLimit t) s = .next (limitTask s t x)) ∧
  (∀ (t cl : Nat) (s : State) (x : Task), x.workDone = false → x.desc.kind = Kind.jig → x.unit = some cl →
    limitTask s t x = if clusterQuiet (clu s cl) then s else limitChains (cutRunning (endJigTask s cl Code.runTimeout) cl) t) ∧
  (∀ (t : Nat) (s : State) (x : Task), x.workDone = true →
    (x.remoteSent = true → limitTask s t x = s) ∧
    (x.remoteSent = false → limitTask s t x = modTask s t (fun x => { x with status := releasedStatus s x })) ∧
    (limitReached s x = false → releasedStatus s x = demote x.status x.relFail) ∧
    (limitReached s x = true →
      (x.relFail ≠ 0 → x.relFailAt < limitEnd s x → releasedStatus s x = demote x.status x.relFail) ∧
      (x.relFail = 0 ∨ limitEnd s x ≤ x.relFailAt → releasedStatus s x = demote x.status Code.runTimeout))) ∧
  (∀ (t : Nat) (s : State) (x : Task), x.workDone = false → x.desc.kind = Kind.maint →
    limitTask s t x = modTask s t (fun x => { x with limitHit := true })) ∧
  (∀ (t : Nat) (s : State) (x : Task), taskAt s t = some x → x.state = .waiting → x.workDone = false → waitsMet x = false →
    (x.waitSince + waitLimitNs s x < now s → exec (.waitLimit t) s = .next (endUnstarted s t Code.waitTimeout)) ∧
    (now s ≤ x.waitSince + waitLimitNs s x → exec (.waitLimit t) s = .next s)) ∧
  (∀ (p : PortId) (s : State), (port s p).flushDone < (port s p).flushSent →
    exec (.hostFlushReadComplete p) s = .next (endFlush s p ((port s p).flushDone + 1) true)) ∧
  (∀ (p : PortId) (s : State), (port s p).flushSent ≤ (port s p).flushDone → exec (.hostFlushReadComplete p) s = .next s) ∧
  (∀ (p : PortId) (n : Nat) (s : State), ∃ w, w = endFlush s p n true ∧ port w p = { port s p with flushDone := n } ∧
    (∀ t, taskAt w t = (taskAt s t).map (fun x => { x with
      flushOut := x.flushOut.filter (fun e => decide (e.1 ≠ p) || decide (n < e.2)) })) ∧
    w = { modPort s p (fun q => { q with flushDone := n }) with tasks := w.tasks, clusters := w.clusters, parts := w.parts }) ∧
  (∀ (t : Nat) (s : State) (x : Task), taskAt s t = some x → x.flushOut = [] → (∀ p, p ∈ x.hostPorts → portLost (port s p) = false) →
    ∃ y, taskAt (flushTask s t) t = some y ∧ y.hostPorts = [] ∧ y.flushOut.map Prod.fst = x.hostPorts ∧
      (flushTask s t).out = s.out ++ x.hostPorts.map Output.flushRead) ∧
  (∀ (cl j : Nat) (s : State), j < 2 → twf {} s.clusters = true → (∀ p, p ∈ (jig s cl j).hostPorts → portLost (port s p) = false) →
    (jig (flushJig s cl j) cl j).hostPorts = [] ∧
    (jig (flushJig s cl j) cl j).flushOut.map Prod.fst = (jig s cl j).flushOut.map Prod.fst ++ (jig s cl j).hostPorts ∧
    (flushJig s cl j).out = s.out ++ (jig s cl j).hostPorts.map Output.flushRead) ∧
  (∀ (cl j t : Nat) (s : State) (c : Chain) (x : Ticket), ticketAt s cl j t = some x → j < 2 →
    (∀ p, p ∈ c.hostPorts → portLost (port s p) = false) → ∃ y, ticketAt (endTicket s c cl j t) cl j t = some y ∧
      y.flush.map Prod.fst = c.hostPorts ∧ y.status = demote (chainStatus c) c.relFail ∧ y.result = chainWord c ∧
      (y.finished = true ↔ c.hostPorts = []) ∧ (endTicket s c cl j t).out = s.out ++ c.hostPorts.map Output.flushRead)

/-! ## Numbers -/

/-- A finite code of a scalar format denotes a value that narrows back to that code: subnormals, signed zeros and the extremes
of the integer formats included (R29, R30, R31, R40, R41, R43). -/
def Obligations.FiniteCodesNarrowBack : Prop :=
  ∀ (t : Scalar) (c : Nat), c < 2 ^ t.width → (t.decode c).isNan = false → (t.decode c).isInf = false → narrow t (t.decode c) = c

/-- The integer operations of the S slot (R160, Table 6-5): they wrap modulo 2^64, shift by the low six bits, give the upper
halves of products, and divide by zero to all ones.
Integer formats are two's complement, each with its range and every value of it (R30); integer narrowing saturates (R41), and a NaN
narrows to the canonical NaN of FP32, BF16 and FP16, and to 0 in INT8 (R42). -/
def Obligations.IntegerOperations : Prop :=
  (∀ x y : Word,
    (alu 0x00 x y).toNat = (x.toNat + y.toNat) % 2 ^ 64 ∧ (alu 0x01 x y).toNat = (x.toNat + 2 ^ 64 - y.toNat) % 2 ^ 64 ∧
    (alu 0x05 x y).toNat = x.toNat * 2 ^ (y.toNat % 64) % 2 ^ 64 ∧ (alu 0x06 x y).toNat = x.toNat / 2 ^ (y.toNat % 64) ∧
    (alu 0x07 x y).toInt = x.toInt / 2 ^ (y.toNat % 64) ∧ (alu 0x08 x y).toInt = min x.toInt y.toInt ∧
    (alu 0x09 x y).toInt = max x.toInt y.toInt ∧ (alu 0x0A x y).toNat = min x.toNat y.toNat ∧
    (alu 0x0B x y).toNat = max x.toNat y.toNat ∧ (alu 0x0C x y).toNat = x.toNat * y.toNat % 2 ^ 64 ∧
    (alu 0x0D x y).toInt = x.toInt * y.toInt / 2 ^ 64 ∧ (alu 0x0E x y).toNat = x.toNat * y.toNat / 2 ^ 64 ∧
    (y = 0 → alu 0x0F x y = BitVec.allOnes 64 ∧ alu 0x10 x y = x) ∧
    (y ≠ 0 → (alu 0x0F x y).toNat = x.toNat / y.toNat ∧ (alu 0x10 x y).toNat = x.toNat % y.toNat)) ∧
  ((∀ (t : Scalar) (w : Nat), (t, w) ∈ [(Scalar.int32, 32), (.int16, 16), (.int8, 8), (.int6, 6), (.int4, 4), (.int3, 3)] →
    (∀ c, c < 2 ^ w → t.decode c = Machine.Num.ofInt (Scalar.decodeInt w c) ∧ -(2 ^ (w - 1) : Int) ≤ Scalar.decodeInt w c ∧
      Scalar.decodeInt w c ≤ 2 ^ (w - 1) - 1 ∧ Scalar.decodeInt w c % (2 ^ w : Int) = c) ∧
    (∀ i : Int, -(2 ^ (w - 1) : Int) ≤ i → i ≤ 2 ^ (w - 1) - 1 → ∃ c, c < 2 ^ w ∧ Scalar.decodeInt w c = i)) ∧
  (∀ i : Int, Scalar.decodeInt 8 (narrow .int8 (Machine.Num.ofInt i)) = if i < -128 then -128 else if 127 < i then 127 else i) ∧
  (∀ i : Int, Scalar.decodeInt 16 (narrow .int16 (Machine.Num.ofInt i)) =
    if i < -32768 then -32768 else if 32767 < i then 32767 else i) ∧
  narrow .fp32 .nan = 0x7FC00000 ∧ narrow .bf16 .nan = 0x7FC0 ∧ narrow .fp16 .nan = 0x7E00 ∧ narrow .int8 .nan = 0)

/-! ## Clusters: jigs, presses, drawers -/

/-- Bundles (R158, R176, R178): a jig that runs a task stops before a bundle that a break names, passes over one whose guard does
not hold, and otherwise carries it out, ending its task where a slot meets a fault; an illegal one leaves free values in the cluster
(log entry 24). -/
def Obligations.BundlesExecute : Prop :=
  ∀ (cl j t : Nat) (x : Task) (env : Env) (s0 s : State), s = applyEnv env s0 → (clu s cl).task = some t → taskAt s t = some x →
    jigActive s cl j = true → (jig s cl j).stopped = false →
    (∀ cause, breakCause (jig s cl j) x.desc.tag.toNat = some cause → exec (.bundleExecute cl j env) s0 = .next (stopJig s cl j cause)) ∧
    (∀ (u : State) (b : Bundle), breakCause (jig s cl j) x.desc.tag.toNat = none →
      runAct (fetchBundle (ctxOf s cl j t x) (jig s cl j).pc.toNat) s = (.ok (b, true), u) →
      exec (.bundleExecute cl j env) s0 = .next (afterBundle (havoc u (ctxOf s cl j t x) x) (ctxOf s cl j t x) {})) ∧
    (∀ (u : State) (b : Bundle), breakCause (jig s cl j) x.desc.tag.toNat = none →
      runAct (fetchBundle (ctxOf s cl j t x) (jig s cl j).pc.toNat) s = (.ok (b, false), u) →
      (guardOf (jig u cl j) b = false → exec (.bundleExecute cl j env) s0 = .next (afterBundle
        (modJig u cl j (fun g => goOn g ((jig s cl j).pc.toNat + bundleLen b.head))) (ctxOf s cl j t x) {})) ∧
      (∀ (w : State) (ce : CEffect), guardOf (jig u cl j) b = true →
        runAct (runBundle (ctxOf s cl j t x) x (jig s cl j).pc.toNat b) u = (.ok ce, w) →
        exec (.bundleExecute cl j env) s0 = .next (afterBundle w (ctxOf s cl j t x) ce)) ∧
      (∀ (w : State) (st : Status), guardOf (jig u cl j) b = true →
        runAct (runBundle (ctxOf s cl j t x) x (jig s cl j).pc.toNat b) u = (.error (.fail st), w) →
        exec (.bundleExecute cl j env) s0 = .next (endJigTask w cl st)))

/-- A bundle of one S slot writes its one register, moves the program counter past its six bytes and counts (R157, R158, R160);
the register s0 reads zero and p0 reads one, whatever is written (Table 6-1). -/
def Obligations.ScalarBundles : Prop :=
  (∀ (c : Ctx) (x : Task) (pc w : Nat) (s : State), ∃ mhz : Nat,
    runAct (runBundle c x pc { head := 0x8000, s := some w }) s = (.ok {}, modJig (modJig { s with freeCtr := s.freeCtr + 1 } c.cl c.j
      (fun g => putReg g (runS (jig s c.cl c.j)
        (sysValue s c (jig s c.cl c.j).bundles.toNat mhz) w))) c.cl c.j
      (fun g => goOn g ((pc + 6) % 2 ^ 46)))) ∧
  (∀ (g : Jig) (a : Nat), (goOn g a).pc = BitVec.ofNat 46 a ∧ (goOn g a).bundles = g.bundles + 1 ∧ (goOn g a).s = g.s ∧
    (goOn g a).v = g.v ∧ (goOn g a).p = g.p) ∧
  (∀ (g : Jig) (r : RegWrite), twf 0 g.s = true → twf 0 g.v = true →
    sreg (putReg g r) 0 = 0 ∧ preg (putReg g r) 0 = true ∧
    (∀ n v, r = .s n v → n ≠ 0 → sreg (putReg g r) n = v ∧ (∀ m, m ≠ n → sreg (putReg g r) m = sreg g m)) ∧
    (∀ n v, r = .v n v → vreg (putReg g r) n = v ∧ (∀ m, m ≠ n → vreg (putReg g r) m = vreg g m)) ∧
    (∀ n b, r = .p n b → n ≠ 0 → n < 8 →
      preg (putReg g r) n = b ∧ (∀ m, m ≠ n → m < 8 → preg (putReg g r) m = preg g m)))

/-- Debug of a jig by the vise holder (R178, R179): HALT_REQ stops it with cause 4 and one JIG_STOP record, RESUME lets it go on, STEP
runs one bundle, and DBG_DATA writes the register that DBG_SEL names while it is stopped. That RESUME and STEP pass a break at the jig's own bundle
is deduced where the jig has taken that break (log entry 25) and the model's choice where it has not, as is that they clear CAUSE (log
entry 110).
A jig that stops alone (R178): it is stopped with the cause, waits for nothing any more, and the stop is logged with its program counter
and tag. -/
def Obligations.JigDebugCommands : Prop :=
  (∀ (p : PortId) (cl j : Nat) (s : State), MaySet s p → clusterPresent s cl = true →
    (jigActive s cl j = true → (jig s cl j).stopped = false → exec (.jigHaltReq p cl j) s = .next (stopJig s cl j 4)) ∧
    ((jig s cl j).stopped = true → exec (.jigResume p cl j) s = .next (refreshHold (modJig s cl j (fun g => { g with
      stopped := false, cause := 0, skipBreak := true, stepping := false })) cl)) ∧
    ((jig s cl j).stopped = false → exec (.jigResume p cl j) s = .next s) ∧
    (∀ (env : Env) (s0 : State), s = applyEnv env s0 → (jig s cl j).stopped = true →
      exec (.jigStep p cl j env) s0 = .next (runJig (refreshHold (modJig s cl j (fun g => { g with
        stopped := false, cause := 0, skipBreak := true, stepping := true })) cl) cl j)) ∧
    (∀ v : Word, (jig s cl j).stopped = true →
      exec (.jigDbgDataWrite p cl j v) s = .next (modJig s cl j (fun g => dbgWrite (jig s cl (1 - j)) g v))) ∧
    (∀ v : Word, (jig s cl j).stopped = false → exec (.jigDbgDataWrite p cl j v) s = .next s) ∧
    (∀ (o g : Jig) (v : Word),
      (fld g.dbgSel.toNat 10 8 = 0 → dbgWrite o g v = putReg g (.s (fld g.dbgSel.toNat 7 3) v)) ∧
      (fld g.dbgSel.toNat 10 8 = 3 → (dbgWrite o g v).pc = BitVec.ofNat 46 (v.toNat % 2 ^ 46 / 2 * 2) ∧
        dbgWrite o g v = { g with pc := (dbgWrite o g v).pc, astray := (dbgWrite o g v).astray }))) ∧
  (∀ (s u : State) (cl j : Nat) (cause : BitVec 3), jigActive s cl j = true → (jig s cl j).stopped = false →
    u = unstall (modJig s cl j (fun g => { g with stopped := true, cause := cause, stepping := false })) cl
      (fun b => decide (b = .jig j)) →
    stopOne s cl j cause = logEvent u Cls.jigStop 0 0 4 (2 * cl + j) (clusterTag u cl % 2 ^ 32)
      (cause.toNat * 2 ^ 61 + (jig u cl j).pc.toNat))

/-- Press operations (R131, R140, R141, R142, R149): the first operation of a press starts when nothing keeps it back, with its
results, and does not start while an earlier one writes what it uses or reads what it writes (overlapping reads never wait); when
it retires its writes are made, its scoreboard entries go, and its note is made; a note that waits goes into its
drawer once there is room; shim load ends on a press with work. That an operation reads all its operands when it starts, and makes all its
writes when it retires, is the model's choice (log entry 114), which the spec leaves open (Table 5-8). -/
def Obligations.PressOperationsRunAndRetire : Prop :=
  ∀ (cl press : Nat),
    (∀ (env : Env) (s0 s u : State) (o : PressOp) (before : List PressOp) (stores : List (Nat × List Byte)) (nan : Bool),
      s = applyEnv env s0 → headOp (clu s cl).queue press = some (o, before) → o.running = false →
      4 > notesOf (clu s cl) press → bit (clu s cl).shim.toNat press = false → opWaits o before = false →
      runAct (runRecord cl o.record) s = (.ok (stores, nan), u) →
      exec (.pressOpStart cl press env) s0 = .next (modClu u cl (fun c => { c with
        queue := c.queue.set before.length { o with running := true, stores := stores, nan := nan } }))) ∧
    (∀ (env : Env) (s0 s : State) (o : PressOp) (before : List PressOp), s = applyEnv env s0 →
      headOp (clu s cl).queue press = some (o, before) →
      (∃ e ∈ before, (∃ x ∈ e.writes, ∃ y ∈ o.reads ++ o.writes, x.1 < y.2 ∧ y.1 < x.2) ∨
        (∃ x ∈ e.reads, ∃ y ∈ o.writes, x.1 < y.2 ∧ y.1 < x.2)) → exec (.pressOpStart cl press env) s0 = .next s) ∧
    (∀ (o : PressOp) (before : List PressOp), opWaits o before = true ↔
      ∃ e ∈ before, (∃ x ∈ e.writes, ∃ y ∈ o.reads ++ o.writes, x.1 < y.2 ∧ y.1 < x.2) ∨
        (∃ x ∈ e.reads, ∃ y ∈ o.writes, x.1 < y.2 ∧ y.1 < x.2)) ∧
    (∀ (s : State) (o : PressOp) (before : List PressOp), headOp (clu s cl).queue press = some (o, before) → o.running = true →
      exec (.pressOpRetire cl press) s = .next (startShim (makeNote (modClu (padStores s cl o.stores) cl (fun c => { c with
        queue := c.queue.erase o, retired := c.retired + 1 })) cl o) cl o.press)) ∧
    (∀ (s : State) (o : PressOp), Rec.noteEn o.record = true → (drawer s cl (Rec.noteDrawer o.record)).packet = false →
      noteWaits (clu s cl) o.press (Rec.noteDrawer o.record) = false → (drawer s cl (Rec.noteDrawer o.record)).words.length < 1024 →
      makeNote s cl o = modDrawer s cl (Rec.noteDrawer o.record) (fun d => pushWord 2 d (noteWord o))) ∧
    (∀ (s : State) (n : Note), firstNote (clu s cl) press = some n → (drawer s cl n.drawer).words.length < 1024 →
      exec (.notePush cl press) s = .next (modDrawer (modClu s cl (fun c => { c with notes := c.notes.erase n })) cl n.drawer
        (fun d => pushWord 2 d n.word))) ∧
    (∀ s : State, 0 < pressLoad (clu s cl) press →
      exec (.shimLoadStop cl press) s = .next (modClu s cl (fun c => { c with shim := c.shim &&& ~~~(1#4 <<< press) })))

/-- Drawers (R144 to R147): what is pushed comes out in the order of pushing, each word with bit 63 set; a push finds room up to 1,024
words, and popping takes from the front: DPOP of n words hands over the first min(n, a) of the a available words in order and then zero
words, of a drawer without a storage error. -/
def Obligations.DrawersKeepOrder : Prop :=
  ∀ (d : Drawer) (who n : Nat) (ws : List Word),
    (ws.foldl (pushWord who) d).words = d.words ++ ws.map validWord ∧ (∀ w : Word, (validWord w).toNat.testBit 63 = true) ∧
    (popWords n d).words = d.words.drop n ∧ (d.marks = [] → poppedWords n d = d.words.take n) ∧
    (∀ (c : Ctx) (w m : Nat) (s : State), d = drawer s c.cl (Slot.e w) → d.marks = [] → twf {} s.clusters = true →
      n = (if (Slot.fn w).testBit 0 then 8 else 1) → m = Nat.min n (available d) →
      ∃ t, runAct (runDpop c w) s = (.ok { writes := if n = 8
          then [.v (Slot.d w) (packLanes 64 ((d.words.take m ++ List.replicate (n - m) 0).map BitVec.toNat))]
          else [.s (Slot.d w) ((d.words.take m ++ List.replicate (n - m) 0).headD 0)] }, t) ∧
        t = modDrawer s c.cl (Slot.e w) (popWords m)) ∧
    (d.packet = false → available d = d.words.length ∧ (pushRoom d who n = true ↔ d.words.length + n ≤ 1024)) ∧
    (d.packet = true → d.openLeft ≠ 0 → d.openBy ≠ who → pushRoom d who n = false) ∧ available d ≤ d.words.length

/-! ## Benches -/

/-- A bench task (R104 to R108): the head of a stack's queue becomes active in a free slot (which one is the model's choice, log entry 131:
the lowest) where its program passes every check and its registers fit, and ends with the status of the first check that fails; the operation whose turn it is starts with
its results, once the array's rest for its duty is over (R380; that it rests after each operation, for as long as the duty asks, is the model's
choice, log entry 103) and no channel retrains (R361); one that fails keeps its status for the end; an operation that ends makes its
writes, or holds those to DRAM back while the write hold-off lasts (R120, R123). That an operation reads all its operands as it starts and
makes all its writes as it ends is the model's choice (log entry 123). -/
def Obligations.BenchTasksRun : Prop :=
  ∀ (i : Nat) (env : Env) (s0 s : State), s = applyEnv env s0 → inReset s Dom.stack i = false →
    (∀ (t k : Nat) (rest : List Nat) (x : Task) (p : List Byte) (u : State), (stk s i).benchQueue = t :: rest →
      freeSlot (stk s i) = some k → taskAt s t = some x → x.workDone = false → rangesBusy s (declared s x) = false →
      runAct (fetchProgram x) s = (.ok p, u) → Prog.regs p ≤ 32 → regsHeld (stk u i) + Prog.regs p ≤ 32 →
      (progStatus u x i p = 0 → exec (.benchTaskActivate i env) s0 = .next (modStk (modStk (startTask u t) i (fun y => { y with
        slots := tset none y.slots k (some { task := t, prog := p }) })) i (fun y => { y with benchQueue := y.benchQueue.drop 1 }))) ∧
      (progStatus u x i p ≠ 0 → exec (.benchTaskActivate i env) s0 = .next (modStk
        (endWork (startTask u t) t (progStatus u x i p) 0) i (fun y => { y with benchQueue := y.benchQueue.drop 1 })))) ∧
    (∀ (k : Nat) (b : BenchTask) (x : Task) (o : BOut) (u : State), (stk s i).running = none → nextSlot s (stk s i) = some k →
      tget none (stk s i).slots k = some b → taskAt s b.task = some x → benchPaused s i = false → (stk s i).retrainBusy = false →
      (stk s i).restUntil ≤ now s → ∀ c : BCtx, c = {
        i := i, part := x.part, base := Prog.base b.prog, mask := Prog.mask b.prog, regs := b.regs,
        ins := localRanges s x.desc.ins } →
      runAct (runOperation c (Prog.record b.prog b.next) (extensionAt b.prog b.next)) s = (.ok o, u) →
      exec (.benchOperationStart i env) s0 = .next (modStk u i (fun y => { y with
        running := some {
          slot := k, stores := o.stores, banks := banksRead s c (Prog.record b.prog b.next) (extensionAt b.prog b.next) },
        rotation := (k + 1) % 4, opStart := now u,
        slots := tset none y.slots k (some { b with clamped := b.clamped || o.clamped, nan := b.nan || o.nan }) }))) ∧
    (∀ (k : Nat) (b : BenchTask) (x : Task) (st : Status) (u : State), (stk s i).running = none →
      nextSlot s (stk s i) = some k → tget none (stk s i).slots k = some b → taskAt s b.task = some x → benchPaused s i = false →
      (stk s i).retrainBusy = false → (stk s i).restUntil ≤ now s → ∀ c : BCtx, c = {
        i := i, part := x.part, base := Prog.base b.prog, mask := Prog.mask b.prog, regs := b.regs,
        ins := localRanges s x.desc.ins } →
      runAct (runOperation c (Prog.record b.prog b.next) (extensionAt b.prog b.next)) s = (.error (.fail st), u) →
      exec (.benchOperationStart i env) s0 = .next (modStk u i (fun y => { y with
        running := some {
          slot := k, status := st, banks := banksRead s c (Prog.record b.prog b.next) (extensionAt b.prog b.next) },
        rotation := (k + 1) % 4, opStart := now u, slots := tset none y.slots k (some b) }))) ∧
    (∀ (r : BenchRun) (u : State), (stk s i).running = some r → ((stk s i).writeHold && r.stores.any isDram) = false →
      (stk s i).retrainBusy = false →
      runAct (writeOut i r.slot r.stores) (issueOwed (modStk s i (fun y => { y with
        running := none, restUntil := now s + restNs s i (now s - (stk s i).opStart),
        slots := tmod none y.slots r.slot (fun b => b.map (fun b => { b with
          next := b.next + (if Bop.opcode (Prog.record b.prog b.next) = Bo.attn then 2 else 1), staged := [],
          failed := if b.failed = 0 then r.status else b.failed })) })) i) = (.ok (), u) →
      exec (.benchOperationEnd i env) s0 = .next u) ∧
    ((stk s i).retrainBusy = true → exec (.benchOperationStart i env) s0 = .next s ∧ exec (.benchOperationEnd i env) s0 = .next s) ∧
    (now s < (stk s i).restUntil → exec (.benchOperationStart i env) s0 = .next s) ∧
    (∀ r : BenchRun, (stk s i).running = some r → (stk s i).writeHold = true → r.stores.any isDram = true →
      (stk s i).retrainBusy = false →
      exec (.benchOperationEnd i env) s0 = .next (issueOwed (modStk s i (fun y => { y with
        running := none, restUntil := now s + restNs s i (now s - (stk s i).opStart),
        slots := tmod none y.slots r.slot (fun b => b.map (fun b => { b with
          next := b.next + (if Bop.opcode (Prog.record b.prog b.next) = Bo.attn then 2 else 1), staged := r.stores,
          failed := if b.failed = 0 then r.status else b.failed })) })) i))

/-! ## Layout engines -/

/-- Chains (R183, R184, R192): the chain at the head of an engine starts with its first call; a call that ends well and names no next
one ends the chain, which its submitter hears of; one that fails ends the chain with its status; a call that names another is
followed by it, but for the 65th, which ends the chain with DESCRIPTOR_INVALID. `watched` notes on the chain the host ports that its
own writes used (R249). That a call computes its writes when it starts and makes them all at its end is the model's choice (log entry
116), and that `LAY.CALLS` counts each call at its end, a failed one too, is deduced (log entry 38). -/
def Obligations.LayoutChainsRun : Prop :=
  ∀ (r : Nat) (env : Env) (s0 s : State) (c : Chain) (rest : List Chain), s = applyEnv env s0 → (reg s r).chains = c :: rest →
    (∀ (u v w : State) (res : CallResult) (call : Call), c.busy = false → inReset s Dom.region r = false →
      (∀ q n, c.owner ≠ .swap q n) → runAct (chainAcquire r c) (startOwner s r c) = (.ok (), u) →
      v = modReg u r (fun x => { x with mitreFail := none, mitreAgain := [] }) → runAct (beginCall r c) v = (.ok (res, call), w) →
      exec (.layoutChainStart r env) s0 = .next (setHead (noteDest w c call) r { c with
        busy := true, started := true, calls := c.calls + 1, next := call.next, transposing := decide (call.op = Lop.transpose),
        hint := call.dst.hint, stores := res.stores, passes := res.passes, status := res.status, clamps := c.clamps + res.clamps,
        nans := c.nans + res.nans, pow2 := c.pow2 + res.pow2 })) ∧
    (∀ (u : State) (st : Status) (e : Chain), c.busy = true → (∀ cl j t, c.owner ≠ .ticket cl j t) →
      runAct (watched c (finishStores r c)) s = (.ok (st, e), u) → st ≠ 0 ∨ c.next = 0 →
      exec (.layoutCallEnd r env) s0 = .next (endChain (modReg u r (fun x => { x with calls := x.calls + 1 })) r { e with
        busy := false, stores := [], passes := [], status := st, addr := c.next })) ∧
    (∀ (u : State) (e : Chain), c.busy = true → (∀ cl j t, c.owner ≠ .ticket cl j t) →
      runAct (watched c (finishStores r c)) s = (.ok (0, e), u) → c.next ≠ 0 → 64 ≤ c.calls →
      exec (.layoutCallEnd r env) s0 = .next (endChain (modReg u r (fun x => { x with calls := x.calls + 1 })) r { e with
        busy := false, stores := [], passes := [], status := Code.descriptorInvalid, addr := c.next })) ∧
    (∀ (st : Status) (e : Chain) (u : State), runAct (watched c (finishStores r c)) s = (.ok (st, e), u) →
      e = { c with hostPorts := e.hostPorts, relFail := e.relFail } ∧ (∀ p, p ∈ c.hostPorts → p ∈ e.hostPorts)) ∧
    (∀ (u w : State) (e : Chain), c.busy = true → runAct (watched c (finishStores r c)) s = (.ok (0, e), u) → c.next ≠ 0 →
      c.calls < 64 → runAct (startCall r { e with busy := false, stores := [], passes := [], status := 0, addr := c.next })
        (modReg u r (fun x => { x with calls := x.calls + 1 })) = (.ok (), w) →
      exec (.layoutCallEnd r env) s0 = .next w) ∧
    (∀ (u : State) (t : Nat), c.owner = .task t → (reg u r).waiting = [] → twf {} u.regions = true →
      endChain u r c = endWork (modReg u r (fun x => { x with chains := x.chains.drop 1 })) t (chainStatus c) (chainWord c))

/-! ## Stacks -/

/-- Mapping of a stack, by the vise holder (R59, R60, Table 3-15): a new mode starts a fill of the whole stack, the same mode changes
nothing, the lock stays set and keeps the mode, and the end of the fill, which waits for a write hold-off and a retraining to end, opens the
stack and makes the bench writes that it has kept back. -/
def Obligations.StackSetUp : Prop :=
  (∀ (p : PortId) (i : Nat) (m : Bool) (s : State), MaySet s p → (stk s i).lock = false → twf {} s.stackTab = true →
    ((stk s i).sharded = m → exec (.stackModeWrite p i m) s = .next s) ∧
    ((stk s i).sharded ≠ m → ∃ t, exec (.stackModeWrite p i m) s = .next t ∧ (stk t i).sharded = m ∧ (stk t i).initBusy = true ∧
      (∀ o, o < 0x1000000000 → mget t.dram (stackBase i + o) = 0) ∧
      (∀ a, a < stackBase i ∨ stackBase (i + 1) ≤ a → mget t.dram a = mget s.dram a) ∧ t.spad = s.spad ∧ t.bbuf = s.bbuf)) ∧
  (∀ (p : PortId) (i : Nat) (m : Bool) (s : State), MaySet s p → (stk s i).lock = true → (stk s i).sharded ≠ m →
    exec (.stackModeWrite p i m) s = .next (setupIgnored s (Base.stk i)
      (BitVec.ofNat 64 (stkConfigWord { stk s i with sharded := m })))) ∧
  (∀ (p : PortId) (i : Nat) (s : State), MaySet s p → (stk s i).lock = false →
    exec (.stackConfigLock p i) s = .next (modStk s i (fun st => { st with lock := true }))) ∧
  (∀ (i : Nat) (s : State), (stk s i).initBusy = true → s.hub.mainPg = true → inReset s Dom.stack i = false →
    (stk s i).writeHold = false → (stk s i).retrainBusy = false →
    exec (.stackFillEnd i) s = .next (flushStaged (modStk s i (fun st => { st with initBusy := false })) i)) ∧
  (∀ (i : Nat) (s : State), (stk s i).writeHold = true ∨ (stk s i).retrainBusy = true → exec (.stackFillEnd i) s = .next s) ∧
  (∀ (i : Nat) (s : State), (∀ k, k < 4 → ((tget none (stk s i).slots k).map BenchTask.staged).getD [] = []) → flushStaged s i = s)

/-- In STRIPED mode offset o of a stack with N channels of C bytes lies in its window exactly when o is less than N × C, every granule
of the window spans all N channels, and in SHARDED mode channel h holds the offsets from h × C up (R61, R62).
A channel offset names its byte, its sector, its row and its bank (R63). -/
def Obligations.StackWindows : Prop :=
  (∀ (s : State) (i o : Nat), stackPresent s i = true →
    ((stk s i).sharded = false →
      (absentOff s i o = false ↔ o < (activeChannels (stk s i)).length * channelBytes s) ∧
      (∀ g, g < (activeChannels (stk s i)).length * channelBytes s / 2097152 → ∀ h ∈ activeChannels (stk s i),
        ∃ x, granOf x = g ∧ (channelOf s i x).1 = h)) ∧
    ((stk s i).sharded = true → ∀ h, h < 64 → bit (stk s i).chAbsent.toNat h = false → h * channelBytes s ≤ o →
      o < (h + 1) * channelBytes s → absentOff s i o = false ∧ channelOf s i o = (h, o - h * channelBytes s))) ∧
  (∀ co : Nat, co < 2 ^ 30 → ∃ row col : Nat, bankOf co = (row, col ^^^ (row % 64), co / 64 % 32, co % 64) ∧
    row = co / 2 ^ 17 ∧ col = co / 2 ^ 11 % 64 ∧ (co < 768 * 2 ^ 20 → row < 6144))

/-- Offsets of a stack's window and the offsets below C in its active channels correspond one to one, each way (R61, R62). -/
def Obligations.ChannelsCoverTheWindow : Prop :=
  (∀ (s : State) (i o : Nat), absentOff s i o = false →
    (channelOf s i o).1 ∈ activeChannels (stk s i) ∧ (channelOf s i o).2 < channelBytes s ∧
      offsetOf s i (channelOf s i o).1 (channelOf s i o).2 = o) ∧
  (∀ (s : State) (i h co : Nat), stackPresent s i = true → h ∈ activeChannels (stk s i) → co < channelBytes s →
    absentOff s i (offsetOf s i h co) = false ∧ channelOf s i (offsetOf s i h co) = (h, co))

/-- Poison (R76, R77): a sector that becomes poisoned enters the list, with one POISON_NEW record; when no entry is free, its whole
granule is marked POISON_ALL and one POISON_ALL record is made; the list that passes 3,840 entries is logged; a sector that is
poisoned already changes nothing. The resident sequences whose region the sector, or the granule marked POISON_ALL, meets are marked, in
the hub and in their descriptors (R284), and nothing else is: a descriptor is reported at once, or as soon as its home takes it (log entry
102). That both records give the status POISONED is deduced (log entry 29). -/
def Obligations.SectorsArePoisoned : Prop :=
  ∀ (s u : State) (i sec : Nat) (w : Bool), u = markSeqs s i (sec * 64) 64 →
    u = { s with
      parts := u.parts, dram := u.dram, spad := u.spad,
      portA := { s.portA with mem := u.portA.mem }, portB := { s.portB with mem := u.portB.mem } } ∧
    (∀ (v : State) (q n : Nat), seqAt (poisonSeq v (q, n)) q n = { seqAt v q n with
      poison := true,
      reportDue := (pokeHome v (descAddr v q n) (reportFields { seqAt v q n with poison := true })).isNone }) ∧
    (∀ o n, markSeqs s i o n =
      (if (stk s i).sharded then unmarked s (seqHolds i (channelOf s i o).2 n) else []).foldl poisonSeq s) ∧
    (∀ (co n : Nat) (k : KvSeq), seqHolds i co n k = true ↔
      k.state = .resident ∧ k.home = i ∧ k.base < co + n ∧ co < k.base + regionBytes k) ∧
    ((stk s i).sharded = false ∨ unmarked s (seqHolds i (channelOf s i (sec * 64)).2 64) = [] → u = s) ∧
    (isPoisoned s i sec = true → poisonSector s i sec w = s) ∧
    (isPoisoned s i sec = false → 4096 ≤ (stk s i).poison.length →
      poisonSector s i sec w = logEvent (modGran (markSeqs s i (sec / 32768 * 2097152) 2097152) i (sec / 32768)
        (fun g => { g with poisonAll := true })) Cls.poisonAll 2 Code.poisoned 5 i (sec / 32768) 0) ∧
    (isPoisoned s i sec = false → (stk s i).poison.length < 4096 → (stk s i).poison.length ≠ 3840 →
      poisonSector s i sec w = logEvent (modStk u i (fun st => { st with
        poison := tset none st.poison (lowestFree 0 st.poison) (some { worked := w, sector := sec }) }))
        Cls.poisonNew 2 Code.poisoned 6 (64 * i + (channelOf s i (sec * 64)).1) (b2n w) (stackBase i + sec * 64)) ∧
    (isPoisoned s i sec = false → (stk s i).poison.length = 3840 →
      poisonSector s i sec w = logEvent (logEvent (modStk u i (fun st => { st with
        poison := tset none st.poison (lowestFree 0 st.poison) (some { worked := w, sector := sec }) }))
        Cls.poisonNew 2 Code.poisoned 6 (64 * i + (channelOf s i (sec * 64)).1) (b2n w) (stackBase i + sec * 64))
        Cls.poisonListHigh 0 0 5 i 3841 0)

/-- Sectors with errors (R65 to R68, R75, R78, R80): a read within what the code corrects gives the data, is counted and sets the sector
down for write-back, which clears the errors; a read beyond it, or of a worked sector with a parity error, delivers no data and
poisons the sector; a mirrored sector is rewritten from its copy; a patrol step looks at the next present sector, rewrites it where
it is sealed and within the code, and moves on; that in a write hold-off it goes on reading, and sets the sector down for write-back in place
of the rewrite, is the model's choice (log entry 95). No sector of a channel
that retrains is rewritten (R361). What the code makes of more errors than it surely detects is a free value (log
entry 94). -/
def Obligations.SectorsAreCorrected : Prop :=
  ∀ (i : Nat) (s : State),
    (∀ sec, isPoisoned s i sec = false → badBytes s i sec = 0 →
      runAct (loadSector i sec) s = (.ok (mbytes s.dram (stackBase i + sec * 64) 64), s)) ∧
    (∀ sec, isPoisoned s i sec = true → runAct (loadSector i sec) s = (.error (.fail Code.poisoned), s)) ∧
    (∀ sec, isPoisoned s i sec = false → (gran s i (sec / 32768)).worked = false → 0 < badBytes s i sec →
      badBytes s i sec ≤ correctable (stk s i) →
      runAct (loadSector i sec) s = (.ok (mbytes s.dram (stackBase i + sec * 64) 64), noteRepair s i sec)) ∧
    (∀ sec, twf {} s.stackTab = true →
      (stk (noteRepair s i sec) i).ceEvents = (stk s i).ceEvents ++ [((channelOf s i (sec * 64)).1, now s)] ∧
      (stk (noteRepair s i sec) i).writeback = (if (stk s i).writeback.contains sec then (stk s i).writeback
        else (stk s i).writeback ++ [sec]) ∧ (noteRepair s i sec).dram = s.dram ∧
      (stk (noteRepair s i sec) i).latent = (stk s i).latent) ∧
    (∀ sec, isPoisoned s i sec = false → (gran s i (sec / 32768)).worked = true → 0 < badBytes s i sec →
      copyHeld s i sec = false → runAct (loadSector i sec) s = (.error (.fail Code.poisoned),
        poisonSector (noteUncorrectable s i (channelOf s i (sec * 64)).1) i sec true)) ∧
    (∀ (sec : Nat) (u : State), isPoisoned s i sec = false → (gran s i (sec / 32768)).worked = false →
      (gran s i (sec / 32768)).role ≠ 1 → 0 < badBytes s i sec → decodeSealed s i sec = (.uncorrectable, u) →
      runAct (loadSector i sec) s = (.error (.fail Code.poisoned),
        poisonSector (noteUncorrectable u i (channelOf s i (sec * 64)).1) i sec false)) ∧
    (∀ sec, (stk s i).correct2 = true → 2 < badBytes s i sec → badBytes s i sec ≤ 6 →
      decodeSealed s i sec = (.uncorrectable, s)) ∧
    (∀ sec, mayRewrite s i sec = false → exec (.correctedWriteback i sec) s = .next s) ∧
    (∀ sec, mayRewrite s i sec = true ↔
      (stk s i).writeHold = false ∧ chanHeld s i (sec * 64) = false ∧ copyHeld s i sec = false) ∧
    (∀ sec, (stk s i).writeback.contains sec = true → s.hub.mainPg = true → inReset s Dom.stack i = false →
      mayRewrite s i sec = true → exec (.correctedWriteback i sec) s = .next (modStk s i (fun st => { st with
        latent := tset 0 st.latent sec 0, writeback := st.writeback.filter (· ≠ sec),
        mirrorPending := st.mirrorPending.filter (· ≠ sec) }))) ∧
    (∀ (sec : Nat) (env : Env) (s0 : State), s = applyEnv env s0 → (stk s i).mirrorPending.contains sec = true →
      s.hub.mainPg = true → inReset s Dom.stack i = false → mayRewrite s i sec = true → (gran s i (sec / 32768)).role = 1 →
      isPoisoned s (gran s i (sec / 32768)).partner sec = false → badBytes s (gran s i (sec / 32768)).partner sec = 0 →
      exec (.mirrorReadReturn i sec env) s0 = .next (logEvent (clearBad (pokeDram s (stackBase i + sec * 64)
          (mbytes s.dram (stackBase (gran s i (sec / 32768)).partner + sec * 64) 64)) i sec) Cls.mirrorRepair 1 0 6
        (64 * i + (channelOf (clearBad (pokeDram s (stackBase i + sec * 64)
          (mbytes s.dram (stackBase (gran s i (sec / 32768)).partner + sec * 64) 64)) i sec) i (sec * 64)).1)
        (gran s i (sec / 32768)).partner (stackBase i + sec * 64))) ∧
    (∀ (env : Env) (s0 : State), s = applyEnv env s0 → (stk s i).periodH ≠ 0 → s.hub.mainPg = true →
      inReset s Dom.stack i = false → stackPresent s i = true → chanHeld s i ((stk s i).scrubPos * 64) = false →
      copyHeld s i (stk s i).scrubPos = false → absentOff s i ((stk s i).scrubPos * 64) = false → (stk s i).scrubPos < 64 * (channelBytes s / 64) →
      granBusy s i ((stk s i).scrubPos / 32768) = false →
      (badBytes s i (stk s i).scrubPos = 0 ∨ isPoisoned s i (stk s i).scrubPos = true →
        exec (.scrubTick i env) s0 = .next (modStk s i (fun st => { st with scrubPos := (stk s i).scrubPos + 1 }))) ∧
      (0 < badBytes s i (stk s i).scrubPos → isPoisoned s i (stk s i).scrubPos = false →
        (gran s i ((stk s i).scrubPos / 32768)).worked = false → badBytes s i (stk s i).scrubPos ≤ correctable (stk s i) →
        exec (.scrubTick i env) s0 = .next (modStk (if (stk s i).writeHold then noteRepair s i (stk s i).scrubPos
            else clearBad (noteRepair s i (stk s i).scrubPos) i (stk s i).scrubPos) i
          (fun st => { st with scrubPos := (stk s i).scrubPos + 1 }))))

/-- Spares and retraining (R81, R92, R361): a spare copy that ends without an unreadable sector leaves the channel on its spare; RETRAIN
of a free present channel holds it, is refused with STATE_CONFLICT during another or a spare copy and with UNIT_ABSENT on a channel
mapped out; its end frees the channel with OK, and the bench writes that were kept back are made. That STATE_CONFLICT comes before UNIT_ABSENT is deduced (log entry 47).
Refresh (R83, R84): with no bank set open, or with the next bank outside every row that the operation reads, each command interval
refreshes the next bank; a refresh of a bank in the open set is postponed, up to four, and the fifth forces all of them out, which is
counted. Whether a bank of the operation's rows lies in the set that is open just then is a free value (log entry 8). -/
def Obligations.ChannelsAreKeptUp : Prop :=
  ((∀ (i h k : Nat) (s : State), (stk s i).sparing = some (h, k) → s.hub.mainPg = true → inReset s Dom.stack i = false →
    (stk s i).writeHold = false → (stk s i).latent = [] → (stk s i).retrainBusy = false ∨ (stk s i).retrainHeld.toNat ≠ h →
    exec (.spareCopyEnd i []) s = .next (spareServe (modStk s i (fun st => { st with sparing := none })) i)) ∧
  (∀ (p : PortId) (i : Nat) (v : Word) (s : State), MaySet s p → v.toNat.testBit 63 = true → twf {} s.stackTab = true →
    ((stk s i).sparing = none → (stk s i).retrainBusy = false →
      (stk s i).chAbsent.toNat.testBit (BitVec.ofNat 6 v.toNat).toNat = false →
      exec (.retrain p i v) s = .next (modStk (modStk s i (fun st => { st with retrainChannel := BitVec.ofNat 6 v.toNat })) i
        (fun st => { st with retrainBusy := true, retrainHeld := BitVec.ofNat 6 v.toNat }))) ∧
    ((stk s i).retrainBusy = true ∨ (stk s i).sparing ≠ none → exec (.retrain p i v) s = .next (modStk (modStk s i (fun st => { st with
      retrainChannel := BitVec.ofNat 6 v.toNat })) i (fun st => { st with retrainStatus := Code.stateConflict }))) ∧
    ((stk s i).sparing = none → (stk s i).retrainBusy = false →
      (stk s i).chAbsent.toNat.testBit (BitVec.ofNat 6 v.toNat).toNat = true →
      exec (.retrain p i v) s = .next (modStk (modStk s i (fun st => { st with retrainChannel := BitVec.ofNat 6 v.toNat })) i
        (fun st => { st with retrainStatus := Code.unitAbsent })))) ∧
  (∀ (i : Nat) (s : State), (stk s i).retrainBusy = true → s.hub.mainPg = true → inReset s Dom.stack i = false →
    retrainForTables s i = false →
    exec (.retrainEnd i true) s =
      .next (flushStaged (modStk s i (fun st => { st with retrainBusy := false, retrainStatus := Code.ok })) i))) ∧
  (∀ (i : Nat) (s : State), s.hub.mainPg = true → inReset s Dom.stack i = false →
    ((stk s i).running = none → exec (.refreshCommand i) s = .next (modStk s i (fun st => { st with
      refreshed := st.refreshed + 1, nextBank := st.nextBank + 1 }))) ∧
    (∀ r : BenchRun, (stk s i).running = some r → (stk s i).nextBank.toNat ∉ r.banks →
      exec (.refreshCommand i) s = .next (modStk s i (fun st => { st with
        refreshed := st.refreshed + 1, nextBank := st.nextBank + 1 }))) ∧
    (∀ r : BenchRun, (stk s i).running = some r → (stk s i).nextBank.toNat ∈ r.banks → (stk s i).owed < 4 →
      exec (.refreshCommand i) s = .next (if Config.freeNat s.freeCtr % 2 = 0
        then modStk { s with freeCtr := s.freeCtr + 1 } i (fun st => { st with
          refreshed := st.refreshed + 1, nextBank := st.nextBank + 1 })
        else modStk { s with freeCtr := s.freeCtr + 1 } i (fun st => { st with
          owed := st.owed + 1, nextBank := st.nextBank + 1 }))) ∧
    (∀ r : BenchRun, (stk s i).running = some r → (stk s i).nextBank.toNat ∈ r.banks → (stk s i).owed = 4 →
      exec (.forcedRefresh i) s = .next (modStk s i (fun st => { st with
        refreshed := st.refreshed + st.owed + 1, nextBank := st.nextBank + 1, owed := 0,
        forcedRefresh := st.forcedRefresh + 1 }))))

/-- Maintenance tasks (R70 to R73): a placed task reads its operand block, and starts on the first granule where every check passes; a
block that spells no operation ends it with DESCRIPTOR_INVALID; a CLEAR_POISON granule is zeroed and its marks go, once nothing keeps its writes back; the task that is
done reports the granules changed and the sectors newly poisoned; the conversions that resets cut short are completed, oldest first. -/
def Obligations.MaintenanceTasksRun : Prop :=
  ∀ (i : Nat) (env : Env) (s0 s : State), s = applyEnv env s0 → s.hub.mainPg = true → inReset s Dom.stack i = false →
    (∀ (t : Nat) (x : Task) (m : Maint) (u : State), (stk s i).maint = none → (stk s i).maintPlaced = some t →
      taskAt s t = some x → x.workDone = false → runAct (maintBegin i t x) s = (.ok (some m), u) → m.op ≠ Mop.mapOut →
      maintStatus u x m i = 0 → exec (.maintTaskStart i env) s0 = .next
        (beginGranule (modStk (modTask u m.task (fun x => { x with mirrors := partnersOf u i m })) i
          (fun st => { st with maintPlaced := none })) i m)) ∧
    (∀ (t : Nat) (x : Task) (u : State), (stk s i).maint = none → (stk s i).maintPlaced = some t → taskAt s t = some x →
      x.workDone = false → runAct (maintBegin i t x) s = (.ok none, u) →
      exec (.maintTaskStart i env) s0 = .next (maintRefused u i t Code.descriptorInvalid)) ∧
    (∀ m : Maint, (stk s i).maint = some m → m.active = true → m.op = Mop.clearPoison → maintHeld s i m = false →
      (gran s i m.next).role ≠ 1 → m.last ≤ m.next + 1 →
      exec (.maintGranuleDone i env) s0 = .next (flushStaged (modStk (modGran (zeroGranule s i m.next) i m.next (fun g => { g with
        poisonAll := false, state := 0 })) i (fun st => { st with
          maint := some { m with next := m.next + 1, active := false, changed := m.changed + 1 }, maintDone := true })) i)) ∧
    (∀ m : Maint, (stk s i).maint = some m → maintHeld s i m = true → exec (.maintGranuleDone i env) s0 = .next s) ∧
    (∀ (m : Maint) (x : Task), (stk s i).maint = some m → taskAt s m.task = some x → (stk s i).maintDone = true → m.op ≠ Mop.mapOut →
      x.stopped = false → x.limitHit = false →
      exec (.maintTaskEnd i) s = .next (endWork (freeFuse (modStk s i (fun y => { y with maint := none, maintDone := false })) (4 + i))
        m.task Code.ok (BitVec.ofNat 64 (m.changed * 2 ^ 32 + m.poisoned)))) ∧
    (∀ (g : Nat) (w : Bool) (rest : List (Nat × Bool)), (stk s i).conversion = (g, w) :: rest → (stk s i).writeHold = false →
      granRetrains s i g = false → badSectors s i g = [] →
      exec (.conversionResume i env) s0 = .next (flushStaged (modStk (modGran s i g (fun e => { e with worked := w, state := 0 })) i
        (fun st => { st with conversion := rest })) i))

/-! ## Forset: links -/

/-- Training (R315, R319, R320, Table 12-1): a link comes UP on eight good lanes and DEGRADED on one good half, with its link-layer state
fresh; it goes DOWN on fewer lanes, or logged as miswired with a peer that is not the same die of the neighbour on the opposite
direction (R319), and the eighth failure in a row is logged; while DOWN with fewer than eight failures it trains
again, and each training begins a new link epoch and sends the package's node, the die and the direction. That a miswired training counts
towards the eight failures and records PEER, and that SEQ and the credits start again at each training, are deduced (log entry 60). -/
def Obligations.LinksTrain : Prop :=
  ∀ (i : Nat) (s : State), i < 24 →
    (∀ r : TrainResult, (lnk s i).state = .training → usableLanes r.lanes ≠ 0 →
      rightPeer (modLnk s i (fun l => { l with peer := r.peerNode, peerDie := r.peerDie, delayNs := r.delayNs })) i r = true →
      exec (.linkTrainEnd i r) s = .next (modLnk (clearLink
          (modLnk s i (fun l => { l with peer := r.peerNode, peerDie := r.peerDie, delayNs := r.delayNs }))
          i (if usableLanes r.lanes = 0xFF then .up else .degraded)) i (fun l => { l with
        laneMask := usableLanes r.lanes, peer := r.peerNode, failures := 0 }))) ∧
    (∀ (r : TrainResult) (u v w : State), (lnk s i).state = .training → usableLanes r.lanes ≠ 0 →
      u = modLnk s i (fun l => { l with peer := r.peerNode, peerDie := r.peerDie, delayNs := r.delayNs }) → rightPeer u i r = false →
      v = logEvent u Cls.linkMiswired 2 0 7 i r.peerDie.toNat r.peerNode.toNat →
      w = modLnk v i (fun l => { l with state := .down, laneMask := 0, failures := (lnk v i).failures + 1 }) →
      exec (.linkTrainEnd i r) s = .next (if (lnk v i).failures + 1 = 8 then logEvent w Cls.linkTrainFail 2 0 7 i 8 0 else w)) ∧
    (∀ (r : TrainResult) (u : State), rightPeer u i r = true ↔ r.peerDie.toNat = i / 6 ∧
      r.peerNode.toNat = neighbour u.fst u.fst.node.toNat (linkDir i) ∧ r.peerDir.toNat = opposite (linkDir i)) ∧
    (∀ r : TrainResult, (lnk s i).state = .training → usableLanes r.lanes = 0 →
      exec (.linkTrainEnd i r) s = .next (if (lnk s i).failures + 1 = 8
        then logEvent (modLnk s i (fun l => { l with state := .down, laneMask := 0, failures := (lnk s i).failures + 1 }))
          Cls.linkTrainFail 2 0 7 i 8 0
        else modLnk s i (fun l => { l with state := .down, laneMask := 0, failures := (lnk s i).failures + 1 }))) ∧
    ((lnk s i).state = .down → (lnk s i).failures < 8 → mayTrain s i = true →
      exec (.linkTrainRetry i) s = .next (beginTraining s i)) ∧
    beginTraining s i = { modLnk s i (fun l => { l with state := .training, epoch := l.epoch + 1, draining := none }) with
      out := s.out ++ [.training i s.fst.node (BitVec.ofNat 2 (i / 6)) (BitVec.ofNat 3 (linkDir i))] } ∧
    (∀ m : BitVec 8, (usableLanes m = 0xFF ↔ m = 0xFF) ∧
      (usableLanes m = 0 ↔ m &&& 0x0F ≠ 0x0F ∧ m &&& 0xF0 ≠ 0xF0) ∧ (usableLanes m ≠ 0 → usableLanes m &&& m = usableLanes m))

/-- Link commands of the vise holder (R341): RECAL drains a usable link; DISABLE drains one and puts another DOWN; ENABLE frees a disabled
link, which trains where it may (with FST.NODE.EN set, its cable in place and more than one node in its dimension); each other state is answered with STATE_CONFLICT. When the replay buffer has emptied, the drained
link trains again or stays disabled. -/
def Obligations.LinkCommands : Prop :=
  ∀ (i : Nat) (s : State), i < 24 →
    (∀ p : PortId, MaySet s p →
      ((lnk s i).state = .up ∨ (lnk s i).state = .degraded →
        exec (.recal p i) s = .next (linkStatus (drainLink s i false) i Code.ok) ∧
        exec (.disable p i) s = .next (linkStatus (drainLink s i true) i Code.ok)) ∧
      ((lnk s i).state = .down ∨ (lnk s i).state = .training → exec (.recal p i) s = .next (linkStatus s i Code.stateConflict)) ∧
      ((lnk s i).state = .down → (lnk s i).disabled = true → exec (.disable p i) s = .next (linkStatus s i Code.stateConflict)) ∧
      ((lnk s i).state = .training → exec (.disable p i) s = .next (linkStatus (modLnk s i (fun l => { l with
        state := .down, laneMask := 0, disabled := true })) i Code.ok)) ∧
      ((lnk s i).state = .down → (lnk s i).disabled = false → exec (.disable p i) s = .next (linkStatus (modLnk s i (fun l => { l with
        state := .down, laneMask := 0, disabled := true })) i Code.ok)) ∧
      (∀ u : State, (lnk s i).disabled = true →
        u = linkStatus (modLnk s i (fun l => { l with disabled := false, failures := 0 })) i Code.ok →
        (mayTrain u i = false → exec (.enable p i) s = .next u) ∧
        (mayTrain u i = true → exec (.enable p i) s = .next (beginTraining u i))) ∧
      (∀ u : State, mayTrain u i = true ↔ u.fst.en = true ∧ (lnk u i).disabled = false ∧ (lnk u i).cableHigh = false ∧
        1 < extentOf u.fst (linkDir i / 2)) ∧
      ((lnk s i).disabled = false → exec (.enable p i) s = .next (linkStatus s i Code.stateConflict))) ∧
    ((lnk s i).replayBuf = [] → (lnk s i).draining = some true →
      exec (.linkDrainEnd i) s = .next (clearLink s i .down)) ∧
    (∀ state, (lnk s i).draining = some true → (lnk (clearLink s i state) i).disabled = true) ∧
    ((lnk s i).replayBuf = [] → (lnk s i).draining = some false →
      exec (.linkDrainEnd i) s = .next (if mayTrain s i then beginTraining (clearLink s i .down) i else clearLink s i .down))

/-- Set-up of the fabric by the vise holder (R319, R338, R339): a legal node is taken while the fabric is not locked; the root of the
time tree is LOCKED as soon as it is named and synchronises (that a write of NODE can name it too is deduced, log entry 61); while locked, a write that would change the field is ignored and logged. -/
def Obligations.FabricSetUp : Prop :=
  ∀ (p : PortId) (v : Word) (s : State), MaySet s p →
    (s.hub.lockFabric = false → torusOk (BitVec.ofNat 18 v.toNat) s.fst.nx s.fst.ny s.fst.nz = true →
      (s.fst.root ≠ BitVec.ofNat 18 v.toNat ∨ s.fst.node = BitVec.ofNat 18 v.toNat ∨
        (s.fst.syncEn = false ∧ s.fst.timeState ≠ .locked) →
        (v.toNat.testBit 63 = false →
          exec (.nodeEnable p v) s = .next { s with fst := { s.fst with en := false, node := BitVec.ofNat 18 v.toNat } }) ∧
        (v.toNat.testBit 63 = true → s.fst.en = false → exec (.nodeEnable p v) s =
          .next (trainAll { s with fst := { s.fst with en := true, node := BitVec.ofNat 18 v.toNat } })) ∧
        (v.toNat.testBit 63 = true → s.fst.en = true →
          exec (.nodeEnable p v) s = .next { s with fst := { s.fst with node := BitVec.ofNat 18 v.toNat } })) ∧
      (s.fst.root = BitVec.ofNat 18 v.toNat → s.fst.node ≠ BitVec.ofNat 18 v.toNat → s.fst.syncEn = true →
        v.toNat.testBit 63 = false → exec (.nodeEnable p v) s = .next { s with fst := { s.fst with
          en := false, node := BitVec.ofNat 18 v.toNat, timeState := .locked, everLocked := true, carryLocked := true,
          holdExpired := false } })) ∧
    (s.hub.lockFabric = true → BitVec.ofNat 18 v.toNat ≠ s.fst.node →
      exec (.nodeEnable p v) s = .next (setupIgnored s (Base.fst + 0) v)) ∧
    (s.hub.lockFabric = false → s.fst.node ≠ BitVec.ofNat 18 v.toNat → exec (.syncEnable p v) s = .next { s with
      fst := { s.fst with syncEn := v.toNat.testBit 31, root := BitVec.ofNat 18 v.toNat } }) ∧
    (s.hub.lockFabric = false → s.fst.node = BitVec.ofNat 18 v.toNat → v.toNat.testBit 31 = true →
      exec (.syncEnable p v) s = .next { s with fst := { s.fst with
        syncEn := true, root := BitVec.ofNat 18 v.toNat, timeState := .locked, everLocked := true, carryLocked := true,
        holdExpired := false } })

/-- Flits of a usable link (R314, R316 to R318): one with a lost codeword or a false check value is answered with REPLAY; one of another
epoch is discarded; a good one gives its acknowledgement and its credits; DATA in order is taken and acknowledged; one with a gap in SEQ is
answered with REPLAY, and discarded while the receiver waits for a flit that it has asked for; a duplicate is discarded; REPLAY makes the sender resend from the flit named; after 2 µs without an acknowledgement the replay buffer is sent again;
a link that makes no progress, or whose other end has stopped, is declared DOWN. That the acknowledgement is an IDLE flit sent at once
is deduced (log entry 21), and the check value's form is presumed (log entry 107). -/
def Obligations.FlitsAreReplayed : Prop :=
  ∀ (i : Nat) (h : FlitHead) (s a b : State), i < 24 → (lnk s i).state = .up ∨ (lnk s i).state = .degraded →
    a = countFec s i h → b = takeHead a i h →
    (∀ kind seq payload, flitGood h kind seq payload = true ↔ h.tainted = false ∧ (∀ n ∈ h.errors, n ≤ 15) ∧
      h.crc = crc64 (flitBody kind seq h.ack h.cvc h.credits h.epoch payload)) ∧
    (flitGood h FlitKind.idle 0 [] = false → exec (.idleFlit i h) s = .next (sendReplay a i)) ∧
    (flitGood h FlitKind.idle 0 [] = true → h.epoch ≠ (lnk a i).epoch → exec (.idleFlit i h) s = .next a) ∧
    (flitGood h FlitKind.idle 0 [] = true → h.epoch = (lnk a i).epoch → exec (.idleFlit i h) s = .next b) ∧
    (∀ seq d, flitGood h FlitKind.data seq d = false → exec (.dataFlit i h seq d) s = .next (sendReplay a i)) ∧
    (∀ seq d, flitGood h FlitKind.data seq d = true → h.epoch ≠ (lnk a i).epoch → exec (.dataFlit i h seq d) s = .next a) ∧
    (∀ (seq : BitVec 12) (d : List Byte) (c : State), flitGood h FlitKind.data seq d = true → h.epoch = (lnk a i).epoch →
      seq = (lnk b i).rxSeq → c = modLnk b i (fun l => { l with
        rxSeq := l.rxSeq + 1, futileAsked := 0, errorSince := none, rxBytes := l.rxBytes ++ d }) →
      exec (.dataFlit i h seq d) s = .next (sendIdle (takePackets i ((lnk c i).rxBytes.length / 16 + 1) c) i 0 0)) ∧
    (∀ seq d, flitGood h FlitKind.data seq d = true → h.epoch = (lnk a i).epoch → seq ≠ (lnk b i).rxSeq →
      2048 ≤ (seq - (lnk b i).rxSeq).toNat → exec (.dataFlit i h seq d) s = .next b) ∧
    (∀ seq d, flitGood h FlitKind.data seq d = true → h.epoch = (lnk a i).epoch → seq ≠ (lnk b i).rxSeq →
      (seq - (lnk b i).rxSeq).toNat < 2048 →
      exec (.dataFlit i h seq d) s = .next (if (lnk b i).errorSince = none then sendReplay b i else b)) ∧
    (∀ seq, flitGood h FlitKind.replay seq [] = false → exec (.replayFlit i h seq) s = .next (sendReplay a i)) ∧
    (∀ seq, flitGood h FlitKind.replay seq [] = true → h.epoch = (lnk a i).epoch → exec (.replayFlit i h seq) s = .next (resend
      (modLnk b i (fun l => { l with futileAnswered := l.futileAnswered + 1 })) i
      ((lnk b i).replayBuf.dropWhile (fun f => decide (f.seq ≠ seq))))) ∧
    ((lnk s i).replayBuf ≠ [] → (lnk s i).ackAt + 2000 ≤ now s → exec (.replayTimeout i) s = .next (resend
      (modLnk s i (fun l => { l with futileTimed := l.futileTimed + 1, ackAt := now s })) i (lnk s i).replayBuf)) ∧
    (now s < (lnk s i).ackAt + 2000 → exec (.replayTimeout i) s = .next s) ∧
    (32 ≤ (lnk s i).futileAsked ∨ 32 ≤ (lnk s i).futileAnswered ∨ 32 ≤ (lnk s i).futileTimed →
      exec (.linkDownTimeout (.noProgress i)) s = .next (linkDown s i)) ∧
    (∀ t, (lnk s i).errorSince = some t → t + 20000 ≤ now s →
      exec (.linkDownTimeout (.noProgress i)) s = .next (linkDown s i)) ∧
    exec (.linkDownTimeout (.stopped i)) s = .next (linkDown s i) ∧
    ((lnk s i).errorSince = none → (lnk s i).futileAsked < 32 → (lnk s i).futileAnswered < 32 → (lnk s i).futileTimed < 32 →
      exec (.linkDownTimeout (.noProgress i)) s = .next s)

/-! ## Forset: packets and requests -/

/-- A packet is laid out as in Table 12-4 and read back whole, whatever follows it, when it carries the data bytes that its TYPE and LENGTH
call for (R325). -/
def Obligations.PacketsReadBack : Prop :=
  ∀ (p : Packet) (rest : List Byte), p.data.length = dataLen p →
    parsePacket (packetBytes p ++ rest) = p ∧ (packetBytes p).length = 16 * packetUnits p

/-- A packet in a link's queue leaves, a detoured one with the ROUTE step taken off, while credits for all of it are held and the replay buffer has room (R318); a packet at a router goes
to its serving die when it is at home (R321), on to the first open link of its direction otherwise (R322), and is unroutable, answered
with UNIT_ABSENT when it is a request, when there is no way on (R324).
Dimension order (R321): a packet for another node of the torus leaves in X before Y before Z, the short way round, and in the positive
direction where both ways are equally long; each hop in that direction brings it nearer. That the ROUTE step is taken off only as the packet leaves is deduced (log entry 62), and so is that receive credits come
free as a packet is routed and that a router's drops count in AGED (log entry 63). -/
def Obligations.PacketsMove : Prop :=
  ((∀ (i vc : Nat) (p : Packet) (rest : List Packet) (s : State), i < 24 → tget [] (lnk s i).txq vc = p :: rest →
    tooOld s p 2000 = false → ((lnk s i).state = .up ∨ (lnk s i).state = .degraded) → tget 0 (lnk s i).credits vc + packetUnits p ≤ 1024 →
    (lnk s i).replayBuf.length + (payloadsOf (packetBytes p)).length ≤ 512 →
    exec (.packetSend i vc) s = .next ((payloadsOf (packetBytes (leaving p))).foldl (sendData i)
      (modLnk (modLnk s i (fun l => { l with txq := tmod [] l.txq vc (·.drop 1) })) i (fun l => { l with
        credits := tmod 0 l.credits vc (· + packetUnits (leaving p)) })))) ∧
  (∀ p : Packet, (p.detoured = false ∨ p.hops = 0 → leaving p = p) ∧
    (p.detoured = true → p.hops ≠ 0 → leaving p = { p with route := p.route >>> 3, hops := p.hops - 1 })) ∧
  (∀ (i vc : Nat) (p : Packet) (rest : List Packet) (s : State), i < 24 → tget [] (lnk s i).txq vc = p :: rest →
    tooOld s p 2000 = true → exec (.packetSend i vc) s = .next (countAged (takeQueued s i vc))) ∧
  (∀ (d : Nat) (x : Transit) (s : State), routable s d = some x → tooOld s x.pkt 2000 = false →
    (∀ e, x.pkt.dst = s.fst.node → e = (if s.rst.fatal then d else servingDie d x.pkt) → pathUp s d e = true →
      exec (.packetRoute d) s = .next (pushIngress (takeOut s d x) e x)) ∧
    (∀ i q, x.pkt.dst ≠ s.fst.node → wayOf s d x.pkt = .link i q → pathUp s d (i / 6) = true →
      exec (.packetRoute d) s = .next (toLink (releaseHeld (takeOut s d x) x) i q)) ∧
    (x.pkt.dst ≠ s.fst.node → wayOf s d x.pkt = .unroutable →
      exec (.packetRoute d) s = .next (dropUnroutable (releaseHeld (takeOut s d x) x) d x.pkt))) ∧
  (∀ (d : Nat) (x : Transit) (s : State), routable s d = some x → tooOld s x.pkt 2000 = true →
    exec (.packetRoute d) s = .next (dropAged (takeOut s d x) x)) ∧
  (∀ (d k : Nat) (x : Transit) (s : State), (tget [] s.fst.routers d)[k]? = some x → tooOld s x.pkt 2000 = true →
    exec (.routerAgeDrop d k) s = .next (dropAged (takeOut s d x) x)) ∧
  (∀ (d k : Nat) (s u : State), (tget [] s.fst.routers d)[k]? = none → dropQueued s d = some u →
    exec (.routerAgeDrop d k) s = .next u) ∧
  (∀ (d : Nat) (x : Transit) (s : State), (tget [] s.fst.ingress d).find? (fun x => tooOld s x.pkt 0) = some x →
    exec (.ingressAgeDrop d) s = .next (releaseHeld { leaveIngress s d x with
      fst := { (leaveIngress s d x).fst with aged := satInc s.fst.aged 1 } } x))) ∧
  (∀ (f : Fst) (node dst dim : Nat), dim < 3 → (∀ k, k < dim → coord node k = coord dst k) → coord node dim ≠ coord dst dim →
    coord node dim < extentOf f dim → coord dst dim < extentOf f dim →
    nextDir f node dst = some (2 * dim +
      (if (coord dst dim + extentOf f dim - coord node dim) % extentOf f dim ≤
        (coord node dim + extentOf f dim - coord dst dim) % extentOf f dim then 0 else 1)) ∧
    (extentOf f dim ≤ 64 → ∀ d, nextDir f node dst = some d → hopsLeft f (neighbour f node d) dst dim + 1 = hopsLeft f node dst dim ∧
      ∀ k, k < 3 → k ≠ dim → coord (neighbour f node d) k = coord node k))

/-- The first request of its type at a die that serves is made at its home and answered (R328, R329, Table 12-6): PUT with an ACK, GET
with the bytes, ADD and PEG with the old value; one that a check refuses is answered with a NAK of that check's status, and where the
check reads no memory nothing changes but the queue, the answer and its counters.
Fabric keys (R328): a request reaches a partition only through the key of a locked partition, and key 0 opens none. In FATAL every
request is answered with UNIT_ABSENT (R353). That the partition must be locked, that PEG_OP 0 and 3 are DESCRIPTOR_INVALID, and the
lengths asked of GET and PUT are deduced (log entry 63). -/
def Obligations.RemoteRequestsAreServed : Prop :=
  ((∀ (d : Nat) (env : Env) (s0 s t : State) (x : Transit) (rest : List Transit) (bs : List Byte), s = applyEnv env s0 →
    engineServes s d = true → tget [] s.fst.ingress d = x :: rest →
    (x.pkt.typ = Pkt.put → runAct (servePut x.pkt) s = (.ok bs, t) → exec (.putPacket d env) s0 =
      .next (releaseHeld (respond (leaveIngress t d x) d x.pkt Pkt.ack 0 0 bs) x)) ∧
    (x.pkt.typ = Pkt.get → runAct (serveGet x.pkt) s = (.ok bs, t) → exec (.getPacket d env) s0 =
      .next (releaseHeld (respond (leaveIngress t d x) d x.pkt Pkt.data x.pkt.length.toNat 0 bs) x)) ∧
    (x.pkt.typ = Pkt.add → runAct (serveAdd x.pkt) s = (.ok bs, t) → exec (.addPacket d env) s0 =
      .next (releaseHeld (respond (leaveIngress t d x) d x.pkt Pkt.result 8 0 bs) x)) ∧
    (∀ st, x.pkt.typ = Pkt.put → runAct (servePut x.pkt) s = (.error (.fail st), t) → exec (.putPacket d env) s0 =
      .next (releaseHeld (sendNak (leaveIngress t d x) d x.pkt st) x)) ∧
    (∀ st, x.pkt.typ = Pkt.get → runAct (serveGet x.pkt) s = (.error (.fail st), t) → exec (.getPacket d env) s0 =
      .next (releaseHeld (sendNak (leaveIngress t d x) d x.pkt st) x)) ∧
    (∀ st, x.pkt.typ = Pkt.add → runAct (serveAdd x.pkt) s = (.error (.fail st), t) → exec (.addPacket d env) s0 =
      .next (releaseHeld (sendNak (leaveIngress t d x) d x.pkt st) x))) ∧
  (∀ (d : Nat) (env : Env) (s0 s : State) (x : Transit) (rest : List Transit) (st : Status), s = applyEnv env s0 →
    engineServes s d = true → tget [] s.fst.ingress d = x :: rest → tooOld s x.pkt 0 = false →
    (s.rst.fatal = true ∧ st = Code.unitAbsent) ∨
      (s.rst.fatal = false ∧ shapeOk x.pkt = false ∧ st = Code.descriptorInvalid) ∨
      (s.rst.fatal = false ∧ shapeOk x.pkt = true ∧ keyOwner s x.pkt.fkey = none ∧ st = Code.windowFault) ∨
      (s.rst.fatal = false ∧ shapeOk x.pkt = true ∧ st = Code.windowFault ∧ x.pkt.typ ≠ Pkt.peg ∧
        ∃ q, keyOwner s x.pkt.fkey = some q ∧ remoteRange s q (decide (x.pkt.typ ≠ Pkt.get)) x.pkt.addr.toNat
          (if x.pkt.typ = Pkt.add then 8 else x.pkt.length.toNat) = false) →
    (x.pkt.typ = Pkt.put → exec (.putPacket d env) s0 = .next (releaseHeld (sendNak (leaveIngress s d x) d x.pkt st) x)) ∧
    (x.pkt.typ = Pkt.get → exec (.getPacket d env) s0 = .next (releaseHeld (sendNak (leaveIngress s d x) d x.pkt st) x)) ∧
    (x.pkt.typ = Pkt.add → exec (.addPacket d env) s0 = .next (releaseHeld (sendNak (leaveIngress s d x) d x.pkt st) x)) ∧
    (x.pkt.typ = Pkt.peg → exec (.pegPacket d) s = .next (releaseHeld (sendNak (leaveIngress s d x) d x.pkt st) x))) ∧
  (∀ (d q : Nat) (s : State) (x : Transit) (rest : List Transit) (st : Status), engineServes s d = true →
    tget [] s.fst.ingress d = x :: rest → x.pkt.typ = Pkt.peg → tooOld s x.pkt 0 = false → s.rst.fatal = false →
    shapeOk x.pkt = true → keyOwner s x.pkt.fkey = some q →
    (pegAt x.pkt.addr.toNat = none ∧ st = Code.windowFault) ∨
      (∃ m, pegAt x.pkt.addr.toNat = some m ∧ ownsPeg s q m = false ∧ st = Code.windowFault) ∨
      (∃ m, pegAt x.pkt.addr.toNat = some m ∧ ownsPeg s q m = true ∧ dieDown s (m / 16384) = true ∧ st = Code.unitOffline) →
    exec (.pegPacket d) s = .next (releaseHeld (sendNak (leaveIngress s d x) d x.pkt st) x)) ∧
  (∀ (d m q : Nat) (s : State) (x : Transit) (rest : List Transit), engineServes s d = true → tget [] s.fst.ingress d = x :: rest →
    x.pkt.typ = Pkt.peg → tooOld s x.pkt 0 = false → s.rst.fatal = false → x.pkt.length = 16 → x.pkt.addr.toNat % 4 = 0 →
    keyOwner s x.pkt.fkey = some q → pegAt x.pkt.addr.toNat = some m → ownsPeg s q m = true → dieDown s (m / 16384) = false →
    (x.pkt.pegOp = 1 → exec (.pegPacket d) s = .next (releaseHeld (respond (leaveIngress
      (setPeg s m (BitVec.ofNat 32 (leNat (x.pkt.data.take 4)))) d x) d x.pkt Pkt.result 8 0 (zeros 8)) x)) ∧
    (x.pkt.pegOp = 2 → exec (.pegPacket d) s = .next (releaseHeld (respond (leaveIngress
      (addPeg s m (BitVec.ofNat 32 (leNat (x.pkt.data.take 4)))) d x) d x.pkt Pkt.result 8 0
        (leBytes 8 (pegValue s m).toNat)) x)))) ∧
  (∀ (s : State) (k : BitVec 16), keyOwner s 0 = none ∧ (∀ q, keyOwner s k = some q →
    q < 16 ∧ (prt s q).locked = true ∧ (prt s q).fkey = k ∧ k ≠ 0))

/-- Answers (R330, R335): a response that matches no unanswered request of its die is dropped and counted; an ACK, DATA, RESULT or NAK that
matches one settles it, with the bytes written, the result word or the status that it carries; a DATA whose bytes a write hold-off keeps back has arrived all the same, gives its credits back, and stalls its jig's task (R357); a request whose time is over is
given up with REMOTE_TIMEOUT, its tag at rest (R333, R334), but for a GET that may be sent once more (FST.TIMEOUT.GET_RETRY). -/
def Obligations.AnswersSettleRequests : Prop :=
  (∀ (d : Nat) (p : Packet) (x : Transit) (s : State), (tget [] s.fst.routers d).find? (fun x => x.pkt = p) = some x →
    p.dst = s.fst.node → pathUp s d p.reqDie.toNat = true →
    matching (releaseHeld (takeOut s d x) x) p = none →
    (p.typ = Pkt.ack → exec (.ack d p) s = .next (dropLate (releaseHeld (takeOut s d x) x))) ∧
    (p.typ = Pkt.data → exec (.dataResponse d p) s = .next (dropLate (releaseHeld (takeOut s d x) x))) ∧
    (p.typ = Pkt.result → exec (.resultResponse d p) s = .next (dropLate (releaseHeld (takeOut s d x) x))) ∧
    (p.typ = Pkt.nak → exec (.nak d p) s = .next (dropLate (releaseHeld (takeOut s d x) x)))) ∧
  (∀ (d : Nat) (p : Packet) (x : Transit) (o : Outstanding) (s u : State),
    (tget [] s.fst.routers d).find? (fun x => x.pkt = p) = some x → p.dst = s.fst.node → pathUp s d p.reqDie.toNat = true →
    u = releaseHeld (takeOut s d x) x → matching u p = some o →
    (p.typ = Pkt.ack → exec (.ack d p) s = .next (settleRequest u o 0 0)) ∧
    (p.typ = Pkt.result → exec (.resultResponse d p) s =
      .next (settleRequest u o 0 (BitVec.ofNat 64 (leNat (p.data.take 8))))) ∧
    (p.typ = Pkt.nak → exec (.nak d p) s = .next (settleRequest
      { u with fst := { u.fst with naksReceived := satInc u.fst.naksReceived 1 } } o (BitVec.ofNat 8 p.addr.toNat) 0)) ∧
    (∀ v w, p.typ = Pkt.data → runAct (storeAnswer o (p.data.take o.pkt.length.toNat)) u = (.error .wait, w) →
      v = (if heldOff (takeResponse p) u then stallAsker u p (keepers (takeResponse p) u) else u) →
      exec (.dataResponse d p) s = .next { v with fst := { v.fst with arrived := v.fst.arrived ++ [p] } }) ∧
    (∀ cl j k, o.who = .ticket cl j k → ∀ t, (clu u cl).task = some t →
      ∀ on, stallAsker u p on = markStall u t .answer on) ∧
    (∀ w, p.typ = Pkt.data → runAct (storeAnswer o (p.data.take o.pkt.length.toNat)) u = (.ok (), w) →
      exec (.dataResponse d p) s = .next (settleRequest w o 0 0)) ∧
    (∀ w st, p.typ = Pkt.data → runAct (storeAnswer o (p.data.take o.pkt.length.toNat)) u = (.error (.fail st), w) →
      exec (.dataResponse d p) s = .next (settleRequest w o st 0))) ∧
  (∀ (d : Nat) (tag : BitVec 16) (o : Outstanding) (s : State),
    s.fst.requests.find? (fun o => decide (o.die = d) && decide (o.tag = tag)) = some o →
    o.pkt.dropBy.toNat + 2000 ≤ (sysTime s).toNat →
    (o.pkt.typ ≠ Pkt.get ∨ s.fst.getRetry = false ∨ o.retried = true →
      exec (.remoteRequestTimeout d tag) s = .next (settleRequest (retireTag s o.die o.tag) o Code.remoteTimeout 0)) ∧
    (∀ u, o.pkt.typ = Pkt.get → s.fst.getRetry = true → o.retried = false → u = retireTag s o.die o.tag →
      exec (.remoteRequestTimeout d tag) s = .next (launch
        { u with fst := { u.fst with requests := u.fst.requests.erase o } } { o with retried := true })))

/-- Time (R337, R338): the exchange with the parent starts at system time; the first answer of a LOCKED parent sets the offset and leaves
the package ACQUIRING, a later one within 50 ns LOCKS it, one further off leaves it ACQUIRING, and both steer system time by a rate of
at most 100 ppm towards the parent (the rate is a free value, log entry 61); 1 ms without one is HOLDOVER, and after 10 ms of that the
package no longer behaves as LOCKED. That the first answer of a LOCKED parent leaves the package ACQUIRING even where it is within 50 ns, that
the answer of a parent that is not LOCKED sets OFFSET_NS alone, and that t4 is the package's own system time at receipt, are deduced (log
entry 61). A TIME flit with another root is logged; a neighbour's question is answered; that a flit with t2 and t3 zero is the question is the
model's choice (log entry 11). A holdover that runs past 10 ms leaves the package not locked until it is LOCKED again. -/
def Obligations.TimeIsKept : Prop :=
  ∀ s : State,
    (∀ dir i, parentLink s = some (dir, i) → exec .timeExchange s = .next (sendTime
      { modLnk s i (fun l => { l with t1 := some (sysTime s) }) with fst := { s.fst with parentDir := BitVec.ofNat 3 dir } }
      i (sysTime s) 0 0 0)) ∧
    (parentLink s = none → exec .timeExchange s = .next s) ∧
    (∀ off, s.fst.everLocked = false → exchangeDone s off = { s with fst := { s.fst with
      lastExchange := now s, offsetNs := BitVec.ofNat 8 (Nat.min off.natAbs 255), everLocked := true, timeState := .acquiring,
      sysOffset := s.fst.sysOffset + BitVec.ofInt 64 off } }) ∧
    (∀ off, s.fst.everLocked = true → ∃ r : Int, r.natAbs ≤ 100 ∧ r.sign = off.sign ∧
      (off.natAbs ≤ 50 → exchangeDone s off = { s with freeCtr := s.freeCtr + 1, fst := { s.fst with
        lastExchange := now s, offsetNs := BitVec.ofNat 8 off.natAbs, timeState := .locked, carryLocked := true, holdExpired := false,
        rate := r } }) ∧
      (50 < off.natAbs → exchangeDone s off = { s with freeCtr := s.freeCtr + 1, fst := { s.fst with
        lastExchange := now s, offsetNs := BitVec.ofNat 8 (Nat.min off.natAbs 255), timeState := .acquiring, carryLocked := false,
        rate := r } })) ∧
    (s.fst.node ≠ s.fst.root → s.fst.timeState = .locked ∨ s.fst.timeState = .acquiring → s.fst.lastExchange + 1000000 ≤ now s →
      exec .holdoverEntry s = .next { s with fst := { s.fst with
        timeState := .holdover, holdSince := now s, carryLocked := !s.fst.holdExpired } }) ∧
    (s.fst.timeState = .holdover → s.fst.holdSince + 10000000 ≤ now s →
      exec .holdoverLimit s = .next { s with fst := { s.fst with carryLocked := false, holdExpired := true } }) ∧
    (lockedNow s = true ↔ s.fst.timeState = .locked ∨ (s.fst.timeState = .holdover ∧ s.fst.carryLocked = true)) ∧
    (∀ (i : Nat) (h : FlitHead) (root : BitVec 18) (ts : TimeStamps) (b : Bool) (u : State), i < 24 →
      (lnk s i).state = .up ∨ (lnk s i).state = .degraded →
      flitGood h FlitKind.time 0 (timePayload root ts.t1 ts.t2 ts.t3 ts.t4) = true →
      h.epoch = (lnk (countFec s i h) i).epoch → u = takeHead (countFec s i h) i h →
      (root ≠ u.fst.root → exec (.timeFlit i h root ts b) s = .next (logEvent u Cls.timeRootMismatch 0 0 7 i 0 root.toNat)) ∧
      (root = u.fst.root → ts.t2 = 0 → ts.t3 = 0 →
        exec (.timeFlit i h root ts b) s = .next (sendTime u i ts.t1 (sysTime u) (sysTime u) 0)) ∧
      (∀ dir, root = u.fst.root → ts.t2 ≠ 0 → (lnk u i).t1 = some ts.t1 → parentLink u = some (dir, i) →
        ∀ (v : State) (off : Int), v = modLnk u i (fun l => { l with t1 := none }) → off = offsetOf_ { ts with t4 := sysTime v } →
        (b = true → exec (.timeFlit i h root ts b) s = .next (exchangeDone v off)) ∧
        (b = false → exec (.timeFlit i h root ts b) s = .next { v with fst := { v.fst with
          offsetNs := BitVec.ofNat 8 (Nat.min off.natAbs 255) } })))

/-! ## Resets, watchdogs, die edges -/

/-- Reset commands of the vise holder (R349, R363, Table 13-13): a domain that exists, is present and is not being reset starts to reset
with cause 0 and status OK; an index out of range is DESCRIPTOR_INVALID, a fused-off cluster or stack UNIT_ABSENT, a domain that is being
reset STATE_CONFLICT, and none of these changes anything but the status. That a domain inside one that is being reset counts as being reset
itself, so that the command gets STATE_CONFLICT and does not merge with status OK, is the model's choice (log entry 66). -/
def Obligations.ResetCommands : Prop :=
  ∀ (p : PortId) (n : Nat) (s : State), MaySet s p →
    (n < 256 → clusterPresent s n = true → inReset s Dom.cluster n = false →
      exec (.clusterReset p n) s = .next (beginReset { s with rst := { s.rst with lastCmd := Code.ok } } Dom.cluster n Cause.command)) ∧
    (n < 32 → inReset s Dom.region n = false →
      exec (.regionReset p n) s = .next (beginReset { s with rst := { s.rst with lastCmd := Code.ok } } Dom.region n Cause.command)) ∧
    (n < 4 → inReset s Dom.die n = false →
      exec (.computeDieReset p n) s = .next (beginReset { s with rst := { s.rst with lastCmd := Code.ok } } Dom.die n Cause.command)) ∧
    (n < 24 → stackPresent s n = true → inReset s Dom.stack n = false →
      exec (.stackLogicReset p n) s = .next (beginReset { s with rst := { s.rst with lastCmd := Code.ok } } Dom.stack n Cause.command)) ∧
    (n < 24 → inReset s Dom.link n = false →
      exec (.linkReset p n) s = .next (beginReset { s with rst := { s.rst with lastCmd := Code.ok } } Dom.link n Cause.command)) ∧
    (inReset s Dom.warm 0 = false →
      exec (.packageWarmReset p) s = .next (beginReset { s with rst := { s.rst with lastCmd := Code.ok } } Dom.warm 0 Cause.command)) ∧
    (∀ answer : Status → State, (∀ st, answer st = { s with rst := { s.rst with lastCmd := st } }) → n < 4096 →
      (256 ≤ n → exec (.clusterReset p n) s = .next (answer Code.descriptorInvalid)) ∧
      (32 ≤ n → exec (.regionReset p n) s = .next (answer Code.descriptorInvalid)) ∧
      (4 ≤ n → exec (.computeDieReset p n) s = .next (answer Code.descriptorInvalid)) ∧
      (24 ≤ n → exec (.stackLogicReset p n) s = .next (answer Code.descriptorInvalid) ∧
        exec (.linkReset p n) s = .next (answer Code.descriptorInvalid)) ∧
      (n < 256 → clusterPresent s n = false → exec (.clusterReset p n) s = .next (answer Code.unitAbsent)) ∧
      (n < 24 → stackPresent s n = false → exec (.stackLogicReset p n) s = .next (answer Code.unitAbsent)) ∧
      (n < 256 → clusterPresent s n = true → inReset s Dom.cluster n = true →
        exec (.clusterReset p n) s = .next (answer Code.stateConflict)) ∧
      (n < 32 → inReset s Dom.region n = true → exec (.regionReset p n) s = .next (answer Code.stateConflict)) ∧
      (n < 4 → inReset s Dom.die n = true → exec (.computeDieReset p n) s = .next (answer Code.stateConflict)) ∧
      (n < 24 → stackPresent s n = true → inReset s Dom.stack n = true →
        exec (.stackLogicReset p n) s = .next (answer Code.stateConflict)) ∧
      (n < 24 → inReset s Dom.link n = true → exec (.linkReset p n) s = .next (answer Code.stateConflict)) ∧
      (inReset s Dom.warm 0 = true → exec (.packageWarmReset p) s = .next (answer Code.stateConflict)))

/-- A reset that starts is entered among the resets in progress, and the domains inside its own are in reset with it (R351, R365); a
package warm reset empties every ring, partition, graph and task, scratchpad and peg, and keeps the contents of the stacks, the event log, device time, the fuses
and what the hosts hold (R352). As a reset starts the epoch of each of its domains advances by 1, modulo 256 (R351, R356); a link that may
train at once begins a further link epoch with that training. -/
def Obligations.ResetsBegin : Prop :=
  (∀ (s : State) (d i : Nat) (c : BitVec 8), inReset s d i = true → beginReset s d i c = s) ∧
  (∀ (s : State) (d i : Nat) (c : BitVec 8), inReset s d i = false → inReset (beginReset s d i c) d i = true) ∧
  (∀ (s : State) (i n : Nat) (c : BitVec 8), inReset s Dom.die i = false → n / 8 = i →
    inReset (beginReset s Dom.die i c) Dom.region n = true) ∧
  (∀ (s : State) (i n : Nat) (c : BitVec 8), inReset s Dom.die i = false → n / 64 = i →
    inReset (beginReset s Dom.die i c) Dom.cluster n = true) ∧
  (∀ (s : State) (i n : Nat) (c : BitVec 8), inReset s Dom.region i = false → n / 8 = i →
    inReset (beginReset s Dom.region i c) Dom.cluster n = true) ∧
  (∀ (s t : State) (c : BitVec 8), inReset s Dom.warm 0 = false → t = beginReset s Dom.warm 0 c →
    (∀ d i, inReset t d i = true) ∧ t.rings = [] ∧ t.parts = [] ∧ t.graphs = [] ∧ t.tasks = [] ∧ t.steps = [] ∧ t.regions = [] ∧
    t.walkers = [] ∧ t.pegs = [] ∧ t.spad = [] ∧ t.bbuf = [] ∧ t.dram = s.dram ∧ t.evt = s.evt ∧ t.time = s.time ∧
    t.hub.ident = s.hub.ident ∧ t.hub.fusedOff = s.hub.fusedOff ∧ t.hub.vise = 0 ∧ t.hub.lockHost = false ∧
    t.hub.lockRings = false ∧ t.hub.lockFabric = false ∧ t.hub.lockReset = false ∧ t.hub.stage = .auxReady ∧
    t.hub.mainPg = s.hub.mainPg ∧ t.rst.warmCause = c ∧ t.portA.mem = s.portA.mem ∧ t.portB.mem = s.portB.mem ∧
    t.portA.linkUp = s.portA.linkUp ∧ t.portB.linkUp = s.portB.linkUp ∧ t.pending = s.pending ∧ t.out = s.out) ∧
  (∀ (s : State) (d i : Nat) (c : BitVec 8), inReset s d i = false → 1 ≤ d → d ≤ 5 ∨ d = 7 → (d = 5 → s.fst.en = false) →
    twf {} s.links = true → twf 0 s.rst.epochs = true → ∀ e, e ∈ innerDomains d i →
      epochOf (beginReset s d i c) e.1 e.2 = epochOf s e.1 e.2 + 1) ∧
  (∀ i n : Nat, ((1, n) ∈ innerDomains 3 i ↔ n / 64 = i) ∧ ((2, n) ∈ innerDomains 3 i ↔ n / 8 = i) ∧
    ((1, n) ∈ innerDomains 2 i ↔ n / 8 = i) ∧ (∀ d, 1 ≤ d → d ≤ 5 → (d, i) ∈ innerDomains d i) ∧ (8, 0) ∈ innerDomains 7 0 ∧
    (∀ d, d = 1 ∧ n < 256 ∨ d = 2 ∧ n < 32 ∨ d = 3 ∧ n < 4 ∨ d = 4 ∧ n < 24 ∨ d = 5 ∧ n < 24 → (d, n) ∈ innerDomains 7 0)) ∧
  (∀ (p : PortId) (s : State), MaySet s p → inReset s Dom.warm 0 = false → exec (.packageWarmReset p) s =
    .next (beginReset { s with rst := { s.rst with lastCmd := Code.ok } } Dom.warm 0 Cause.command))

/-- A reset's drain ends with what its domain loses and its RESET record; the domain serves again when no shutdown holds it; a reset that
takes more than four times its time escalates to the next domain that contains it, and a package warm reset to FATAL; a link's stays
as it is (R129, R236, R351, R353, R354). -/
def Obligations.ResetsEndOrEscalate : Prop :=
  ∀ (s : State) (d i : Nat) (r : Resetting), resettingOf s d i = some r →
    (r.drained = false → heldDown s d i = false → ∃ t, t = logReset (wipeDomain s d i) d i r.cause r.ended.length ∧
      exec (.resetDrainEnd d i) s = .next { t with rst := { t.rst with
        resetting := t.rst.resetting.map (fun q => if q = r then { q with drained := true } else q) } }) ∧
    (r.drained = true → exec (.resetDrainEnd d i) s = .next s) ∧
    (r.drained = true → heldDown s d i = false → d ≠ Dom.warm → exec (.domainServeAgain d i) s =
      .next (resumeActivation { s with rst := { s.rst with resetting := s.rst.resetting.filter (fun q => q ≠ r) } } d i)) ∧
    (s.mgt.activating = [] → ∀ u : State, u.mgt = s.mgt → resumeActivation u d i = u) ∧
    (heldDown s d i = true → exec (.domainServeAgain d i) s = .next s) ∧
    (r.started + escalationNs d ≤ now s → heldDown s d i = false →
      (d = 1 → exec (.resetEscalation d i) s = .next (beginReset s 2 (i / 8) Cause.escalation)) ∧
      (d = 2 → exec (.resetEscalation d i) s = .next (beginReset s 3 (i / 8) Cause.escalation)) ∧
      (d = 3 ∨ d = 4 → exec (.resetEscalation d i) s = .next (beginReset s 7 0 Cause.escalation)) ∧
      (d = 5 → exec (.resetEscalation d i) s = .next s) ∧ (d = 7 → exec (.resetEscalation d i) s = .next (goFatal s)))

/-- Hang detectors (R357, Table 13-9): each resets its own domain once a task's limit and the allowance of its kind have passed, without
the time that write hold-offs have stalled the watched work past its limit, and leaves a task within them alone; the layout watchdog counts
what stalled the engine's own chain. A stall lasts while a part of the work that waits is kept back by a stack in hold-off, and a part that
stops waits no longer. The walker's watchdog resets its die, and the hub's the package. That these two have the event itself as their
condition, and when a stall begins and ends, are deduced (log entry 67).
Die edges (Table 13-1, R18): a failure counts and holds the edge's traffic until it has retrained, when the aborts, the news of pegs, the
writes and the reports that waited are made and nothing else changes; a second one within a second is FATAL. That a peg's news goes to
another die's walker by the hub, with the value it then had, is the model's choice (log entry 125). -/
def Obligations.HangsAndEdgesAreHandled : Prop :=
  ((∀ (c t : Nat) (x : Task) (s : State), (clu s c).task = some t → taskAt s t = some x → x.started = true →
    (limitEnd s x + stalledNs s x + 1000 * s.rst.jigUs.toNat ≤ now s →
      exec (.clusterWatchdog c) s = .next (beginReset s Dom.cluster c Cause.unitWatchdog)) ∧
    (now s < limitEnd s x + stalledNs s x + 1000 * s.rst.jigUs.toNat → exec (.clusterWatchdog c) s = .next s)) ∧
  (∀ (r : Nat) (c : Chain) (rest : List Chain) (x : Task) (s : State), (reg s r).chains = c :: rest → (∀ q n, c.owner ≠ .swap q n) →
    taskAt s c.task = some x → x.started = true →
    (limitEnd s x + chainStalledNs s x c + 1000 * s.rst.layoutUs.toNat ≤ now s →
      exec (.layoutWatchdog r) s = .next (beginReset s Dom.region r Cause.unitWatchdog)) ∧
    (now s < limitEnd s x + chainStalledNs s x c + 1000 * s.rst.layoutUs.toNat → exec (.layoutWatchdog r) s = .next s)) ∧
  (∀ (k t : Nat) (x : Task) (s : State), runningTask (stk s k) = some t → taskAt s t = some x → x.started = true →
    (limitEnd s x + stalledNs s x + 1000 * s.rst.benchUs.toNat ≤ now s →
      exec (.benchWatchdog k) s = .next (beginReset s Dom.stack k Cause.unitWatchdog)) ∧
    (now s < limitEnd s x + stalledNs s x + 1000 * s.rst.benchUs.toNat → exec (.benchWatchdog k) s = .next s)) ∧
  (∀ (x : Task) (c : Chain) (s : State), (x.stallSince = none → stalledNs s x = x.stallNs) ∧
    (∀ t0, x.stallSince = some t0 → stalledNs s x = x.stallNs + (now s - Nat.max t0 (limitEnd s x))) ∧
    (c.stallSince = none → chainStalledNs s x c = c.stallNs) ∧
    (∀ t0, c.stallSince = some t0 → chainStalledNs s x c = c.stallNs + (now s - Nat.max t0 (limitEnd s x))) ∧
    (x.desc.kind ≠ Kind.jig → limitEnd s x = x.startTime + taskLimitNs s x + x.pausedNs)) ∧
  (∀ (t : Nat) (x : Task) (s : State), taskAt s t = some x →
    ((∃ e ∈ x.stallOn, (stk s e.2).writeHold = true) →
      taskAt (endStalls s) t = some { x with stallOn := x.stallOn.filter (fun e => (stk s e.2).writeHold) }) ∧
    ((∀ e ∈ x.stallOn, (stk s e.2).writeHold = false) →
      taskAt (endStalls s) t = some { x with stallNs := stalledNs s x, stallSince := none, stallOn := [] }) ∧
    (∀ p : Staller → Bool,
      ((∃ e ∈ x.stallOn, p e.1 = false) →
        taskAt (dropStalls s t p) t = some { x with stallOn := x.stallOn.filter (fun e => !p e.1) }) ∧
      ((∀ e ∈ x.stallOn, p e.1 = true) →
        taskAt (dropStalls s t p) t = some { x with stallNs := stalledNs s x, stallSince := none, stallOn := [] }))) ∧
  (∀ (d : Nat) (s : State), d < 4 → s.hub.stage = .mainReady →
    exec (.walkerWatchdog d) s = .next (beginReset s Dom.die d Cause.walkerWatchdog)) ∧
  (∀ s : State, s.hub.stage = .mainReady → s.mgt.activating = [] →
    exec .hubWatchdog s = .next (beginReset s Dom.warm 0 Cause.hubWatchdog))) ∧
  (∀ (e : Nat) (s : State), e < 6 → s.hub.mainPg = true → s.rst.edgeDown.contains e = false →
    (tget none s.rst.edgeFailed e = none → exec (.dieEdgeFailure e) s = .next { s with rst := { s.rst with
      pathUe := satInc s.rst.pathUe 1, edgeFailed := tset none s.rst.edgeFailed e (some (now s)),
      edgeDown := s.rst.edgeDown ++ [e] } }) ∧
    (∀ t, tget none s.rst.edgeFailed e = some t → now s ≤ t + 1000000000 →
      exec (.dieEdgeFailure e) s = .next (goFatal { s with rst := { s.rst with
        pathUe := satInc s.rst.pathUe 1, edgeFailed := tset none s.rst.edgeFailed e (some (now s)),
        edgeDown := s.rst.edgeDown ++ [e] } })) ∧
    (∀ u : State, exec (.dieEdgeRetrainEnd e) u = .next (makeReports (drainPorts ((List.range 24).foldl flushStaged (walkersHear (abortsGoOn
      { u with rst := { u.rst with edgeDown := u.rst.edgeDown.filter (· ≠ e) } })))))) ∧
    (∀ (u : State) (m : Nat) (v : BitVec 32) (x : Task),
      (newsReach u m x.die = true ↔ m / 16384 = x.die ∨ pathUp u (m / 16384) 4 = true ∧ pathUp u 4 x.die = true) ∧
      (newsReach u m x.die = true → tellTask u m v x = meetTask m v x) ∧
      (newsReach u m x.die = false → (∃ w ∈ x.desc.waits, w.peg = m ∧ w.met = false) →
        tellTask u m v x = { x with pegNews := x.pegNews ++ [(m, v)] }) ∧
      (x.pegNews = [(m, v)] → newsReach u m x.die = true → hearNews u x = { meetTask m v x with pegNews := [] })) ∧
    (∀ u : State, (∀ i k, i < 24 → ((tget none (stk u i).slots k).map BenchTask.staged).getD [] = []) → u.hub.abortsHeld = [] →
      (∀ k x, (k, some x) ∈ u.tasks → x.pegNews = [] ∧ (x.state = .waiting → waitsMet x = false)) →
      (∀ k g, (k, some g) ∈ u.graphs → g.heldDies = []) →
      u.portA.held = [] → u.portB.held = [] → reportsDue u = [] →
      exec (.dieEdgeRetrainEnd e) u = .next { u with rst := { u.rst with edgeDown := u.rst.edgeDown.filter (· ≠ e) } }))

/-! ## Power and heat -/

/-- The power window (R376 to R381): the window's averages and energies enter `PWR.STATUS` and the counters, the next budget is the cap,
reached no faster than the ramp allows upward, and downward while the module comes down to a cap newly set below its power (R377), and a
window that breaks a ramp limit, upward or downward, is counted, and no other is; a window above the cap or its budget lowers the
clocks, and at their lowest the duty of the benches. How far they move is a free value (log entry 106); the law of the next budget is the
model's choice (log entry 72), and so is how a die's shim is steered down from the telemetry, to what the down-ramp and the cap leave
beside the other load, never above its height when the decline began (R379; log entry 105). -/
def Obligations.PowerWindows : Prop :=
  ∀ (a w e m : Nat) (s : State), s.hub.auxOn = true →
    (s.pwr.rampEn = false → ∃ t, exec (.powerWindow a w e m false) s = .next t ∧ t.pwr.powerW = BitVec.ofNat 16 a ∧
      t.pwr.shimW = BitVec.ofNat 16 w ∧ t.pwr.energyMj = s.pwr.energyMj + BitVec.ofNat 64 e ∧
      t.pwr.shimMj = s.pwr.shimMj + BitVec.ofNat 64 m ∧ t.pwr.budgetW = BitVec.ofNat 16 s.pwr.capW.toNat ∧
      t.pwr.violUp = s.pwr.violUp ∧ t.pwr.violDown = s.pwr.violDown ∧ t.pwr.upLimited = false ∧
      (t.pwr.capLimited = true ↔ t.pwr.capCeiling < 2100 ∨ t.pwr.capDuty < 8) ∧
      t = { s with pwr := t.pwr, clusters := t.clusters, freeCtr := s.freeCtr + 2 }) ∧
    (∃ t, exec (.powerWindow a w e m false) s = .next t ∧ 600 ≤ t.pwr.capCeiling ∧ 1 ≤ t.pwr.capDuty ∧ (s.pwr.capDuty ≤ 8 → t.pwr.capDuty ≤ 8) ∧
      (t.pwr.capCeiling ≠ 600 → t.pwr.capDuty = 8) ∧
      (s.pwr.capW.toNat < a ∨ s.pwr.budgetW.toNat < a ∧ 0 < s.pwr.budgetW.toNat → 600 < s.pwr.capCeiling →
        t.pwr.capCeiling < s.pwr.capCeiling) ∧
      (s.pwr.capW.toNat < a ∨ s.pwr.budgetW.toNat < a ∧ 0 < s.pwr.budgetW.toNat → s.pwr.capCeiling = 600 → t.pwr.capCeiling = 600 ∧
        (1 < s.pwr.capDuty → t.pwr.capDuty < s.pwr.capDuty))) ∧
    (s.pwr.rampEn = true → s.pwr.powerW.toNat + s.pwr.upW.toNat < a → ∃ t, exec (.powerWindow a w e m false) s = .next t ∧
      t.pwr.violUp = satInc s.pwr.violUp 1 ∧ t.pwr.violDown = s.pwr.violDown ∧
      t.pwr.budgetW = BitVec.ofNat 16 (Nat.min (a + s.pwr.upW.toNat)
        (if s.pwr.capApproach then Nat.max s.pwr.capW.toNat (a - s.pwr.downW.toNat) else s.pwr.capW.toNat))) ∧
    (s.pwr.rampEn = true → a + s.pwr.downW.toNat < s.pwr.powerW.toNat → ∃ t, exec (.powerWindow a w e m false) s = .next t ∧
      t.pwr.violDown = satInc s.pwr.violDown 1 ∧ t.pwr.violUp = s.pwr.violUp ∧
      t.pwr.budgetW = BitVec.ofNat 16 (Nat.min (a + s.pwr.upW.toNat)
        (if s.pwr.capApproach then Nat.max s.pwr.capW.toNat (a - s.pwr.downW.toNat) else s.pwr.capW.toNat))) ∧
    (s.pwr.rampEn = true → a ≤ s.pwr.powerW.toNat + s.pwr.upW.toNat → s.pwr.powerW.toNat ≤ a + s.pwr.downW.toNat →
      ∃ t, exec (.powerWindow a w e m false) s = .next t ∧ t.pwr.violDown = s.pwr.violDown ∧ t.pwr.violUp = s.pwr.violUp) ∧
    (∀ (v : Nat) (c : BitVec 13), capOf v = some c → c ≠ s.pwr.capW → putCap v s = some { s with pwr := { s.pwr with
      capW := c, capApproach := decide (c.toNat < s.pwr.powerW.toNat) } }) ∧
    (∀ d w : Nat, shimDies s = [d] → twf {} s.pwr.domains = true →
      w = Nat.min (dom s d).shimTopW ((dom s d).shimBudgetW + shimFloor s.pwr - moduleNow s) →
      (0 < w → steerShim s = modDom s d (fun x => { x with shimBudgetW := w })) ∧ (w = 0 → steerShim s = clearShim s d)) ∧
    (∀ p avg, budgetFor p avg ≤ Nat.max p.capW.toNat avg ∨ p.rampEn = true ∧ budgetFor p avg ≤ avg + p.upW.toNat)

/-- Domains (R367 to R371, R374): every 100 µs the models move by their shares of P × R; every 10 ms the sensors are read; a domain without a
source for 100 ms shuts down; RESTORE of a domain that is down, has a source and is below 80 °C brings it back, and is refused otherwise, as it always is for the hub. A
domain without a sample in a step takes its last one.
A domain is in the most restrictive of the states that its conditions call for (R370). Temperatures in millionths of a degree and
weights in 10^-12, rounded down, are the model's choice (log entry 70), and the stages have typical values, presumed (log entry 13). -/
def Obligations.HeatIsControlled : Prop :=
  ((∀ (l : List (Nat × Nat)) (s : State), s.hub.auxOn = true → exec (.thermalModelUpdate l) s =
    .next (shimUpdate l (judgeAll ((List.range 29).foldl (modelStep l) s)))) ∧
  (∀ (l : List (Nat × Nat)) (s : State) (n w : Nat), n < 29 → l.find? (fun e => decide (e.1 = n)) = some (n, w) →
    twf {} s.pwr.domains = true →
    (dom (modelStep l s n) n).th0 = (dom s n).th0 +
      ((w : Int) * ((stages n).getD 0 (0, 0)).1 * 1000000 - (dom s n).th0) * ((stages n).getD 0 (0, 0)).2 / 1000000000000 ∧
    (dom (modelStep l s n) n).th1 = (dom s n).th1 +
      ((w : Int) * ((stages n).getD 1 (0, 0)).1 * 1000000 - (dom s n).th1) * ((stages n).getD 1 (0, 0)).2 / 1000000000000 ∧
    (dom (modelStep l s n) n).th2 = (dom s n).th2 +
      ((w : Int) * ((stages n).getD 2 (0, 0)).1 * 1000000 - (dom s n).th2) * ((stages n).getD 2 (0, 0)).2 / 1000000000000 ∧
    (dom (modelStep l s n) n).tm = (s.pwr.inlet.microC + s.pwr.outlet.microC) / 2 +
      ((dom (modelStep l s n) n).th0 + (dom (modelStep l s n) n).th1 + (dom (modelStep l s n) n).th2) / 1000000 ∧
    (dom (modelStep l s n) n).telemetry = now s) ∧
  (∀ (l : List (Nat × Nat)) (s : State) (n : Nat), n < 29 → l.find? (fun e => decide (e.1 = n)) = none → twf {} s.pwr.domains = true →
    dom (modelStep l s n) n = { dom (modelStep [(n, (dom s n).powers.head?.getD 0)] s n) n with
      telemetry := (dom s n).telemetry }) ∧
  (∀ (l : List SensorReading) (s : State), s.hub.auxOn = true → exec (.sensorRead l) s =
    .next (judgeAll ((List.range 29).foldl takeRate ((List.range 29).foldl takeSource (takeCoolant (l.foldl oneReading s)))))) ∧
  (∀ (n : Nat) (s : State), n ≤ 28 → (dom s n).source = .none → (dom s n).down = false →
    (dom s n).noneSince + 100000000 ≤ now s → exec (.noSourceTimeout n) s = .next (shutDown s n 0x66 0)) ∧
  (∀ (n : Nat) (s : State), (dom s n).source = .none → now s < (dom s n).noneSince + 100000000 →
    exec (.noSourceTimeout n) s = .next s) ∧
  (∀ (p : PortId) (n : Nat) (s : State) (t : Int), MaySet s p → n < 28 → (dom s n).down = true → sourceTemp (dom s n) = some t →
    (t < 80 * degree → exec (.restore p n) s = .next (pwrStatus (restoreDomain s n) Code.ok)) ∧
    (80 * degree ≤ t → exec (.restore p n) s = .next (pwrStatus s Code.stateConflict))) ∧
  (∀ (p : PortId) (n : Nat) (s : State), MaySet s p → n < 32 → (dom s n).down = false ∨ (dom s n).source = .none ∨ 28 ≤ n →
    exec (.restore p n) s = .next (pwrStatus s Code.stateConflict))) ∧
  (∀ d : Domain,
    (stateOf d = .shutdown ↔ d.down = true) ∧
    (stateOf d = .floor ↔ d.down = false ∧ (d.floorSensor = true ∨ d.floorRate = true ∨ d.floorNone = true ∨ d.floorPackage = true)) ∧
    (stateOf d = .normal ↔ d.down = false ∧ d.floorSensor = false ∧ d.floorRate = false ∧ d.floorNone = false ∧
      d.floorPackage = false ∧ d.throttled = false))

/-! ## Firmware -/

/-- Activation (R360, R414, Table 13-11): the unit that reports ready is followed by the next one, and the last one makes the new image
active; with lane tables (component 5) each channel of a stack retrains in turn before its stack is ready; a unit that is not ready in
its time spoils the slot, with the image that was active before in force, but the time stands still while the unit is in reset or
waits for a retraining (R365); then the next component begins.
Flash operations (R375, R413): an erase that ends well is followed by the next one, and the last one by the request for the first
piece; a program that ends well counts its bytes; one that fails is logged and gives the component up. That of a component that the boot ROM alone does not serve nothing more is erased or asked for is deduced (log
entry 81). The erase steps (log entry 80) and the bound of the stacks' tables
(82) are deduced, and the wait for another retraining or spare copy is the model's choice (110). -/
def Obligations.FlashAndActivation : Prop :=
  (∀ (c : Nat) (rest : List Nat) (s : State), s.mgt.activating = c :: rest →
    ((c = 5 → s.mgt.channelRuns = false ∧ channelsLeft s s.mgt.unit = []) →
      unitQuiet s c s.mgt.unit = true → s.mgt.unit + 1 < unitsOf c → exec .activationReady s = .next
      (startUnit { s with mgt := { s.mgt with unitDone := s.mgt.unitDone ++ [s.mgt.unit] } } (s.mgt.unit + 1))) ∧
    ((c = 5 → s.mgt.channelRuns = false ∧ channelsLeft s s.mgt.unit = []) →
      unitQuiet s c s.mgt.unit = true → unitsOf c ≤ s.mgt.unit + 1 → exec .activationReady s = .next (startComponent
      (finishComponent { s with mgt := { s.mgt with unitDone := s.mgt.unitDone ++ [s.mgt.unit] } } c))) ∧
    ((c = 5 → s.mgt.channelRuns = false ∧ channelsLeft s s.mgt.unit = []) →
      unitQuiet s c s.mgt.unit = false → exec .activationReady s = .next s) ∧
    (c = 5 → s.mgt.channelRuns = true → (stk s s.mgt.unit).retrainBusy = true → exec .activationReady s = .next s) ∧
    (∀ e : State, c = 5 → unitWaits s = false → s.mgt.channelRuns = true → (stk s s.mgt.unit).retrainBusy = false →
      e = { s with mgt := { s.mgt with channel := s.mgt.channel + 1, channelRuns := false } } → channelsLeft e s.mgt.unit ≠ [] →
      exec .activationReady s = .next (startChannel e)) ∧
    (∀ h l, channelsLeft s s.mgt.unit = h :: l → (stk s s.mgt.unit).retrainBusy = false → (stk s s.mgt.unit).sparing = none →
      s.hub.mainPg = true → inReset s Dom.stack s.mgt.unit = false → startChannel s = modStk { s with
        mgt := { s.mgt with channel := h, channelRuns := true, unitSince := now s } } s.mgt.unit (fun st => { st with
          retrainBusy := true, retrainHeld := BitVec.ofNat 6 h })) ∧
    (unitWaits s = true → exec .activationTimeout s = .next s) ∧
    (unitWaits s = false → s.mgt.unitSince + readyWithin c ≤ now s → exec .activationTimeout s = .next (startComponent (failComponent s c))) ∧
    (now s < s.mgt.unitSince + readyWithin c → exec .activationTimeout s = .next s)) ∧
  (∀ (s : State) (a : BitVec 64), s.mgt.flashStale = false →
    (s.mgt.flashOp = 1 → componentServed s = false → exec (.flashOperationEnd true a) s = .next { s with
      mgt := { s.mgt with flashOp := 0, erasesLeft := s.mgt.erasesLeft - 1, flashStale := false } }) ∧
    (s.mgt.flashOp = 2 → s.mgt.imageDone + s.mgt.piece < s.mgt.imageSize → ∀ u : State, u = { s with mgt := { s.mgt with
        flashOp := 0, imageDone := s.mgt.imageDone + s.mgt.piece, piece := 0, flashStale := false } } →
      exec (.flashOperationEnd true a) s = .next (if componentServed s then askPiece u else u)) ∧
    (s.mgt.flashOp = 1 → componentServed s = true → s.mgt.erasesLeft = 1 → exec (.flashOperationEnd true a) s = .next (askPiece { s with
      mgt := { s.mgt with flashOp := 0, erasesLeft := 0, flashStale := false } })) ∧
    (s.mgt.flashOp = 1 → componentServed s = true → 1 < s.mgt.erasesLeft → exec (.flashOperationEnd true a) s = .next (askFlash { s with
      mgt := { s.mgt with flashOp := 0, erasesLeft := s.mgt.erasesLeft - 1, flashStale := false } } 1)) ∧
    (s.mgt.flashOp = 2 → s.mgt.imageSize ≤ s.mgt.imageDone + s.mgt.piece →
      exec (.flashOperationEnd true a) s = .next { s with mgt := { s.mgt with
        flashOp := 0, imageDone := s.mgt.imageDone + s.mgt.piece, piece := 0, flashStale := false } }) ∧
    (s.mgt.flashOp = 2 → exec (.flashOperationEnd false a) s = .next (dropComponent (logMgmt { s with
      mgt := { s.mgt with flashOp := 0, flashStale := false } } 0x74 2 1 a.toNat))))

/-! ## Management -/

/-- MCTP control and PLDM base (R406 to R408, Table 16-2): on a binding that is up each request is answered on it, and changes nothing but
the endpoint or terminus ID that it sets. The codes and the bodies are those of the DMTF specifications, presumed (log entry 28).
On a binding that is down no request of management arrives: nothing changes, whichever it is (R406, R407, R414). -/
def Obligations.ControlRequestsAreAnswered : Prop :=
  (∀ (b : Binding) (s : State), bindingUp s b = true →
    (∀ e, e ≠ 0 → e ≠ 0xFF → exec (.setEndpointId b e) s = .next (reply { s with mgt := { s.mgt with eid := e } } b 0x00 1 0 [e])) ∧
    exec (.getEndpointId b) s = .next (reply s b 0x00 2 0 [s.mgt.eid]) ∧
    exec (.getEndpointUuid b) s = .next (reply s b 0x00 3 0 (identity 0 16)) ∧
    (∀ t, (typesServed s).contains t = true →
      exec (.getMctpVersionSupport b t) s = .next (reply s b 0x00 4 0 (identity (16 + t.toNat) 4))) ∧
    (∀ t, (typesServed s).contains t = false → exec (.getMctpVersionSupport b t) s = .next (reply s b 0x00 4 0x80 [])) ∧
    exec (.getMessageTypeSupport b) s = .next (reply s b 0x00 5 0 (BitVec.ofNat 8 (typesServed s).length :: typesServed s)) ∧
    exec (.getVendorDefinedMsgSupport b) s = .next (reply s b 0x00 6 0 (identity 1 6)) ∧
    (∀ t c, (typesServed s).contains t = true → listed t c = false →
      exec (.mctpUnsupported b t c) s = .next (reply s b t c 5 [])) ∧
    (∀ t, t ≠ 0 → t ≠ 0xFF → exec (.setTid b t) s = .next (reply { s with mgt := { s.mgt with tid := t } } b 0x01 1 0 [0])) ∧
    exec (.getTid b) s = .next (reply s b 0x01 2 0 [0, s.mgt.tid]) ∧
    (∀ t, (pldmTypes s).contains t.toNat = true →
      exec (.getPldmVersion b t) s = .next (reply s b 0x01 3 0 (0 :: identity (272 + t.toNat) 4)) ∧
      exec (.getPldmCommands b t) s = .next (reply s b 0x01 5 0 (0 :: bitmap 32 (pldmCommands t.toNat)))) ∧
    exec (.getPldmTypes b) s = .next (reply s b 0x01 4 0 (0 :: bitmap 8 (pldmTypes s)))) ∧
  (∀ (c : Instr) (b : Binding) (s : State), bindingOf c = some b → bindingUp s b = false → exec c s = .next s)

/-- Platform monitoring (R409, Table 16-3): sensors, state sensors and effecters that the repository lists are read; an effecter takes a
value within its range, without the vise, and no other; an event receiver is set, and is sent what is stored from then on (that it
starts at the log's tail is deduced, and so is that an answer with an error ends no wait, log entry 79; codes and bodies of PLDM are
presumed, log entry 28; a request is answered on its binding, R408).
Event messages (R409): the first record not sent whose severity is at least EVT_MIN goes to the receiver; without an answer for a second
it is sent once more, and after a second try is passed over; an answer ends the wait. -/
def Obligations.PlatformIsMonitored : Prop :=
  (∀ (b : Binding) (s : State), bindingUp s b = true → romOnly s = false →
    exec (.getPdrRepositoryInfo b) s = .next (pldm s b 2 0x50 0 (leBytes 4 123)) ∧
    (∀ k e, pdrs[k]? = some e → exec (.getPdr b (k + 1)) s = .next (pldm s b 2 0x51 0 (pdrBytes k e))) ∧
    (∀ id, pdrs.contains (.sensor, id) = true → exec (.getSensorReading b id) s = .next (pldm s b 2 0x11 0
      (leBytes 1 (if (sensorValue s id).2 then 0 else 2) ++ leBytes 8 (sensorValue s id).1))) ∧
    (∀ id, pdrs.contains (.state, id) = true →
      exec (.getStateSensorReadings b id) s = .next (pldm s b 2 0x21 0 (leBytes 1 (stateValue s id)))) ∧
    (∀ id, 0x800 ≤ id → id ≤ 0x803 →
      exec (.getNumericEffecterValue b id) s = .next (pldm s b 2 0x32 0 (leBytes 4 (effecterValue s.pwr id)))) ∧
    (∀ v, 1500 ≤ v → v ≤ 5000 → exec (.setNumericEffecterValue b 0x800 v) s = .next (pldm { s with
      pwr := { s.pwr with capW := BitVec.ofNat 13 v } } b 2 0x31 0 [])) ∧
    (∀ v, 5 ≤ v → v ≤ 500 → exec (.setNumericEffecterValue b 0x801 v) s = .next (pldm { s with
        pwr := { s.pwr with downW := BitVec.ofNat 9 v } } b 2 0x31 0 []) ∧
      exec (.setNumericEffecterValue b 0x802 v) s = .next (pldm { s with
        pwr := { s.pwr with upW := BitVec.ofNat 9 v } } b 2 0x31 0 [])) ∧
    (∀ v, v ≤ 1 → exec (.setNumericEffecterValue b 0x803 v) s = .next (pldm { s with
      pwr := { s.pwr with rampEn := decide (v = 1) } } b 2 0x31 0 [])) ∧
    (∀ v, v < 1500 ∨ 5000 < v → exec (.setNumericEffecterValue b 0x800 v) s = .next (pldm s b 2 0x31 2 [])) ∧
    (∀ v, v < 5 ∨ 500 < v → exec (.setNumericEffecterValue b 0x801 v) s = .next (pldm s b 2 0x31 2 []) ∧
      exec (.setNumericEffecterValue b 0x802 v) s = .next (pldm s b 2 0x31 2 [])) ∧
    (∀ v, 1 < v → exec (.setNumericEffecterValue b 0x803 v) s = .next (pldm s b 2 0x31 2 [])) ∧
    (∀ id v, id < 0x800 ∨ 0x803 < id → exec (.setNumericEffecterValue b id v) s = .next (pldm s b 2 0x31 0x80 [])) ∧
    (∀ r, exec (.setEventReceiver b r) s = .next (pldm { s with
      mgt := { s.mgt with receiver := r, nextEvent := s.evt.tail, awaiting := 0 } } b 2 0x04 0 []))) ∧
  (∀ s : State, mgmtRuns s = true →
    (∀ r t, s.mgt.receiver = some r → nextRecord s = some t → s.mgt.awaiting = 0 → exec .platformEventMessage s = .next { s with
      mgt := { s.mgt with nextEvent := t, awaiting := 1, sentAt := now s },
      out := s.out ++ [.platformEvent r (0xF0 :: eventBytes (recordAt s t))] }) ∧
    (∀ r, s.mgt.receiver = some r → s.mgt.awaiting = 1 → s.mgt.sentAt + 1000000000 ≤ now s →
      exec .platformEventRetry s = .next { s with
        mgt := { s.mgt with awaiting := 2, sentAt := now s },
        out := s.out ++ [.platformEvent r (0xF0 :: eventBytes (recordAt s s.mgt.nextEvent))] }) ∧
    (∀ r, s.mgt.receiver = some r → s.mgt.awaiting = 2 → s.mgt.sentAt + 1000000000 ≤ now s →
      exec .platformEventRetry s = .next { s with mgt := { s.mgt with nextEvent := s.mgt.nextEvent + 1, awaiting := 0 } }) ∧
    (s.mgt.awaiting ≠ 0 → exec (.platformEventMessageResponse true) s =
      .next { s with mgt := { s.mgt with nextEvent := s.mgt.nextEvent + 1, awaiting := 0 } }) ∧
    exec (.platformEventMessageResponse false) s = .next s)

/-- A firmware update (R413), step by step: a session opens once, its table names components, UpdateComponent spoils the inactive slot and
starts its erase, data is programmed as it is asked for, the transfer ends when every byte is there, verification takes an image that is
signed and not older than the counter, and applying it waits for the flash. Codes and bodies are presumed (log entry 28); the erase steps
and that the pending mark waits for the flash are deduced (log entry 80). -/
def Obligations.UpdateSteps : Prop :=
  ∀ (b : Binding) (s : State), bindingUp s b = true →
    exec (.queryDeviceIdentifiers b) s = .next (fwReply s b 0x01 0 (leBytes 8 s.hub.ident.toNat)) ∧
    exec (.getFirmwareParameters b) s = .next (fwReply s b 0x02 0 (((upFrom 1 6).filter (updatable s)).flatMap (parameterBytes s))) ∧
    exec (.getStatus b) s = .next (fwReply s b 0x1B 0
      ([s.mgt.updateState, s.mgt.updateComponent.setWidth 8] ++ leBytes 4 s.mgt.imageDone)) ∧
    (s.mgt.session = false → exec (.requestUpdate b) s = .next (fwReply { s with
      mgt := { s.mgt with session := true, updateVia := b, updateState := 1, updateComponent := 0 } } b 0x10 0 [])) ∧
    (s.mgt.session = true → exec (.requestUpdate b) s = .next (fwReply s b 0x10 0x81 [])) ∧
    (s.mgt.session = true → componentServed s = true →
      (∀ c, s.mgt.updateState = 1 → updatable s c = true → exec (.passComponentTable b 0xFFFF c) s = .next (fwReply { s with
        mgt := { s.mgt with updateVia := b, table := s.mgt.table.filter (· ≠ c) ++ [c] } } b 0x13 0 [])) ∧
      (∀ c n, s.mgt.updateState = 1 ∨ s.mgt.updateState = 5 → s.mgt.table.contains c = true → updatable s c = true → 0 < n →
        exec (.updateComponent b c n) s = .next (fwReply
          (beginComponent { s with mgt := { s.mgt with updateVia := b } } c n) b 0x14 0 [])) ∧
      (∀ n, wantsPiece s = true → 0 < n → n ≤ Nat.min 4096 (s.mgt.imageSize - s.mgt.imageDone) →
        exec (.requestFirmwareData b n) s = .next (askFlash { s with mgt := { s.mgt with piece := n, updateVia := b } } 2)) ∧
      (s.mgt.updateState = 2 → s.mgt.flashOp = 0 → s.mgt.flashWant = 0 → 0 < s.mgt.imageSize → s.mgt.imageDone = s.mgt.imageSize →
        exec (.transferComplete b) s = .next (reply { s with mgt := { s.mgt with updateState := 3 } } b 0x01 0x16 0 [5])) ∧
      (∀ ver svn, s.mgt.updateState = 3 → imageTrusted s s.mgt.updateComponent.toNat svn true = true →
        exec (.verifyComplete b ver svn true) s = .next (reply
          (verifySlot s s.mgt.updateComponent.toNat ver svn true) b 0x01 0x17 0 [5, 0])) ∧
      (s.mgt.updateState = 4 → exec (.applyComplete b) s = .next (reply (askFlash s 3) b 0x01 0x18 0 [5])))

/-- The end of an update (R413, R421): activation begins with the first pending component when it is self-contained, and otherwise closes
the session; a component or the whole update is cancelled with its slots spoilt, also where the boot ROM alone runs; a command outside a
session is refused, the device's own steps do not happen there, and so is any other command on a component that the boot ROM alone does not serve (R411). That an activation not
self-contained closes the session and that CancelUpdate spoils every applied slot are deduced (log entry 81); the refusal codes are
presumed (log entry 28). -/
def Obligations.UpdatesEnd : Prop :=
  ∀ (b : Binding) (s : State), bindingUp s b = true →
    (s.mgt.session = true → componentServed s = true →
      s.mgt.updateState = 5 ∨ (s.mgt.updateState = 1 ∧ pendingComponents s ≠ []) →
      exec (.activateFirmware b true) s = .next (startComponent { fwReply { s with mgt := { s.mgt with updateVia := b } } b 0x1A 0 [] with
        mgt := { s.mgt with updateVia := b, activating := pendingComponents s } }) ∧
      exec (.activateFirmware b false) s = .next (closeSession (fwReply { s with mgt := { s.mgt with updateVia := b } } b 0x1A 0 []))) ∧
    (s.mgt.session = true → s.mgt.updateState = 2 → exec (.cancelUpdateComponent b) s = .next
      (fwReply (dropComponent { s with mgt := { s.mgt with updateVia := b } }) b 0x1C 0 [])) ∧
    (s.mgt.session = true → s.mgt.updateState = 2 → exec (.cancelUpdate b) s = .next
      (fwReply (cancelAll { s with mgt := { s.mgt with updateVia := b } }) b 0x1D 0 [])) ∧
    (s.mgt.session = true → componentServed s = false → ∀ t : State, t = { s with mgt := { s.mgt with updateVia := b } } →
      (s.mgt.updateState = 1 → ∀ c, exec (.passComponentTable b 0xFFFF c) s = .next (fwReply t b 0x13 0x84 [])) ∧
      (s.mgt.updateState = 1 ∨ s.mgt.updateState = 5 → ∀ c n, exec (.updateComponent b c n) s = .next (fwReply t b 0x14 0x84 [])) ∧
      (s.mgt.updateState = 5 → ∀ f, exec (.activateFirmware b f) s = .next (fwReply t b 0x1A 0x84 [])) ∧
      (∀ n, exec (.requestFirmwareData b n) s = .next s) ∧ exec (.transferComplete b) s = .next s ∧
      (∀ v n ok, exec (.verifyComplete b v n ok) s = .next s) ∧ exec (.applyComplete b) s = .next s) ∧
    (componentServed s = true ↔ s.mgt.updateComponent = 0 ∨
      1 ≤ s.mgt.updateComponent.toNat ∧ s.mgt.updateComponent.toNat ≤ (if romOnly s then 1 else 6)) ∧
    (s.mgt.session = false → (∀ k c, exec (.passComponentTable b k c) s = .next (fwReply s b 0x13 0x80 [])) ∧
      (∀ c n, exec (.updateComponent b c n) s = .next (fwReply s b 0x14 0x80 [])) ∧
      (∀ n, exec (.requestFirmwareData b n) s = .next s) ∧ exec (.transferComplete b) s = .next s ∧
      (∀ v n ok, exec (.verifyComplete b v n ok) s = .next s) ∧ exec (.applyComplete b) s = .next s ∧
      (∀ f, exec (.activateFirmware b f) s = .next (fwReply s b 0x1A 0x80 [])) ∧
      exec (.cancelUpdate b) s = .next (fwReply s b 0x1D 0x80 []) ∧ exec (.cancelUpdateComponent b) s = .next (fwReply s b 0x1C 0x80 [])) ∧
    (∀ (c : Nat) (ver : BitVec 32) (svn : BitVec 8) (ok : Bool), twf {} s.mgt.images = true →
      (imageAt (verifySlot s c ver svn ok) c (!runsB s c)).valid = (ok && decide (tget 0 s.mgt.svnCounter c ≤ svn)) ∧
      imageAt (verifySlot s c ver svn ok) c (runsB s c) = imageAt s c (runsB s c))

/-- Attestation (R416, Table 16-7): version 1.3, the capabilities and the algorithms, slot 0 with the identity chain, challenges signed by the
identity key, and ten measurement blocks. Digests, certificates and signatures are free values (log entry 8), the codes and the bodies
of SPDM are presumed (log entry 28), and the error for an empty slot is deduced (log entry 85). -/
def Obligations.AttestationIsAnswered : Prop :=
  ∀ (b : Binding) (s : State), bindingUp s b = true →
    exec (.getVersion b) s = .next (reply s b 0x05 0x84 0 [1, 0x00, 0x13]) ∧
    exec (.getCapabilities b) s = .next (reply s b 0x05 0xE1 0 [0x36, 0, 0, 0]) ∧
    exec (.negotiateAlgorithms b) s = .next (reply s b 0x05 0xE3 0 [0x80, 0, 0, 0, 0x02, 0, 0, 0]) ∧
    exec (.getDigests b) s = .next (reply s b 0x05 0x81 0 (1 :: digest chain)) ∧
    (∀ o n, o < Config.chainLength → exec (.getCertificate b 0 o n) s = .next (reply s b 0x05 0x82 0
      (0 :: leBytes 2 ((chain.drop o).take n).length ++ leBytes 2 (Config.chainLength - o - ((chain.drop o).take n).length) ++
        (chain.drop o).take n))) ∧
    (∀ k o n, k ≠ 0 → exec (.getCertificate b k o n) s = .next (reply s b 0x05 0x82 1 [])) ∧
    (∀ n, exec (.challenge b 0 n) s = .next (reply { s with freeCtr := s.freeCtr + 1 } b 0x05 0x83 0
      (0 :: digest chain ++ (List.range 128).map (Config.freeByte s.freeCtr)))) ∧
    (∀ n, exec (.getMeasurements b 0 false n) s = .next (reply s b 0x05 0xE0 0 [10])) ∧
    (∀ k n, 1 ≤ k → k ≤ 10 → exec (.getMeasurements b k false n) s = .next (reply s b 0x05 0xE0 0 (1 :: measurementBlock s k)) ∧
      exec (.getMeasurements b k true n) s = .next (reply { s with freeCtr := s.freeCtr + 1 } b 0x05 0xE0 0
        (1 :: measurementBlock s k ++ (List.range 128).map (Config.freeByte s.freeCtr))))

/-- Vendor-defined commands (R394, R411, R412, R417): the management complex claims the vise when it is free and releases it, reads any
register, writes as the vise holder, asks for resets, and reads the fuse map and the calibration record. That a refused claim is logged
at 0x30 and that a REG_WRITE which is ignored as a whole gives STATE_CONFLICT are deduced (log entry 78). -/
def Obligations.VendorCommands : Prop :=
  ∀ (b : Binding) (s : State), bindingUp s b = true → romOnly s = false →
    (s.hub.vise = 0 → ∃ t, exec (.viseClaim b) s = .next t ∧ t.hub = { s.hub with vise := 0x4D, claims := s.hub.claims + 1 } ∧
      t.mgt = s.mgt ∧ t.parts = s.parts ∧ t.rings = s.rings ∧ t.dram = s.dram) ∧
    (s.hub.vise = 0x41 → exec (.viseClaim b) s = .next (vendor (setupIgnored s 0x30 0x4D) b 1
      (Code.stateConflict :: leBytes 8 (viseWord s.hub)))) ∧
    (s.hub.vise = 0x4D → ∃ t, exec (.viseRelease b) s = .next t ∧ t.hub = { s.hub with vise := 0 } ∧ t.mgt = s.mgt) ∧
    (∀ off, fusedBlock s (blockOf (off / 8 * 8)) = false →
      exec (.regRead b off) s = .next (vendor s b 3 (leBytes 8 (blockWord s (blockOf (off / 8 * 8)))))) ∧
    (∀ v : Word, s.hub.vise = 0x4D → fld v.toNat 4 0 ≤ 28 → exec (.regWrite b 0x2030 v) s = .next (vendor
      { s with pwr := { s.pwr with domSel := BitVec.ofNat 5 v.toNat } } b 4 [Code.ok])) ∧
    (∀ off v, s.hub.vise ≠ 0x4D → off ≠ 0x30 → viseFree off = false →
      exec (.regWrite b off v) s = .next (vendor (setupIgnored s off v) b 4 [Code.stateConflict])) ∧
    (inReset s Dom.warm 0 = false → exec (.resetRequest b 7 0) s = .next (vendor (beginReset s 7 0 Cause.management) b 5 [Code.ok])) ∧
    (∀ d i, d ≠ 7 → domainNamed d = true → s.hub.vise ≠ 0x4D →
      exec (.resetRequest b d i) s = .next (vendor s b 5 [Code.stateConflict])) ∧
    exec (.getFuseMap b) s = .next (vendor s b 6 (hubFuses s ++ (List.range 24).flatMap (stackFuses s))) ∧
    exec (.getCalibration b) s = .next (vendor s b 7 calibrationBytes)
end

