-- ==== Sys2Proof/Laws/Kept.lean ====
section
/-! SUPPORT. What no command changes: the queue, device time, and the canonical form of the memories. `Kept q t s` says that
the state `s` still has the queue `q`, the device time `t` and canonical memories; each operation has one lemma that it keeps
this. Here: the predicate, the map operations, and the rules for composed operations. -/

namespace Sys2Proof.Laws
open Sys2Proof Sys2Proof.Machine

/-! ## Canonical memories -/

theorem twfFrom_mono {α : Type} [DecidableEq α] {d : α} {lo lo' : Nat} (hl : lo ≤ lo') :
    ∀ {t : Tab α}, twfFrom d lo' t = true → twfFrom d lo t = true
  | [], _ => rfl
  | (k, v) :: t, h => by
    simp only [twfFrom, Bool.and_eq_true, decide_eq_true_eq] at h ⊢
    exact ⟨⟨by omega, h.1.2⟩, h.2⟩

/-- Writing keeps the canonical form (R10; MEMORY): the one lemma that says so for every table. -/
theorem twfFrom_tset {α : Type} [DecidableEq α] (d : α) (i : Nat) (v : α) :
    ∀ (lo : Nat) (t : Tab α), lo ≤ i → twfFrom d lo t = true → twfFrom d lo (tset d t i v) = true
  | lo, [], hl, _ => by
    simp only [tset]
    split
    · rfl
    · next hv => simp [twfFrom, hl, hv]
  | lo, (k, w) :: t, hl, h => by
    simp only [twfFrom, Bool.and_eq_true, decide_eq_true_eq] at h
    obtain ⟨⟨hk, hw⟩, ht⟩ := h
    simp only [tset]
    by_cases h1 : i = k
    · subst h1
      simp only [if_true]
      split
      · exact twfFrom_mono (by omega) ht
      · next hv => simp [twfFrom, hl, hv, ht]
    · simp only [if_neg h1]
      by_cases h2 : i < k
      · simp only [if_pos h2]
        split
        · simp [twfFrom, hk, hw, ht]
        · next hv =>
          simp only [twfFrom, Bool.and_eq_true, decide_eq_true_eq]
          exact ⟨⟨hl, hv⟩, ⟨by omega, hw⟩, ht⟩
      · simp only [if_neg h2, twfFrom, Bool.and_eq_true, decide_eq_true_eq]
        exact ⟨⟨hk, hw⟩, twfFrom_tset d i v (k + 1) t (by omega) ht⟩

/-- Removing entries keeps the canonical form. -/
theorem twfFrom_filter {α : Type} [DecidableEq α] (d : α) (p : Nat × α → Bool) :
    ∀ (lo : Nat) (t : Tab α), twfFrom d lo t = true → twfFrom d lo (t.filter p) = true
  | _, [], _ => rfl
  | lo, (k, w) :: t, h => by
    simp only [twfFrom, Bool.and_eq_true, decide_eq_true_eq] at h
    obtain ⟨⟨hk, hw⟩, ht⟩ := h
    have ih := twfFrom_filter d p (k + 1) t ht
    simp only [List.filter]
    split
    · simp [twfFrom, hk, hw, ih]
    · exact twfFrom_mono (by omega) ih

theorem memory_wf_mset {m : Memory} (h : Memory.wf m = true) (a : Nat) (b : Byte) : Memory.wf (mset m a b) = true :=
  twfFrom_tset 0 a b 0 m (Nat.zero_le _) h

theorem memory_wf_mwrite (bs : List Byte) : ∀ {m : Memory} (a : Nat), Memory.wf m = true → Memory.wf (mwrite m a bs) = true := by
  induction bs with
  | nil => intro m a h; exact h
  | cons b bs ih => intro m a h; exact ih (a + 1) (memory_wf_mset h a b)

theorem memory_wf_tclear {m : Memory} (h : Memory.wf m = true) (lo hi : Nat) : Memory.wf (tclear lo hi m : Memory) = true :=
  twfFrom_filter 0 _ 0 m h

theorem memory_wf_foldl {α : Type} {f : Memory → α → Memory} (l : List α)
    (hf : ∀ m x, Memory.wf m = true → Memory.wf (f m x) = true) :
    ∀ {m : Memory}, Memory.wf m = true → Memory.wf (l.foldl f m) = true := by
  induction l with
  | nil => intro m h; exact h
  | cons x l ih => intro m h; exact ih (hf m x h)

/-! ## The predicate -/

/-- The queue is `q`, device time is `t`, and every addressed memory has its canonical form. -/
structure Kept (q : List Instr) (t : BitVec 64) (s : State) : Prop where
  pending : s.pending = q
  time : s.time = t
  dram : Memory.wf s.dram = true
  spad : Memory.wf s.spad = true
  bbuf : Memory.wf s.bbuf = true
  memA : Memory.wf s.portA.mem = true
  memB : Memory.wf s.portB.mem = true

variable {q : List Instr} {t : BitVec 64} {s u : State}

theorem Kept.port (h : Kept q t s) (p : PortId) : Memory.wf (port s p).mem = true := by
  cases p
  · exact h.memA
  · exact h.memB

/-- An update of any field but those of the predicate keeps it. -/
theorem Kept.upd {hub : Hub} {evt : Evt} {rst : Rst} {pwr : Pwr} {fst : Fst} {mgt : Mgt} {links : Tab Link} {rings : Tab Ring}
    {parts : Tab Part} {walkers : Tab Walker} {regions : Tab Region} {clusters : Tab Cluster} {stackTab : Tab Stack}
    {graphs : Tab (Option Graph)} {tasks : Tab (Option Task)} {steps : Tab (Option Step)} {admitQueue : List Nat}
    {nextGraph : Nat} {pegs : Tab (BitVec 32)} {out : List Output} {freeCtr : Nat} (h : Kept q t s) :
    Kept q t { s with
      hub := hub, evt := evt, rst := rst, pwr := pwr, fst := fst, mgt := mgt, links := links, rings := rings,
      parts := parts, walkers := walkers, regions := regions, clusters := clusters, stackTab := stackTab, graphs := graphs,
      tasks := tasks, steps := steps, admitQueue := admitQueue, nextGraph := nextGraph, pegs := pegs, out := out,
      freeCtr := freeCtr } :=
  ⟨h.1, h.2, h.3, h.4, h.5, h.6, h.7⟩

theorem Kept.of_fst {α : Type} {e : State × α} {a : State} {b : α} (he : e = (a, b)) (h : Kept q t e.1) : Kept q t a := by
  subst he; exact h

theorem Kept.of_snd {α : Type} {e : α × State} {a : State} {b : α} (he : e = (b, a)) (h : Kept q t e.2) : Kept q t a := by
  subst he; exact h

theorem Kept.getD {o : Option State} (ho : ∀ w, o = some w → Kept q t w) (hs : Kept q t s) : Kept q t (o.getD s) := by
  cases o with
  | none => exact hs
  | some w => exact ho w rfl

theorem Kept.ite {c : Prop} [Decidable c] (h1 : Kept q t s) (h2 : Kept q t u) : Kept q t (if c then s else u) := by
  split <;> assumption

theorem Kept.foldl {α : Type} {f : State → α → State} (hf : ∀ u x, Kept q t u → Kept q t (f u x)) :
    ∀ {l : List α} {s : State}, Kept q t s → Kept q t (l.foldl f s) := by
  intro l
  induction l with
  | nil => intro s h; exact h
  | cons x l ih => intro s h; exact ih (hf s x h)

theorem Kept.foldl_fst {α β : Type} {f : State × β → α → State × β} (hf : ∀ u x, Kept q t u.1 → Kept q t (f u x).1) :
    ∀ {l : List α} {s : State × β}, Kept q t s.1 → Kept q t (l.foldl f s).1 := by
  intro l
  induction l with
  | nil => intro s h; exact h
  | cons x l ih => intro s h; exact ih (hf s x h)

/-! ## Actions -/

variable {α β : Type}

theorem runAct_bind (m : Act α) (f : α → Act β) (s : State) : runAct (m >>= f) s = match runAct m s with
    | (.ok x, u) => runAct (f x) u
    | (.error e, u) => (.error e, u) := by
  have h : runAct (m >>= f) s = (ExceptT.bindCont f (runAct m s).1).run (runAct m s).2 := rfl
  rw [h]
  rcases runAct m s with ⟨r, u⟩
  cases r <;> rfl

theorem Kept.bind {m : Act α} {f : α → Act β} (hm : Kept q t (runAct m s).2)
    (hf : ∀ x u, Kept q t u → Kept q t (runAct (f x) u).2) : Kept q t (runAct (m >>= f) s).2 := by
  rw [runAct_bind]
  split
  · next x u he => exact hf x u (by rw [he] at hm; exact hm)
  · next e u he => rw [he] at hm; exact hm

theorem Kept.get_bind {f : State → Act β} (h : Kept q t (runAct (f s) s).2) : Kept q t (runAct (get >>= f) s).2 := h
theorem Kept.pure {x : α} (h : Kept q t s) : Kept q t (runAct (pure x : Act α) s).2 := h
theorem Kept.throw {e : Stop} (h : Kept q t s) : Kept q t (runAct (throw e : Act α) s).2 := h
theorem Kept.set (h : Kept q t u) : Kept q t (runAct (set u : Act PUnit) s).2 := h
theorem Kept.edit {f : State → State} (h : Kept q t (f s)) : Kept q t (runAct (edit f) s).2 := h
theorem Kept.getThe (h : Kept q t s) : Kept q t (runAct (get : Act State) s).2 := h

theorem Kept.iteAct {c : Prop} [Decidable c] {a b : Act α} (h1 : Kept q t (runAct a s).2) (h2 : Kept q t (runAct b s).2) :
    Kept q t (runAct (if c then a else b) s).2 := by
  split <;> assumption

theorem need_kept {b : Bool} {st : Status} (h : Kept q t s) : Kept q t (runAct (need b st) s).2 := by
  unfold need; split <;> exact h

theorem needReady_kept {b : Bool} (h : Kept q t s) : Kept q t (runAct (needReady b) s).2 := by
  unfold needReady; split <;> exact h

theorem eachAct_kept {f : α → Act Unit} (hf : ∀ x u, Kept q t u → Kept q t (runAct (f x) u).2) :
    ∀ {l : List α} {s : State}, Kept q t s → Kept q t (runAct (eachAct f l) s).2 := by
  intro l
  induction l with
  | nil => intro s h; exact h
  | cons x l ih => intro s h; exact Kept.bind (hf x s h) fun _ _ hu => ih hu

theorem mapAct_kept {f : α → Act β} (hf : ∀ x u, Kept q t u → Kept q t (runAct (f x) u).2) :
    ∀ {l : List α} {s : State}, Kept q t s → Kept q t (runAct (mapAct f l) s).2 := by
  intro l
  induction l with
  | nil => intro s h; exact h
  | cons x l ih =>
    intro s h
    exact Kept.bind (hf x s h) fun _ _ hu => Kept.bind (ih hu) fun _ _ hv => hv

theorem attempt_kept {m : Act α} (hm : Kept q t (runAct m s).2) (h : Kept q t s) : Kept q t (runAct (attempt m) s).2 := by
  refine Kept.get_bind ?_
  split
  · next he => rw [he] at hm; exact hm
  · next he => rw [he] at hm; exact hm
  · exact h

theorem settle_kept {m : Act α} {k : Except Status α → State → State} (hk : ∀ r u, Kept q t u → Kept q t (k r u))
    (hm : Kept q t (runAct m s).2) (h : Kept q t s) : Kept q t (settle m s k) := by
  unfold settle
  split
  · next he => exact hk _ _ (by rw [he] at hm; exact hm)
  · next he => exact hk _ _ (by rw [he] at hm; exact hm)
  · exact h

end Sys2Proof.Laws
end

