-- ==== Sys2Proof/Laws/Act.lean ====
section
/-! SUPPORT. Running actions: what each building block answers. -/

namespace Sys2Proof.Laws
open Sys2Proof Sys2Proof.Machine

variable {α β : Type} {s : State}

@[simp] theorem runAct_pure (x : α) : runAct (pure x : Act α) s = (.ok x, s) := rfl
@[simp] theorem runAct_throw (e : Stop) : runAct (throw e : Act α) s = (.error e, s) := rfl
@[simp] theorem runAct_get : runAct (get : Act State) s = (.ok s, s) := rfl
@[simp] theorem runAct_set (u : State) : runAct (set u : Act PUnit) s = (.ok ⟨⟩, u) := rfl
@[simp] theorem runAct_edit (f : State → State) : runAct (edit f) s = (.ok (), f s) := rfl

theorem runAct_need (b : Bool) (st : Status) :
    runAct (need b st) s = if b = true then (.ok (), s) else (.error (.fail st), s) := by
  unfold need; split <;> rfl

theorem runAct_needReady (b : Bool) : runAct (needReady b) s = if b = true then (.ok (), s) else (.error .wait, s) := by
  unfold needReady; split <;> rfl

/-- A step that has ended in success is followed by the next. -/
theorem runAct_bind_ok {m : Act α} {f : α → Act β} {x : α} {u : State} (h : runAct m s = (.ok x, u)) :
    runAct (m >>= f) s = runAct (f x) u := by
  rw [runAct_bind, h]

theorem runAct_bind_error {m : Act α} {f : α → Act β} {e : Stop} {u : State} (h : runAct m s = (.error e, u)) :
    runAct (m >>= f) s = (.error e, u) := by
  rw [runAct_bind, h]

theorem runAct_attempt_ok {m : Act α} {x : α} {u : State} (h : runAct m s = (.ok x, u)) :
    runAct (attempt m) s = (.ok (.ok x), u) := by
  unfold attempt
  rw [runAct_bind_ok runAct_get, h]
  rfl

theorem runAct_attempt_fail {m : Act α} {st : Status} {u : State} (h : runAct m s = (.error (.fail st), u)) :
    runAct (attempt m) s = (.ok (.error st), u) := by
  unfold attempt
  rw [runAct_bind_ok runAct_get, h]
  rfl

theorem settle_ok {m : Act α} {k : Except Status α → State → State} {x : α} {u : State} (h : runAct m s = (.ok x, u)) :
    settle m s k = k (.ok x) u := by
  unfold settle; rw [h]

theorem settle_fail {m : Act α} {k : Except Status α → State → State} {st : Status} {u : State}
    (h : runAct m s = (.error (.fail st), u)) : settle m s k = k (.error st) u := by
  unfold settle; rw [h]

theorem settle_wait {m : Act α} {k : Except Status α → State → State} {u : State} (h : runAct m s = (.error .wait, u)) :
    settle m s k = s := by
  unfold settle; rw [h]

end Sys2Proof.Laws
end

