-- ==== Sys2Proof/Laws/KeptFlags.lean ====
section
/-! SUPPORT. Each operation of Machine/Flags.lean keeps the queue, device time and canonical memories. -/

namespace Sys2Proof.Laws
open Sys2Proof Sys2Proof.Machine

variable {q : List Instr} {t : BitVec 64}

theorem modStk_kept {s : State} {i : Nat} {f : Stack → Stack} (hs : Kept q t s) :
    Kept q t (modStk s i f) := by
  unfold modStk
  repeat' first
    | with_reducible assumption | fail_if_no_progress with_reducible apply Kept.upd

theorem modClu_kept {s : State} {i : Nat} {f : Cluster → Cluster} (hs : Kept q t s) :
    Kept q t (modClu s i f) := by
  unfold modClu
  repeat' first
    | with_reducible assumption | fail_if_no_progress with_reducible apply Kept.upd

theorem modReg_kept {s : State} {i : Nat} {f : Region → Region} (hs : Kept q t s) :
    Kept q t (modReg s i f) := by
  unfold modReg
  repeat' first
    | with_reducible assumption | fail_if_no_progress with_reducible apply Kept.upd

theorem modRing_kept {s : State} {i : Nat} {f : Ring → Ring} (hs : Kept q t s) :
    Kept q t (modRing s i f) := by
  unfold modRing
  repeat' first
    | with_reducible assumption | fail_if_no_progress with_reducible apply Kept.upd

theorem modPrt_kept {s : State} {i : Nat} {f : Part → Part} (hs : Kept q t s) :
    Kept q t (modPrt s i f) := by
  unfold modPrt
  repeat' first
    | with_reducible assumption | fail_if_no_progress with_reducible apply Kept.upd

theorem modWlk_kept {s : State} {i : Nat} {f : Walker → Walker} (hs : Kept q t s) :
    Kept q t (modWlk s i f) := by
  unfold modWlk
  repeat' first
    | with_reducible assumption | fail_if_no_progress with_reducible apply Kept.upd

theorem modLnk_kept {s : State} {i : Nat} {f : Link → Link} (hs : Kept q t s) :
    Kept q t (modLnk s i f) := by
  unfold modLnk
  repeat' first
    | with_reducible assumption | fail_if_no_progress with_reducible apply Kept.upd

theorem modDom_kept {s : State} {i : Nat} {f : Domain → Domain} (hs : Kept q t s) :
    Kept q t (modDom s i f) := by
  unfold modDom
  repeat' first
    | with_reducible assumption | fail_if_no_progress with_reducible apply Kept.upd

theorem modPort_kept {s : State} {p : PortId} {f : Port → Port} (hf : ∀ x, Memory.wf x.mem = true → Memory.wf (f x).mem = true)
    (hs : Kept q t s) : Kept q t (modPort s p f) := by
  cases p
  · exact ⟨hs.1, hs.2, hs.3, hs.4, hs.5, hf _ hs.6, hs.7⟩
  · exact ⟨hs.1, hs.2, hs.3, hs.4, hs.5, hs.6, hf _ hs.7⟩

theorem modJig_kept {s : State} {cl j : Nat} {f : Jig → Jig} (hs : Kept q t s) :
    Kept q t (modJig s cl j f) := by
  unfold modJig
  repeat' first
    | with_reducible assumption | with_reducible apply modClu_kept

theorem modTask_kept {s : State} {t' : Nat} {f : Task → Task} (hs : Kept q t s) :
    Kept q t (modTask s t' f) := by
  unfold modTask
  repeat' first
    | with_reducible assumption | fail_if_no_progress with_reducible apply Kept.upd | split

theorem modGraph_kept {s : State} {g : Nat} {f : Graph → Graph} (hs : Kept q t s) :
    Kept q t (modGraph s g f) := by
  unfold modGraph
  repeat' first
    | with_reducible assumption | fail_if_no_progress with_reducible apply Kept.upd | split

theorem modStep_kept {s : State} {g : Nat} {f : Step → Step} (hs : Kept q t s) :
    Kept q t (modStep s g f) := by
  unfold modStep
  repeat' first
    | with_reducible assumption | fail_if_no_progress with_reducible apply Kept.upd | split

theorem emit_kept {s : State} {o : Output} (hs : Kept q t s) :
    Kept q t (emit s o) := by
  unfold emit
  repeat' first
    | with_reducible assumption | fail_if_no_progress with_reducible apply Kept.upd

theorem freeBelow_kept {s : State} {n : Nat} (hs : Kept q t s) :
    Kept q t (freeBelow s n).2 := by
  unfold freeBelow
  repeat' first
    | with_reducible assumption | fail_if_no_progress with_reducible apply Kept.upd

theorem freeBytes_kept {s : State} {n : Nat} (hs : Kept q t s) :
    Kept q t (freeBytes s n).2 := by
  unfold freeBytes
  repeat' first
    | with_reducible assumption | fail_if_no_progress with_reducible apply Kept.upd

theorem raiseMsix_kept {s : State} {p : PortId} {v : Nat} (hs : Kept q t s) :
    Kept q t (raiseMsix s p v) := by
  unfold raiseMsix
  repeat' first
    | intro _ | with_reducible assumption | with_reducible apply modPort_kept | with_reducible apply emit_kept | split
    | dsimp only

theorem advanceEpoch_kept {s : State} {domain index : Nat} (hs : Kept q t s) :
    Kept q t (advanceEpoch s domain index) := by
  unfold advanceEpoch
  repeat' first
    | with_reducible assumption | with_reducible apply modLnk_kept | fail_if_no_progress with_reducible apply Kept.upd
    | split

theorem logEvent_kept {s : State} {cls : BitVec 8} {sev : BitVec 2} {st : Status} {kind index d0 d1 : Nat} (hs : Kept q t s)
    :
    Kept q t (logEvent s cls sev st kind index d0 d1) := by
  unfold logEvent
  repeat' first
    | with_reducible assumption | with_reducible apply raiseMsix_kept | fail_if_no_progress with_reducible apply Kept.upd
    | split | dsimp only

theorem setupIgnored_kept {s : State} {off : Nat} {value : Word} (hs : Kept q t s) :
    Kept q t (setupIgnored s off value) := by
  unfold setupIgnored
  repeat' first
    | with_reducible assumption | with_reducible apply logEvent_kept

theorem absentAccess_kept {s : State} {p : PortId} {addr : Nat} (hs : Kept q t s) :
    Kept q t (absentAccess s p addr) := by
  unfold absentAccess
  repeat' first
    | with_reducible assumption | with_reducible apply logEvent_kept

end Sys2Proof.Laws
end

