-- ==== Sys2Proof/Laws/KeptOps.lean ====
section
/-! SUPPORT. Each operation of Machine/Ops.lean keeps the queue, device time and canonical memories. -/

namespace Sys2Proof.Laws
open Sys2Proof Sys2Proof.Machine

variable {q : List Instr} {t : BitVec 64}

theorem writePath_kept {d a : Nat} {s0 : State} (hs0 : Kept q t s0) :
    Kept q t (runAct (writePath d a) s0).2 := by
  unfold writePath
  repeat' first
    | with_reducible assumption | with_reducible apply needReady_kept | with_reducible apply Kept.get_bind

theorem readPath_kept {d a : Nat} {s0 : State} (hs0 : Kept q t s0) :
    Kept q t (runAct (readPath d a) s0).2 := by
  unfold readPath
  repeat' first
    | with_reducible assumption | with_reducible apply needReady_kept | with_reducible apply Kept.get_bind

theorem modGran_kept {s : State} {i g : Nat} {f : Gran → Gran} (hs : Kept q t s) :
    Kept q t (modGran s i g f) := by
  unfold modGran
  repeat' first
    | with_reducible assumption | with_reducible apply modStk_kept

theorem pokeDram_kept {s : State} {a : Nat} {bs : List Byte} (hs : Kept q t s) : Kept q t (pokeDram s a bs) :=
  ⟨hs.1, hs.2, memory_wf_mwrite bs _ hs.3, hs.4, hs.5, hs.6, hs.7⟩

theorem pokeSpad_kept {s : State} {a : Nat} {bs : List Byte} (hs : Kept q t s) : Kept q t (pokeSpad s a bs) :=
  ⟨hs.1, hs.2, hs.3, memory_wf_mwrite bs _ hs.4, hs.5, hs.6, hs.7⟩

theorem memory_wf_putFields {m : Memory} {a : Nat} (fs : List (Nat × List Byte)) (hm : Memory.wf m = true) :
    Memory.wf (putFields m a fs) = true :=
  memory_wf_foldl _ (fun _ f h => memory_wf_mwrite f.2 _ h) hm

theorem pokeHome_kept {s w : State} {a : Nat} {fs : List (Nat × List Byte)} (hs : Kept q t s) (hw : pokeHome s a fs = some w) :
    Kept q t w := by
  unfold pokeHome at hw
  split at hw
  · dsimp only at hw
    split at hw
    · cases hw; exact hs
    · split at hw
      · cases hw
      · cases hw
        refine ⟨hs.1, hs.2, ?_, hs.4, hs.5, hs.6, hs.7⟩
        dsimp only
        split
        · exact memory_wf_putFields fs (memory_wf_putFields fs hs.3)
        · exact memory_wf_putFields fs hs.3
  · dsimp only at hw
    split at hw
    · cases hw; exact hs
    · split at hw
      · cases hw
      · cases hw; exact ⟨hs.1, hs.2, hs.3, memory_wf_putFields fs hs.4, hs.5, hs.6, hs.7⟩
  · cases hw
    split
    · exact hs
    · exact modPort_kept (fun _ hx => memory_wf_putFields fs hx) hs
  · cases hw; exact hs

theorem poisonSeq_kept {s : State} {e : Nat × Nat} (hs : Kept q t s) :
    Kept q t (poisonSeq s e) := by
  unfold poisonSeq
  repeat' first
    | with_reducible assumption | with_reducible apply modPrt_kept
    | exact pokeHome_kept (by with_reducible assumption) (by with_reducible assumption) | split

theorem markPoison_kept {s : State} {p : KvSeq → Bool} (hs : Kept q t s) :
    Kept q t (markPoison s p) := by
  unfold markPoison
  repeat' first
    | intro _ | with_reducible assumption | with_reducible apply poisonSeq_kept | with_reducible apply Kept.foldl

theorem markSeqs_kept {s : State} {i o n : Nat} (hs : Kept q t s) :
    Kept q t (markSeqs s i o n) := by
  unfold markSeqs
  repeat' first
    | with_reducible assumption | with_reducible apply markPoison_kept | split

theorem poisonGranule_kept {s : State} {i g : Nat} (hs : Kept q t s) :
    Kept q t (poisonGranule s i g) := by
  unfold poisonGranule
  repeat' first
    | with_reducible assumption | with_reducible apply logEvent_kept | with_reducible apply modGran_kept
    | with_reducible apply markSeqs_kept

theorem poisonSector_kept {s : State} {i sec : Nat} {worked : Bool} (hs : Kept q t s) :
    Kept q t (poisonSector s i sec worked) := by
  unfold poisonSector
  repeat' first
    | with_reducible assumption | with_reducible apply modStk_kept | with_reducible apply logEvent_kept
    | with_reducible apply markSeqs_kept | with_reducible apply poisonGranule_kept | split | dsimp only

theorem clearPoisonEntry_kept {s : State} {i sec : Nat} (hs : Kept q t s) :
    Kept q t (clearPoisonEntry s i sec) := by
  unfold clearPoisonEntry
  repeat' first
    | with_reducible assumption | with_reducible apply modStk_kept | split

theorem spareServe_kept {s : State} {i : Nat} (hs : Kept q t s) :
    Kept q t (spareServe s i) := by
  unfold spareServe
  repeat' first
    | with_reducible assumption | with_reducible apply modStk_kept | with_reducible apply logEvent_kept | split | dsimp only

theorem spareAsk_kept {s : State} {i h : Nat} {above : Bool} (hs : Kept q t s) :
    Kept q t (spareAsk s i h above) := by
  unfold spareAsk
  repeat' first
    | with_reducible assumption | with_reducible apply modStk_kept | with_reducible apply spareServe_kept | split

theorem thresholdAsk_kept {s : State} {i h : Nat} (hs : Kept q t s) :
    Kept q t (thresholdAsk s i h) := by
  unfold thresholdAsk
  repeat' first
    | with_reducible assumption | with_reducible apply modStk_kept | with_reducible apply spareAsk_kept | split

theorem noteCorrected_kept {s : State} {i h : Nat} (hs : Kept q t s) :
    Kept q t (noteCorrected s i h) := by
  unfold noteCorrected
  repeat' first
    | with_reducible assumption | with_reducible apply modStk_kept | with_reducible apply thresholdAsk_kept | split

theorem noteUncorrectable_kept {s : State} {i h : Nat} (hs : Kept q t s) :
    Kept q t (noteUncorrectable s i h) := by
  unfold noteUncorrectable
  repeat' first
    | with_reducible assumption | with_reducible apply modStk_kept | with_reducible apply spareAsk_kept

theorem clearBad_kept {s : State} {i sec : Nat} (hs : Kept q t s) :
    Kept q t (clearBad s i sec) := by
  unfold clearBad
  repeat' first
    | with_reducible assumption | with_reducible apply modStk_kept

theorem decodeSealed_kept {s : State} {i sec : Nat} (hs : Kept q t s) :
    Kept q t (decodeSealed s i sec).2 := by
  unfold decodeSealed
  repeat' first
    | with_reducible assumption | with_reducible apply freeBelow_kept | split | dsimp only

theorem noteRepair_kept {s : State} {i sec : Nat} (hs : Kept q t s) :
    Kept q t (noteRepair s i sec) := by
  unfold noteRepair
  repeat' first
    | with_reducible assumption | with_reducible apply modStk_kept | with_reducible apply noteCorrected_kept

theorem missData_kept {s : State} {i sec left : Nat} (hs : Kept q t s) :
    Kept q t (missData s i sec left) := by
  unfold missData
  repeat' first
    | with_reducible assumption | with_reducible apply modStk_kept | with_reducible apply freeBytes_kept
    | with_reducible apply pokeDram_kept

theorem readSealed_kept {s : State} {i sec : Nat} (hs : Kept q t s) :
    Kept q t (readSealed s i sec).2 := by
  unfold readSealed
  repeat' first
    | with_reducible assumption | with_reducible apply noteUncorrectable_kept | with_reducible apply decodeSealed_kept
    | with_reducible apply noteRepair_kept | with_reducible apply missData_kept | split
    | refine Kept.of_snd (by with_reducible assumption) ?_

theorem readAlone_kept {s : State} {i sec : Nat} (hs : Kept q t s) :
    Kept q t (readAlone s i sec).2 := by
  unfold readAlone
  repeat' first
    | with_reducible assumption | with_reducible apply poisonSector_kept | with_reducible apply noteUncorrectable_kept
    | with_reducible apply readSealed_kept | split | refine Kept.of_snd (by with_reducible assumption) ?_

theorem readSector_kept {s : State} {i sec : Nat} (hs : Kept q t s) :
    Kept q t (readSector s i sec).2 := by
  unfold readSector
  repeat' first
    | with_reducible assumption | with_reducible apply modStk_kept | with_reducible apply poisonSector_kept
    | with_reducible apply readSealed_kept | with_reducible apply readAlone_kept | split
    | refine Kept.of_snd (by with_reducible assumption) ?_ | dsimp only

theorem loadSector_kept {i sec : Nat} {s0 : State} (hs0 : Kept q t s0) :
    Kept q t (runAct (loadSector i sec) s0).2 := by
  unfold loadSector
  repeat' first
    | intro _ | with_reducible assumption | with_reducible apply readSector_kept | with_reducible apply needReady_kept
    | with_reducible apply Kept.get_bind | with_reducible apply Kept.bind | with_reducible apply Kept.pure
    | with_reducible apply Kept.throw | with_reducible apply Kept.set | split

theorem pokeBbuf_kept {s : State} {a : Nat} {bs : List Byte} (hs : Kept q t s) : Kept q t (pokeBbuf s a bs) :=
  ⟨hs.1, hs.2, hs.3, hs.4, memory_wf_mwrite bs _ hs.5, hs.6, hs.7⟩

theorem wipeDram_kept {s : State} {lo hi : Nat} (hs : Kept q t s) : Kept q t (wipeDram s lo hi) :=
  ⟨hs.1, hs.2, memory_wf_tclear hs.3 _ _, hs.4, hs.5, hs.6, hs.7⟩

theorem wipeSpad_kept {s : State} {lo hi : Nat} (hs : Kept q t s) : Kept q t (wipeSpad s lo hi) :=
  ⟨hs.1, hs.2, hs.3, memory_wf_tclear hs.4 _ _, hs.5, hs.6, hs.7⟩

theorem wipeBbuf_kept {s : State} {lo hi : Nat} (hs : Kept q t s) : Kept q t (wipeBbuf s lo hi) :=
  ⟨hs.1, hs.2, hs.3, hs.4, memory_wf_tclear hs.5 _ _, hs.6, hs.7⟩

theorem writeWhole_kept {s : State} {i sec : Nat} {bs : List Byte} (hs : Kept q t s) :
    Kept q t (writeWhole s i sec bs) := by
  unfold writeWhole
  repeat' first
    | with_reducible assumption | with_reducible apply pokeDram_kept | with_reducible apply clearPoisonEntry_kept
    | with_reducible apply clearBad_kept

theorem keepOthers_kept {s : State} {i sec lo n : Nat} (hs : Kept q t s) :
    Kept q t (keepOthers s i sec lo n) := by
  unfold keepOthers
  repeat' first
    | with_reducible assumption | with_reducible apply modStk_kept

theorem storeSector_kept {i o : Nat} {bs : List Byte} {s0 : State} (hs0 : Kept q t s0) :
    Kept q t (runAct (storeSector i o bs) s0).2 := by
  unfold storeSector
  repeat' first
    | intro _ | with_reducible assumption | with_reducible apply pokeDram_kept | with_reducible apply clearBad_kept
    | with_reducible apply loadSector_kept | with_reducible apply writeWhole_kept | with_reducible apply keepOthers_kept
    | with_reducible apply Kept.edit | with_reducible apply Kept.get_bind | with_reducible apply Kept.bind
    | with_reducible apply Kept.pure | with_reducible apply Kept.iteAct

theorem noteSpadBad_kept {s : State} {cl off n : Nat} (hs : Kept q t s) :
    Kept q t (noteSpadBad s cl off n) := by
  unfold noteSpadBad
  repeat' first
    | intro _ | with_reducible assumption | with_reducible apply modClu_kept | with_reducible apply Kept.foldl

theorem correctSpad_kept {s : State} {cl off n : Nat} (hs : Kept q t s) :
    Kept q t (correctSpad s cl off n) := by
  unfold correctSpad
  repeat' first
    | intro _ | with_reducible assumption | with_reducible apply modClu_kept | with_reducible apply Kept.foldl

theorem loadSpad_kept {cl off n : Nat} {s0 : State} (hs0 : Kept q t s0) :
    Kept q t (runAct (loadSpad cl off n) s0).2 := by
  unfold loadSpad
  repeat' first
    | intro _ | with_reducible assumption | with_reducible apply noteSpadBad_kept | with_reducible apply correctSpad_kept
    | with_reducible apply Kept.edit | with_reducible apply Kept.get_bind | with_reducible apply Kept.bind
    | with_reducible apply Kept.pure | with_reducible apply Kept.throw | with_reducible apply Kept.iteAct

theorem storeSpadWord_kept {cl off : Nat} {bs : List Byte} {s0 : State} (hs0 : Kept q t s0) :
    Kept q t (runAct (storeSpadWord cl off bs) s0).2 := by
  unfold storeSpadWord
  repeat' first
    | intro _ | with_reducible assumption | with_reducible apply modClu_kept | with_reducible apply pokeSpad_kept
    | with_reducible apply noteSpadBad_kept | with_reducible apply correctSpad_kept | with_reducible apply Kept.edit
    | with_reducible apply Kept.get_bind | with_reducible apply Kept.bind | with_reducible apply Kept.throw
    | with_reducible apply Kept.iteAct

theorem storeSpad_kept {cl off : Nat} {bs : List Byte} {s0 : State} (hs0 : Kept q t s0) :
    Kept q t (runAct (storeSpad cl off bs) s0).2 := by
  unfold storeSpad
  repeat' first
    | intro _ | with_reducible assumption | with_reducible apply storeSpadWord_kept | with_reducible apply eachAct_kept

theorem zeroSpad_kept {s : State} {cl : Nat} (hs : Kept q t s) :
    Kept q t (zeroSpad s cl) := by
  unfold zeroSpad
  repeat' first
    | with_reducible assumption | with_reducible apply modClu_kept | with_reducible apply wipeSpad_kept

theorem loadHost_kept {q' : PortId} {off n : Nat} {s0 : State} (hs0 : Kept q t s0) :
    Kept q t (runAct (loadHost q' off n) s0).2 := by
  unfold loadHost
  repeat' first
    | intro _ | with_reducible assumption | with_reducible apply modPort_kept | with_reducible apply Kept.edit
    | with_reducible apply Kept.get_bind | with_reducible apply Kept.bind | with_reducible apply Kept.pure
    | with_reducible apply Kept.throw | with_reducible apply Kept.iteAct | split

theorem storeHost_kept {who : Option Nat} {q' : PortId} {off : Nat} {bs : List Byte} {s0 : State} (hs0 : Kept q t s0) :
    Kept q t (runAct (storeHost who q' off bs) s0).2 := by
  unfold storeHost
  refine Kept.get_bind ?_
  split
  · exact hs0
  · refine Kept.edit ?_
    have h1 := modPort_kept (p := q') (f := fun p => { p with mem := mwrite p.mem (hostAddr p off) bs })
      (fun x hx => memory_wf_mwrite bs _ hx) hs0
    dsimp only
    split
    · exact modTask_kept h1
    · exact h1

theorem stackServes_kept {s : State} {i o : Nat} {s0 : State} (hs : Kept q t s) (hs0 : Kept q t s0) :
    Kept q t (runAct (stackServes s i o) s0).2 := by
  unfold stackServes
  repeat' first
    | intro _ | with_reducible assumption | with_reducible apply need_kept | with_reducible apply needReady_kept
    | with_reducible apply Kept.bind

theorem spadServes_kept {s : State} {c : Nat} {s0 : State} (hs : Kept q t s) (hs0 : Kept q t s0) :
    Kept q t (runAct (spadServes s c) s0).2 := by
  unfold spadServes
  repeat' first
    | intro _ | with_reducible assumption | with_reducible apply need_kept | with_reducible apply Kept.bind

theorem stackReady_kept {s : State} {i o : Nat} {write : Bool} {s0 : State} (hs : Kept q t s) (hs0 : Kept q t s0) :
    Kept q t (runAct (stackReady s i o write) s0).2 := by
  unfold stackReady
  repeat' first
    | intro _ | with_reducible assumption | with_reducible apply stackServes_kept | with_reducible apply need_kept
    | with_reducible apply needReady_kept | with_reducible apply Kept.bind | with_reducible apply Kept.pure
    | with_reducible apply Kept.iteAct

theorem lostTransfer_kept {s0 : State} (hs0 : Kept q t s0) :
    Kept q t (runAct (lostTransfer) s0).2 := by
  unfold lostTransfer
  repeat' first
    | intro _ | with_reducible assumption | with_reducible apply Kept.edit | with_reducible apply Kept.get_bind
    | with_reducible apply Kept.bind | with_reducible apply Kept.pure | with_reducible apply Kept.throw
    | fail_if_no_progress with_reducible apply Kept.upd | with_reducible apply Kept.iteAct

theorem loadPiece_kept {a n : Nat} {s0 : State} (hs0 : Kept q t s0) :
    Kept q t (runAct (loadPiece a n) s0).2 := by
  unfold loadPiece
  repeat' first
    | intro _ | with_reducible assumption | with_reducible apply loadSector_kept | with_reducible apply loadSpad_kept
    | with_reducible apply loadHost_kept | with_reducible apply spadServes_kept | with_reducible apply stackReady_kept
    | with_reducible apply lostTransfer_kept | with_reducible apply Kept.get_bind | with_reducible apply Kept.bind
    | with_reducible apply Kept.pure | with_reducible apply Kept.throw | split

theorem loadHome_kept {a n : Nat} {s0 : State} (hs0 : Kept q t s0) :
    Kept q t (runAct (loadHome a n) s0).2 := by
  unfold loadHome
  repeat' first
    | intro _ | with_reducible assumption | with_reducible apply loadPiece_kept | with_reducible apply mapAct_kept
    | with_reducible apply Kept.bind | with_reducible apply Kept.pure

theorem checkStore_kept {p : Nat × Nat} {s0 : State} (hs0 : Kept q t s0) :
    Kept q t (runAct (checkStore p) s0).2 := by
  unfold checkStore
  repeat' first
    | with_reducible assumption | with_reducible apply spadServes_kept | with_reducible apply stackReady_kept
    | with_reducible apply Kept.get_bind | with_reducible apply Kept.pure | with_reducible apply Kept.throw | split

theorem storePiece_kept {who : Option Nat} {a : Nat} {bs : List Byte} {s0 : State} (hs0 : Kept q t s0) :
    Kept q t (runAct (storePiece who a bs) s0).2 := by
  unfold storePiece
  repeat' first
    | with_reducible assumption | with_reducible apply storeSector_kept | with_reducible apply storeSpad_kept
    | with_reducible apply storeHost_kept | with_reducible apply Kept.throw | split

theorem storeAll_kept {who : Option Nat} {a : Nat} {bs : List Byte} :
    ∀ {ps : List (Nat × Nat)} {st : Status} {s0 : State}, Kept q t s0 → Kept q t (runAct (storeAll who a bs ps st) s0).2 := by
  intro ps
  induction ps with
  | nil => intro st s0 h; exact h
  | cons p ps ih =>
    intro st s0 h
    unfold storeAll
    refine Kept.get_bind ?_
    have hp := storePiece_kept (who := who) (a := p.1) (bs := (bs.drop (p.1 - a)).take p.2) h
    split
    · next he => exact ih (by rw [he] at hp; exact hp)
    · next he => exact ih (by rw [he] at hp; exact hp)
    · exact h

theorem storeHome_kept {who : Option Nat} {a : Nat} {bs : List Byte} {s0 : State} (hs0 : Kept q t s0) :
    Kept q t (runAct (storeHome who a bs) s0).2 := by
  unfold storeHome
  repeat' first
    | intro _ | with_reducible assumption | with_reducible apply checkStore_kept | with_reducible apply storeAll_kept
    | with_reducible apply eachAct_kept | with_reducible apply need_kept | with_reducible apply Kept.bind

theorem testWindows_kept {q' : Nat} {write : Bool} {a n : Nat} {s0 : State} (hs0 : Kept q t s0) :
    Kept q t (runAct (testWindows q' write a n) s0).2 := by
  unfold testWindows
  repeat' first
    | with_reducible assumption | with_reducible apply need_kept | with_reducible apply Kept.get_bind

theorem loadFrom_kept {d a n : Nat} {s0 : State} (hs0 : Kept q t s0) :
    Kept q t (runAct (loadFrom d a n) s0).2 := by
  unfold loadFrom
  repeat' first
    | intro _ | with_reducible assumption | with_reducible apply readPath_kept | with_reducible apply loadHome_kept
    | with_reducible apply Kept.bind

theorem storeFrom_kept {d : Nat} {who : Option Nat} {a : Nat} {bs : List Byte} {s0 : State} (hs0 : Kept q t s0) :
    Kept q t (runAct (storeFrom d who a bs) s0).2 := by
  unfold storeFrom
  repeat' first
    | intro _ | with_reducible assumption | with_reducible apply writePath_kept | with_reducible apply storeHome_kept
    | with_reducible apply Kept.bind

theorem loadFor_kept {d q' a n : Nat} {s0 : State} (hs0 : Kept q t s0) :
    Kept q t (runAct (loadFor d q' a n) s0).2 := by
  unfold loadFor
  repeat' first
    | intro _ | with_reducible assumption | with_reducible apply testWindows_kept | with_reducible apply loadFrom_kept
    | with_reducible apply Kept.bind

theorem fillStack_kept {s : State} {i : Nat} (hs : Kept q t s) : Kept q t (fillStack s i) := by
  have h1 : ∀ l : Tab Gran, Kept q t
      (l.foldl (fun s e => modGran s e.2.partner e.1 (fun g => { g with role := 0, partner := 0 })) s) :=
    fun l => Kept.foldl (fun u x hu => modGran_kept hu) hs
  have h2 := h1 ((stk s i).granules.filter (fun e => e.2.role ≠ 0))
  exact modStk_kept (wipeDram_kept h2)

end Sys2Proof.Laws
end

