-- ==== Sys2Proof/Laws/KeptPegs.lean ====
section
/-! SUPPORT. Each operation of Machine/Pegs.lean keeps the queue, device time and canonical memories. -/

namespace Sys2Proof.Laws
open Sys2Proof Sys2Proof.Machine

variable {q : List Instr} {t : BitVec 64}

theorem enterReady_kept {s : State} {t' : Nat} (hs : Kept q t s) :
    Kept q t (enterReady s t') := by
  unfold enterReady
  repeat' first
    | with_reducible assumption | with_reducible apply modTask_kept | with_reducible apply logEvent_kept | split
    | dsimp only

theorem tryReady_kept {s : State} {t' : Nat} (hs : Kept q t s) :
    Kept q t (tryReady s t') := by
  unfold tryReady
  repeat' first
    | with_reducible assumption | with_reducible apply enterReady_kept | split

theorem walkersHear_kept {s : State} (hs : Kept q t s) :
    Kept q t (walkersHear s) := by
  unfold walkersHear
  repeat' first
    | intro _ | with_reducible assumption | with_reducible apply tryReady_kept | with_reducible apply Kept.foldl
    | fail_if_no_progress with_reducible apply Kept.upd

theorem meetAll_kept {s : State} {m : Nat} {v : BitVec 32} (hs : Kept q t s) :
    Kept q t (meetAll s m v) := by
  unfold meetAll
  repeat' first
    | intro _ | with_reducible assumption | with_reducible apply tryReady_kept | with_reducible apply Kept.foldl
    | fail_if_no_progress with_reducible apply Kept.upd

theorem setPeg_kept {s : State} {m : Nat} {v : BitVec 32} (hs : Kept q t s) :
    Kept q t (setPeg s m v) := by
  unfold setPeg
  repeat' first
    | with_reducible assumption | with_reducible apply meetAll_kept | fail_if_no_progress with_reducible apply Kept.upd

theorem addPeg_kept {s : State} {m : Nat} {v : BitVec 32} (hs : Kept q t s) :
    Kept q t (addPeg s m v) := by
  unfold addPeg
  repeat' first
    | with_reducible assumption | with_reducible apply setPeg_kept

theorem startWaiting_kept {s : State} {t' : Nat} (hs : Kept q t s) :
    Kept q t (startWaiting s t') := by
  unfold startWaiting
  repeat' first
    | with_reducible assumption | with_reducible apply modTask_kept | with_reducible apply tryReady_kept

theorem startTask_kept {s : State} {t' : Nat} (hs : Kept q t s) :
    Kept q t (startTask s t') := by
  unfold startTask
  repeat' first
    | with_reducible assumption | with_reducible apply modWlk_kept | with_reducible apply modTask_kept | split

theorem startOnce_kept {s : State} {t' : Nat} (hs : Kept q t s) :
    Kept q t (startOnce s t') := by
  unfold startOnce
  repeat' first
    | with_reducible assumption | with_reducible apply startTask_kept | split

theorem endWork_kept {s : State} {t' : Nat} {st : Status} {result : Word} (hs : Kept q t s) :
    Kept q t (endWork s t' st result) := by
  unfold endWork
  repeat' first
    | with_reducible assumption | with_reducible apply modTask_kept

end Sys2Proof.Laws
end

