-- ==== Sys2Proof/Laws/KeptCompletions.lean ====
section
/-! SUPPORT. Each operation of Machine/Completions.lean keeps the queue, device time and canonical memories. -/

namespace Sys2Proof.Laws
open Sys2Proof Sys2Proof.Machine

variable {q : List Instr} {t : BitVec 64}

theorem logDropped_kept {s : State} {i a : Nat} (hs : Kept q t s) :
    Kept q t (logDropped s i a) := by
  unfold logDropped
  repeat' first
    | intro _ | with_reducible assumption | with_reducible apply logEvent_kept | with_reducible apply Kept.bind
    | with_reducible apply Kept.pure | with_reducible apply Kept.throw
    | fail_if_no_progress with_reducible apply Kept.upd | with_reducible apply Kept.iteAct | split
    | refine Kept.of_fst (by with_reducible assumption) ?_ | refine Kept.of_snd (by with_reducible assumption) ?_
    | dsimp only

theorem writeCompletion_kept {s : State} {i : Nat} {c : Completion} (hs : Kept q t s) :
    Kept q t (writeCompletion s i c) := by
  unfold writeCompletion
  repeat' first
    | intro _ | with_reducible assumption | with_reducible apply modRing_kept | with_reducible apply raiseMsix_kept
    | with_reducible apply storeHome_kept | with_reducible apply logDropped_kept | with_reducible apply settle_kept
    | with_reducible apply Kept.bind | with_reducible apply Kept.pure | with_reducible apply Kept.throw
    | fail_if_no_progress with_reducible apply Kept.upd | with_reducible apply Kept.iteAct | split
    | refine Kept.of_fst (by with_reducible assumption) ?_ | refine Kept.of_snd (by with_reducible assumption) ?_
    | dsimp only

theorem restRing_kept {s : State} {i : Nat} (hs : Kept q t s) :
    Kept q t (restRing s i) := by
  unfold restRing
  repeat' first
    | intro _ | with_reducible assumption | with_reducible apply modRing_kept | with_reducible apply Kept.bind
    | with_reducible apply Kept.pure | with_reducible apply Kept.throw
    | fail_if_no_progress with_reducible apply Kept.upd | with_reducible apply Kept.iteAct | split
    | refine Kept.of_fst (by with_reducible assumption) ?_ | refine Kept.of_snd (by with_reducible assumption) ?_
    | dsimp only

theorem flushHeld_kept  :
    ∀ {y0 : Nat} {y1 : State} {y2 : Nat}, Kept q t y1 → Kept q t (flushHeld y0 y1 y2) := by
  intro y0
  induction y0 with
  | zero => intros; unfold flushHeld; assumption
  | succ n ih =>
    intros
    unfold flushHeld
    repeat' first
    | intro _ | apply ih | with_reducible assumption | with_reducible apply modRing_kept
    | with_reducible apply writeCompletion_kept | with_reducible apply Kept.bind | with_reducible apply Kept.pure
    | with_reducible apply Kept.throw | fail_if_no_progress with_reducible apply Kept.upd
    | with_reducible apply Kept.iteAct | split | refine Kept.of_fst (by with_reducible assumption) ?_
    | refine Kept.of_snd (by with_reducible assumption) ?_ | dsimp only

theorem pushCompletion_kept {s : State} {i : Nat} {c : Completion} (hs : Kept q t s) :
    Kept q t (pushCompletion s i c) := by
  unfold pushCompletion
  repeat' first
    | intro _ | with_reducible assumption | with_reducible apply modRing_kept | with_reducible apply restRing_kept
    | with_reducible apply flushHeld_kept | with_reducible apply Kept.bind | with_reducible apply Kept.pure
    | with_reducible apply Kept.throw | fail_if_no_progress with_reducible apply Kept.upd
    | with_reducible apply Kept.iteAct | split | refine Kept.of_fst (by with_reducible assumption) ?_
    | refine Kept.of_snd (by with_reducible assumption) ?_ | dsimp only

theorem removeGraph_kept {s : State} {g : Nat} (hs : Kept q t s) :
    Kept q t (removeGraph s g) := by
  unfold removeGraph
  repeat' first
    | intro _ | with_reducible assumption | with_reducible apply modRing_kept | with_reducible apply Kept.bind
    | with_reducible apply Kept.pure | with_reducible apply Kept.throw
    | fail_if_no_progress with_reducible apply Kept.upd | with_reducible apply Kept.iteAct | split
    | refine Kept.of_fst (by with_reducible assumption) ?_ | refine Kept.of_snd (by with_reducible assumption) ?_
    | dsimp only

theorem rejectGraph_kept {s : State} {g : Nat} {st : Status} (hs : Kept q t s) :
    Kept q t (rejectGraph s g st) := by
  unfold rejectGraph
  repeat' first
    | intro _ | with_reducible assumption | with_reducible apply pushCompletion_kept | with_reducible apply removeGraph_kept
    | with_reducible apply Kept.bind | with_reducible apply Kept.pure | with_reducible apply Kept.throw
    | fail_if_no_progress with_reducible apply Kept.upd | with_reducible apply Kept.iteAct | split
    | refine Kept.of_fst (by with_reducible assumption) ?_ | refine Kept.of_snd (by with_reducible assumption) ?_
    | dsimp only

end Sys2Proof.Laws
end

