-- ==== Sys2Proof/Laws/KeptSetup.lean ====
section
/-! SUPPORT. Each operation of Machine/Setup.lean keeps the queue, device time and canonical memories. -/

namespace Sys2Proof.Laws
open Sys2Proof Sys2Proof.Machine

variable {q : List Instr} {t : BitVec 64}

theorem openWrite_kept {s : State} {p : PortId} {k : State → State} (hs : Kept q t s) (hk : ∀ x0, Kept q t x0 → Kept q t (k
    x0)) :
    Kept q t (openWrite s p k) := by
  unfold openWrite
  repeat' first
    | with_reducible assumption | apply hk | split

theorem viseWrite_kept {s : State} {p : PortId} {off : Nat} {value : Word} {k : State → State} (hs : Kept q t s) (hk : ∀ x0,
    Kept q t x0 → Kept q t (k x0)) :
    Kept q t (viseWrite s p off value k) := by
  unfold viseWrite
  repeat' first
    | intro _ | with_reducible assumption | apply hk | with_reducible apply setupIgnored_kept
    | with_reducible apply openWrite_kept | split

theorem clusterWrite_kept {s : State} {p : PortId} {cl off : Nat} {value : Word} {k : State → State} (hs : Kept q t s) (hk :
    ∀ x0, Kept q t x0 → Kept q t (k x0)) :
    Kept q t (clusterWrite s p cl off value k) := by
  unfold clusterWrite
  repeat' first
    | intro _ | with_reducible assumption | apply hk | with_reducible apply absentAccess_kept
    | with_reducible apply viseWrite_kept | split

end Sys2Proof.Laws
end

