-- ==== Sys2Proof/Laws/KeptUnits.lean ====
section
/-! SUPPORT. Each operation of Machine/Units.lean keeps the queue, device time and canonical memories. -/

namespace Sys2Proof.Laws
open Sys2Proof Sys2Proof.Machine

variable {q : List Instr} {t : BitVec 64}

theorem markStall_kept {s : State} {t' : Nat} {by_ : Staller} {on : List Nat} (hs : Kept q t s) :
    Kept q t (markStall s t' by_ on) := by
  unfold markStall
  repeat' first
    | with_reducible assumption | with_reducible apply modTask_kept

theorem dropStalls_kept {s : State} {t' : Nat} {p : Staller → Bool} (hs : Kept q t s) :
    Kept q t (dropStalls s t' p) := by
  unfold dropStalls
  repeat' first
    | with_reducible assumption | with_reducible apply modTask_kept

theorem endStalls_kept {s : State} (hs : Kept q t s) :
    Kept q t (endStalls s) := by
  unfold endStalls
  repeat' first
    | with_reducible assumption | fail_if_no_progress with_reducible apply Kept.upd

theorem withoutHold_kept {s : State} (hs : Kept q t s) :
    Kept q t (withoutHold s) := by
  unfold withoutHold
  repeat' first
    | with_reducible assumption | fail_if_no_progress with_reducible apply Kept.upd

theorem settleWork_kept {n : Nat} {b : Staller} {a : Act Unit} {s : State} (hs : Kept q t s)
    (ha : ∀ u, Kept q t u → Kept q t (runAct a u).2) : Kept q t (settleWork n b a s) := by
  unfold settleWork
  split
  · exact markStall_kept hs
  · exact settle_kept (fun _ _ h => h) (ha s hs) hs

theorem markChain_kept {s : State} {r : Nat} {c : Chain} {on : List Nat} (hs : Kept q t s) :
    Kept q t (markChain s r c on) := by
  unfold markChain
  repeat' first
    | with_reducible assumption | with_reducible apply modReg_kept | with_reducible apply markStall_kept | split

theorem settleChain_kept {r : Nat} {c : Chain} {a : Act Unit} {s : State} (hs : Kept q t s)
    (ha : ∀ u, Kept q t u → Kept q t (runAct a u).2) : Kept q t (settleChain r c a s) := by
  unfold settleChain
  split
  · exact markChain_kept hs
  · exact settle_kept (fun _ _ h => h) (ha s hs) hs

theorem leaveEngine_kept {s : State} {r : Nat} {c : Chain} (hs : Kept q t s) :
    Kept q t (leaveEngine s r c) := by
  unfold leaveEngine
  repeat' first
    | with_reducible assumption | with_reducible apply dropStalls_kept | split

theorem unstall_kept {s : State} {cl : Nat} {p : Staller → Bool} (hs : Kept q t s) :
    Kept q t (unstall s cl p) := by
  unfold unstall
  repeat' first
    | with_reducible assumption | with_reducible apply dropStalls_kept | split

theorem admitChains_kept  :
    ∀ {y0 : Nat} {y1 : State} {y2 : Nat}, Kept q t y1 → Kept q t (admitChains y0 y1 y2) := by
  intro y0
  induction y0 with
  | zero => intros; unfold admitChains; assumption
  | succ n ih =>
    intros
    unfold admitChains
    repeat' first
    | apply ih | with_reducible assumption | with_reducible apply modReg_kept | split

theorem submitChain_kept {s : State} {r : Nat} {c : Chain} (hs : Kept q t s) :
    Kept q t (submitChain s r c) := by
  unfold submitChain
  repeat' first
    | with_reducible assumption | with_reducible apply modReg_kept | with_reducible apply admitChains_kept

theorem dropChains_kept {s : State} {r : Nat} {p : Chain → Bool} (hs : Kept q t s) :
    Kept q t (dropChains s r p) := by
  unfold dropChains
  repeat' first
    | intro _ | with_reducible assumption | with_reducible apply leaveEngine_kept | with_reducible apply Kept.foldl | with_reducible apply modReg_kept | with_reducible apply admitChains_kept | split

theorem refreshHold_kept {s : State} {cl : Nat} (hs : Kept q t s) :
    Kept q t (refreshHold s cl) := by
  unfold refreshHold
  repeat' first
    | with_reducible assumption | with_reducible apply modClu_kept | with_reducible apply modTask_kept | split | dsimp only

theorem stopOne_kept {s : State} {cl j : Nat} {cause : BitVec 3} (hs : Kept q t s) :
    Kept q t (stopOne s cl j cause) := by
  unfold stopOne
  repeat' first
    | with_reducible assumption | with_reducible apply unstall_kept | with_reducible apply modJig_kept | with_reducible apply logEvent_kept | split

theorem stopJig_kept {s : State} {cl j : Nat} {cause : BitVec 3} (hs : Kept q t s) :
    Kept q t (stopJig s cl j cause) := by
  unfold stopJig
  repeat' first
    | with_reducible assumption | with_reducible apply refreshHold_kept | with_reducible apply stopOne_kept | split

theorem startShim_kept {s : State} {cl press : Nat} (hs : Kept q t s) :
    Kept q t (startShim s cl press) := by
  unfold startShim
  repeat' first
    | with_reducible assumption | with_reducible apply modClu_kept | split | dsimp only

theorem discardQueued_kept {s : State} {cl : Nat} (hs : Kept q t s) :
    Kept q t (discardQueued s cl) := by
  unfold discardQueued
  repeat' first
    | intro _ | with_reducible assumption | with_reducible apply modClu_kept | with_reducible apply startShim_kept
    | with_reducible apply Kept.foldl

theorem endJigTask_kept {s : State} {cl : Nat} {st : Status} (hs : Kept q t s) :
    Kept q t (endJigTask s cl st) := by
  unfold endJigTask
  repeat' first
    | with_reducible assumption | with_reducible apply unstall_kept | with_reducible apply modClu_kept | with_reducible apply refreshHold_kept
    | with_reducible apply discardQueued_kept | split

theorem freeCluster_kept {s : State} {cl : Nat} (hs : Kept q t s) :
    Kept q t (freeCluster s cl) := by
  unfold freeCluster
  repeat' first
    | with_reducible assumption | with_reducible apply modClu_kept | with_reducible apply refreshHold_kept

theorem unplace_kept {s : State} {t' : Nat} {x : Task} (hs : Kept q t s) :
    Kept q t (unplace s t' x) := by
  unfold unplace
  repeat' first
    | with_reducible assumption | with_reducible apply modStk_kept | with_reducible apply modClu_kept
    | with_reducible apply dropChains_kept | split

theorem endUnstarted_kept {s : State} {t' : Nat} {st : Status} (hs : Kept q t s) :
    Kept q t (endUnstarted s t' st) := by
  unfold endUnstarted
  repeat' first
    | with_reducible assumption | with_reducible apply endWork_kept | with_reducible apply unplace_kept | split

end Sys2Proof.Laws
end

