-- ==== Sys2Proof/Laws/KeptRings.lean ====
section
/-! SUPPORT. Each operation of Machine/Rings.lean keeps the queue, device time and canonical memories. -/

namespace Sys2Proof.Laws
open Sys2Proof Sys2Proof.Machine

variable {q : List Instr} {t : BitVec 64}

theorem doorbell_kept {s : State} {p : PortId} {r off : Nat} {value : Word} {ok : Ring → Bool} {k : State → State} (hs : Kept
    q t s) (hk : ∀ x0, Kept q t x0 → Kept q t (k x0)) :
    Kept q t (doorbell s p r off value ok k) := by
  unfold doorbell
  repeat' first
    | with_reducible assumption | apply hk | with_reducible apply logEvent_kept | split | dsimp only

theorem takeSqTail_kept {s : State} {p : PortId} {r : Nat} {value : Word} (hs : Kept q t s) :
    Kept q t (takeSqTail s p r value) := by
  unfold takeSqTail
  repeat' first
    | intro _ | with_reducible assumption | with_reducible apply modRing_kept | with_reducible apply doorbell_kept

theorem drainRing_kept {s : State} {r : Nat} (hs : Kept q t s) :
    Kept q t (drainRing s r) := by
  unfold drainRing
  repeat' first
    | with_reducible assumption | with_reducible apply restRing_kept | with_reducible apply flushHeld_kept

theorem takeCqHead_kept {s : State} {p : PortId} {r : Nat} {value : Word} (hs : Kept q t s) :
    Kept q t (takeCqHead s p r value) := by
  unfold takeCqHead
  repeat' first
    | intro _ | with_reducible assumption | with_reducible apply modRing_kept | with_reducible apply doorbell_kept
    | with_reducible apply drainRing_kept

theorem ringStatus_kept {s : State} {r : Nat} {st : Status} (hs : Kept q t s) :
    Kept q t (ringStatus s r st) := by
  unfold ringStatus
  repeat' first
    | with_reducible assumption | with_reducible apply modRing_kept

theorem startRing_kept {s : State} {r : Nat} (hs : Kept q t s) :
    Kept q t (startRing s r) := by
  unfold startRing
  repeat' first
    | with_reducible assumption | with_reducible apply modRing_kept | with_reducible apply ringStatus_kept | split
    | dsimp only

theorem stopRing_kept {s : State} {r : Nat} (hs : Kept q t s) :
    Kept q t (stopRing s r) := by
  unfold stopRing
  repeat' first
    | with_reducible assumption | with_reducible apply modRing_kept | with_reducible apply restRing_kept

theorem stopCommand_kept {s : State} {r : Nat} (hs : Kept q t s) :
    Kept q t (stopCommand s r) := by
  unfold stopCommand
  repeat' first
    | with_reducible assumption | with_reducible apply ringStatus_kept | with_reducible apply stopRing_kept | split

theorem abortTask_kept {s : State} {t' : Nat} (hs : Kept q t s) :
    Kept q t (abortTask s t') := by
  unfold abortTask
  repeat' first
    | with_reducible assumption | with_reducible apply endUnstarted_kept | fail_if_no_progress with_reducible apply Kept.upd
    | split

theorem abortsGoOn_kept {s : State} (hs : Kept q t s) :
    Kept q t (abortsGoOn s) := by
  unfold abortsGoOn
  repeat' first
    | intro _ | with_reducible assumption | with_reducible apply abortTask_kept | with_reducible apply Kept.foldl
    | fail_if_no_progress with_reducible apply Kept.upd

theorem abortCommand_kept {s : State} {r : Nat} (hs : Kept q t s) :
    Kept q t (abortCommand s r) := by
  unfold abortCommand
  repeat' first
    | intro _ | with_reducible assumption | with_reducible apply abortTask_kept | with_reducible apply ringStatus_kept
    | with_reducible apply stopRing_kept | with_reducible apply Kept.foldl | split

theorem writeRingCtrl_kept {r : Nat} {value : Word} {s : State} (hs : Kept q t s) :
    Kept q t (writeRingCtrl r value s) := by
  unfold writeRingCtrl
  repeat' first
    | with_reducible assumption | with_reducible apply startRing_kept | with_reducible apply stopCommand_kept
    | with_reducible apply abortCommand_kept | split

theorem ringWrite_kept {s : State} {p : PortId} {r off : Nat} {value : Word} {k : State → State} (hs : Kept q t s) (hk : ∀
    x0, Kept q t x0 → Kept q t (k x0)) :
    Kept q t (ringWrite s p r off value k) := by
  unfold ringWrite
  repeat' first
    | intro _ | with_reducible assumption | apply hk | with_reducible apply viseWrite_kept | split

theorem writeRingConfig_kept {r : Nat} {value : Word} {s : State} (hs : Kept q t s) :
    Kept q t (writeRingConfig r value s) := by
  unfold writeRingConfig
  repeat' first
    | with_reducible assumption | with_reducible apply modRing_kept | with_reducible apply setupIgnored_kept | split
    | dsimp only

theorem writeSqBase_kept {r : Nat} {value : Word} {s : State} (hs : Kept q t s) :
    Kept q t (writeSqBase r value s) := by
  unfold writeSqBase
  repeat' first
    | with_reducible assumption | with_reducible apply modRing_kept | with_reducible apply setupIgnored_kept | split
    | dsimp only

theorem writeCqBase_kept {r : Nat} {value : Word} {s : State} (hs : Kept q t s) :
    Kept q t (writeCqBase r value s) := by
  unfold writeCqBase
  repeat' first
    | with_reducible assumption | with_reducible apply modRing_kept | with_reducible apply setupIgnored_kept | split
    | dsimp only

theorem readGraph_kept {q' : Nat} {e : List Byte} {s0 : State} (hs0 : Kept q t s0) :
    Kept q t (runAct (readGraph q' e) s0).2 := by
  unfold readGraph
  repeat' first
    | intro _ | with_reducible assumption | with_reducible apply loadFrom_kept | with_reducible apply attempt_kept
    | with_reducible apply Kept.get_bind | with_reducible apply Kept.bind | with_reducible apply Kept.pure
    | with_reducible apply Kept.iteAct | split

theorem rejectEntry_kept {s : State} {r : Nat} {tag : BitVec 64} {st : Status} {first : Option Nat} (hs : Kept q t s) :
    Kept q t (rejectEntry s r tag st first) := by
  unfold rejectEntry
  repeat' first
    | with_reducible assumption | with_reducible apply modRing_kept | with_reducible apply pushCompletion_kept

theorem holdGraph_kept {s : State} {r : Nat} {e h : List Byte} {ds : List TaskDesc} (hs : Kept q t s) :
    Kept q t (holdGraph s r e h ds) := by
  unfold holdGraph
  repeat' first
    | with_reducible assumption | with_reducible apply modRing_kept

theorem fetchGraph_kept {r : Nat} {s0 : State} (hs0 : Kept q t s0) :
    Kept q t (runAct (fetchGraph r) s0).2 := by
  unfold fetchGraph
  repeat' first
    | intro _ | with_reducible assumption | with_reducible apply freeBelow_kept | with_reducible apply loadFrom_kept
    | with_reducible apply readGraph_kept | with_reducible apply rejectEntry_kept | with_reducible apply holdGraph_kept
    | with_reducible apply Kept.edit | with_reducible apply attempt_kept | with_reducible apply Kept.get_bind
    | with_reducible apply Kept.bind | with_reducible apply Kept.pure
    | fail_if_no_progress with_reducible apply Kept.upd | with_reducible apply Kept.iteAct | split

theorem enterTask_kept {g q' : Nat} {s : State} {e : Nat × TaskDesc × Nat} (hs : Kept q t s) :
    Kept q t (enterTask g q' s e) := by
  unfold enterTask
  repeat' first
    | with_reducible assumption | fail_if_no_progress with_reducible apply Kept.upd

theorem openTask_kept {g : Nat} {s : State} {e : Nat × TaskDesc × Nat} (hs : Kept q t s) :
    Kept q t (openTask g s e) := by
  unfold openTask
  repeat' first
    | with_reducible assumption | with_reducible apply startWaiting_kept | with_reducible apply endUnstarted_kept | split

theorem enterGraph_kept {s : State} {r : Nat} {x : Graph} (hs : Kept q t s) :
    Kept q t (enterGraph s r x) := by
  unfold enterGraph
  repeat' first
    | intro _ | with_reducible assumption | with_reducible apply modRing_kept | with_reducible apply enterTask_kept
    | with_reducible apply openTask_kept | with_reducible apply Kept.foldl
    | fail_if_no_progress with_reducible apply Kept.upd

end Sys2Proof.Laws
end

