-- ==== Sys2Proof/Laws/KeptBar4.lean ====
section
/-! SUPPORT. Each operation of Machine/Bar4.lean keeps the queue, device time and canonical memories. -/

namespace Sys2Proof.Laws
open Sys2Proof Sys2Proof.Machine

variable {q : List Instr} {t : BitVec 64}

theorem makeWrite_kept {s w : State} {a : Nat} {bs : List Byte} (hs : Kept q t s) (hw : makeWrite s a bs = some w) :
    Kept q t w := by
  unfold makeWrite at hw
  split at hw
  · split at hw
    · cases hw
    · cases hw
      split
      · exact hs
      · exact setPeg_kept hs
  · have h := storeFrom_kept (d := 4) (who := none) (a := a) (bs := bs) hs
    split at hw
    · cases hw
    · next he => cases hw; rw [he] at h; exact h

theorem actOnBell_kept {s : State} {p : PortId} {e : Nat × Nat × Word} (hs : Kept q t s) :
    Kept q t (actOnBell s p e) := by
  unfold actOnBell
  repeat' first
    | with_reducible assumption | with_reducible apply takeSqTail_kept | with_reducible apply takeCqHead_kept | split

theorem takeBell_kept {s : State} {p : PortId} {r off : Nat} {value : Word} (hs : Kept q t s) :
    Kept q t (takeBell s p r off value) := by
  unfold takeBell
  repeat' first
    | intro _ | with_reducible assumption | with_reducible apply modPort_kept | with_reducible apply actOnBell_kept | split

theorem ringLatched_kept {s : State} {p : PortId} (hs : Kept q t s) :
    Kept q t (ringLatched s p) := by
  unfold ringLatched
  repeat' first
    | intro _ | with_reducible assumption | with_reducible apply modPort_kept | with_reducible apply actOnBell_kept
    | with_reducible apply Kept.foldl

theorem makeHeld_kept {s w : State} {p : PortId} {x : HeldWrite} (hs : Kept q t s) (hw : makeHeld s p x = some w) :
    Kept q t w := by
  cases x with
  | bar4 a bs => exact makeWrite_kept hs hw
  | bell r off value => cases hw; exact takeBell_kept hs

theorem drainHeld_kept  :
    ∀ {y0 : Nat} {y1 : State} {y2 : PortId}, Kept q t y1 → Kept q t (drainHeld y0 y1 y2) := by
  intro y0
  induction y0 with
  | zero => intros; unfold drainHeld; assumption
  | succ n ih =>
    intros
    unfold drainHeld
    repeat' first
    | intro _ | apply ih | with_reducible assumption | with_reducible apply modPort_kept
    | exact makeHeld_kept (by with_reducible assumption) (by with_reducible assumption) | split

theorem drainPort_kept {s : State} {p : PortId} (hs : Kept q t s) :
    Kept q t (drainPort s p) := by
  unfold drainPort
  repeat' first
    | with_reducible assumption | with_reducible apply drainHeld_kept

theorem drainPorts_kept {s : State} (hs : Kept q t s) :
    Kept q t (drainPorts s) := by
  unfold drainPorts
  repeat' first
    | with_reducible assumption | with_reducible apply drainPort_kept

theorem holdWrite_kept {s : State} {p : PortId} {w : HeldWrite} (hs : Kept q t s) :
    Kept q t (holdWrite s p w) := by
  unfold holdWrite
  repeat' first
    | intro _ | with_reducible assumption | with_reducible apply modPort_kept

theorem queueWrite_kept {s : State} {p : PortId} {a : Nat} {bs : List Byte} (hs : Kept q t s) :
    Kept q t (queueWrite s p a bs) := by
  unfold queueWrite
  repeat' first
    | with_reducible assumption | exact makeWrite_kept (by with_reducible assumption) (by with_reducible assumption)
    | with_reducible apply holdWrite_kept | split

theorem bar4Give_kept {s : State} {p : PortId} {bs : List Byte} {ep : Bool} (hs : Kept q t s) :
    Kept q t (bar4Give s p bs ep) := by
  unfold bar4Give
  repeat' first
    | with_reducible assumption | with_reducible apply emit_kept

theorem bar4Failed_kept {s : State} {p : PortId} {a n : Nat} {st : Status} (hs : Kept q t s) :
    Kept q t (bar4Failed s p a n st) := by
  unfold bar4Failed
  repeat' first
    | with_reducible assumption | with_reducible apply freeBytes_kept | with_reducible apply absentAccess_kept
    | with_reducible apply bar4Give_kept | split

theorem bar4Fetch_kept {s : State} {p : PortId} {a n : Nat} (hs : Kept q t s) :
    Kept q t (bar4Fetch s p a n) := by
  unfold bar4Fetch
  repeat' first
    | intro _ | with_reducible assumption | with_reducible apply loadFrom_kept | with_reducible apply bar4Give_kept
    | with_reducible apply bar4Failed_kept | with_reducible apply settle_kept | split

theorem deafBell_kept {s : State} {p : PortId} {r off : Nat} {value : Word} (hs : Kept q t s) :
    Kept q t (deafBell s p r off value) := by
  unfold deafBell
  repeat' first
    | with_reducible assumption | with_reducible apply logEvent_kept | split

theorem ringBell_kept {s : State} {p : PortId} {r off : Nat} {value : Word} (hs : Kept q t s) :
    Kept q t (ringBell s p r off value) := by
  unfold ringBell
  repeat' first
    | with_reducible assumption | with_reducible apply takeBell_kept | with_reducible apply drainPort_kept
    | with_reducible apply holdWrite_kept | split | dsimp only

end Sys2Proof.Laws
end

