-- ==== Sys2Proof/Laws/KeptBbuf.lean ====
section
/-! SUPPORT. Each operation of Machine/Bbuf.lean keeps the queue, device time and canonical memories. -/

namespace Sys2Proof.Laws
open Sys2Proof Sys2Proof.Machine

variable {q : List Instr} {t : BitVec 64}

theorem correctBuf_kept {s : State} {i off n : Nat} (hs : Kept q t s) :
    Kept q t (correctBuf s i off n) := by
  unfold correctBuf
  repeat' first
    | intro _ | with_reducible assumption | with_reducible apply modStk_kept | with_reducible apply Kept.foldl

theorem loadBuf_kept {a n : Nat} {s0 : State} (hs0 : Kept q t s0) :
    Kept q t (runAct (loadBuf a n) s0).2 := by
  unfold loadBuf
  repeat' first
    | intro _ | with_reducible assumption | with_reducible apply correctBuf_kept | with_reducible apply Kept.edit
    | with_reducible apply need_kept | with_reducible apply needReady_kept | with_reducible apply Kept.get_bind
    | with_reducible apply Kept.bind | with_reducible apply Kept.pure

theorem pokeBufWord_kept {s : State} {a : Nat} {bs : List Byte} (hs : Kept q t s) :
    Kept q t (pokeBufWord s a bs) := by
  unfold pokeBufWord
  repeat' first
    | with_reducible assumption | with_reducible apply modStk_kept | with_reducible apply pokeBbuf_kept
    | with_reducible apply correctBuf_kept | split | dsimp only

theorem pokeBuf_kept {s : State} {a : Nat} {bs : List Byte} (hs : Kept q t s) :
    Kept q t (pokeBuf s a bs) := by
  unfold pokeBuf
  repeat' first
    | intro _ | with_reducible assumption | with_reducible apply pokeBufWord_kept | with_reducible apply Kept.foldl

theorem storeBuf_kept {a : Nat} {bs : List Byte} {s0 : State} (hs0 : Kept q t s0) :
    Kept q t (runAct (storeBuf a bs) s0).2 := by
  unfold storeBuf
  repeat' first
    | intro _ | with_reducible assumption | with_reducible apply pokeBuf_kept | with_reducible apply Kept.edit
    | with_reducible apply need_kept | with_reducible apply needReady_kept | with_reducible apply Kept.get_bind
    | with_reducible apply Kept.bind

theorem takeFree_kept {s0 : State} (hs0 : Kept q t s0) :
    Kept q t (runAct (takeFree) s0).2 := by
  unfold takeFree
  repeat' first
    | intro _ | with_reducible assumption | with_reducible apply Kept.get_bind | with_reducible apply Kept.bind
    | with_reducible apply Kept.pure | with_reducible apply Kept.set | fail_if_no_progress with_reducible apply Kept.upd

end Sys2Proof.Laws
end

