-- ==== Sys2Proof/Laws/KeptBenchOps.lean ====
section
/-! SUPPORT. Each operation of Machine/BenchOps.lean keeps the queue, device time and canonical memories. -/

namespace Sys2Proof.Laws
open Sys2Proof Sys2Proof.Machine

variable {q : List Instr} {t : BitVec 64}

theorem readChan_kept {c : BCtx} {h co n : Nat} {s0 : State} (hs0 : Kept q t s0) :
    Kept q t (runAct (readChan c h co n) s0).2 := by
  unfold readChan
  repeat' first
    | intro _ | with_reducible assumption | with_reducible apply loadHome_kept | with_reducible apply Kept.get_bind
    | with_reducible apply Kept.bind | with_reducible apply Kept.pure | with_reducible apply Kept.throw
    | fail_if_no_progress with_reducible apply Kept.upd | with_reducible apply Kept.iteAct | split
    | refine Kept.of_fst (by with_reducible assumption) ?_ | refine Kept.of_snd (by with_reducible assumption) ?_
    | dsimp only

theorem readBuf_kept {c : BCtx} {off n : Nat} {s0 : State} (hs0 : Kept q t s0) :
    Kept q t (runAct (readBuf c off n) s0).2 := by
  unfold readBuf
  repeat' first
    | intro _ | with_reducible assumption | with_reducible apply loadBuf_kept | with_reducible apply Kept.bind
    | with_reducible apply Kept.pure | with_reducible apply Kept.throw
    | fail_if_no_progress with_reducible apply Kept.upd | with_reducible apply Kept.iteAct | split
    | refine Kept.of_fst (by with_reducible assumption) ?_ | refine Kept.of_snd (by with_reducible assumption) ?_
    | dsimp only

theorem readSrc_kept {c : BCtx} {r : List Byte} {h place off n : Nat} {s0 : State} (hs0 : Kept q t s0) :
    Kept q t (runAct (readSrc c r h place off n) s0).2 := by
  unfold readSrc
  repeat' first
    | intro _ | with_reducible assumption | with_reducible apply readChan_kept | with_reducible apply readBuf_kept
    | with_reducible apply Kept.bind | with_reducible apply Kept.pure | with_reducible apply Kept.throw
    | fail_if_no_progress with_reducible apply Kept.upd | with_reducible apply Kept.iteAct | split
    | refine Kept.of_fst (by with_reducible assumption) ?_ | refine Kept.of_snd (by with_reducible assumption) ?_
    | dsimp only

theorem readRows_kept {c : BCtx} {r : List Byte} {h place rows f n : Nat} {s0 : State} (hs0 : Kept q t s0) :
    Kept q t (runAct (readRows c r h place rows f n) s0).2 := by
  unfold readRows
  repeat' first
    | intro _ | with_reducible assumption | with_reducible apply readSrc_kept | with_reducible apply mapAct_kept
    | with_reducible apply Kept.bind | with_reducible apply Kept.pure | with_reducible apply Kept.throw
    | fail_if_no_progress with_reducible apply Kept.upd | with_reducible apply Kept.iteAct | split
    | refine Kept.of_fst (by with_reducible assumption) ?_ | refine Kept.of_snd (by with_reducible assumption) ?_
    | dsimp only

theorem readSlice_kept {c : BCtx} {r : List Byte} {h : Nat} {s0 : State} (hs0 : Kept q t s0) :
    Kept q t (runAct (readSlice c r h) s0).2 := by
  unfold readSlice
  repeat' first
    | intro _ | with_reducible assumption | with_reducible apply readSrc_kept | with_reducible apply Kept.bind
    | with_reducible apply Kept.pure | with_reducible apply Kept.throw
    | fail_if_no_progress with_reducible apply Kept.upd | with_reducible apply Kept.iteAct | split
    | refine Kept.of_fst (by with_reducible assumption) ?_ | refine Kept.of_snd (by with_reducible assumption) ?_
    | dsimp only

theorem runGemv_kept {c : BCtx} {r : List Byte} {h : Nat} {s0 : State} (hs0 : Kept q t s0) :
    Kept q t (runAct (runGemv c r h) s0).2 := by
  unfold runGemv
  repeat' first
    | intro _ | with_reducible assumption | with_reducible apply readChan_kept | with_reducible apply readBuf_kept
    | with_reducible apply mapAct_kept | with_reducible apply Kept.bind | with_reducible apply Kept.pure
    | with_reducible apply Kept.throw | fail_if_no_progress with_reducible apply Kept.upd
    | with_reducible apply Kept.iteAct | split | refine Kept.of_fst (by with_reducible assumption) ?_
    | refine Kept.of_snd (by with_reducible assumption) ?_ | dsimp only

theorem runMove_kept {c : BCtx} {r : List Byte} {h : Nat} {s0 : State} (hs0 : Kept q t s0) :
    Kept q t (runAct (runMove c r h) s0).2 := by
  unfold runMove
  repeat' first
    | intro _ | with_reducible assumption | with_reducible apply readRows_kept | with_reducible apply Kept.bind
    | with_reducible apply Kept.pure | with_reducible apply Kept.throw
    | fail_if_no_progress with_reducible apply Kept.upd | with_reducible apply Kept.iteAct | split
    | refine Kept.of_fst (by with_reducible assumption) ?_ | refine Kept.of_snd (by with_reducible assumption) ?_
    | dsimp only

theorem runVadd_kept {c : BCtx} {r : List Byte} {h : Nat} {s0 : State} (hs0 : Kept q t s0) :
    Kept q t (runAct (runVadd c r h) s0).2 := by
  unfold runVadd
  repeat' first
    | intro _ | with_reducible assumption | with_reducible apply readRows_kept | with_reducible apply Kept.bind
    | with_reducible apply Kept.pure | with_reducible apply Kept.throw
    | fail_if_no_progress with_reducible apply Kept.upd | with_reducible apply Kept.iteAct | split
    | refine Kept.of_fst (by with_reducible assumption) ?_ | refine Kept.of_snd (by with_reducible assumption) ?_
    | dsimp only

theorem veneerRows_kept {c : BCtx} {r : List Byte} {h e : Nat} {s0 : State} (hs0 : Kept q t s0) :
    Kept q t (runAct (veneerRows c r h e) s0).2 := by
  unfold veneerRows
  repeat' first
    | intro _ | with_reducible assumption | with_reducible apply readChan_kept | with_reducible apply Kept.get_bind
    | with_reducible apply Kept.bind | with_reducible apply Kept.pure | with_reducible apply Kept.throw
    | fail_if_no_progress with_reducible apply Kept.upd | with_reducible apply Kept.iteAct | split
    | refine Kept.of_fst (by with_reducible assumption) ?_ | refine Kept.of_snd (by with_reducible assumption) ?_
    | dsimp only

theorem runVeneer_kept {c : BCtx} {r : List Byte} {h : Nat} {s0 : State} (hs0 : Kept q t s0) :
    Kept q t (runAct (runVeneer c r h) s0).2 := by
  unfold runVeneer
  repeat' first
    | intro _ | with_reducible assumption | with_reducible apply readBuf_kept | with_reducible apply readSlice_kept
    | with_reducible apply veneerRows_kept | with_reducible apply mapAct_kept | with_reducible apply Kept.bind
    | with_reducible apply Kept.pure | with_reducible apply Kept.throw
    | fail_if_no_progress with_reducible apply Kept.upd | with_reducible apply Kept.iteAct | split
    | refine Kept.of_fst (by with_reducible assumption) ?_ | refine Kept.of_snd (by with_reducible assumption) ?_
    | dsimp only

theorem runSumsq_kept {c : BCtx} {r : List Byte} {h : Nat} {s0 : State} (hs0 : Kept q t s0) :
    Kept q t (runAct (runSumsq c r h) s0).2 := by
  unfold runSumsq
  repeat' first
    | intro _ | with_reducible assumption | with_reducible apply readSlice_kept | with_reducible apply Kept.bind
    | with_reducible apply Kept.pure | with_reducible apply Kept.throw
    | fail_if_no_progress with_reducible apply Kept.upd | with_reducible apply Kept.iteAct | split
    | refine Kept.of_fst (by with_reducible assumption) ?_ | refine Kept.of_snd (by with_reducible assumption) ?_
    | dsimp only

theorem runRmsscale_kept {c : BCtx} {r : List Byte} {h : Nat} {s0 : State} (hs0 : Kept q t s0) :
    Kept q t (runAct (runRmsscale c r h) s0).2 := by
  unfold runRmsscale
  repeat' first
    | intro _ | with_reducible assumption | with_reducible apply readChan_kept | with_reducible apply readBuf_kept
    | with_reducible apply readSlice_kept | with_reducible apply Kept.bind | with_reducible apply Kept.foldl
    | with_reducible apply Kept.foldl_fst | with_reducible apply Kept.pure | with_reducible apply Kept.throw
    | fail_if_no_progress with_reducible apply Kept.upd | with_reducible apply Kept.iteAct | split
    | refine Kept.of_fst (by with_reducible assumption) ?_ | refine Kept.of_snd (by with_reducible assumption) ?_
    | dsimp only

theorem runGather_kept {c : BCtx} {r : List Byte} {h : Nat} {s0 : State} (hs0 : Kept q t s0) :
    Kept q t (runAct (runGather c r h) s0).2 := by
  unfold runGather
  repeat' first
    | intro _ | with_reducible assumption | with_reducible apply readBuf_kept | with_reducible apply readSrc_kept
    | with_reducible apply mapAct_kept | with_reducible apply Kept.bind | with_reducible apply Kept.pure
    | with_reducible apply Kept.throw | fail_if_no_progress with_reducible apply Kept.upd
    | with_reducible apply Kept.iteAct | split | refine Kept.of_fst (by with_reducible assumption) ?_
    | refine Kept.of_snd (by with_reducible assumption) ?_ | dsimp only

theorem runTopk_kept {c : BCtx} {r : List Byte} {h : Nat} {s0 : State} (hs0 : Kept q t s0) :
    Kept q t (runAct (runTopk c r h) s0).2 := by
  unfold runTopk
  repeat' first
    | intro _ | with_reducible assumption | with_reducible apply readBuf_kept | with_reducible apply readSrc_kept
    | with_reducible apply Kept.bind | with_reducible apply Kept.pure | with_reducible apply Kept.throw
    | fail_if_no_progress with_reducible apply Kept.upd | with_reducible apply Kept.iteAct | split
    | refine Kept.of_fst (by with_reducible assumption) ?_ | refine Kept.of_snd (by with_reducible assumption) ?_
    | dsimp only

theorem runSample_kept {c : BCtx} {r : List Byte} {s0 : State} (hs0 : Kept q t s0) :
    Kept q t (runAct (runSample c r) s0).2 := by
  unfold runSample
  repeat' first
    | intro _ | with_reducible assumption | with_reducible apply readBuf_kept | with_reducible apply Kept.bind
    | with_reducible apply Kept.pure | with_reducible apply Kept.throw
    | fail_if_no_progress with_reducible apply Kept.upd | with_reducible apply Kept.iteAct | split
    | refine Kept.of_fst (by with_reducible assumption) ?_ | refine Kept.of_snd (by with_reducible assumption) ?_
    | dsimp only

theorem readBias_kept {c : BCtx} {x : List Byte} {h i : Nat} {s0 : State} (hs0 : Kept q t s0) :
    Kept q t (runAct (readBias c x h i) s0).2 := by
  unfold readBias
  repeat' first
    | intro _ | with_reducible assumption | with_reducible apply readChan_kept | with_reducible apply Kept.bind
    | with_reducible apply Kept.pure | with_reducible apply Kept.throw
    | fail_if_no_progress with_reducible apply Kept.upd | with_reducible apply Kept.iteAct | split
    | refine Kept.of_fst (by with_reducible assumption) ?_ | refine Kept.of_snd (by with_reducible assumption) ?_
    | dsimp only

theorem readKey_kept {c : BCtx} {pb : Nat} {r x : List Byte} {h t' : Nat} {s0 : State} (hs0 : Kept q t s0) :
    Kept q t (runAct (readKey c pb r x h t') s0).2 := by
  unfold readKey
  repeat' first
    | intro _ | with_reducible assumption | with_reducible apply readChan_kept | with_reducible apply Kept.bind
    | with_reducible apply Kept.pure | with_reducible apply Kept.throw
    | fail_if_no_progress with_reducible apply Kept.upd | with_reducible apply Kept.iteAct | split
    | refine Kept.of_fst (by with_reducible assumption) ?_ | refine Kept.of_snd (by with_reducible assumption) ?_
    | dsimp only

theorem runAttn_kept {c : BCtx} {pb : Nat} {r x : List Byte} {h : Nat} {s0 : State} (hs0 : Kept q t s0) :
    Kept q t (runAct (runAttn c pb r x h) s0).2 := by
  unfold runAttn
  repeat' first
    | intro _ | with_reducible assumption | with_reducible apply readBuf_kept | with_reducible apply readBias_kept
    | with_reducible apply readKey_kept | with_reducible apply mapAct_kept | with_reducible apply Kept.bind
    | with_reducible apply Kept.foldl | with_reducible apply Kept.foldl_fst | with_reducible apply Kept.pure
    | with_reducible apply Kept.throw | fail_if_no_progress with_reducible apply Kept.upd
    | with_reducible apply Kept.iteAct | split | refine Kept.of_fst (by with_reducible assumption) ?_
    | refine Kept.of_snd (by with_reducible assumption) ?_ | dsimp only

theorem runAttnMerge_kept {c : BCtx} {r : List Byte} {s0 : State} (hs0 : Kept q t s0) :
    Kept q t (runAct (runAttnMerge c r) s0).2 := by
  unfold runAttnMerge
  repeat' first
    | intro _ | with_reducible assumption | with_reducible apply readBuf_kept | with_reducible apply mapAct_kept
    | with_reducible apply Kept.bind | with_reducible apply Kept.foldl | with_reducible apply Kept.foldl_fst
    | with_reducible apply Kept.pure | with_reducible apply Kept.throw
    | fail_if_no_progress with_reducible apply Kept.upd | with_reducible apply Kept.iteAct | split
    | refine Kept.of_fst (by with_reducible assumption) ?_ | refine Kept.of_snd (by with_reducible assumption) ?_
    | dsimp only

theorem benchResult_kept {c : BCtx} {pb : Nat} {r x : List Byte} {h : Nat} {s0 : State} (hs0 : Kept q t s0) :
    Kept q t (runAct (benchResult c pb r x h) s0).2 := by
  unfold benchResult
  repeat' first
    | intro _ | with_reducible assumption | with_reducible apply runGemv_kept | with_reducible apply runMove_kept
    | with_reducible apply runVadd_kept | with_reducible apply runVeneer_kept | with_reducible apply runSumsq_kept
    | with_reducible apply runRmsscale_kept | with_reducible apply runGather_kept | with_reducible apply runTopk_kept
    | with_reducible apply runSample_kept | with_reducible apply runAttn_kept | with_reducible apply runAttnMerge_kept
    | with_reducible apply Kept.bind | with_reducible apply Kept.pure | with_reducible apply Kept.throw
    | fail_if_no_progress with_reducible apply Kept.upd | with_reducible apply Kept.iteAct | split
    | refine Kept.of_fst (by with_reducible assumption) ?_ | refine Kept.of_snd (by with_reducible assumption) ?_
    | dsimp only

theorem oldBytes_kept {c : BCtx} {r x : List Byte} {h : Nat} {s0 : State} (hs0 : Kept q t s0) :
    Kept q t (runAct (oldBytes c r x h) s0).2 := by
  unfold oldBytes
  repeat' first
    | intro _ | with_reducible assumption | with_reducible apply readChan_kept | with_reducible apply readBuf_kept
    | with_reducible apply Kept.bind | with_reducible apply Kept.pure | with_reducible apply Kept.throw
    | fail_if_no_progress with_reducible apply Kept.upd | with_reducible apply Kept.iteAct | split
    | refine Kept.of_fst (by with_reducible assumption) ?_ | refine Kept.of_snd (by with_reducible assumption) ?_
    | dsimp only

theorem addUp_kept {t' : Scalar} {b : Bool} {w : Nat} :
    ∀ {l : List (Nat × Machine.Num)} {m : Tab (Option Nat)} {s0 : State}, Kept q t s0 →
      Kept q t (runAct (runScatter.addUp t' b w l m) s0).2 := by
  intro l
  induction l with
  | nil => intro m s0 h; exact h
  | cons x l ih =>
    intro m s0 h
    unfold runScatter.addUp
    dsimp only
    split
    · exact ih h
    · exact Kept.bind (loadHome_kept h) fun _ _ hu => ih hu

theorem runScatter_kept {c : BCtx} {r : List Byte} {s0 : State} (hs0 : Kept q t s0) :
    Kept q t (runAct (runScatter c r) s0).2 := by
  unfold runScatter
  repeat' first
    | intro _ | with_reducible assumption | with_reducible apply addUp_kept | with_reducible apply takeFree_kept
    | with_reducible apply readBuf_kept
    | with_reducible apply loadRow_kept | with_reducible apply loadIndex_kept
    | with_reducible apply rowsOf_kept | with_reducible apply mapAct_kept | with_reducible apply needReady_kept
    | with_reducible apply need_kept | with_reducible apply Kept.get_bind | with_reducible apply Kept.bind
    | with_reducible apply Kept.throw | with_reducible apply Kept.pure | split | dsimp only

theorem runAppend_kept {c : BCtx} {r : List Byte} {s0 : State} (hs0 : Kept q t s0) :
    Kept q t (runAct (runAppend c r) s0).2 := by
  unfold runAppend
  repeat' first
    | intro _ | with_reducible assumption | with_reducible apply readChan_kept | with_reducible apply readBuf_kept
    | with_reducible apply mapAct_kept | with_reducible apply Kept.get_bind | with_reducible apply Kept.bind
    | with_reducible apply Kept.pure | with_reducible apply Kept.throw
    | fail_if_no_progress with_reducible apply Kept.upd | with_reducible apply Kept.iteAct | split
    | refine Kept.of_fst (by with_reducible assumption) ?_ | refine Kept.of_snd (by with_reducible assumption) ?_
    | dsimp only

theorem rowsRead_kept {c : BCtx} {pb : Nat} {r x : List Byte} {s0 : State} (hs0 : Kept q t s0) :
    Kept q t (runAct (rowsRead c pb r x) s0).2 := by
  unfold rowsRead
  repeat' first
    | intro _ | with_reducible assumption | with_reducible apply readBuf_kept | with_reducible apply Kept.get_bind
    | with_reducible apply Kept.bind | with_reducible apply Kept.pure | with_reducible apply Kept.throw
    | fail_if_no_progress with_reducible apply Kept.upd | with_reducible apply Kept.iteAct | split
    | refine Kept.of_fst (by with_reducible assumption) ?_ | refine Kept.of_snd (by with_reducible assumption) ?_
    | dsimp only

theorem runOperation_kept {c : BCtx} {r x : List Byte} {s0 : State} (hs0 : Kept q t s0) :
    Kept q t (runAct (runOperation c r x) s0).2 := by
  unfold runOperation
  repeat' first
    | intro _ | with_reducible assumption | with_reducible apply benchResult_kept | with_reducible apply oldBytes_kept
    | with_reducible apply runScatter_kept | with_reducible apply runAppend_kept | with_reducible apply mapAct_kept
    | with_reducible apply Kept.get_bind | with_reducible apply Kept.bind | with_reducible apply Kept.pure
    | with_reducible apply Kept.throw | fail_if_no_progress with_reducible apply Kept.upd
    | with_reducible apply Kept.iteAct | split | refine Kept.of_fst (by with_reducible assumption) ?_
    | refine Kept.of_snd (by with_reducible assumption) ?_ | dsimp only

end Sys2Proof.Laws
end

