-- ==== Sys2Proof/Laws/KeptFec.lean ====
section
/-! SUPPORT. Each operation of Machine/Fec.lean keeps the queue, device time and canonical memories. -/

namespace Sys2Proof.Laws
open Sys2Proof Sys2Proof.Machine

variable {q : List Instr} {t : BitVec 64}

theorem sendBlock_kept {s : State} {i : Nat} (hs : Kept q t s) :
    Kept q t (sendBlock s i) := by
  unfold sendBlock
  repeat' first
    | with_reducible assumption | with_reducible apply modLnk_kept | fail_if_no_progress with_reducible apply Kept.upd
    | split | dsimp only

theorem sendFlit_kept {s : State} {i : Nat} {kind : BitVec 2} {seq : BitVec 12} {cvc : BitVec 3} {credits : BitVec 11}
    {payload : List Byte} (hs : Kept q t s) :
    Kept q t (sendFlit s i kind seq cvc credits payload) := by
  unfold sendFlit
  repeat' first
    | with_reducible assumption | with_reducible apply modLnk_kept | with_reducible apply emit_kept
    | with_reducible apply sendBlock_kept

end Sys2Proof.Laws
end

