-- ==== Sys2Proof/Laws/KeptCache.lean ====
section
/-! SUPPORT. Each operation of Machine/Cache.lean keeps the queue, device time and canonical memories. -/

namespace Sys2Proof.Laws
open Sys2Proof Sys2Proof.Machine

variable {q : List Instr} {t : BitVec 64}

theorem noteReleaseFailure_kept {s : State} {ts : List Nat} {st : Status} (hs : Kept q t s) :
    Kept q t (noteReleaseFailure s ts st) := by
  unfold noteReleaseFailure
  repeat' first
    | intro _ | with_reducible assumption | with_reducible apply modTask_kept | with_reducible apply Kept.foldl

theorem setRc_kept {s : State} {r : Nat} {ls : List CacheLine} (hs : Kept q t s) :
    Kept q t (setRc s r ls) := by
  unfold setRc
  repeat' first
    | with_reducible assumption | with_reducible apply modReg_kept

theorem writeRun_kept {r : Nat} {x : CacheLine} {run : Nat × Nat} {s0 : State} (hs0 : Kept q t s0) :
    Kept q t (runAct (writeRun r x run) s0).2 := by
  unfold writeRun
  repeat' first
    | intro _ | with_reducible assumption | with_reducible apply writePath_kept | with_reducible apply storeHome_kept
    | with_reducible apply noteReleaseFailure_kept | with_reducible apply Kept.get_bind | with_reducible apply Kept.bind
    | with_reducible apply Kept.throw | with_reducible apply Kept.set | split
    | refine Kept.of_snd (by with_reducible assumption) ?_

theorem writeBack_kept {r : Nat} {x : CacheLine} {s0 : State} (hs0 : Kept q t s0) :
    Kept q t (runAct (writeBack r x) s0).2 := by
  unfold writeBack
  repeat' first
    | intro _ | with_reducible assumption | with_reducible apply writeRun_kept | with_reducible apply eachAct_kept

theorem rcInsert_kept {r : Nat} {x : CacheLine} {s0 : State} (hs0 : Kept q t s0) :
    Kept q t (runAct (rcInsert r x) s0).2 := by
  unfold rcInsert
  repeat' first
    | intro _ | with_reducible assumption | with_reducible apply setRc_kept | with_reducible apply writeBack_kept
    | with_reducible apply Kept.edit | with_reducible apply Kept.get_bind | with_reducible apply Kept.bind | split
    | dsimp only

theorem keepMark_kept {r hint : Nat} {x : CacheLine} {s0 : State} (hs0 : Kept q t s0) :
    Kept q t (runAct (keepMark r hint x) s0).2 := by
  unfold keepMark
  repeat' first
    | intro _ | with_reducible assumption | with_reducible apply setRc_kept | with_reducible apply Kept.edit
    | with_reducible apply Kept.get_bind | with_reducible apply Kept.bind | with_reducible apply Kept.pure
    | with_reducible apply Kept.iteAct

theorem rcDrop_kept {r : Nat} {x : CacheLine} {s0 : State} (hs0 : Kept q t s0) :
    Kept q t (runAct (rcDrop r x) s0).2 := by
  unfold rcDrop
  repeat' first
    | intro _ | with_reducible assumption | with_reducible apply setRc_kept | with_reducible apply writeBack_kept
    | with_reducible apply Kept.edit | with_reducible apply Kept.bind

theorem stackThere_kept {a : Nat} {s0 : State} (hs0 : Kept q t s0) :
    Kept q t (runAct (stackThere a) s0).2 := by
  unfold stackThere
  repeat' first
    | intro _ | with_reducible assumption | with_reducible apply need_kept | with_reducible apply needReady_kept | with_reducible apply Kept.get_bind
    | with_reducible apply Kept.bind | with_reducible apply Kept.pure | split

theorem rcRead_kept {r hint a n : Nat} {s0 : State} (hs0 : Kept q t s0) :
    Kept q t (runAct (rcRead r hint a n) s0).2 := by
  unfold rcRead
  repeat' first
    | intro _ | with_reducible assumption | with_reducible apply readPath_kept | with_reducible apply loadHome_kept
    | with_reducible apply setRc_kept | with_reducible apply rcInsert_kept | with_reducible apply keepMark_kept
    | with_reducible apply rcDrop_kept | with_reducible apply stackThere_kept | with_reducible apply Kept.edit
    | with_reducible apply Kept.get_bind | with_reducible apply Kept.bind | with_reducible apply Kept.pure
    | with_reducible apply Kept.iteAct

theorem cacheable_kept {a : Nat} {s0 : State} (hs0 : Kept q t s0) :
    Kept q t (runAct (cacheable a) s0).2 := by
  unfold cacheable
  repeat' first
    | intro _ | with_reducible assumption | with_reducible apply stackServes_kept | with_reducible apply need_kept
    | with_reducible apply Kept.get_bind | with_reducible apply Kept.bind | with_reducible apply Kept.throw | split

theorem rcWrite_kept {r hint : Nat} {who : Option Nat} {a : Nat} {bs : List Byte} {s0 : State} (hs0 : Kept q t s0) :
    Kept q t (runAct (rcWrite r hint who a bs) s0).2 := by
  unfold rcWrite
  repeat' first
    | intro _ | with_reducible assumption | with_reducible apply writePath_kept | with_reducible apply storeHome_kept
    | with_reducible apply setRc_kept | with_reducible apply rcInsert_kept | with_reducible apply keepMark_kept
    | with_reducible apply rcDrop_kept | with_reducible apply cacheable_kept | with_reducible apply Kept.edit
    | with_reducible apply Kept.get_bind | with_reducible apply Kept.bind | with_reducible apply Kept.pure
    | with_reducible apply Kept.iteAct | split

theorem rcLoad_kept {r hint a n : Nat} {s0 : State} (hs0 : Kept q t s0) :
    Kept q t (runAct (rcLoad r hint a n) s0).2 := by
  unfold rcLoad
  repeat' first
    | intro _ | with_reducible assumption | with_reducible apply rcRead_kept | with_reducible apply mapAct_kept
    | with_reducible apply Kept.bind | with_reducible apply Kept.pure

theorem rcStore_kept {r hint : Nat} {who : Option Nat} {a : Nat} {bs : List Byte} {s0 : State} (hs0 : Kept q t s0) :
    Kept q t (runAct (rcStore r hint who a bs) s0).2 := by
  unfold rcStore
  repeat' first
    | intro _ | with_reducible assumption | with_reducible apply cacheable_kept | with_reducible apply rcWrite_kept
    | with_reducible apply eachAct_kept | with_reducible apply Kept.bind

theorem viaLoad_kept {r hint a n : Nat} {s0 : State} (hs0 : Kept q t s0) :
    Kept q t (runAct (viaLoad r hint a n) s0).2 := by
  unfold viaLoad
  repeat' first
    | intro _ | with_reducible assumption | with_reducible apply readPath_kept | with_reducible apply loadHome_kept
    | with_reducible apply rcLoad_kept | with_reducible apply Kept.bind | split

theorem hostStore_kept {who : Option Nat} {a : Nat} {bs : List Byte} {s0 : State} (hs0 : Kept q t s0) :
    Kept q t (runAct (hostStore who a bs) s0).2 := by
  unfold hostStore
  repeat' first
    | intro _ | with_reducible assumption | with_reducible apply storeHome_kept
    | with_reducible apply noteReleaseFailure_kept | with_reducible apply Kept.get_bind | with_reducible apply Kept.bind
    | with_reducible apply Kept.throw | with_reducible apply Kept.set | with_reducible apply Kept.iteAct | split
    | refine Kept.of_snd (by with_reducible assumption) ?_

theorem viaStore_kept {r hint : Nat} {who : Option Nat} {a : Nat} {bs : List Byte} {s0 : State} (hs0 : Kept q t s0) :
    Kept q t (runAct (viaStore r hint who a bs) s0).2 := by
  unfold viaStore
  repeat' first
    | intro _ | with_reducible assumption | with_reducible apply writePath_kept | with_reducible apply storeHome_kept
    | with_reducible apply rcStore_kept | with_reducible apply hostStore_kept | with_reducible apply Kept.bind | split

theorem sendFlushes_kept : ∀ {ps : List PortId} {s : State}, Kept q t s → Kept q t (sendFlushes s ps).2 := by
  intro ps
  induction ps with
  | nil => intro s h; exact h
  | cons p ps ih =>
    intro s h
    exact ih (emit_kept (modPort_kept (fun _ hx => hx) h))

theorem askHome_kept {s : State} {ports : List PortId} (hs : Kept q t s) :
    Kept q t (askHome s ports).2 := by
  unfold askHome
  repeat' first
    | with_reducible assumption | with_reducible apply sendFlushes_kept

theorem flushTask_kept {s : State} {t' : Nat} (hs : Kept q t s) :
    Kept q t (flushTask s t') := by
  unfold flushTask
  repeat' first
    | with_reducible assumption | with_reducible apply modTask_kept | with_reducible apply askHome_kept | split

theorem flushJig_kept {s : State} {cl j : Nat} (hs : Kept q t s) :
    Kept q t (flushJig s cl j) := by
  unfold flushJig
  repeat' first
    | with_reducible assumption | with_reducible apply modJig_kept | with_reducible apply askHome_kept

theorem watchTask_kept {s : State} {t' : Nat} (hs : Kept q t s) :
    Kept q t (watchTask s t') := by
  unfold watchTask
  repeat' first
    | with_reducible assumption | with_reducible apply modTask_kept

theorem watchEnd_kept {s0' s : State} {t' : Nat} (hs0 : Kept q t s0') (hs : Kept q t s) :
    Kept q t (watchEnd s0' s t').1 := by
  unfold watchEnd
  repeat' first
    | with_reducible assumption | with_reducible apply modTask_kept | split

theorem watched_kept {α : Type} {c : Chain} {a : Act α} {s : State} (hs : Kept q t s)
    (ha : ∀ u : State, Kept q t u → Kept q t (runAct a u).2) : Kept q t (runAct (watched c a) s).2 := by
  unfold watched
  exact Kept.get_bind (Kept.bind (Kept.edit (watchTask_kept hs)) (fun _ s1 h1 =>
    Kept.bind (ha s1 h1) (fun _ _ h2 => Kept.get_bind (Kept.bind (Kept.set (watchEnd_kept hs h2)) (fun _ _ h => Kept.pure h)))))

theorem endFlush_kept {s : State} {p : PortId} {n : Nat} {ok : Bool} (hs : Kept q t s) :
    Kept q t (endFlush s p n ok) := by
  unfold endFlush
  repeat' first
    | intro _ | with_reducible assumption | with_reducible apply modPort_kept
    | fail_if_no_progress with_reducible apply Kept.upd

theorem rcClean_kept {r : Nat} {p : CacheLine → Bool} {s0 : State} (hs0 : Kept q t s0) :
    Kept q t (runAct (rcClean r p) s0).2 := by
  unfold rcClean
  repeat' first
    | intro _ | with_reducible assumption | with_reducible apply setRc_kept | with_reducible apply writeBack_kept
    | with_reducible apply Kept.edit | with_reducible apply eachAct_kept | with_reducible apply Kept.get_bind
    | with_reducible apply Kept.bind

theorem rcRelease_kept {r t' : Nat} {s0 : State} (hs0 : Kept q t s0) :
    Kept q t (runAct (rcRelease r t') s0).2 := by
  unfold rcRelease
  repeat' first
    | with_reducible assumption | with_reducible apply rcClean_kept

theorem forgetSector_kept {s : State} {r : Nat} {x : CacheLine} {sec : Nat} (hs : Kept q t s) :
    Kept q t (forgetSector s r x sec) := by
  unfold forgetSector
  repeat' first
    | with_reducible assumption | with_reducible apply setRc_kept

theorem rcDropSector_kept {r a : Nat} {s0 : State} (hs0 : Kept q t s0) :
    Kept q t (runAct (rcDropSector r a) s0).2 := by
  unfold rcDropSector
  repeat' first
    | intro _ | with_reducible assumption | with_reducible apply writeRun_kept | with_reducible apply forgetSector_kept
    | with_reducible apply Kept.edit | with_reducible apply eachAct_kept | with_reducible apply Kept.get_bind
    | with_reducible apply Kept.bind | with_reducible apply Kept.pure | split

theorem rcAcquire_kept {r : Nat} {rs : List (Nat × Nat)} {s0 : State} (hs0 : Kept q t s0) :
    Kept q t (runAct (rcAcquire r rs) s0).2 := by
  unfold rcAcquire
  repeat' first
    | intro _ | with_reducible assumption | with_reducible apply rcDropSector_kept | with_reducible apply eachAct_kept
    | with_reducible apply Kept.get_bind

theorem setD_kept {s : State} {cl j : Nat} {ls : List CacheLine} (hs : Kept q t s) :
    Kept q t (setD s cl j ls) := by
  unfold setD
  repeat' first
    | with_reducible assumption | with_reducible apply modJig_kept

theorem dWriteBack_kept {cl : Nat} {who : Option Nat} {x : CacheLine} {s0 : State} (hs0 : Kept q t s0) :
    Kept q t (runAct (dWriteBack cl who x) s0).2 := by
  unfold dWriteBack
  repeat' first
    | intro _ | with_reducible assumption | with_reducible apply rcWrite_kept | with_reducible apply eachAct_kept

theorem dInsert_kept {cl j : Nat} {who : Option Nat} {x : CacheLine} {s0 : State} (hs0 : Kept q t s0) :
    Kept q t (runAct (dInsert cl j who x) s0).2 := by
  unfold dInsert
  repeat' first
    | intro _ | with_reducible assumption | with_reducible apply setD_kept | with_reducible apply dWriteBack_kept
    | with_reducible apply Kept.edit | with_reducible apply Kept.get_bind | with_reducible apply Kept.bind | split
    | dsimp only

theorem dRead_kept {cl j hint : Nat} {who : Option Nat} {a n : Nat} {s0 : State} (hs0 : Kept q t s0) :
    Kept q t (runAct (dRead cl j hint who a n) s0).2 := by
  unfold dRead
  repeat' first
    | intro _ | with_reducible assumption | with_reducible apply stackThere_kept | with_reducible apply rcRead_kept
    | with_reducible apply setD_kept | with_reducible apply dWriteBack_kept | with_reducible apply dInsert_kept
    | with_reducible apply Kept.edit | with_reducible apply Kept.get_bind | with_reducible apply Kept.bind
    | with_reducible apply Kept.pure | with_reducible apply Kept.iteAct

theorem dWrite_kept {cl j hint : Nat} {who : Option Nat} {a : Nat} {bs : List Byte} {s0 : State} (hs0 : Kept q t s0) :
    Kept q t (runAct (dWrite cl j hint who a bs) s0).2 := by
  unfold dWrite
  repeat' first
    | intro _ | with_reducible assumption | with_reducible apply cacheable_kept | with_reducible apply rcWrite_kept
    | with_reducible apply setD_kept | with_reducible apply dWriteBack_kept | with_reducible apply dInsert_kept
    | with_reducible apply Kept.edit | with_reducible apply Kept.get_bind | with_reducible apply Kept.bind
    | with_reducible apply Kept.iteAct | split

theorem dRelease_kept {cl : Nat} {who : Option Nat} {x : CacheLine} {s0 : State} (hs0 : Kept q t s0) :
    Kept q t (runAct (dRelease cl who x) s0).2 := by
  unfold dRelease
  repeat' first
    | intro _ | with_reducible assumption | with_reducible apply noteReleaseFailure_kept
    | with_reducible apply dWriteBack_kept | with_reducible apply Kept.edit | with_reducible apply attempt_kept
    | with_reducible apply Kept.bind | with_reducible apply Kept.pure | split

theorem dFlush_kept {cl j : Nat} {who : Option Nat} {s0 : State} (hs0 : Kept q t s0) :
    Kept q t (runAct (dFlush cl j who) s0).2 := by
  unfold dFlush
  repeat' first
    | intro _ | with_reducible assumption | with_reducible apply setD_kept | with_reducible apply dRelease_kept
    | with_reducible apply Kept.edit | with_reducible apply eachAct_kept | with_reducible apply Kept.get_bind
    | with_reducible apply Kept.bind

theorem dDropClean_kept {s : State} {cl j lo hi : Nat} (hs : Kept q t s) :
    Kept q t (dDropClean s cl j lo hi) := by
  unfold dDropClean
  repeat' first
    | with_reducible assumption | with_reducible apply setD_kept

theorem codeLine_kept {cl l : Nat} {s0 : State} (hs0 : Kept q t s0) :
    Kept q t (runAct (codeLine cl l) s0).2 := by
  unfold codeLine
  repeat' first
    | with_reducible assumption | with_reducible apply loadFrom_kept | with_reducible apply rcRead_kept | split

theorem iLine_kept {cl j l : Nat} {s0 : State} (hs0 : Kept q t s0) :
    Kept q t (runAct (iLine cl j l) s0).2 := by
  unfold iLine
  repeat' first
    | intro _ | with_reducible assumption | with_reducible apply modJig_kept | with_reducible apply codeLine_kept
    | with_reducible apply Kept.edit | with_reducible apply Kept.get_bind | with_reducible apply Kept.bind
    | with_reducible apply Kept.pure | split

end Sys2Proof.Laws
end

