-- ==== Sys2Proof/Laws/KeptNet.lean ====
section
/-! SUPPORT. Each operation of Machine/Net.lean keeps the queue, device time and canonical memories. -/

namespace Sys2Proof.Laws
open Sys2Proof Sys2Proof.Machine

variable {q : List Instr} {t : BitVec 64}


theorem countAged_kept {s : State} (hs : Kept q t s) :
    Kept q t (countAged s) := by
  unfold countAged
  repeat' first
    | intro _ | with_reducible assumption | with_reducible apply Kept.bind | with_reducible apply Kept.pure
    | with_reducible apply Kept.throw | fail_if_no_progress with_reducible apply Kept.upd
    | with_reducible apply Kept.iteAct | split | refine Kept.of_fst (by with_reducible assumption) ?_
    | refine Kept.of_snd (by with_reducible assumption) ?_ | dsimp only

theorem setTicket_kept {s : State} {cl j t' : Nat} {x : Option Ticket} (hs : Kept q t s) :
    Kept q t (setTicket s cl j t' x) := by
  unfold setTicket
  repeat' first
    | intro _ | with_reducible assumption | with_reducible apply modJig_kept | with_reducible apply Kept.bind
    | with_reducible apply Kept.pure | with_reducible apply Kept.throw
    | fail_if_no_progress with_reducible apply Kept.upd | with_reducible apply Kept.iteAct | split
    | refine Kept.of_fst (by with_reducible assumption) ?_ | refine Kept.of_snd (by with_reducible assumption) ?_
    | dsimp only

theorem finishTicket_kept {s : State} {cl j t' : Nat} {st : Status} {result : Word} (hs : Kept q t s) :
    Kept q t (finishTicket s cl j t' st result) := by
  unfold finishTicket
  repeat' first
    | intro _ | with_reducible assumption | with_reducible apply setTicket_kept | with_reducible apply Kept.bind
    | with_reducible apply Kept.pure | with_reducible apply Kept.throw
    | fail_if_no_progress with_reducible apply Kept.upd | with_reducible apply Kept.iteAct | split
    | refine Kept.of_fst (by with_reducible assumption) ?_ | refine Kept.of_snd (by with_reducible assumption) ?_
    | dsimp only

theorem pushRouter_kept {s : State} {d : Nat} {x : Transit} (hs : Kept q t s) :
    Kept q t (pushRouter s d x) := by
  unfold pushRouter
  repeat' first
    | intro _ | with_reducible assumption | with_reducible apply Kept.bind | with_reducible apply Kept.pure
    | with_reducible apply Kept.throw | fail_if_no_progress with_reducible apply Kept.upd
    | with_reducible apply Kept.iteAct | split | refine Kept.of_fst (by with_reducible assumption) ?_
    | refine Kept.of_snd (by with_reducible assumption) ?_ | dsimp only

theorem pushIngress_kept {s : State} {d : Nat} {x : Transit} (hs : Kept q t s) :
    Kept q t (pushIngress s d x) := by
  unfold pushIngress
  repeat' first
    | intro _ | with_reducible assumption | with_reducible apply Kept.bind | with_reducible apply Kept.pure
    | with_reducible apply Kept.throw | fail_if_no_progress with_reducible apply Kept.upd
    | with_reducible apply Kept.iteAct | split | refine Kept.of_fst (by with_reducible assumption) ?_
    | refine Kept.of_snd (by with_reducible assumption) ?_ | dsimp only

theorem launch_kept {s : State} {o : Outstanding} (hs : Kept q t s) :
    Kept q t (launch s o) := by
  unfold launch
  repeat' first
    | intro _ | with_reducible assumption | with_reducible apply pushRouter_kept | with_reducible apply Kept.bind
    | with_reducible apply Kept.pure | with_reducible apply Kept.throw
    | fail_if_no_progress with_reducible apply Kept.upd | with_reducible apply Kept.iteAct | split
    | refine Kept.of_fst (by with_reducible assumption) ?_ | refine Kept.of_snd (by with_reducible assumption) ?_
    | dsimp only

theorem submit_kept {s : State} {o : Outstanding} (hs : Kept q t s) :
    Kept q t (submit s o) := by
  unfold submit
  repeat' first
    | intro _ | with_reducible assumption | with_reducible apply launch_kept | with_reducible apply Kept.bind
    | with_reducible apply Kept.pure | with_reducible apply Kept.throw
    | fail_if_no_progress with_reducible apply Kept.upd | with_reducible apply Kept.iteAct | split
    | refine Kept.of_fst (by with_reducible assumption) ?_ | refine Kept.of_snd (by with_reducible assumption) ?_
    | dsimp only

theorem drainUnsent_kept  :
    ∀ {y0 : Nat} {y1 : State} {y2 : Nat}, Kept q t y1 → Kept q t (drainUnsent y0 y1 y2) := by
  intro y0
  induction y0 with
  | zero => intros; unfold drainUnsent; assumption
  | succ n ih =>
    intros
    unfold drainUnsent
    repeat' first
    | intro _ | apply ih | with_reducible assumption | with_reducible apply launch_kept | with_reducible apply Kept.bind
    | with_reducible apply Kept.pure | with_reducible apply Kept.throw
    | fail_if_no_progress with_reducible apply Kept.upd | with_reducible apply Kept.iteAct | split
    | refine Kept.of_fst (by with_reducible assumption) ?_ | refine Kept.of_snd (by with_reducible assumption) ?_
    | dsimp only

theorem noteLastFail_kept {s : State} {st : Status} {tag : BitVec 16} {d : Nat} {dst : BitVec 18} (hs : Kept q t s) :
    Kept q t (noteLastFail s st tag d dst) := by
  unfold noteLastFail
  repeat' first
    | intro _ | with_reducible assumption | with_reducible apply Kept.bind | with_reducible apply Kept.pure
    | with_reducible apply Kept.throw | fail_if_no_progress with_reducible apply Kept.upd
    | with_reducible apply Kept.iteAct | split | refine Kept.of_fst (by with_reducible assumption) ?_
    | refine Kept.of_snd (by with_reducible assumption) ?_ | dsimp only

theorem ticketAnswer_kept {s : State} {o : Outstanding} {cl j t' : Nat} {st : Status} {result : Word} (hs : Kept q t s) :
    Kept q t (ticketAnswer s o cl j t' st result) := by
  unfold ticketAnswer
  repeat' first
    | intro _ | with_reducible assumption | with_reducible apply modClu_kept | with_reducible apply setTicket_kept
    | with_reducible apply noteLastFail_kept | with_reducible apply Kept.bind | with_reducible apply Kept.pure
    | with_reducible apply Kept.throw | fail_if_no_progress with_reducible apply Kept.upd
    | with_reducible apply Kept.iteAct | split | refine Kept.of_fst (by with_reducible assumption) ?_
    | refine Kept.of_snd (by with_reducible assumption) ?_ | dsimp only

theorem completionAnswer_kept {s : State} {o : Outstanding} {t' : Nat} {st : Status} (hs : Kept q t s) :
    Kept q t (completionAnswer s o t' st) := by
  unfold completionAnswer
  repeat' first
    | intro _ | with_reducible assumption | with_reducible apply modTask_kept | with_reducible apply noteLastFail_kept
    | with_reducible apply Kept.bind | with_reducible apply Kept.pure | with_reducible apply Kept.throw
    | fail_if_no_progress with_reducible apply Kept.upd | with_reducible apply Kept.iteAct | split
    | refine Kept.of_fst (by with_reducible assumption) ?_ | refine Kept.of_snd (by with_reducible assumption) ?_
    | dsimp only

theorem settleRequest_kept {s : State} {o : Outstanding} {st : Status} {result : Word} (hs : Kept q t s) :
    Kept q t (settleRequest s o st result) := by
  unfold settleRequest
  repeat' first
    | intro _ | with_reducible assumption | with_reducible apply drainUnsent_kept | with_reducible apply noteLastFail_kept
    | with_reducible apply ticketAnswer_kept | with_reducible apply completionAnswer_kept
    | with_reducible apply Kept.bind | with_reducible apply Kept.pure | with_reducible apply Kept.throw
    | fail_if_no_progress with_reducible apply Kept.upd | with_reducible apply Kept.iteAct | split
    | refine Kept.of_fst (by with_reducible assumption) ?_ | refine Kept.of_snd (by with_reducible assumption) ?_
    | dsimp only

theorem dropLate_kept {s : State} (hs : Kept q t s) :
    Kept q t (dropLate s) := by
  unfold dropLate
  repeat' first
    | intro _ | with_reducible assumption | with_reducible apply Kept.bind | with_reducible apply Kept.pure
    | with_reducible apply Kept.throw | fail_if_no_progress with_reducible apply Kept.upd
    | with_reducible apply Kept.iteAct | split | refine Kept.of_fst (by with_reducible assumption) ?_
    | refine Kept.of_snd (by with_reducible assumption) ?_ | dsimp only

theorem storeAnswer_kept {o : Outstanding} {bs : List Byte} {s0 : State} (hs0 : Kept q t s0) :
    Kept q t (runAct (storeAnswer o bs) s0).2 := by
  unfold storeAnswer
  repeat' first
    | intro _ | with_reducible assumption | with_reducible apply modJig_kept | with_reducible apply viaStore_kept
    | with_reducible apply Kept.edit | with_reducible apply Kept.get_bind | with_reducible apply Kept.bind
    | with_reducible apply Kept.pure | with_reducible apply Kept.throw
    | fail_if_no_progress with_reducible apply Kept.upd | with_reducible apply Kept.iteAct | split
    | refine Kept.of_fst (by with_reducible assumption) ?_ | refine Kept.of_snd (by with_reducible assumption) ?_
    | dsimp only

theorem takeResponse_kept {p : Packet} {s0 : State} (hs0 : Kept q t s0) :
    Kept q t (runAct (takeResponse p) s0).2 := by
  unfold takeResponse
  repeat' first
    | intro _ | with_reducible assumption | with_reducible apply settleRequest_kept | with_reducible apply dropLate_kept
    | with_reducible apply storeAnswer_kept | with_reducible apply Kept.edit | with_reducible apply attempt_kept
    | with_reducible apply Kept.get_bind | with_reducible apply Kept.bind | with_reducible apply Kept.pure
    | with_reducible apply Kept.throw | fail_if_no_progress with_reducible apply Kept.upd
    | with_reducible apply Kept.iteAct | split | refine Kept.of_fst (by with_reducible assumption) ?_
    | refine Kept.of_snd (by with_reducible assumption) ?_ | dsimp only

theorem respond_kept {s : State} {d : Nat} {p : Packet} {typ : BitVec 4} {len addr : Nat} {data : List Byte} (hs : Kept q t
    s) :
    Kept q t (respond s d p typ len addr data) := by
  unfold respond
  repeat' first
    | intro _ | with_reducible assumption | with_reducible apply pushRouter_kept | with_reducible apply Kept.bind
    | with_reducible apply Kept.pure | with_reducible apply Kept.throw
    | fail_if_no_progress with_reducible apply Kept.upd | with_reducible apply Kept.iteAct | split
    | refine Kept.of_fst (by with_reducible assumption) ?_ | refine Kept.of_snd (by with_reducible assumption) ?_
    | dsimp only

theorem sendNak_kept {s : State} {d : Nat} {p : Packet} {st : Status} (hs : Kept q t s) :
    Kept q t (sendNak s d p st) := by
  unfold sendNak
  repeat' first
    | intro _ | with_reducible assumption | with_reducible apply respond_kept | with_reducible apply Kept.bind
    | with_reducible apply Kept.pure | with_reducible apply Kept.throw
    | fail_if_no_progress with_reducible apply Kept.upd | with_reducible apply Kept.iteAct | split
    | refine Kept.of_fst (by with_reducible assumption) ?_ | refine Kept.of_snd (by with_reducible assumption) ?_
    | dsimp only

theorem sendRemoteOps_kept {s : State} {t' : Nat} (hs : Kept q t s) :
    Kept q t (sendRemoteOps s t') := by
  unfold sendRemoteOps
  repeat' first
    | intro _ | with_reducible assumption | with_reducible apply modTask_kept | with_reducible apply submit_kept
    | with_reducible apply noteLastFail_kept | with_reducible apply Kept.bind | with_reducible apply Kept.foldl
    | with_reducible apply Kept.foldl_fst | with_reducible apply Kept.pure | with_reducible apply Kept.throw
    | fail_if_no_progress with_reducible apply Kept.upd | with_reducible apply Kept.iteAct | split
    | refine Kept.of_fst (by with_reducible assumption) ?_ | refine Kept.of_snd (by with_reducible assumption) ?_
    | dsimp only

end Sys2Proof.Laws
end

