-- ==== Sys2Proof/Laws/KeptLinkOps.lean ====
section
/-! SUPPORT. Each operation of Machine/LinkOps.lean keeps the queue, device time and canonical memories. -/

namespace Sys2Proof.Laws
open Sys2Proof Sys2Proof.Machine

variable {q : List Instr} {t : BitVec 64}

theorem beginTraining_kept {s : State} {i : Nat} (hs : Kept q t s) :
    Kept q t (beginTraining s i) := by
  unfold beginTraining
  repeat' first
    | with_reducible assumption | with_reducible apply modLnk_kept | with_reducible apply emit_kept

theorem sendIdle_kept {s : State} {i vc units : Nat} (hs : Kept q t s) :
    Kept q t (sendIdle s i vc units) := by
  unfold sendIdle
  repeat' first
    | with_reducible assumption | with_reducible apply sendFlit_kept | split

theorem releaseHeld_kept {s : State} {x : Transit} (hs : Kept q t s) :
    Kept q t (releaseHeld s x) := by
  unfold releaseHeld
  repeat' first
    | with_reducible assumption | with_reducible apply sendIdle_kept | split

theorem clearLink_kept {s : State} {i : Nat} {state : LinkState} (hs : Kept q t s) :
    Kept q t (clearLink s i state) := by
  unfold clearLink
  repeat' first
    | intro _ | with_reducible assumption | with_reducible apply modLnk_kept | with_reducible apply pushRouter_kept
    | with_reducible apply Kept.foldl | fail_if_no_progress with_reducible apply Kept.upd

theorem linkDown_kept {s : State} {i : Nat} (hs : Kept q t s) :
    Kept q t (linkDown s i) := by
  unfold linkDown
  repeat' first
    | with_reducible assumption | with_reducible apply advanceEpoch_kept | with_reducible apply logEvent_kept
    | with_reducible apply clearLink_kept

end Sys2Proof.Laws
end

