-- ==== Sys2Proof/Laws/KeptThermal.lean ====
section
/-! SUPPORT. Each operation of Machine/Thermal.lean keeps the queue, device time and canonical memories. -/

namespace Sys2Proof.Laws
open Sys2Proof Sys2Proof.Machine

variable {q : List Instr} {t : BitVec 64}

theorem logThermal_kept {s : State} {cls : BitVec 8} {sev : BitVec 2} {n d0 d1 : Nat} (hs : Kept q t s) :
    Kept q t (logThermal s cls sev n d0 d1) := by
  unfold logThermal
  repeat' first
    | with_reducible assumption | with_reducible apply logEvent_kept

theorem holdFuse_kept {s : State} {n : Nat} (hs : Kept q t s) :
    Kept q t (holdFuse s n) := by
  unfold holdFuse
  repeat' first
    | with_reducible assumption | with_reducible apply logThermal_kept | fail_if_no_progress with_reducible apply Kept.upd
    | split

theorem freeFuse_kept {s : State} {n : Nat} (hs : Kept q t s) :
    Kept q t (freeFuse s n) := by
  unfold freeFuse
  repeat' first
    | with_reducible assumption | fail_if_no_progress with_reducible apply Kept.upd

end Sys2Proof.Laws
end

