-- ==== Sys2Proof/Laws/KeptResets.lean ====
section
/-! SUPPORT. Each operation of Machine/Resets.lean keeps the queue, device time and canonical memories. -/

namespace Sys2Proof.Laws
open Sys2Proof Sys2Proof.Machine

variable {q : List Instr} {t : BitVec 64}

theorem advanceAll_kept {s : State} {d i : Nat} (hs : Kept q t s) :
    Kept q t (advanceAll s d i) := by
  unfold advanceAll
  repeat' first
    | intro _ | with_reducible assumption | with_reducible apply advanceEpoch_kept | with_reducible apply Kept.bind
    | with_reducible apply Kept.foldl | with_reducible apply Kept.foldl_fst | with_reducible apply Kept.pure
    | with_reducible apply Kept.throw | fail_if_no_progress with_reducible apply Kept.upd
    | with_reducible apply Kept.iteAct | split | refine Kept.of_fst (by with_reducible assumption) ?_
    | refine Kept.of_snd (by with_reducible assumption) ?_ | dsimp only

theorem resetTask_kept {s : State} {t' : Nat} (hs : Kept q t s) :
    Kept q t (resetTask s t') := by
  unfold resetTask
  repeat' first
    | intro _ | with_reducible assumption | with_reducible apply modTask_kept | with_reducible apply endUnstarted_kept
    | with_reducible apply Kept.bind | with_reducible apply Kept.pure | with_reducible apply Kept.throw
    | fail_if_no_progress with_reducible apply Kept.upd | with_reducible apply Kept.iteAct | split
    | refine Kept.of_fst (by with_reducible assumption) ?_ | refine Kept.of_snd (by with_reducible assumption) ?_
    | dsimp only

theorem resetTasks_kept {s : State} {ts : List Nat} (hs : Kept q t s) :
    Kept q t (resetTasks s ts) := by
  unfold resetTasks
  repeat' first
    | intro _ | with_reducible assumption | with_reducible apply resetTask_kept | with_reducible apply Kept.bind
    | with_reducible apply Kept.foldl | with_reducible apply Kept.foldl_fst | with_reducible apply Kept.pure
    | with_reducible apply Kept.throw | fail_if_no_progress with_reducible apply Kept.upd
    | with_reducible apply Kept.iteAct | split | refine Kept.of_fst (by with_reducible assumption) ?_
    | refine Kept.of_snd (by with_reducible assumption) ?_ | dsimp only

theorem chainReset_kept {s : State} {c : Chain} (hs : Kept q t s) :
    Kept q t (chainReset s c) := by
  unfold chainReset
  repeat' first
    | intro _ | with_reducible assumption | with_reducible apply modPrt_kept | with_reducible apply finishTicket_kept
    | with_reducible apply Kept.bind | with_reducible apply Kept.pure | with_reducible apply Kept.throw
    | fail_if_no_progress with_reducible apply Kept.upd | with_reducible apply Kept.iteAct | split
    | refine Kept.of_fst (by with_reducible assumption) ?_ | refine Kept.of_snd (by with_reducible assumption) ?_
    | dsimp only

theorem forgetTickets_kept {s : State} {n : Nat} (hs : Kept q t s) :
    Kept q t (forgetTickets s n) := by
  unfold forgetTickets
  repeat' first
    | intro _ | with_reducible assumption | with_reducible apply Kept.bind | with_reducible apply Kept.pure
    | with_reducible apply Kept.throw | fail_if_no_progress with_reducible apply Kept.upd
    | with_reducible apply Kept.iteAct | split | refine Kept.of_fst (by with_reducible assumption) ?_
    | refine Kept.of_snd (by with_reducible assumption) ?_ | dsimp only

theorem stopCluster_kept {s : State} {n : Nat} (hs : Kept q t s) :
    Kept q t (stopCluster s n) := by
  unfold stopCluster
  repeat' first
    | intro _ | with_reducible assumption | with_reducible apply modClu_kept | with_reducible apply dropChains_kept
    | with_reducible apply forgetTickets_kept | with_reducible apply Kept.bind | with_reducible apply Kept.foldl
    | with_reducible apply Kept.foldl_fst | with_reducible apply Kept.pure | with_reducible apply Kept.throw
    | fail_if_no_progress with_reducible apply Kept.upd | with_reducible apply Kept.iteAct | split
    | refine Kept.of_fst (by with_reducible assumption) ?_ | refine Kept.of_snd (by with_reducible assumption) ?_
    | dsimp only

theorem stopRegion_kept {s : State} {r : Nat} (hs : Kept q t s) :
    Kept q t (stopRegion s r) := by
  unfold stopRegion
  repeat' first
    | intro _ | with_reducible assumption | with_reducible apply modReg_kept | with_reducible apply chainReset_kept
    | with_reducible apply stopCluster_kept | with_reducible apply Kept.bind | with_reducible apply Kept.foldl
    | with_reducible apply Kept.foldl_fst | with_reducible apply Kept.pure | with_reducible apply Kept.throw
    | fail_if_no_progress with_reducible apply Kept.upd | with_reducible apply Kept.iteAct | split
    | refine Kept.of_fst (by with_reducible assumption) ?_ | refine Kept.of_snd (by with_reducible assumption) ?_
    | dsimp only

theorem endReset_kept {s : State} {i : Nat} (hs : Kept q t s) :
    Kept q t (endReset s i) := by
  unfold endReset
  repeat' first
    | intro _ | with_reducible assumption | with_reducible apply modStk_kept | with_reducible apply endWork_kept
    | with_reducible apply Kept.bind | with_reducible apply Kept.foldl | with_reducible apply Kept.foldl_fst
    | with_reducible apply Kept.pure | with_reducible apply Kept.throw
    | fail_if_no_progress with_reducible apply Kept.upd | with_reducible apply Kept.iteAct | split
    | refine Kept.of_fst (by with_reducible assumption) ?_ | refine Kept.of_snd (by with_reducible assumption) ?_
    | dsimp only

theorem stopActive_kept {s : State} {i : Nat} (hs : Kept q t s) :
    Kept q t (stopActive s i) := by
  unfold stopActive
  repeat' first
    | intro _ | with_reducible assumption | with_reducible apply modStk_kept | with_reducible apply endReset_kept
    | with_reducible apply Kept.bind | with_reducible apply Kept.pure | with_reducible apply Kept.throw
    | fail_if_no_progress with_reducible apply Kept.upd | with_reducible apply Kept.iteAct | split
    | refine Kept.of_fst (by with_reducible assumption) ?_ | refine Kept.of_snd (by with_reducible assumption) ?_
    | dsimp only

theorem dropRequests_kept {s : State} {d : Nat} (hs : Kept q t s) :
    Kept q t (dropRequests s d) := by
  unfold dropRequests
  repeat' first
    | intro _ | with_reducible assumption | with_reducible apply completionAnswer_kept | with_reducible apply Kept.bind
    | with_reducible apply Kept.foldl | with_reducible apply Kept.foldl_fst | with_reducible apply Kept.pure
    | with_reducible apply Kept.throw | fail_if_no_progress with_reducible apply Kept.upd
    | with_reducible apply Kept.iteAct | split | refine Kept.of_fst (by with_reducible assumption) ?_
    | refine Kept.of_snd (by with_reducible assumption) ?_ | dsimp only

theorem dropIngress_kept {s : State} {d : Nat} (hs : Kept q t s) :
    Kept q t (dropIngress s d) := by
  unfold dropIngress
  repeat' first
    | intro _ | with_reducible assumption | with_reducible apply releaseHeld_kept | with_reducible apply Kept.bind
    | with_reducible apply Kept.foldl | with_reducible apply Kept.foldl_fst | with_reducible apply Kept.pure
    | with_reducible apply Kept.throw | fail_if_no_progress with_reducible apply Kept.upd
    | with_reducible apply Kept.iteAct | split | refine Kept.of_fst (by with_reducible assumption) ?_
    | refine Kept.of_snd (by with_reducible assumption) ?_ | dsimp only

theorem stopDie_kept {s : State} {d : Nat} (hs : Kept q t s) :
    Kept q t (stopDie s d) := by
  unfold stopDie
  repeat' first
    | intro _ | with_reducible assumption | with_reducible apply modStk_kept | with_reducible apply modWlk_kept
    | with_reducible apply stopRegion_kept | with_reducible apply stopActive_kept
    | with_reducible apply dropRequests_kept | with_reducible apply dropIngress_kept | with_reducible apply Kept.bind
    | with_reducible apply Kept.foldl | with_reducible apply Kept.foldl_fst | with_reducible apply Kept.pure
    | with_reducible apply Kept.throw | fail_if_no_progress with_reducible apply Kept.upd
    | with_reducible apply Kept.iteAct | split | refine Kept.of_fst (by with_reducible assumption) ?_
    | refine Kept.of_snd (by with_reducible assumption) ?_ | dsimp only

theorem stopStack_kept {s : State} {i : Nat} (hs : Kept q t s) :
    Kept q t (stopStack s i) := by
  unfold stopStack
  repeat' first
    | intro _ | with_reducible assumption | with_reducible apply modStk_kept | with_reducible apply modGran_kept
    | with_reducible apply wipeBbuf_kept | with_reducible apply freeFuse_kept | with_reducible apply Kept.bind
    | with_reducible apply Kept.pure | with_reducible apply Kept.throw
    | fail_if_no_progress with_reducible apply Kept.upd | with_reducible apply Kept.iteAct | split
    | refine Kept.of_fst (by with_reducible assumption) ?_ | refine Kept.of_snd (by with_reducible assumption) ?_
    | dsimp only

theorem warmState_kept {s : State} {cause : BitVec 8} (hs : Kept q t s) : Kept q t (warmState s cause) := by
  have h : Kept q t ((List.range 24).foldl stopStack s) := Kept.foldl (fun _ _ hu => stopStack_kept hu) hs
  unfold warmState
  generalize (List.range 24).foldl stopStack s = u at h ⊢
  exact ⟨h.1, h.2, h.3, rfl, rfl, h.6, h.7⟩

theorem letGo_kept {s : State} (hs : Kept q t s) :
    Kept q t (letGo s) := by
  unfold letGo
  repeat' first
    | intro _ | with_reducible assumption | with_reducible apply emit_kept | with_reducible apply Kept.bind
    | with_reducible apply Kept.pure | with_reducible apply Kept.throw
    | fail_if_no_progress with_reducible apply Kept.upd | with_reducible apply Kept.iteAct | split
    | refine Kept.of_fst (by with_reducible assumption) ?_ | refine Kept.of_snd (by with_reducible assumption) ?_
    | dsimp only

theorem drivePins_kept {s : State} (hs : Kept q t s) :
    Kept q t (drivePins s) := by
  unfold drivePins
  repeat' first
    | intro _ | with_reducible assumption | with_reducible apply emit_kept | with_reducible apply Kept.bind
    | with_reducible apply Kept.pure | with_reducible apply Kept.throw
    | fail_if_no_progress with_reducible apply Kept.upd | with_reducible apply Kept.iteAct | split
    | refine Kept.of_fst (by with_reducible assumption) ?_ | refine Kept.of_snd (by with_reducible assumption) ?_
    | dsimp only

theorem refuseTap_kept {s : State} (hs : Kept q t s) :
    Kept q t (refuseTap s) := by
  unfold refuseTap
  repeat' first
    | intro _ | with_reducible assumption | with_reducible apply logEvent_kept | with_reducible apply letGo_kept
    | with_reducible apply Kept.bind | with_reducible apply Kept.pure | with_reducible apply Kept.throw
    | fail_if_no_progress with_reducible apply Kept.upd | with_reducible apply Kept.iteAct | split
    | refine Kept.of_fst (by with_reducible assumption) ?_ | refine Kept.of_snd (by with_reducible assumption) ?_
    | dsimp only

theorem tapGate_kept {s : State} (hs : Kept q t s) :
    Kept q t (tapGate s) := by
  unfold tapGate
  repeat' first
    | intro _ | with_reducible assumption | with_reducible apply drivePins_kept | with_reducible apply refuseTap_kept
    | with_reducible apply Kept.bind | with_reducible apply Kept.pure | with_reducible apply Kept.throw
    | fail_if_no_progress with_reducible apply Kept.upd | with_reducible apply Kept.iteAct | split
    | refine Kept.of_fst (by with_reducible assumption) ?_ | refine Kept.of_snd (by with_reducible assumption) ?_
    | dsimp only

theorem stopDomain_kept {s : State} {d i : Nat} {cause : BitVec 8} (hs : Kept q t s) :
    Kept q t (stopDomain s d i cause) := by
  unfold stopDomain
  repeat' first
    | intro _ | with_reducible assumption | with_reducible apply modLnk_kept | with_reducible apply modTask_kept
    | with_reducible apply beginTraining_kept | with_reducible apply clearLink_kept
    | with_reducible apply resetTasks_kept | with_reducible apply stopCluster_kept
    | with_reducible apply stopRegion_kept | with_reducible apply stopDie_kept | with_reducible apply stopStack_kept
    | with_reducible apply warmState_kept | with_reducible apply tapGate_kept | with_reducible apply Kept.bind
    | with_reducible apply Kept.foldl | with_reducible apply Kept.foldl_fst | with_reducible apply Kept.pure
    | with_reducible apply Kept.throw | fail_if_no_progress with_reducible apply Kept.upd
    | with_reducible apply Kept.iteAct | split | refine Kept.of_fst (by with_reducible assumption) ?_
    | refine Kept.of_snd (by with_reducible assumption) ?_ | dsimp only

theorem logReset_kept {s : State} {d i : Nat} {cause : BitVec 8} {ended : Nat} (hs : Kept q t s) :
    Kept q t (logReset s d i cause ended) := by
  unfold logReset
  repeat' first
    | intro _ | with_reducible assumption | with_reducible apply logEvent_kept | with_reducible apply Kept.bind
    | with_reducible apply Kept.pure | with_reducible apply Kept.throw
    | fail_if_no_progress with_reducible apply Kept.upd | with_reducible apply Kept.iteAct | split
    | refine Kept.of_fst (by with_reducible assumption) ?_ | refine Kept.of_snd (by with_reducible assumption) ?_
    | dsimp only

theorem logMerged_kept {s : State} {d i : Nat} (hs : Kept q t s) :
    Kept q t (logMerged s d i) := by
  unfold logMerged
  repeat' first
    | intro _ | with_reducible assumption | with_reducible apply logReset_kept | with_reducible apply Kept.bind
    | with_reducible apply Kept.foldl | with_reducible apply Kept.foldl_fst | with_reducible apply Kept.pure
    | with_reducible apply Kept.throw | fail_if_no_progress with_reducible apply Kept.upd
    | with_reducible apply Kept.iteAct | split | refine Kept.of_fst (by with_reducible assumption) ?_
    | refine Kept.of_snd (by with_reducible assumption) ?_ | dsimp only

theorem beginReset_kept {s : State} {d i : Nat} {cause : BitVec 8} (hs : Kept q t s) :
    Kept q t (beginReset s d i cause) := by
  unfold beginReset
  repeat' first
    | intro _ | with_reducible assumption | with_reducible apply advanceAll_kept | with_reducible apply stopDomain_kept
    | with_reducible apply Kept.bind | with_reducible apply Kept.pure | with_reducible apply Kept.throw
    | fail_if_no_progress with_reducible apply Kept.upd | with_reducible apply Kept.iteAct | split
    | refine Kept.of_fst (by with_reducible assumption) ?_ | refine Kept.of_snd (by with_reducible assumption) ?_
    | dsimp only

theorem goFatal_kept {s : State} (hs : Kept q t s) :
    Kept q t (goFatal s) := by
  unfold goFatal
  repeat' first
    | intro _ | with_reducible assumption | with_reducible apply logReset_kept | with_reducible apply Kept.bind
    | with_reducible apply Kept.pure | with_reducible apply Kept.throw
    | fail_if_no_progress with_reducible apply Kept.upd | with_reducible apply Kept.iteAct | split
    | refine Kept.of_fst (by with_reducible assumption) ?_ | refine Kept.of_snd (by with_reducible assumption) ?_
    | dsimp only

theorem wipeDomain_kept {s : State} {d i : Nat} (hs : Kept q t s) :
    Kept q t (wipeDomain s d i) := by
  unfold wipeDomain
  repeat' first
    | intro _ | with_reducible assumption | with_reducible apply zeroSpad_kept | with_reducible apply Kept.bind
    | with_reducible apply Kept.foldl | with_reducible apply Kept.foldl_fst | with_reducible apply Kept.pure
    | with_reducible apply Kept.throw | fail_if_no_progress with_reducible apply Kept.upd
    | with_reducible apply Kept.iteAct | split | refine Kept.of_fst (by with_reducible assumption) ?_
    | refine Kept.of_snd (by with_reducible assumption) ?_ | dsimp only

theorem holdDown_kept {s : State} (hs : Kept q t s) :
    Kept q t (holdDown s) := by
  unfold holdDown
  repeat' first
    | intro _ | with_reducible assumption | with_reducible apply Kept.bind | with_reducible apply Kept.pure
    | with_reducible apply Kept.throw | fail_if_no_progress with_reducible apply Kept.upd
    | with_reducible apply Kept.iteAct | split | refine Kept.of_fst (by with_reducible assumption) ?_
    | refine Kept.of_snd (by with_reducible assumption) ?_ | dsimp only

theorem serveHub_kept {s : State} (hs : Kept q t s) :
    Kept q t (serveHub s) := by
  unfold serveHub
  repeat' first
    | intro _ | with_reducible assumption | with_reducible apply tapGate_kept | with_reducible apply holdDown_kept
    | with_reducible apply Kept.bind | with_reducible apply Kept.pure | with_reducible apply Kept.throw
    | fail_if_no_progress with_reducible apply Kept.upd | with_reducible apply Kept.iteAct | split
    | refine Kept.of_fst (by with_reducible assumption) ?_ | refine Kept.of_snd (by with_reducible assumption) ?_
    | dsimp only

theorem resumeActivation_kept {s : State} {d i : Nat} (hs : Kept q t s) :
    Kept q t (resumeActivation s d i) := by
  unfold resumeActivation
  repeat' first
    | intro _ | with_reducible assumption | with_reducible apply Kept.bind | with_reducible apply Kept.pure
    | with_reducible apply Kept.throw | fail_if_no_progress with_reducible apply Kept.upd
    | with_reducible apply Kept.iteAct | split | refine Kept.of_fst (by with_reducible assumption) ?_
    | refine Kept.of_snd (by with_reducible assumption) ?_ | dsimp only

end Sys2Proof.Laws
end

