-- ==== Sys2Proof/Laws/KeptBench.lean ====
section
/-! SUPPORT. Each operation of Machine/Bench.lean keeps the queue, device time and canonical memories. -/

namespace Sys2Proof.Laws
open Sys2Proof Sys2Proof.Machine

variable {q : List Instr} {t : BitVec 64}

theorem fetchProgram_kept {x : Task} {s0 : State} (hs0 : Kept q t s0) :
    Kept q t (runAct (fetchProgram x) s0).2 := by
  unfold fetchProgram
  repeat' first
    | intro _ | with_reducible assumption | with_reducible apply loadFor_kept | with_reducible apply need_kept
    | with_reducible apply Kept.bind | with_reducible apply Kept.pure | with_reducible apply Kept.throw
    | fail_if_no_progress with_reducible apply Kept.upd | with_reducible apply Kept.iteAct | split
    | refine Kept.of_fst (by with_reducible assumption) ?_ | refine Kept.of_snd (by with_reducible assumption) ?_
    | dsimp only

theorem activate_kept {i k t' : Nat} {x : Task} {s0 : State} (hs0 : Kept q t s0) :
    Kept q t (runAct (activate i k t' x) s0).2 := by
  unfold activate
  repeat' first
    | intro _ | with_reducible assumption | with_reducible apply modStk_kept | with_reducible apply startTask_kept
    | with_reducible apply endWork_kept | with_reducible apply fetchProgram_kept | with_reducible apply Kept.edit
    | with_reducible apply needReady_kept | with_reducible apply attempt_kept | with_reducible apply Kept.get_bind
    | with_reducible apply Kept.bind | with_reducible apply Kept.pure | with_reducible apply Kept.throw
    | fail_if_no_progress with_reducible apply Kept.upd | with_reducible apply Kept.iteAct | split
    | refine Kept.of_fst (by with_reducible assumption) ?_ | refine Kept.of_snd (by with_reducible assumption) ?_
    | dsimp only

theorem startOperation_kept {i k : Nat} {b : BenchTask} {x : Task} {s0 : State} (hs0 : Kept q t s0) :
    Kept q t (runAct (startOperation i k b x) s0).2 := by
  unfold startOperation
  repeat' first
    | intro _ | with_reducible assumption | with_reducible apply modStk_kept | with_reducible apply runOperation_kept
    | with_reducible apply Kept.edit | with_reducible apply attempt_kept | with_reducible apply Kept.get_bind
    | with_reducible apply Kept.bind | with_reducible apply Kept.pure | with_reducible apply Kept.throw
    | fail_if_no_progress with_reducible apply Kept.upd | with_reducible apply Kept.iteAct | split
    | refine Kept.of_fst (by with_reducible assumption) ?_ | refine Kept.of_snd (by with_reducible assumption) ?_
    | dsimp only

theorem issueOwed_kept {s : State} {i : Nat} (hs : Kept q t s) :
    Kept q t (issueOwed s i) := by
  unfold issueOwed
  repeat' first
    | intro _ | with_reducible assumption | with_reducible apply modStk_kept | with_reducible apply Kept.bind
    | with_reducible apply Kept.pure | with_reducible apply Kept.throw
    | fail_if_no_progress with_reducible apply Kept.upd | with_reducible apply Kept.iteAct | split
    | refine Kept.of_fst (by with_reducible assumption) ?_ | refine Kept.of_snd (by with_reducible assumption) ?_
    | dsimp only

theorem pokeRegs_kept {s : State} {i k a : Nat} {bs : List Byte} (hs : Kept q t s) :
    Kept q t (pokeRegs s i k a bs) := by
  unfold pokeRegs
  repeat' first
    | intro _ | with_reducible assumption | with_reducible apply modStk_kept | with_reducible apply Kept.bind
    | with_reducible apply Kept.pure | with_reducible apply Kept.throw
    | fail_if_no_progress with_reducible apply Kept.upd | with_reducible apply Kept.iteAct | split
    | refine Kept.of_fst (by with_reducible assumption) ?_ | refine Kept.of_snd (by with_reducible assumption) ?_
    | dsimp only

theorem makeBenchStore_kept {i k : Nat} {y0 : Store} {s0 : State} (hs0 : Kept q t s0) :
    Kept q t (runAct (makeBenchStore i k y0) s0).2 := by
  unfold makeBenchStore
  repeat' first
    | intro _ | with_reducible assumption | with_reducible apply checkStore_kept | with_reducible apply storeHome_kept
    | with_reducible apply storeBuf_kept | with_reducible apply pokeRegs_kept | with_reducible apply Kept.edit
    | with_reducible apply eachAct_kept | with_reducible apply need_kept | with_reducible apply Kept.get_bind
    | with_reducible apply Kept.bind | with_reducible apply Kept.pure | with_reducible apply Kept.throw
    | fail_if_no_progress with_reducible apply Kept.upd | with_reducible apply Kept.iteAct | split
    | refine Kept.of_fst (by with_reducible assumption) ?_ | refine Kept.of_snd (by with_reducible assumption) ?_
    | dsimp only

theorem afterOperation_kept {s : State} {i k : Nat} (hs : Kept q t s) :
    Kept q t (afterOperation s i k) := by
  unfold afterOperation
  repeat' first
    | intro _ | with_reducible assumption | with_reducible apply modStk_kept | with_reducible apply endWork_kept
    | with_reducible apply endReset_kept | with_reducible apply Kept.bind | with_reducible apply Kept.pure
    | with_reducible apply Kept.throw | fail_if_no_progress with_reducible apply Kept.upd
    | with_reducible apply Kept.iteAct | split | refine Kept.of_fst (by with_reducible assumption) ?_
    | refine Kept.of_snd (by with_reducible assumption) ?_ | dsimp only

theorem writeOut_kept {i k : Nat} {l : List Store} {s0 : State} (hs0 : Kept q t s0) :
    Kept q t (runAct (writeOut i k l) s0).2 := by
  unfold writeOut
  repeat' first
    | intro _ | with_reducible assumption | with_reducible apply modStk_kept | with_reducible apply makeBenchStore_kept
    | with_reducible apply afterOperation_kept | with_reducible apply Kept.edit | with_reducible apply eachAct_kept
    | with_reducible apply attempt_kept | with_reducible apply Kept.bind | with_reducible apply Kept.pure
    | with_reducible apply Kept.throw | fail_if_no_progress with_reducible apply Kept.upd
    | with_reducible apply Kept.iteAct | split | refine Kept.of_fst (by with_reducible assumption) ?_
    | refine Kept.of_snd (by with_reducible assumption) ?_ | dsimp only

theorem flushStaged_kept {s : State} {i : Nat} (hs : Kept q t s) :
    Kept q t (flushStaged s i) := by
  unfold flushStaged
  repeat' first
    | intro _ | with_reducible assumption | with_reducible apply writeOut_kept | with_reducible apply settle_kept
    | with_reducible apply Kept.bind | with_reducible apply Kept.foldl | with_reducible apply Kept.foldl_fst
    | with_reducible apply Kept.pure | with_reducible apply Kept.throw
    | fail_if_no_progress with_reducible apply Kept.upd | with_reducible apply Kept.iteAct | split
    | refine Kept.of_fst (by with_reducible assumption) ?_ | refine Kept.of_snd (by with_reducible assumption) ?_
    | dsimp only

theorem endOperation_kept {i : Nat} {r : BenchRun} {s0 : State} (hs0 : Kept q t s0) :
    Kept q t (runAct (endOperation i r) s0).2 := by
  unfold endOperation
  repeat' first
    | intro _ | with_reducible assumption | with_reducible apply modStk_kept | with_reducible apply issueOwed_kept
    | with_reducible apply writeOut_kept | with_reducible apply Kept.edit | with_reducible apply Kept.get_bind
    | with_reducible apply Kept.bind | with_reducible apply Kept.pure | with_reducible apply Kept.throw
    | fail_if_no_progress with_reducible apply Kept.upd | with_reducible apply Kept.iteAct | split
    | refine Kept.of_fst (by with_reducible assumption) ?_ | refine Kept.of_snd (by with_reducible assumption) ?_
    | dsimp only

theorem limitBench_kept {s : State} {t' : Nat} (hs : Kept q t s) :
    Kept q t (limitBench s t') := by
  unfold limitBench
  repeat' first
    | intro _ | with_reducible assumption | with_reducible apply modTask_kept | with_reducible apply afterOperation_kept
    | with_reducible apply Kept.bind | with_reducible apply Kept.foldl | with_reducible apply Kept.foldl_fst
    | with_reducible apply Kept.pure | with_reducible apply Kept.throw
    | fail_if_no_progress with_reducible apply Kept.upd | with_reducible apply Kept.iteAct | split
    | refine Kept.of_fst (by with_reducible assumption) ?_ | refine Kept.of_snd (by with_reducible assumption) ?_
    | dsimp only

end Sys2Proof.Laws
end

