-- ==== Sys2Proof/Laws/KeptKvManager.lean ====
section
/-! SUPPORT. Each operation of Machine/KvManager.lean keeps the queue, device time and canonical memories. -/

namespace Sys2Proof.Laws
open Sys2Proof Sys2Proof.Machine

variable {q : List Instr} {t : BitVec 64}

theorem modSeq_kept {s : State} {q' n : Nat} {f : KvSeq → KvSeq} (hs : Kept q t s) :
    Kept q t (modSeq s q' n f) := by
  unfold modSeq
  repeat' first
    | with_reducible assumption | with_reducible apply modPrt_kept

theorem hubStore_kept {a : Nat} {bs : List Byte} {s0 : State} (hs0 : Kept q t s0) :
    Kept q t (runAct (hubStore a bs) s0).2 := by
  unfold hubStore
  repeat' first
    | intro _ | with_reducible assumption | with_reducible apply storeFrom_kept | with_reducible apply attempt_kept
    | with_reducible apply Kept.bind | with_reducible apply Kept.pure

theorem reportSeq_kept {q' n : Nat} {s0 : State} (hs0 : Kept q t s0) :
    Kept q t (runAct (reportSeq q' n) s0).2 := by
  unfold reportSeq
  repeat' first
    | intro _ | with_reducible assumption | with_reducible apply modSeq_kept | with_reducible apply hubStore_kept
    | with_reducible apply Kept.edit | with_reducible apply eachAct_kept | with_reducible apply Kept.get_bind
    | with_reducible apply Kept.bind

theorem makeReports_kept {s : State} (hs : Kept q t s) :
    Kept q t (makeReports s) := by
  unfold makeReports
  repeat' first
    | intro _ | with_reducible assumption | with_reducible apply reportSeq_kept | with_reducible apply Kept.foldl | split
    | refine Kept.of_snd (by with_reducible assumption) ?_

theorem writeLength_kept {q' n len : Nat} {s0 : State} (hs0 : Kept q t s0) :
    Kept q t (runAct (writeLength q' n len) s0).2 := by
  unfold writeLength
  repeat' first
    | with_reducible assumption | with_reducible apply hubStore_kept | with_reducible apply Kept.get_bind

theorem readDesc_kept {q' n : Nat} {s0 : State} (hs0 : Kept q t s0) :
    Kept q t (runAct (readDesc q' n) s0).2 := by
  unfold readDesc
  repeat' first
    | with_reducible assumption | with_reducible apply loadFrom_kept | with_reducible apply Kept.get_bind

theorem takeRegion_kept {s : State} {q' n i : Nat} {k : KvSeq} {next : KvState} (hs : Kept q t s) :
    Kept q t (takeRegion s q' n i k next).2 := by
  unfold takeRegion
  repeat' first
    | with_reducible assumption | with_reducible apply modSeq_kept | split

theorem kvGive_kept {q' n i : Nat} {k : KvSeq} {s0 : State} (hs0 : Kept q t s0) :
    Kept q t (runAct (kvGive q' n i k) s0).2 := by
  unfold kvGive
  repeat' first
    | intro _ | with_reducible assumption | with_reducible apply reportSeq_kept | with_reducible apply writeLength_kept
    | with_reducible apply takeRegion_kept | with_reducible apply Kept.get_bind | with_reducible apply Kept.bind
    | with_reducible apply Kept.pure | with_reducible apply Kept.set | with_reducible apply Kept.iteAct

theorem kvAlloc_kept {q' n i : Nat} {s0 : State} (hs0 : Kept q t s0) :
    Kept q t (runAct (kvAlloc q' n i) s0).2 := by
  unfold kvAlloc
  repeat' first
    | intro _ | with_reducible assumption | with_reducible apply readDesc_kept | with_reducible apply kvGive_kept
    | with_reducible apply attempt_kept | with_reducible apply Kept.get_bind | with_reducible apply Kept.bind
    | with_reducible apply Kept.pure | with_reducible apply Kept.iteAct | split

theorem clearRegion_kept {q' n : Nat} {s0 : State} (hs0 : Kept q t s0) :
    Kept q t (runAct (clearRegion q' n) s0).2 := by
  unfold clearRegion
  repeat' first
    | intro _ | with_reducible assumption | with_reducible apply writeWhole_kept | with_reducible apply Kept.edit
    | with_reducible apply needReady_kept | with_reducible apply Kept.get_bind | with_reducible apply Kept.bind
    | with_reducible apply Kept.foldl

theorem unpause_kept {s : State} {q' n : Nat} (hs : Kept q t s) :
    Kept q t (unpause s q' n) := by
  unfold unpause
  repeat' first
    | with_reducible assumption | with_reducible apply modPrt_kept

theorem kvFree_kept {q' n : Nat} {s0 : State} (hs0 : Kept q t s0) :
    Kept q t (runAct (kvFree q' n) s0).2 := by
  unfold kvFree
  repeat' first
    | intro _ | with_reducible assumption | with_reducible apply modSeq_kept | with_reducible apply reportSeq_kept
    | with_reducible apply clearRegion_kept | with_reducible apply unpause_kept | with_reducible apply Kept.edit
    | with_reducible apply Kept.get_bind | with_reducible apply Kept.bind | with_reducible apply Kept.pure
    | with_reducible apply Kept.iteAct

theorem submitSwap_kept {s : State} {q' n len : Nat} {who : Option (Nat × Nat)} (hs : Kept q t s) :
    Kept q t (submitSwap s q' n len who) := by
  unfold submitSwap
  repeat' first
    | intro _ | with_reducible assumption | with_reducible apply submitChain_kept | with_reducible apply modSeq_kept
    | with_reducible apply Kept.foldl

theorem kvSwapOut_kept {q' n : Nat} {who : Option (Nat × Nat)} {s0 : State} (hs0 : Kept q t s0) :
    Kept q t (runAct (kvSwapOut q' n who) s0).2 := by
  unfold kvSwapOut
  repeat' first
    | intro _ | with_reducible assumption | with_reducible apply modSeq_kept | with_reducible apply reportSeq_kept
    | with_reducible apply readDesc_kept | with_reducible apply submitSwap_kept | with_reducible apply Kept.edit
    | with_reducible apply attempt_kept | with_reducible apply Kept.get_bind | with_reducible apply Kept.bind
    | with_reducible apply Kept.pure | with_reducible apply Kept.iteAct | split

theorem kvSwapIn_kept {q' n i : Nat} {who : Option (Nat × Nat)} {s0 : State} (hs0 : Kept q t s0) :
    Kept q t (runAct (kvSwapIn q' n i who) s0).2 := by
  unfold kvSwapIn
  repeat' first
    | intro _ | with_reducible assumption | with_reducible apply reportSeq_kept | with_reducible apply readDesc_kept
    | with_reducible apply takeRegion_kept | with_reducible apply submitSwap_kept | with_reducible apply attempt_kept
    | with_reducible apply Kept.get_bind | with_reducible apply Kept.bind | with_reducible apply Kept.pure
    | with_reducible apply Kept.set | with_reducible apply Kept.iteAct | split

theorem loseSwaps_kept {s : State} {p : PortId} (hs : Kept q t s) :
    Kept q t (loseSwaps s p) := by
  unfold loseSwaps
  repeat' first
    | with_reducible assumption | fail_if_no_progress with_reducible apply Kept.upd

end Sys2Proof.Laws
end

