-- ==== Sys2Proof/Laws/KeptLayout.lean ====
section
/-! SUPPORT. Each operation of Machine/Layout.lean keeps the queue, device time and canonical memories. -/

namespace Sys2Proof.Laws
open Sys2Proof Sys2Proof.Machine

variable {q : List Instr} {t : BitVec 64}

theorem loadKey_kept {r hint k n : Nat} {s0 : State} (hs0 : Kept q t s0) :
    Kept q t (runAct (loadKey r hint k n) s0).2 := by
  unfold loadKey
  repeat' first
    | intro _ | with_reducible assumption | with_reducible apply viaLoad_kept | with_reducible apply loadBuf_kept
    | with_reducible apply needReady_kept | with_reducible apply Kept.get_bind | with_reducible apply Kept.bind
    | with_reducible apply Kept.iteAct

theorem loadElem_kept {r hint : Nat} {t' : Tens} {v : View} {ix : List Nat} {s0 : State} (hs0 : Kept q t s0) :
    Kept q t (runAct (loadElem r hint t' v ix) s0).2 := by
  unfold loadElem
  repeat' first
    | intro _ | with_reducible assumption | with_reducible apply loadKey_kept | with_reducible apply Kept.get_bind
    | with_reducible apply Kept.bind | with_reducible apply Kept.pure | split

theorem loadRow_kept {r hint : Nat} {t' : Tens} {v : View} {dim n : Nat} {ix : List Nat} {s0 : State} (hs0 : Kept q t s0) :
    Kept q t (runAct (loadRow r hint t' v dim n ix) s0).2 := by
  unfold loadRow
  repeat' first
    | intro _ | with_reducible assumption | with_reducible apply loadKey_kept | with_reducible apply loadElem_kept
    | with_reducible apply mapAct_kept | with_reducible apply Kept.get_bind | with_reducible apply Kept.bind
    | with_reducible apply Kept.pure | with_reducible apply Kept.iteAct

theorem loadIndices_kept {r : Nat} {t' : Tens} {s0 : State} (hs0 : Kept q t s0) :
    Kept q t (runAct (loadIndices r t') s0).2 := by
  unfold loadIndices
  repeat' first
    | intro _ | with_reducible assumption | with_reducible apply loadElem_kept | with_reducible apply mapAct_kept
    | with_reducible apply Kept.bind | with_reducible apply Kept.pure

theorem mxRow_kept {r : Nat} {c : Call} {ix : List Nat} {s0 : State} (hs0 : Kept q t s0) :
    Kept q t (runAct (mxRow r c ix) s0).2 := by
  unfold mxRow
  repeat' first
    | intro _ | with_reducible assumption | with_reducible apply loadKey_kept | with_reducible apply loadRow_kept
    | with_reducible apply Kept.get_bind | with_reducible apply Kept.bind | with_reducible apply Kept.pure

theorem stretchValues_kept {r : Nat} {c : Call} {x : Stretch} {s0 : State} (hs0 : Kept q t s0) :
    Kept q t (runAct (stretchValues r c x) s0).2 := by
  unfold stretchValues
  repeat' first
    | with_reducible assumption | with_reducible apply loadRow_kept | with_reducible apply Kept.pure
    | with_reducible apply Kept.iteAct

theorem giveStretch_kept {r : Nat} {c : Call} {x : Stretch} {s0 : State} (hs0 : Kept q t s0) :
    Kept q t (runAct (giveStretch r c x) s0).2 := by
  unfold giveStretch
  repeat' first
    | intro _ | with_reducible assumption | with_reducible apply loadKey_kept | with_reducible apply mxRow_kept
    | with_reducible apply stretchValues_kept | with_reducible apply Kept.get_bind | with_reducible apply Kept.bind
    | with_reducible apply Kept.pure | with_reducible apply Kept.iteAct | split

theorem addAll_kept {r : Nat} {hint : Nat} {t' : Scalar} {intSrc : Bool} :
    ∀ {y0 : List (Nat × Machine.Num)} {y1 : Tab (Option Nat)} {s0 : State}, Kept q t s0 → Kept q t (runAct (addAll r hint t' intSrc y0 y1) s0).2 := by
  intro y0
  induction y0 with
  | nil => intros; unfold addAll; assumption
  | cons x xs ih =>
    intros
    unfold addAll
    repeat' first
    | intro _ | apply ih | with_reducible assumption | with_reducible apply loadKey_kept | with_reducible apply Kept.bind
    | split

theorem callWrites_kept {r : Nat} {c : Call} {gs : List Given} {s0 : State} (hs0 : Kept q t s0) :
    Kept q t (runAct (callWrites r c gs) s0).2 := by
  unfold callWrites
  repeat' first
    | intro _ | with_reducible assumption | with_reducible apply takeFree_kept | with_reducible apply addAll_kept
    | with_reducible apply Kept.bind | with_reducible apply Kept.pure | with_reducible apply Kept.iteAct | split

theorem passWrites_kept {r : Nat} {c : Call} {l : List (Nat × Given)} {s0 : State} (hs0 : Kept q t s0) :
    Kept q t (runAct (passWrites r c l) s0).2 := by
  unfold passWrites
  repeat' first
    | intro _ | with_reducible assumption | with_reducible apply takeFree_kept | with_reducible apply callWrites_kept
    | with_reducible apply mapAct_kept | with_reducible apply Kept.bind | with_reducible apply Kept.pure
    | with_reducible apply Kept.iteAct

theorem runStretches_kept {r : Nat} {c : Call} {xs : List Stretch} {clamps : Nat} {s0 : State} (hs0 : Kept q t s0) :
    Kept q t (runAct (runStretches r c xs clamps) s0).2 := by
  unfold runStretches
  repeat' first
    | intro _ | with_reducible assumption | with_reducible apply takeFree_kept | with_reducible apply giveStretch_kept
    | with_reducible apply callWrites_kept | with_reducible apply passWrites_kept | with_reducible apply mapAct_kept
    | with_reducible apply attempt_kept | with_reducible apply Kept.bind | with_reducible apply Kept.pure
    | with_reducible apply Kept.iteAct

theorem runCall_kept {r : Nat} {c : Call} {s0 : State} (hs0 : Kept q t s0) :
    Kept q t (runAct (runCall r c) s0).2 := by
  unfold runCall
  repeat' first
    | intro _ | with_reducible assumption | with_reducible apply loadIndices_kept | with_reducible apply runStretches_kept
    | with_reducible apply attempt_kept | with_reducible apply Kept.bind | with_reducible apply Kept.pure
    | with_reducible apply Kept.iteAct | split

theorem runSwap_kept {r : Nat} {k : KvSeq} {s0 : State} (hs0 : Kept q t s0) :
    Kept q t (runAct (runSwap r k) s0).2 := by
  unfold runSwap
  repeat' first
    | intro _ | with_reducible assumption | with_reducible apply viaLoad_kept | with_reducible apply mapAct_kept
    | with_reducible apply attempt_kept | with_reducible apply Kept.get_bind | with_reducible apply Kept.bind
    | with_reducible apply Kept.pure | with_reducible apply Kept.iteAct

theorem setHead_kept {s : State} {r : Nat} {c : Chain} (hs : Kept q t s) :
    Kept q t (setHead s r c) := by
  unfold setHead
  repeat' first
    | with_reducible assumption | with_reducible apply modReg_kept

theorem beginCall_kept {r : Nat} {c : Chain} {s0 : State} (hs0 : Kept q t s0) :
    Kept q t (runAct (beginCall r c) s0).2 := by
  unfold beginCall
  repeat' first
    | intro _ | with_reducible assumption | with_reducible apply testWindows_kept | with_reducible apply viaLoad_kept
    | with_reducible apply runCall_kept | with_reducible apply attempt_kept | with_reducible apply Kept.get_bind
    | with_reducible apply Kept.bind | with_reducible apply Kept.pure | with_reducible apply Kept.iteAct | split

theorem noteDest_kept {s : State} {c : Chain} {call : Call} (hs : Kept q t s) :
    Kept q t (noteDest s c call) := by
  unfold noteDest
  repeat' first
    | with_reducible assumption | with_reducible apply setTicket_kept | split

theorem startCall_kept {r : Nat} {c : Chain} {s0 : State} (hs0 : Kept q t s0) :
    Kept q t (runAct (startCall r c) s0).2 := by
  unfold startCall
  repeat' first
    | intro _ | with_reducible assumption | with_reducible apply modReg_kept | with_reducible apply runSwap_kept
    | with_reducible apply setHead_kept | with_reducible apply beginCall_kept | with_reducible apply noteDest_kept
    | with_reducible apply Kept.edit | with_reducible apply needReady_kept | with_reducible apply Kept.get_bind
    | with_reducible apply Kept.bind | split

theorem chainAcquire_kept {r : Nat} {c : Chain} {s0 : State} (hs0 : Kept q t s0) :
    Kept q t (runAct (chainAcquire r c) s0).2 := by
  unfold chainAcquire
  repeat' first
    | with_reducible assumption | with_reducible apply rcAcquire_kept | with_reducible apply Kept.get_bind
    | with_reducible apply Kept.pure | split

theorem startOwner_kept {s : State} {r : Nat} {c : Chain} (hs : Kept q t s) :
    Kept q t (startOwner s r c) := by
  unfold startOwner
  repeat' first
    | with_reducible assumption | with_reducible apply startOnce_kept | with_reducible apply setHead_kept | split

theorem endTicket_kept {s : State} {c : Chain} {cl j t' : Nat} (hs : Kept q t s) :
    Kept q t (endTicket s c cl j t') := by
  unfold endTicket
  repeat' first
    | with_reducible assumption | with_reducible apply askHome_kept | with_reducible apply setTicket_kept | split
    | refine Kept.of_snd (by with_reducible assumption) ?_

theorem flushSwap_kept {s : State} {q' n : Nat} (hs : Kept q t s) :
    Kept q t (flushSwap s q' n) := by
  unfold flushSwap
  repeat' first
    | with_reducible assumption | with_reducible apply modPrt_kept | with_reducible apply sendFlushes_kept | split
    | dsimp only

theorem endChain_kept {s : State} {r : Nat} {c : Chain} (hs : Kept q t s) :
    Kept q t (endChain s r c) := by
  unfold endChain
  repeat' first
    | with_reducible assumption | with_reducible apply modReg_kept | with_reducible apply modPrt_kept
    | with_reducible apply endWork_kept | with_reducible apply admitChains_kept | with_reducible apply endTicket_kept
    | with_reducible apply flushSwap_kept | split

theorem makeStore_kept {r hint : Nat} {who : Option Nat} {y0 : Store} {s0 : State} (hs0 : Kept q t s0) :
    Kept q t (runAct (makeStore r hint who y0) s0).2 := by
  unfold makeStore
  repeat' first
    | intro _ | with_reducible assumption | with_reducible apply viaStore_kept | with_reducible apply storeBuf_kept
    | with_reducible apply needReady_kept | with_reducible apply Kept.get_bind | with_reducible apply Kept.bind
    | with_reducible apply Kept.pure | split

theorem makeStores_kept {r hint : Nat} {who : Option Nat} {l : List Store} {s0 : State} (hs0 : Kept q t s0) :
    Kept q t (runAct (makeStores r hint who l) s0).2 := by
  unfold makeStores
  repeat' first
    | intro _ | with_reducible assumption | with_reducible apply makeStore_kept | with_reducible apply eachAct_kept
    | with_reducible apply attempt_kept | with_reducible apply Kept.bind | with_reducible apply Kept.pure

theorem finishStores_kept {r : Nat} {c : Chain} {s0 : State} (hs0 : Kept q t s0) :
    Kept q t (runAct (finishStores r c) s0).2 := by
  unfold finishStores
  repeat' first
    | intro _ | with_reducible assumption | with_reducible apply modReg_kept | with_reducible apply takeFree_kept
    | with_reducible apply makeStores_kept | with_reducible apply Kept.edit | with_reducible apply Kept.get_bind
    | with_reducible apply Kept.bind | with_reducible apply Kept.pure | with_reducible apply Kept.throw
    | with_reducible apply Kept.set | split | refine Kept.of_snd (by with_reducible assumption) ?_

theorem releaseChain_kept {r : Nat} {c : Chain} {s0 : State} (hs0 : Kept q t s0) :
    Kept q t (runAct (releaseChain r c) s0).2 := by
  unfold releaseChain
  repeat' first
    | intro _ | with_reducible assumption | with_reducible apply watched_kept | with_reducible apply rcRelease_kept
    | with_reducible apply Kept.bind | with_reducible apply Kept.pure | split

theorem finishCall_kept {r : Nat} {c : Chain} {s0 : State} (hs0 : Kept q t s0) :
    Kept q t (runAct (finishCall r c) s0).2 := by
  unfold finishCall
  repeat' first
    | intro _ | with_reducible assumption | with_reducible apply modReg_kept | with_reducible apply watched_kept
    | with_reducible apply startCall_kept | with_reducible apply endChain_kept | with_reducible apply finishStores_kept
    | with_reducible apply releaseChain_kept | with_reducible apply Kept.edit | with_reducible apply Kept.bind
    | with_reducible apply Kept.iteAct

theorem limitChain_kept {s : State} {r : Nat} {c : Chain} (hs : Kept q t s) :
    Kept q t (limitChain s r c) := by
  unfold limitChain
  repeat' first
    | intro _ | with_reducible assumption | with_reducible apply modReg_kept | with_reducible apply watchTask_kept
    | with_reducible apply leaveEngine_kept | with_reducible apply watchEnd_kept | with_reducible apply endWork_kept | with_reducible apply admitChains_kept
    | with_reducible apply endTicket_kept | with_reducible apply makeStore_kept | with_reducible apply Kept.foldl
    | fail_if_no_progress with_reducible apply Kept.upd | split | refine Kept.of_snd (by with_reducible assumption) ?_
    | dsimp only

theorem limitChains_kept {s : State} {t' : Nat} (hs : Kept q t s) :
    Kept q t (limitChains s t') := by
  unfold limitChains
  repeat' first
    | intro _ | with_reducible assumption | with_reducible apply limitChain_kept | with_reducible apply Kept.foldl

end Sys2Proof.Laws
end

