-- ==== Sys2Proof/Laws/KeptPress.lean ====
section
/-! SUPPORT. Each operation of Machine/Press.lean keeps the queue, device time and canonical memories. -/

namespace Sys2Proof.Laws
open Sys2Proof Sys2Proof.Machine

variable {q : List Instr} {t : BitVec 64}

theorem modDrawer_kept {s : State} {cl k : Nat} {f : Drawer → Drawer} (hs : Kept q t s) :
    Kept q t (modDrawer s cl k f) := by
  unfold modDrawer
  repeat' first
    | intro _ | with_reducible assumption | with_reducible apply modClu_kept | with_reducible apply Kept.bind
    | with_reducible apply Kept.pure | with_reducible apply Kept.throw
    | fail_if_no_progress with_reducible apply Kept.upd | with_reducible apply Kept.iteAct | split
    | refine Kept.of_fst (by with_reducible assumption) ?_ | refine Kept.of_snd (by with_reducible assumption) ?_
    | dsimp only

theorem issueOp_kept {s : State} {cl j : Nat} {press : Option Nat} {r : List Byte} (hs : Kept q t s) :
    Kept q t (issueOp s cl j press r) := by
  unfold issueOp
  repeat' first
    | intro _ | with_reducible assumption | with_reducible apply modClu_kept | with_reducible apply Kept.bind
    | with_reducible apply Kept.pure | with_reducible apply Kept.throw
    | fail_if_no_progress with_reducible apply Kept.upd | with_reducible apply Kept.iteAct | split
    | refine Kept.of_fst (by with_reducible assumption) ?_ | refine Kept.of_snd (by with_reducible assumption) ?_
    | dsimp only

theorem padRows_kept {cl off rows stride n : Nat} {s0 : State} (hs0 : Kept q t s0) :
    Kept q t (runAct (padRows cl off rows stride n) s0).2 := by
  unfold padRows
  repeat' first
    | intro _ | with_reducible assumption | with_reducible apply loadSpad_kept | with_reducible apply mapAct_kept
    | with_reducible apply Kept.bind | with_reducible apply Kept.pure | with_reducible apply Kept.throw
    | fail_if_no_progress with_reducible apply Kept.upd | with_reducible apply Kept.iteAct | split
    | refine Kept.of_fst (by with_reducible assumption) ?_ | refine Kept.of_snd (by with_reducible assumption) ?_
    | dsimp only

theorem streamPiece_kept {g hint : Nat} {p : Nat × Nat} {s0 : State} (hs0 : Kept q t s0) :
    Kept q t (runAct (streamPiece g hint p) s0).2 := by
  unfold streamPiece
  repeat' first
    | intro _ | with_reducible assumption | with_reducible apply rcRead_kept | with_reducible apply Kept.get_bind
    | with_reducible apply Kept.bind | with_reducible apply Kept.pure | with_reducible apply Kept.throw
    | fail_if_no_progress with_reducible apply Kept.upd | with_reducible apply Kept.iteAct | split
    | refine Kept.of_fst (by with_reducible assumption) ?_ | refine Kept.of_snd (by with_reducible assumption) ?_
    | dsimp only

theorem streamRow_kept {g hint a n : Nat} {s0 : State} (hs0 : Kept q t s0) :
    Kept q t (runAct (streamRow g hint a n) s0).2 := by
  unfold streamRow
  repeat' first
    | intro _ | with_reducible assumption | with_reducible apply streamPiece_kept | with_reducible apply mapAct_kept
    | with_reducible apply Kept.bind | with_reducible apply Kept.pure | with_reducible apply Kept.throw
    | fail_if_no_progress with_reducible apply Kept.upd | with_reducible apply Kept.iteAct | split
    | refine Kept.of_fst (by with_reducible assumption) ?_ | refine Kept.of_snd (by with_reducible assumption) ?_
    | dsimp only

theorem bRows_kept {cl : Nat} {r : List Byte} {s0 : State} (hs0 : Kept q t s0) :
    Kept q t (runAct (bRows cl r) s0).2 := by
  unfold bRows
  repeat' first
    | intro _ | with_reducible assumption | with_reducible apply padRows_kept | with_reducible apply streamRow_kept
    | with_reducible apply mapAct_kept | with_reducible apply Kept.bind | with_reducible apply Kept.pure
    | with_reducible apply Kept.throw | fail_if_no_progress with_reducible apply Kept.upd
    | with_reducible apply Kept.iteAct | split | refine Kept.of_fst (by with_reducible assumption) ?_
    | refine Kept.of_snd (by with_reducible assumption) ?_ | dsimp only

theorem mmaRun_kept {cl : Nat} {r : List Byte} {s0 : State} (hs0 : Kept q t s0) :
    Kept q t (runAct (mmaRun cl r) s0).2 := by
  unfold mmaRun
  repeat' first
    | intro _ | with_reducible assumption | with_reducible apply padRows_kept | with_reducible apply bRows_kept
    | with_reducible apply Kept.bind | with_reducible apply Kept.pure | with_reducible apply Kept.throw
    | fail_if_no_progress with_reducible apply Kept.upd | with_reducible apply Kept.iteAct | split
    | refine Kept.of_fst (by with_reducible assumption) ?_ | refine Kept.of_snd (by with_reducible assumption) ?_
    | dsimp only

theorem readoutRun_kept {cl : Nat} {r : List Byte} {s0 : State} (hs0 : Kept q t s0) :
    Kept q t (runAct (readoutRun cl r) s0).2 := by
  unfold readoutRun
  repeat' first
    | intro _ | with_reducible assumption | with_reducible apply loadSpad_kept | with_reducible apply padRows_kept
    | with_reducible apply Kept.bind | with_reducible apply Kept.pure | with_reducible apply Kept.throw
    | fail_if_no_progress with_reducible apply Kept.upd | with_reducible apply Kept.iteAct | split
    | refine Kept.of_fst (by with_reducible assumption) ?_ | refine Kept.of_snd (by with_reducible assumption) ?_
    | dsimp only

theorem attnRun_kept {cl : Nat} {r : List Byte} {s0 : State} (hs0 : Kept q t s0) :
    Kept q t (runAct (attnRun cl r) s0).2 := by
  unfold attnRun
  repeat' first
    | intro _ | with_reducible assumption | with_reducible apply loadSpad_kept | with_reducible apply padRows_kept
    | with_reducible apply Kept.bind | with_reducible apply Kept.pure | with_reducible apply Kept.throw
    | fail_if_no_progress with_reducible apply Kept.upd | with_reducible apply Kept.iteAct | split
    | refine Kept.of_fst (by with_reducible assumption) ?_ | refine Kept.of_snd (by with_reducible assumption) ?_
    | dsimp only

theorem runRecord_kept {cl : Nat} {r : List Byte} {s0 : State} (hs0 : Kept q t s0) :
    Kept q t (runAct (runRecord cl r) s0).2 := by
  unfold runRecord
  repeat' first
    | intro _ | with_reducible assumption | with_reducible apply mmaRun_kept | with_reducible apply readoutRun_kept
    | with_reducible apply attnRun_kept | with_reducible apply Kept.bind | with_reducible apply Kept.pure
    | with_reducible apply Kept.throw | fail_if_no_progress with_reducible apply Kept.upd
    | with_reducible apply Kept.iteAct | split | refine Kept.of_fst (by with_reducible assumption) ?_
    | refine Kept.of_snd (by with_reducible assumption) ?_ | dsimp only

theorem setOp_kept {s : State} {cl k : Nat} {o : PressOp} (hs : Kept q t s) :
    Kept q t (setOp s cl k o) := by
  unfold setOp
  repeat' first
    | intro _ | with_reducible assumption | with_reducible apply modClu_kept | with_reducible apply Kept.bind
    | with_reducible apply Kept.pure | with_reducible apply Kept.throw
    | fail_if_no_progress with_reducible apply Kept.upd | with_reducible apply Kept.iteAct | split
    | refine Kept.of_fst (by with_reducible assumption) ?_ | refine Kept.of_snd (by with_reducible assumption) ?_
    | dsimp only

theorem startOp_kept {s : State} {cl k : Nat} {o : PressOp} (hs : Kept q t s) :
    Kept q t (startOp s cl k o) := by
  unfold startOp
  repeat' first
    | intro _ | with_reducible assumption | with_reducible apply modClu_kept | with_reducible apply startShim_kept
    | with_reducible apply endJigTask_kept | with_reducible apply runRecord_kept | with_reducible apply setOp_kept
    | with_reducible apply settle_kept | with_reducible apply Kept.bind | with_reducible apply Kept.pure
    | with_reducible apply Kept.throw | fail_if_no_progress with_reducible apply Kept.upd
    | with_reducible apply Kept.iteAct | split | refine Kept.of_fst (by with_reducible assumption) ?_
    | refine Kept.of_snd (by with_reducible assumption) ?_ | dsimp only

theorem padStores_kept {s : State} {cl : Nat} {l : List (Nat × List Byte)} (hs : Kept q t s) :
    Kept q t (padStores s cl l) := by
  unfold padStores
  repeat' first
    | intro _ | with_reducible assumption | with_reducible apply storeSpad_kept | with_reducible apply eachAct_kept
    | with_reducible apply Kept.bind | with_reducible apply Kept.pure | with_reducible apply Kept.throw
    | fail_if_no_progress with_reducible apply Kept.upd | with_reducible apply Kept.iteAct | split
    | refine Kept.of_fst (by with_reducible assumption) ?_ | refine Kept.of_snd (by with_reducible assumption) ?_
    | dsimp only

theorem deliverNote_kept {s : State} {cl : Nat} {n : Note} (hs : Kept q t s) :
    Kept q t (deliverNote s cl n) := by
  unfold deliverNote
  repeat' first
    | intro _ | with_reducible assumption | with_reducible apply modDrawer_kept | with_reducible apply Kept.bind
    | with_reducible apply Kept.pure | with_reducible apply Kept.throw
    | fail_if_no_progress with_reducible apply Kept.upd | with_reducible apply Kept.iteAct | split
    | refine Kept.of_fst (by with_reducible assumption) ?_ | refine Kept.of_snd (by with_reducible assumption) ?_
    | dsimp only

theorem makeNote_kept {s : State} {cl : Nat} {o : PressOp} (hs : Kept q t s) :
    Kept q t (makeNote s cl o) := by
  unfold makeNote
  repeat' first
    | intro _ | with_reducible assumption | with_reducible apply modClu_kept | with_reducible apply deliverNote_kept
    | with_reducible apply Kept.bind | with_reducible apply Kept.pure | with_reducible apply Kept.throw
    | fail_if_no_progress with_reducible apply Kept.upd | with_reducible apply Kept.iteAct | split
    | refine Kept.of_fst (by with_reducible assumption) ?_ | refine Kept.of_snd (by with_reducible assumption) ?_
    | dsimp only

theorem retireOp_kept {s : State} {cl : Nat} {o : PressOp} (hs : Kept q t s) :
    Kept q t (retireOp s cl o) := by
  unfold retireOp
  repeat' first
    | intro _ | with_reducible assumption | with_reducible apply modClu_kept | with_reducible apply startShim_kept
    | with_reducible apply padStores_kept | with_reducible apply makeNote_kept | with_reducible apply Kept.bind
    | with_reducible apply Kept.pure | with_reducible apply Kept.throw
    | fail_if_no_progress with_reducible apply Kept.upd | with_reducible apply Kept.iteAct | split
    | refine Kept.of_fst (by with_reducible assumption) ?_ | refine Kept.of_snd (by with_reducible assumption) ?_
    | dsimp only

theorem cutOp_kept {s : State} {cl : Nat} {o : PressOp} (hs : Kept q t s) :
    Kept q t (cutOp s cl o) := by
  unfold cutOp
  repeat' first
    | intro _ | with_reducible assumption | with_reducible apply modClu_kept | with_reducible apply startShim_kept
    | with_reducible apply padStores_kept | with_reducible apply Kept.bind | with_reducible apply Kept.pure
    | with_reducible apply Kept.throw | fail_if_no_progress with_reducible apply Kept.upd
    | with_reducible apply Kept.iteAct | split | refine Kept.of_fst (by with_reducible assumption) ?_
    | refine Kept.of_snd (by with_reducible assumption) ?_ | dsimp only

end Sys2Proof.Laws
end

