-- ==== Sys2Proof/Laws/KeptServe.lean ====
section
/-! SUPPORT. Each operation of Machine/Serve.lean keeps the queue, device time and canonical memories. -/

namespace Sys2Proof.Laws
open Sys2Proof Sys2Proof.Machine

variable {q : List Instr} {t : BitVec 64}

theorem readStep_kept {q' a : Nat} {s0 : State} (hs0 : Kept q t s0) :
    Kept q t (runAct (readStep q' a) s0).2 := by
  unfold readStep
  repeat' first
    | intro _ | with_reducible assumption | with_reducible apply loadFor_kept | with_reducible apply need_kept
    | with_reducible apply Kept.get_bind | with_reducible apply Kept.bind | with_reducible apply Kept.pure
    | with_reducible apply Kept.iteAct

theorem modVen_kept {s : State} {q' k : Nat} {f : Veneer → Veneer} (hs : Kept q t s) :
    Kept q t (modVen s q' k f) := by
  unfold modVen
  repeat' first
    | with_reducible assumption | with_reducible apply modPrt_kept

theorem reportSlot_kept {q' k : Nat} {s0 : State} (hs0 : Kept q t s0) :
    Kept q t (runAct (reportSlot q' k) s0).2 := by
  unfold reportSlot
  repeat' first
    | with_reducible assumption | with_reducible apply hubStore_kept | with_reducible apply Kept.get_bind

theorem freeRetired_kept {s : State} {q' k : Nat} (hs : Kept q t s) :
    Kept q t (freeRetired s q' k) := by
  unfold freeRetired
  repeat' first
    | with_reducible assumption | with_reducible apply logEvent_kept | with_reducible apply modVen_kept | split | dsimp only

theorem venPublish_kept {q' k vco : Nat} {s0 : State} (hs0 : Kept q t s0) :
    Kept q t (runAct (venPublish q' k vco) s0).2 := by
  unfold venPublish
  repeat' first
    | intro _ | with_reducible assumption | with_reducible apply modVen_kept | with_reducible apply reportSlot_kept
    | with_reducible apply freeRetired_kept | with_reducible apply Kept.edit | with_reducible apply Kept.get_bind
    | with_reducible apply Kept.bind | with_reducible apply Kept.pure | with_reducible apply Kept.iteAct

theorem venClear_kept {q' k : Nat} {s0 : State} (hs0 : Kept q t s0) :
    Kept q t (runAct (venClear q' k) s0).2 := by
  unfold venClear
  repeat' first
    | intro _ | with_reducible assumption | with_reducible apply modVen_kept | with_reducible apply reportSlot_kept
    | with_reducible apply freeRetired_kept | with_reducible apply Kept.edit | with_reducible apply Kept.get_bind
    | with_reducible apply Kept.bind | with_reducible apply Kept.pure | with_reducible apply Kept.iteAct

theorem pinSlot_kept {q' k : Nat} {s0 : State} (hs0 : Kept q t s0) :
    Kept q t (runAct (pinSlot q' k) s0).2 := by
  unfold pinSlot
  repeat' first
    | intro _ | with_reducible assumption | with_reducible apply modVen_kept | with_reducible apply reportSlot_kept
    | with_reducible apply Kept.edit | with_reducible apply Kept.bind

theorem unpinSlot_kept {q' k : Nat} {g : BitVec 32} {s0 : State} (hs0 : Kept q t s0) :
    Kept q t (runAct (unpinSlot q' k g) s0).2 := by
  unfold unpinSlot
  repeat' first
    | intro _ | with_reducible assumption | with_reducible apply modVen_kept | with_reducible apply reportSlot_kept
    | with_reducible apply freeRetired_kept | with_reducible apply Kept.edit | with_reducible apply Kept.bind

theorem cancelSeq_kept {s : State} {q' n : Nat} (hs : Kept q t s) :
    Kept q t (cancelSeq s q' n).2 := by
  unfold cancelSeq
  repeat' first
    | with_reducible assumption | with_reducible apply modStep_kept | with_reducible apply modSeq_kept
    | with_reducible apply unpause_kept | split | dsimp only

theorem resumeSeq_kept {s : State} {q' n : Nat} (hs : Kept q t s) :
    Kept q t (resumeSeq s q' n).2 := by
  unfold resumeSeq
  repeat' first
    | with_reducible assumption | with_reducible apply unpause_kept | split

theorem runCommand_kept {g q' i : Nat} {c : List Byte} {s0 : State} (hs0 : Kept q t s0) :
    Kept q t (runAct (runCommand g q' i c) s0).2 := by
  unfold runCommand
  repeat' first
    | intro _ | with_reducible assumption | with_reducible apply kvAlloc_kept | with_reducible apply kvFree_kept
    | with_reducible apply kvSwapOut_kept | with_reducible apply kvSwapIn_kept | with_reducible apply venPublish_kept
    | with_reducible apply venClear_kept | with_reducible apply cancelSeq_kept | with_reducible apply resumeSeq_kept
    | with_reducible apply Kept.get_bind | with_reducible apply Kept.bind | with_reducible apply Kept.pure
    | with_reducible apply Kept.set | with_reducible apply Kept.iteAct | split

theorem runCommands_kept {g q' : Nat} {cs : List (List Byte)} {s0 : State} (hs0 : Kept q t s0) :
    Kept q t (runAct (runCommands g q' cs) s0).2 := by
  unfold runCommands
  repeat' first
    | intro _ | with_reducible assumption | with_reducible apply runCommand_kept | with_reducible apply mapAct_kept

theorem readLength_kept {q' n : Nat} {s0 : State} (hs0 : Kept q t s0) :
    Kept q t (runAct (readLength q' n) s0).2 := by
  unfold readLength
  repeat' first
    | intro _ | with_reducible assumption | with_reducible apply readDesc_kept | with_reducible apply attempt_kept
    | with_reducible apply Kept.bind | with_reducible apply Kept.pure

theorem activeEntry_kept {q' : Nat} {a : Admitted} {s0 : State} (hs0 : Kept q t s0) :
    Kept q t (runAct (activeEntry q' a) s0).2 := by
  unfold activeEntry
  repeat' first
    | intro _ | with_reducible assumption | with_reducible apply readLength_kept | with_reducible apply Kept.bind
    | with_reducible apply Kept.pure

theorem checkEntry_kept {q' : Nat} {e : List Byte} {before : List Nat} {s0 : State} (hs0 : Kept q t s0) :
    Kept q t (runAct (checkEntry q' e before) s0).2 := by
  unfold checkEntry
  repeat' first
    | intro _ | with_reducible assumption | with_reducible apply readLength_kept | with_reducible apply activeEntry_kept
    | with_reducible apply Kept.get_bind | with_reducible apply Kept.bind | with_reducible apply Kept.pure
    | with_reducible apply Kept.iteAct

theorem checkEntries_kept {q' : Nat} {es : List (List Byte)} {s0 : State} (hs0 : Kept q t s0) :
    Kept q t (runAct (checkEntries q' es) s0).2 := by
  unfold checkEntries
  repeat' first
    | intro _ | with_reducible assumption | with_reducible apply checkEntry_kept | with_reducible apply mapAct_kept

theorem fillEntry_kept {q' : Nat} {a : Admitted} {s0 : State} (hs0 : Kept q t s0) :
    Kept q t (runAct (fillEntry q' a) s0).2 := by
  unfold fillEntry
  repeat' first
    | intro _ | with_reducible assumption | with_reducible apply modPrt_kept | with_reducible apply activeEntry_kept
    | with_reducible apply Kept.edit | with_reducible apply Kept.get_bind | with_reducible apply Kept.bind
    | with_reducible apply Kept.pure | with_reducible apply Kept.iteAct | split

theorem victimsFor_kept {q' : Nat} {l : List Admitted} {e : Request} {s0 : State} (hs0 : Kept q t s0) :
    Kept q t (runAct (victimsFor q' l e) s0).2 := by
  unfold victimsFor
  repeat' first
    | intro _ | with_reducible assumption | with_reducible apply readDesc_kept | with_reducible apply attempt_kept
    | with_reducible apply Kept.get_bind | with_reducible apply Kept.bind | with_reducible apply Kept.pure | split

theorem preempt_kept {q' : Nat} :
    ∀ {ks : List Nat} {l : List Admitted} {s0 : State}, Kept q t s0 → Kept q t (runAct (preempt q' l ks) s0).2 := by
  intro ks
  induction ks with
  | nil => intro l s0 h; exact h
  | cons k ks ih =>
    intro l s0 h
    unfold preempt
    dsimp only
    split
    · exact Kept.bind (kvSwapOut_kept h) fun _ _ hu => ih hu
    · exact ih h

theorem memoryFor_kept {q' : Nat} {l : List Admitted} {i : Nat} {s0 : State} (hs0 : Kept q t s0) :
    Kept q t (runAct (memoryFor q' l i) s0).2 := by
  unfold memoryFor
  repeat' first
    | intro _ | with_reducible assumption | with_reducible apply kvAlloc_kept | with_reducible apply kvSwapOut_kept
    | with_reducible apply victimsFor_kept | with_reducible apply preempt_kept | with_reducible apply Kept.get_bind
    | with_reducible apply Kept.bind | with_reducible apply Kept.pure | with_reducible apply Kept.iteAct | split

theorem memoryAll_kept {q' : Nat} :
    ∀ {y0 : List Nat} {y1 : List Admitted} {s0 : State}, Kept q t s0 → Kept q t (runAct (memoryAll q' y0 y1) s0).2 := by
  intro y0
  induction y0 with
  | nil => intros; unfold memoryAll; assumption
  | cons x xs ih =>
    intros
    unfold memoryAll
    repeat' first
    | intro _ | apply ih | with_reducible assumption | with_reducible apply memoryFor_kept | with_reducible apply Kept.bind

theorem holdSeqs_kept {s : State} {q' : Nat} {holder : Option Nat} {l : List Admitted} (hs : Kept q t s) :
    Kept q t (holdSeqs s q' holder l) := by
  unfold holdSeqs
  repeat' first
    | intro _ | with_reducible assumption | with_reducible apply modSeq_kept | with_reducible apply Kept.foldl

theorem admitStep_kept {g : Nat} {x : Graph} {h : List Byte} {es cs : List (List Byte)} {s0 : State} (hs0 : Kept q t s0) :
    Kept q t (runAct (admitStep g x h es cs) s0).2 := by
  unfold admitStep
  repeat' first
    | intro _ | with_reducible assumption | with_reducible apply modPrt_kept | with_reducible apply modGraph_kept
    | with_reducible apply tryReady_kept | with_reducible apply hubStore_kept | with_reducible apply pinSlot_kept
    | with_reducible apply runCommands_kept | with_reducible apply checkEntries_kept
    | with_reducible apply fillEntry_kept | with_reducible apply memoryAll_kept | with_reducible apply holdSeqs_kept
    | with_reducible apply Kept.edit | with_reducible apply eachAct_kept | with_reducible apply mapAct_kept
    | with_reducible apply Kept.get_bind | with_reducible apply Kept.bind | with_reducible apply Kept.foldl
    | fail_if_no_progress with_reducible apply Kept.upd

theorem lengthNow_kept {q' : Nat} {a : Admitted} {s0 : State} (hs0 : Kept q t s0) :
    Kept q t (runAct (lengthNow q' a) s0).2 := by
  unfold lengthNow
  repeat' first
    | intro _ | with_reducible assumption | with_reducible apply readLength_kept | with_reducible apply Kept.get_bind
    | with_reducible apply Kept.bind | with_reducible apply Kept.pure | with_reducible apply Kept.iteAct

theorem finishEntry_kept {x : Step} {st : Status} {e : Admitted × Nat} {s0 : State} (hs0 : Kept q t s0) :
    Kept q t (runAct (finishEntry x st e) s0).2 := by
  unfold finishEntry
  repeat' first
    | intro _ | with_reducible assumption | with_reducible apply loadFrom_kept | with_reducible apply writeLength_kept
    | with_reducible apply attempt_kept | with_reducible apply Kept.bind | with_reducible apply Kept.pure
    | with_reducible apply Kept.iteAct | split

theorem entryRecord_kept {x : Step} {e : Admitted × Status × List Byte} {s0 : State} (hs0 : Kept q t s0) :
    Kept q t (runAct (entryRecord x e) s0).2 := by
  unfold entryRecord
  repeat' first
    | intro _ | with_reducible assumption | with_reducible apply lengthNow_kept | with_reducible apply Kept.bind
    | with_reducible apply Kept.pure | with_reducible apply Kept.iteAct

theorem finishStep_kept {x : Step} {finals : List Status} {s0 : State} (hs0 : Kept q t s0) :
    Kept q t (runAct (finishStep x finals) s0).2 := by
  unfold finishStep
  repeat' first
    | intro _ | with_reducible assumption | with_reducible apply storeFrom_kept | with_reducible apply unpinSlot_kept
    | with_reducible apply holdSeqs_kept | with_reducible apply finishEntry_kept | with_reducible apply entryRecord_kept
    | with_reducible apply Kept.edit | with_reducible apply eachAct_kept | with_reducible apply mapAct_kept
    | with_reducible apply attempt_kept | with_reducible apply Kept.bind | with_reducible apply Kept.pure
    | with_reducible apply Kept.iteAct

end Sys2Proof.Laws
end

