-- ==== Sys2Proof/Laws/KeptComplete.lean ====
section
/-! SUPPORT. Each operation of Machine/Complete.lean keeps the queue, device time and canonical memories. -/

namespace Sys2Proof.Laws
open Sys2Proof Sys2Proof.Machine

variable {q : List Instr} {t : BitVec 64}

theorem fixStep_kept {s : State} {g : Nat} (hs : Kept q t s) :
    Kept q t (fixStep s g) := by
  unfold fixStep
  repeat' first
    | with_reducible assumption | with_reducible apply modStep_kept | with_reducible apply holdSeqs_kept | split

theorem finishGraph_kept {g : Nat} {s0 : State} (hs0 : Kept q t s0) :
    Kept q t (runAct (finishGraph g) s0).2 := by
  unfold finishGraph
  repeat' first
    | intro _ | with_reducible assumption | with_reducible apply pushCompletion_kept | with_reducible apply removeGraph_kept
    | with_reducible apply finishStep_kept | with_reducible apply Kept.edit | with_reducible apply Kept.get_bind
    | with_reducible apply Kept.bind | with_reducible apply Kept.pure | with_reducible apply Kept.iteAct | split

theorem tryNow_kept {a : Act Unit} {s0 : State} (ha : ∀ u, Kept q t u → Kept q t (runAct a u).2) (hs0 : Kept q t s0) :
    Kept q t (runAct (tryNow a) s0).2 := by
  have h := ha s0 hs0
  unfold tryNow
  refine Kept.get_bind ?_
  split
  · exact Kept.pure hs0
  · next he => rw [he] at h; exact Kept.set h

theorem endGraph_kept {g : Nat} {s0 : State} (hs0 : Kept q t s0) :
    Kept q t (runAct (endGraph g) s0).2 := by
  unfold endGraph
  repeat' first
    | intro _ | with_reducible assumption | with_reducible apply fixStep_kept | with_reducible apply finishGraph_kept
    | with_reducible apply tryNow_kept | with_reducible apply Kept.edit | with_reducible apply Kept.bind

theorem releaseCluster_kept {cl t' : Nat} {s0 : State} (hs0 : Kept q t s0) :
    Kept q t (runAct (releaseCluster cl t') s0).2 := by
  unfold releaseCluster
  repeat' first
    | intro _ | with_reducible assumption | with_reducible apply dFlush_kept | with_reducible apply endWork_kept
    | with_reducible apply freeCluster_kept | with_reducible apply Kept.edit | with_reducible apply Kept.get_bind
    | with_reducible apply Kept.bind

theorem releaseRegions_kept {t' : Nat} {s0 : State} (hs0 : Kept q t s0) :
    Kept q t (runAct (releaseRegions t') s0).2 := by
  unfold releaseRegions
  repeat' first
    | intro _ | with_reducible assumption | with_reducible apply rcRelease_kept | with_reducible apply eachAct_kept
    | with_reducible apply Kept.get_bind

theorem localOps_kept {s : State} {x : Task} {st : Status} (hs : Kept q t s) :
    Kept q t (localOps s x st) := by
  unfold localOps
  repeat' first
    | intro _ | with_reducible assumption | with_reducible apply setPeg_kept | with_reducible apply addPeg_kept
    | with_reducible apply Kept.foldl | split

theorem tellSuccessor_kept {failed : Bool} {s : State} {t' : Nat} (hs : Kept q t s) :
    Kept q t (tellSuccessor failed s t') := by
  unfold tellSuccessor
  repeat' first
    | with_reducible assumption | with_reducible apply modTask_kept | with_reducible apply startWaiting_kept | split
    | dsimp only

theorem writeRecord_kept {x : Task} {st : Status} {s0 : State} (hs0 : Kept q t s0) :
    Kept q t (runAct (writeRecord x st) s0).2 := by
  unfold writeRecord
  repeat' first
    | intro _ | with_reducible assumption | with_reducible apply modGraph_kept | with_reducible apply storeFrom_kept
    | with_reducible apply Kept.edit | with_reducible apply attempt_kept | with_reducible apply Kept.get_bind
    | with_reducible apply Kept.bind | with_reducible apply Kept.pure | with_reducible apply Kept.iteAct | split

theorem noteStepFailure_kept {s : State} {x : Task} {st : Status} (hs : Kept q t s) :
    Kept q t (noteStepFailure s x st) := by
  unfold noteStepFailure
  repeat' first
    | with_reducible assumption | with_reducible apply modGraph_kept | split

theorem countIn_kept {s : State} {x : Task} {st : Status} (hs : Kept q t s) :
    Kept q t (countIn s x st) := by
  unfold countIn
  repeat' first
    | with_reducible assumption | with_reducible apply modGraph_kept | with_reducible apply noteStepFailure_kept

theorem recordTask_kept {t' : Nat} {s0 : State} (hs0 : Kept q t s0) :
    Kept q t (runAct (recordTask t') s0).2 := by
  unfold recordTask
  repeat' first
    | intro _ | with_reducible assumption | with_reducible apply modTask_kept | with_reducible apply endGraph_kept
    | with_reducible apply writeRecord_kept | with_reducible apply Kept.edit | with_reducible apply Kept.get_bind
    | with_reducible apply Kept.bind | with_reducible apply Kept.pure | with_reducible apply Kept.iteAct | split

theorem concludeTask_kept {t' : Nat} {x : Task} {s0 : State} (hs0 : Kept q t s0) :
    Kept q t (runAct (concludeTask t' x) s0).2 := by
  unfold concludeTask
  repeat' first
    | intro _ | with_reducible assumption | with_reducible apply modTask_kept | with_reducible apply fixStep_kept
    | with_reducible apply tryNow_kept | with_reducible apply localOps_kept | with_reducible apply tellSuccessor_kept
    | with_reducible apply countIn_kept | with_reducible apply recordTask_kept | with_reducible apply Kept.edit
    | with_reducible apply needReady_kept | with_reducible apply Kept.get_bind | with_reducible apply Kept.bind
    | with_reducible apply Kept.foldl

theorem afterRelease_kept {t' : Nat} {s0 : State} (hs0 : Kept q t s0) :
    Kept q t (runAct (afterRelease t') s0).2 := by
  unfold afterRelease
  repeat' first
    | intro _ | with_reducible assumption | with_reducible apply modTask_kept | with_reducible apply sendRemoteOps_kept
    | with_reducible apply tryNow_kept | with_reducible apply concludeTask_kept | with_reducible apply Kept.edit
    | with_reducible apply Kept.get_bind
    | with_reducible apply Kept.bind | with_reducible apply Kept.pure | with_reducible apply Kept.iteAct | split

theorem freeUnit_kept {t' : Nat} {s0 : State} (hs0 : Kept q t s0) :
    Kept q t (runAct (freeUnit t') s0).2 := by
  unfold freeUnit
  repeat' first
    | intro _ | with_reducible assumption | with_reducible apply releaseCluster_kept | with_reducible apply needReady_kept
    | with_reducible apply Kept.get_bind | with_reducible apply Kept.bind | with_reducible apply Kept.pure
    | with_reducible apply Kept.iteAct | split

theorem completeTask_kept {t' : Nat} {s0 : State} (hs0 : Kept q t s0) :
    Kept q t (runAct (completeTask t') s0).2 := by
  unfold completeTask
  repeat' first
    | intro _ | with_reducible assumption | with_reducible apply flushTask_kept | with_reducible apply releaseRegions_kept
    | with_reducible apply recordTask_kept | with_reducible apply afterRelease_kept | with_reducible apply Kept.edit
    | with_reducible apply needReady_kept | with_reducible apply Kept.get_bind | with_reducible apply Kept.bind
    | with_reducible apply Kept.pure | with_reducible apply Kept.iteAct | split

theorem cutRunning_kept {s : State} {cl : Nat} (hs : Kept q t s) :
    Kept q t (cutRunning s cl) := by
  unfold cutRunning
  repeat' first
    | intro _ | with_reducible assumption | with_reducible apply cutOp_kept | with_reducible apply Kept.foldl

theorem limitTask_kept {s : State} {t' : Nat} {x : Task} (hs : Kept q t s) :
    Kept q t (limitTask s t' x) := by
  unfold limitTask
  repeat' first
    | with_reducible assumption | with_reducible apply modTask_kept | with_reducible apply endJigTask_kept
    | with_reducible apply limitChains_kept | with_reducible apply limitBench_kept
    | with_reducible apply cutRunning_kept | split

theorem admitGraph_kept {g : Nat} {x : Graph} {s0 : State} (hs0 : Kept q t s0) :
    Kept q t (runAct (admitGraph g x) s0).2 := by
  unfold admitGraph
  repeat' first
    | intro _ | with_reducible assumption | with_reducible apply rejectGraph_kept | with_reducible apply readStep_kept
    | with_reducible apply admitStep_kept | with_reducible apply endGraph_kept | with_reducible apply Kept.edit
    | with_reducible apply attempt_kept | with_reducible apply Kept.bind | split

theorem noteSwap_kept {s : State} {who : Option (Nat × Nat)} {st : Status} (hs : Kept q t s) :
    Kept q t (noteSwap s who st) := by
  unfold noteSwap
  repeat' first
    | with_reducible assumption | with_reducible apply modStep_kept | split

theorem endSwap_kept {q' n : Nat} {s0 : State} (hs0 : Kept q t s0) :
    Kept q t (runAct (endSwap q' n) s0).2 := by
  unfold endSwap
  repeat' first
    | intro _ | with_reducible assumption | with_reducible apply modSeq_kept | with_reducible apply reportSeq_kept
    | with_reducible apply endGraph_kept | with_reducible apply noteSwap_kept | with_reducible apply Kept.edit
    | with_reducible apply Kept.get_bind | with_reducible apply Kept.bind | with_reducible apply Kept.pure | split

end Sys2Proof.Laws
end

