-- ==== Sys2Proof/Laws/KeptEnv.lean ====
section
/-! SUPPORT. Each operation of Machine/Env.lean keeps the queue, device time and canonical memories. -/

namespace Sys2Proof.Laws
open Sys2Proof Sys2Proof.Machine

variable {q : List Instr} {t : BitVec 64}

theorem hostWrite_kept {s : State} {w : PortId × Nat × Byte} (hs : Kept q t s) : Kept q t (hostWrite s w) :=
  modPort_kept (fun _ h => memory_wf_mset h _ _) hs

theorem setBadLines_kept {s : State} {l : List (PortId × Nat)} (hs : Kept q t s) : Kept q t (setBadLines s l) :=
  ⟨hs.1, hs.2, hs.3, hs.4, hs.5, hs.6, hs.7⟩

theorem dramUpset_kept {s : State} {i sec odd even : Nat} (hs : Kept q t s) :
    Kept q t (dramUpset s i sec odd even) := by
  unfold dramUpset
  repeat' first
    | intro _ | with_reducible assumption | with_reducible apply modStk_kept | with_reducible apply freeBytes_kept
    | with_reducible apply pokeDram_kept | with_reducible apply Kept.bind | with_reducible apply Kept.foldl
    | with_reducible apply Kept.foldl_fst | with_reducible apply Kept.pure | with_reducible apply Kept.throw
    | fail_if_no_progress with_reducible apply Kept.upd | with_reducible apply Kept.iteAct | split
    | refine Kept.of_fst (by with_reducible assumption) ?_ | refine Kept.of_snd (by with_reducible assumption) ?_
    | dsimp only

theorem poisonHome_kept {s : State} {a : Nat} (hs : Kept q t s) :
    Kept q t (poisonHome s a) := by
  unfold poisonHome
  repeat' first
    | intro _ | with_reducible assumption | with_reducible apply poisonSector_kept | with_reducible apply Kept.bind
    | with_reducible apply Kept.pure | with_reducible apply Kept.throw
    | fail_if_no_progress with_reducible apply Kept.upd | with_reducible apply Kept.iteAct | split
    | refine Kept.of_fst (by with_reducible assumption) ?_ | refine Kept.of_snd (by with_reducible assumption) ?_
    | dsimp only

theorem loseSectors_kept {s : State} {r line : Nat} {poisoned : Bool} {ks : List Nat} (hs : Kept q t s) :
    Kept q t (loseSectors s r line poisoned ks) := by
  unfold loseSectors
  repeat' first
    | intro _ | with_reducible assumption | with_reducible apply forgetSector_kept | with_reducible apply poisonHome_kept
    | with_reducible apply Kept.bind | with_reducible apply Kept.foldl | with_reducible apply Kept.foldl_fst
    | with_reducible apply Kept.pure | with_reducible apply Kept.throw
    | fail_if_no_progress with_reducible apply Kept.upd | with_reducible apply Kept.iteAct | split
    | refine Kept.of_fst (by with_reducible assumption) ?_ | refine Kept.of_snd (by with_reducible assumption) ?_
    | dsimp only

theorem lineLost_kept {s : State} {r : Nat} {x : CacheLine} {ks : List Nat} (hs : Kept q t s) :
    Kept q t (lineLost s r x ks) := by
  unfold lineLost
  repeat' first
    | intro _ | with_reducible assumption | with_reducible apply loseSectors_kept | with_reducible apply Kept.bind
    | with_reducible apply Kept.pure | with_reducible apply Kept.throw
    | fail_if_no_progress with_reducible apply Kept.upd | with_reducible apply Kept.iteAct | split
    | refine Kept.of_fst (by with_reducible assumption) ?_ | refine Kept.of_snd (by with_reducible assumption) ?_
    | dsimp only

theorem jigCacheUpset_kept {s : State} {cl j line : Nat} {instr : Bool} (hs : Kept q t s) :
    Kept q t (jigCacheUpset s cl j line instr) := by
  unfold jigCacheUpset
  repeat' first
    | intro _ | with_reducible assumption | with_reducible apply modJig_kept | with_reducible apply endJigTask_kept
    | with_reducible apply Kept.bind | with_reducible apply Kept.pure | with_reducible apply Kept.throw
    | fail_if_no_progress with_reducible apply Kept.upd | with_reducible apply Kept.iteAct | split
    | refine Kept.of_fst (by with_reducible assumption) ?_ | refine Kept.of_snd (by with_reducible assumption) ?_
    | dsimp only

theorem notePathUe_kept {s : State} (hs : Kept q t s) :
    Kept q t (notePathUe s) := by
  unfold notePathUe
  repeat' first
    | intro _ | with_reducible assumption | with_reducible apply Kept.bind | with_reducible apply Kept.pure
    | with_reducible apply Kept.throw | fail_if_no_progress with_reducible apply Kept.upd
    | with_reducible apply Kept.iteAct | split | refine Kept.of_fst (by with_reducible assumption) ?_
    | refine Kept.of_snd (by with_reducible assumption) ?_ | dsimp only

theorem benchLoss_kept {s : State} {i k : Nat} (hs : Kept q t s) :
    Kept q t (benchLoss s i k) := by
  unfold benchLoss
  repeat' first
    | intro _ | with_reducible assumption | with_reducible apply modStk_kept | with_reducible apply endWork_kept
    | with_reducible apply notePathUe_kept | with_reducible apply Kept.bind | with_reducible apply Kept.pure
    | with_reducible apply Kept.throw | fail_if_no_progress with_reducible apply Kept.upd
    | with_reducible apply Kept.iteAct | split | refine Kept.of_fst (by with_reducible assumption) ?_
    | refine Kept.of_snd (by with_reducible assumption) ?_ | dsimp only

theorem mitreUpset_kept {s : State} {r pass : Nat} {second : Bool} (hs : Kept q t s) :
    Kept q t (mitreUpset s r pass second) := by
  unfold mitreUpset
  repeat' first
    | intro _ | with_reducible assumption | with_reducible apply modReg_kept | with_reducible apply Kept.bind
    | with_reducible apply Kept.pure | with_reducible apply Kept.throw
    | fail_if_no_progress with_reducible apply Kept.upd | with_reducible apply Kept.iteAct | split
    | refine Kept.of_fst (by with_reducible assumption) ?_ | refine Kept.of_snd (by with_reducible assumption) ?_
    | dsimp only

theorem strike_kept {s : State} {u : Upset} (hs : Kept q t s) :
    Kept q t (strike s u) := by
  unfold strike
  repeat' first
    | intro _ | with_reducible assumption | with_reducible apply modStk_kept | with_reducible apply modClu_kept
    | with_reducible apply modJig_kept | with_reducible apply poisonSector_kept | with_reducible apply endJigTask_kept
    | with_reducible apply beginReset_kept | with_reducible apply dramUpset_kept | with_reducible apply lineLost_kept
    | with_reducible apply jigCacheUpset_kept | with_reducible apply notePathUe_kept
    | with_reducible apply benchLoss_kept | with_reducible apply mitreUpset_kept | with_reducible apply Kept.bind
    | with_reducible apply Kept.pure | with_reducible apply Kept.throw
    | fail_if_no_progress with_reducible apply Kept.upd | with_reducible apply Kept.iteAct | split
    | refine Kept.of_fst (by with_reducible assumption) ?_ | refine Kept.of_snd (by with_reducible assumption) ?_
    | dsimp only

theorem applyEnv_kept {env : Env} {s : State} (hs : Kept q t s) :
    Kept q t (applyEnv env s) := by
  unfold applyEnv
  repeat' first
    | intro _ | with_reducible assumption | with_reducible apply hostWrite_kept | with_reducible apply setBadLines_kept
    | with_reducible apply strike_kept | with_reducible apply Kept.bind | with_reducible apply Kept.foldl
    | with_reducible apply Kept.foldl_fst | with_reducible apply Kept.pure | with_reducible apply Kept.throw
    | fail_if_no_progress with_reducible apply Kept.upd | with_reducible apply Kept.iteAct | split
    | refine Kept.of_fst (by with_reducible assumption) ?_ | refine Kept.of_snd (by with_reducible assumption) ?_
    | dsimp only

end Sys2Proof.Laws
end

