-- ==== Sys2Proof/Laws/KeptFaults.lean ====
section
/-! SUPPORT. Each operation of Machine/Faults.lean keeps the queue, device time and canonical memories. -/

namespace Sys2Proof.Laws
open Sys2Proof Sys2Proof.Machine

variable {q : List Instr} {t : BitVec 64}

theorem rstStatus_kept {s : State} {st : Status} (hs : Kept q t s) :
    Kept q t (rstStatus s st) := by
  unfold rstStatus
  repeat' first
    | with_reducible assumption | fail_if_no_progress with_reducible apply Kept.upd

theorem commandReset_kept {cause : BitVec 8} {d i : Nat} {s : State} (hs : Kept q t s) :
    Kept q t (commandReset cause d i s) := by
  unfold commandReset
  repeat' first
    | with_reducible assumption | with_reducible apply beginReset_kept | with_reducible apply rstStatus_kept | split
    | dsimp only

theorem writeRstCtrl_kept {value : Word} {s : State} (hs : Kept q t s) :
    Kept q t (writeRstCtrl value s) := by
  unfold writeRstCtrl
  repeat' first
    | with_reducible assumption | with_reducible apply commandReset_kept | split | dsimp only

theorem ctrlWrite_kept {s : State} {p : PortId} {d i : Nat} (hs : Kept q t s) :
    Kept q t (ctrlWrite s p d i) := by
  unfold ctrlWrite
  repeat' first
    | intro _ | with_reducible assumption | with_reducible apply viseWrite_kept | with_reducible apply writeRstCtrl_kept

theorem writeEpochSel_kept {value : Word} {s : State} (hs : Kept q t s) :
    Kept q t (writeEpochSel value s) := by
  unfold writeEpochSel
  repeat' first
    | with_reducible assumption | fail_if_no_progress with_reducible apply Kept.upd

theorem writeWdog_kept {value : Word} {s : State} (hs : Kept q t s) :
    Kept q t (writeWdog value s) := by
  unfold writeWdog
  repeat' first
    | with_reducible assumption | with_reducible apply setupIgnored_kept | fail_if_no_progress with_reducible apply Kept.upd
    | split | dsimp only

theorem startBeat_kept {s : State} {p : PortId} {old : Nat} (hs : Kept q t s) :
    Kept q t (startBeat s p old) := by
  unfold startBeat
  repeat' first
    | intro _ | with_reducible assumption | with_reducible apply modPort_kept | split

theorem writeHbCfg_kept {value : Word} {s : State} (hs : Kept q t s) :
    Kept q t (writeHbCfg value s) := by
  unfold writeHbCfg
  repeat' first
    | with_reducible assumption | with_reducible apply startBeat_kept | fail_if_no_progress with_reducible apply Kept.upd

theorem writeEvtHead_kept {value : Word} {s : State} (hs : Kept q t s) :
    Kept q t (writeEvtHead value s) := by
  unfold writeEvtHead
  repeat' first
    | with_reducible assumption | with_reducible apply setupIgnored_kept | fail_if_no_progress with_reducible apply Kept.upd
    | split | dsimp only

theorem writeEvtIrq_kept {value : Word} {s : State} (hs : Kept q t s) :
    Kept q t (writeEvtIrq value s) := by
  unfold writeEvtIrq
  repeat' first
    | with_reducible assumption | fail_if_no_progress with_reducible apply Kept.upd

end Sys2Proof.Laws
end

