-- ==== Sys2Proof/Laws/KeptFlash.lean ====
section
/-! SUPPORT. Each operation of Machine/Flash.lean keeps the queue, device time and canonical memories. -/

namespace Sys2Proof.Laws
open Sys2Proof Sys2Proof.Machine

variable {q : List Instr} {t : BitVec 64}

theorem modImage_kept {s : State} {c : Nat} {b : Bool} {f : Image → Image} (hs : Kept q t s) :
    Kept q t (modImage s c b f) := by
  unfold modImage
  repeat' first
    | with_reducible assumption | fail_if_no_progress with_reducible apply Kept.upd

theorem modIdle_kept {s : State} {c : Nat} {f : Image → Image} (hs : Kept q t s) :
    Kept q t (modIdle s c f) := by
  unfold modIdle
  repeat' first
    | with_reducible assumption | with_reducible apply modImage_kept

theorem spoilIdle_kept {s : State} {c : Nat} (hs : Kept q t s) :
    Kept q t (spoilIdle s c) := by
  unfold spoilIdle
  repeat' first
    | with_reducible assumption | with_reducible apply modIdle_kept

theorem logMgmt_kept {s : State} {cls : BitVec 8} {sev : BitVec 2} {d0 d1 : Nat} (hs : Kept q t s) :
    Kept q t (logMgmt s cls sev d0 d1) := by
  unfold logMgmt
  repeat' first
    | with_reducible assumption | with_reducible apply logEvent_kept

theorem holdFlash_kept {s : State} (hs : Kept q t s) :
    Kept q t (holdFlash s) := by
  unfold holdFlash
  repeat' first
    | with_reducible assumption | with_reducible apply logThermal_kept | fail_if_no_progress with_reducible apply Kept.upd
    | split

theorem freeFlash_kept {s : State} (hs : Kept q t s) :
    Kept q t (freeFlash s) := by
  unfold freeFlash
  repeat' first
    | with_reducible assumption | fail_if_no_progress with_reducible apply Kept.upd | split

theorem markPending_kept {s : State} (hs : Kept q t s) :
    Kept q t (markPending s) := by
  unfold markPending
  repeat' first
    | with_reducible assumption | with_reducible apply modIdle_kept | fail_if_no_progress with_reducible apply Kept.upd

theorem tryFlash_kept {s : State} (hs : Kept q t s) :
    Kept q t (tryFlash s) := by
  unfold tryFlash
  repeat' first
    | with_reducible assumption | with_reducible apply holdFlash_kept | with_reducible apply freeFlash_kept
    | with_reducible apply markPending_kept | fail_if_no_progress with_reducible apply Kept.upd | split | dsimp only

theorem askFlash_kept {s : State} {op : Nat} (hs : Kept q t s) :
    Kept q t (askFlash s op) := by
  unfold askFlash
  repeat' first
    | with_reducible assumption | with_reducible apply tryFlash_kept | fail_if_no_progress with_reducible apply Kept.upd

theorem burnSvn_kept {s : State} {c : Nat} (hs : Kept q t s) :
    Kept q t (burnSvn s c) := by
  unfold burnSvn
  repeat' first
    | with_reducible assumption | with_reducible apply logMgmt_kept | fail_if_no_progress with_reducible apply Kept.upd

theorem tryFuse_kept {s : State} (hs : Kept q t s) :
    Kept q t (tryFuse s) := by
  unfold tryFuse
  repeat' first
    | intro _ | with_reducible assumption | with_reducible apply holdFuse_kept | with_reducible apply freeFuse_kept
    | with_reducible apply burnSvn_kept | with_reducible apply Kept.foldl | split

theorem advanceSvn_kept {s : State} {c : Nat} (hs : Kept q t s) :
    Kept q t (advanceSvn s c) := by
  unfold advanceSvn
  repeat' first
    | with_reducible assumption | with_reducible apply tryFuse_kept | fail_if_no_progress with_reducible apply Kept.upd
    | split

end Sys2Proof.Laws
end

