-- ==== Sys2Proof/Laws/KeptJig.lean ====
section
/-! SUPPORT. Each operation of Machine/Jig.lean keeps the queue, device time and canonical memories. -/

namespace Sys2Proof.Laws
open Sys2Proof Sys2Proof.Machine

variable {q : List Instr} {t : BitVec 64}

theorem jigBegin_kept {cl : Nat} {x : Task} {s0 : State} (hs0 : Kept q t s0) :
    Kept q t (runAct (jigBegin cl x) s0).2 := by
  unfold jigBegin
  repeat' first
    | intro _ | with_reducible assumption | with_reducible apply testWindows_kept | with_reducible apply viaLoad_kept
    | with_reducible apply rcAcquire_kept | with_reducible apply need_kept | with_reducible apply Kept.get_bind
    | with_reducible apply Kept.bind | with_reducible apply Kept.pure

theorem startCluster_kept {s : State} {cl : Nat} {x : Task} {h : List Byte} (hs : Kept q t s) :
    Kept q t (startCluster s cl x h) := by
  unfold startCluster
  repeat' first
    | with_reducible assumption | with_reducible apply modClu_kept

theorem startJigTask_kept {s : State} {cl t' : Nat} {x : Task} (hs : Kept q t s) :
    Kept q t (startJigTask s cl t' x) := by
  unfold startJigTask
  repeat' first
    | intro _ | with_reducible assumption | with_reducible apply modClu_kept | with_reducible apply startOnce_kept
    | with_reducible apply jigBegin_kept | with_reducible apply startCluster_kept | with_reducible apply settle_kept
    | split

theorem mLoad_kept {c : Ctx} {hint a n : Nat} {s0 : State} (hs0 : Kept q t s0) :
    Kept q t (runAct (mLoad c hint a n) s0).2 := by
  unfold mLoad
  repeat' first
    | intro _ | with_reducible assumption | with_reducible apply readPath_kept | with_reducible apply loadSpad_kept
    | with_reducible apply loadHome_kept | with_reducible apply testWindows_kept | with_reducible apply dRead_kept
    | with_reducible apply need_kept | with_reducible apply needReady_kept | with_reducible apply Kept.get_bind
    | with_reducible apply Kept.bind | with_reducible apply Kept.throw | with_reducible apply Kept.iteAct | split

theorem storeAllowed_kept {c : Ctx} {a n : Nat} {s0 : State} (hs0 : Kept q t s0) :
    Kept q t (runAct (storeAllowed c a n) s0).2 := by
  unfold storeAllowed
  repeat' first
    | intro _ | with_reducible assumption | with_reducible apply testWindows_kept | with_reducible apply need_kept
    | with_reducible apply Kept.bind

theorem mStore_kept {c : Ctx} {hint a : Nat} {bs : List Byte} {s0 : State} (hs0 : Kept q t s0) :
    Kept q t (runAct (mStore c hint a bs) s0).2 := by
  unfold mStore
  repeat' first
    | intro _ | with_reducible assumption | with_reducible apply modJig_kept | with_reducible apply writePath_kept
    | with_reducible apply storeSpad_kept | with_reducible apply storeHome_kept | with_reducible apply hostStore_kept
    | with_reducible apply dWrite_kept | with_reducible apply storeAllowed_kept | with_reducible apply Kept.edit
    | with_reducible apply need_kept | with_reducible apply needReady_kept | with_reducible apply Kept.get_bind
    | with_reducible apply Kept.bind | with_reducible apply Kept.throw | with_reducible apply Kept.iteAct | split

theorem takeTicket_kept {c : Ctx} {kind : TicketKind} {left : Nat} {dest : List (Nat × Nat)} {s0 : State} (hs0 : Kept q t s0)
    :
    Kept q t (runAct (takeTicket c kind left dest) s0).2 := by
  unfold takeTicket
  repeat' first
    | intro _ | with_reducible assumption | with_reducible apply setTicket_kept | with_reducible apply Kept.edit
    | with_reducible apply Kept.get_bind | with_reducible apply Kept.bind | with_reducible apply Kept.pure
    | with_reducible apply Kept.throw | split

theorem refuseTicket_kept {s : State} {c : Ctx} {t' : Nat} {kind : TicketKind} {global : Nat} (hs : Kept q t s) :
    Kept q t (refuseTicket s c t' kind global) := by
  unfold refuseTicket
  repeat' first
    | with_reducible assumption | with_reducible apply modClu_kept | with_reducible apply finishTicket_kept
    | with_reducible apply noteLastFail_kept | split

theorem sendPackets_kept {s : State} {c : Ctx} {t' : Nat} {l : List (Packet × Nat)} (hs : Kept q t s) :
    Kept q t (sendPackets s c t' l) := by
  unfold sendPackets
  repeat' first
    | intro _ | with_reducible assumption | with_reducible apply submit_kept | with_reducible apply Kept.foldl

theorem putSource_kept {c : Ctx} {a n : Nat} {s0 : State} (hs0 : Kept q t s0) :
    Kept q t (runAct (putSource c a n) s0).2 := by
  unfold putSource
  repeat' first
    | intro _ | with_reducible assumption | with_reducible apply readPath_kept | with_reducible apply loadHome_kept
    | with_reducible apply testWindows_kept | with_reducible apply rcLoad_kept | with_reducible apply need_kept
    | with_reducible apply Kept.get_bind | with_reducible apply Kept.bind | split

theorem callStart_kept {c : Ctx} {s0 : State} (hs0 : Kept q t s0) :
    Kept q t (runAct (callStart c) s0).2 := by
  unfold callStart
  repeat' first
    | intro _ | with_reducible assumption | with_reducible apply dFlush_kept | with_reducible apply needReady_kept
    | with_reducible apply Kept.get_bind | with_reducible apply Kept.bind

theorem refusedCall_kept {c : Ctx} {kind : TicketKind} {global : Nat} {s0 : State} (hs0 : Kept q t s0) :
    Kept q t (runAct (refusedCall c kind global) s0).2 := by
  unfold refusedCall
  repeat' first
    | intro _ | with_reducible assumption | with_reducible apply takeTicket_kept | with_reducible apply refuseTicket_kept
    | with_reducible apply Kept.edit | with_reducible apply Kept.bind | with_reducible apply Kept.pure

theorem sentCall_kept {c : Ctx} {kind : TicketKind} {dest : List (Nat × Nat)} {l : List (Packet × Nat)} {s0 : State} (hs0 :
    Kept q t s0) :
    Kept q t (runAct (sentCall c kind dest l) s0).2 := by
  unfold sentCall
  repeat' first
    | intro _ | with_reducible assumption | with_reducible apply takeTicket_kept | with_reducible apply sendPackets_kept
    | with_reducible apply Kept.edit | with_reducible apply Kept.bind | with_reducible apply Kept.pure

theorem runRput_kept {c : Ctx} {src global n : Nat} {s0 : State} (hs0 : Kept q t s0) :
    Kept q t (runAct (runRput c src global n) s0).2 := by
  unfold runRput
  repeat' first
    | intro _ | with_reducible assumption | with_reducible apply putSource_kept | with_reducible apply callStart_kept
    | with_reducible apply refusedCall_kept | with_reducible apply sentCall_kept | with_reducible apply Kept.get_bind
    | with_reducible apply Kept.bind | with_reducible apply Kept.iteAct

theorem runRget_kept {c : Ctx} {global dest n : Nat} {s0 : State} (hs0 : Kept q t s0) :
    Kept q t (runAct (runRget c global dest n) s0).2 := by
  unfold runRget
  repeat' first
    | intro _ | with_reducible assumption | with_reducible apply storeAllowed_kept | with_reducible apply callStart_kept
    | with_reducible apply refusedCall_kept | with_reducible apply sentCall_kept | with_reducible apply need_kept
    | with_reducible apply Kept.get_bind | with_reducible apply Kept.bind | with_reducible apply Kept.iteAct

theorem runRadd_kept {c : Ctx} {global : Nat} {v : Word} {s0 : State} (hs0 : Kept q t s0) :
    Kept q t (runAct (runRadd c global v) s0).2 := by
  unfold runRadd
  repeat' first
    | intro _ | with_reducible assumption | with_reducible apply callStart_kept | with_reducible apply refusedCall_kept
    | with_reducible apply sentCall_kept | with_reducible apply Kept.get_bind | with_reducible apply Kept.bind
    | with_reducible apply Kept.iteAct

theorem runLcall_kept {c : Ctx} {a : Nat} {s0 : State} (hs0 : Kept q t s0) :
    Kept q t (runAct (runLcall c a) s0).2 := by
  unfold runLcall
  repeat' first
    | intro _ | with_reducible assumption | with_reducible apply submitChain_kept | with_reducible apply takeTicket_kept
    | with_reducible apply callStart_kept | with_reducible apply Kept.edit | with_reducible apply Kept.bind
    | with_reducible apply Kept.pure

theorem runAwait_kept {c : Ctx} {t' : Nat} {s0 : State} (hs0 : Kept q t s0) :
    Kept q t (runAct (runAwait c t') s0).2 := by
  unfold runAwait
  repeat' first
    | intro _ | with_reducible assumption | with_reducible apply dDropClean_kept | with_reducible apply setTicket_kept
    | with_reducible apply Kept.edit | with_reducible apply needReady_kept | with_reducible apply Kept.get_bind
    | with_reducible apply Kept.bind | with_reducible apply Kept.foldl | with_reducible apply Kept.pure | split

theorem prefetch_kept {c : Ctx} {hint a : Nat} {s0 : State} (hs0 : Kept q t s0) :
    Kept q t (runAct (prefetch c hint a) s0).2 := by
  unfold prefetch
  repeat' first
    | with_reducible assumption | with_reducible apply mLoad_kept | with_reducible apply Kept.get_bind
    | with_reducible apply Kept.pure | with_reducible apply Kept.set | split
    | refine Kept.of_snd (by with_reducible assumption) ?_

theorem runM_kept {c : Ctx} {g : Jig} {w : Nat} {s0 : State} (hs0 : Kept q t s0) :
    Kept q t (runAct (runM c g w) s0).2 := by
  unfold runM
  repeat' first
    | intro _ | with_reducible assumption | with_reducible apply mLoad_kept | with_reducible apply mStore_kept
    | with_reducible apply runRput_kept | with_reducible apply runRget_kept | with_reducible apply runRadd_kept
    | with_reducible apply runLcall_kept | with_reducible apply runAwait_kept | with_reducible apply prefetch_kept
    | with_reducible apply Kept.get_bind | with_reducible apply Kept.bind | with_reducible apply Kept.pure
    | with_reducible apply Kept.iteAct

theorem relReady_kept {c : Ctx} {remote : Bool} {s0 : State} (hs0 : Kept q t s0) :
    Kept q t (runAct (relReady c remote) s0).2 := by
  unfold relReady
  repeat' first
    | intro _ | with_reducible assumption | with_reducible apply rcRelease_kept | with_reducible apply dFlush_kept
    | with_reducible apply need_kept | with_reducible apply needReady_kept | with_reducible apply Kept.get_bind
    | with_reducible apply Kept.bind | with_reducible apply Kept.iteAct

theorem runPeg_kept {c : Ctx} {g : Jig} {w : Nat} {s0 : State} (hs0 : Kept q t s0) :
    Kept q t (runAct (runPeg c g w) s0).2 := by
  unfold runPeg
  repeat' first
    | intro _ | with_reducible assumption | with_reducible apply writePath_kept | with_reducible apply readPath_kept
    | with_reducible apply setPeg_kept | with_reducible apply addPeg_kept | with_reducible apply relReady_kept
    | with_reducible apply Kept.edit | with_reducible apply need_kept | with_reducible apply Kept.get_bind
    | with_reducible apply Kept.bind | with_reducible apply Kept.pure | with_reducible apply Kept.throw
    | with_reducible apply Kept.iteAct | split

theorem runRpeg_kept {c : Ctx} {g : Jig} {w : Nat} {s0 : State} (hs0 : Kept q t s0) :
    Kept q t (runAct (runRpeg c g w) s0).2 := by
  unfold runRpeg
  repeat' first
    | intro _ | with_reducible assumption | with_reducible apply callStart_kept | with_reducible apply refusedCall_kept
    | with_reducible apply sentCall_kept | with_reducible apply relReady_kept | with_reducible apply Kept.get_bind
    | with_reducible apply Kept.bind | with_reducible apply Kept.pure | with_reducible apply Kept.iteAct

theorem runDpush_kept {c : Ctx} {g : Jig} {w : Nat} {s0 : State} (hs0 : Kept q t s0) :
    Kept q t (runAct (runDpush c g w) s0).2 := by
  unfold runDpush
  repeat' first
    | intro _ | with_reducible assumption | with_reducible apply modDrawer_kept | with_reducible apply Kept.edit
    | with_reducible apply Kept.get_bind | with_reducible apply Kept.bind | with_reducible apply Kept.pure
    | with_reducible apply Kept.throw | with_reducible apply Kept.iteAct

theorem runDpop_kept {c : Ctx} {w : Nat} {s0 : State} (hs0 : Kept q t s0) :
    Kept q t (runAct (runDpop c w) s0).2 := by
  unfold runDpop
  repeat' first
    | intro _ | with_reducible assumption | with_reducible apply modClu_kept | with_reducible apply modDrawer_kept
    | with_reducible apply Kept.edit | with_reducible apply Kept.get_bind | with_reducible apply Kept.bind
    | with_reducible apply Kept.pure

theorem runDcfg_kept {c : Ctx} {g : Jig} {w : Nat} {s0 : State} (hs0 : Kept q t s0) :
    Kept q t (runAct (runDcfg c g w) s0).2 := by
  unfold runDcfg
  repeat' first
    | intro _ | with_reducible assumption | with_reducible apply modDrawer_kept | with_reducible apply Kept.edit
    | with_reducible apply Kept.get_bind | with_reducible apply Kept.bind | with_reducible apply Kept.pure
    | with_reducible apply Kept.iteAct

theorem runC_kept {c : Ctx} {g : Jig} {pc next w : Nat} {s0 : State} (hs0 : Kept q t s0) :
    Kept q t (runAct (runC c g pc next w) s0).2 := by
  unfold runC
  repeat' first
    | intro _ | with_reducible assumption | with_reducible apply runPeg_kept | with_reducible apply runRpeg_kept
    | with_reducible apply runDpush_kept | with_reducible apply runDpop_kept | with_reducible apply runDcfg_kept
    | with_reducible apply needReady_kept | with_reducible apply Kept.get_bind | with_reducible apply Kept.bind
    | with_reducible apply Kept.pure | with_reducible apply Kept.iteAct | split

theorem runPissue_kept {c : Ctx} {x : Task} {g : Jig} {s0' : State} {w : Nat} {s0 : State} (hs0 : Kept q t s0') (hs0 : Kept q
    t s0) :
    Kept q t (runAct (runPissue c x g s0' w) s0).2 := by
  unfold runPissue
  repeat' first
    | intro _ | with_reducible assumption | with_reducible apply issueOp_kept | with_reducible apply Kept.edit
    | with_reducible apply needReady_kept | with_reducible apply Kept.get_bind | with_reducible apply Kept.bind
    | with_reducible apply Kept.pure | with_reducible apply Kept.throw | with_reducible apply Kept.set
    | with_reducible apply Kept.iteAct

theorem optSlot_kept {α : Type} {d : α} {f : Nat → Act α} {w : Option Nat} {s0 : State} (hf : ∀ x0 x9, Kept q t x9 → Kept q t
    (runAct (f x0) x9).2) (hs0 : Kept q t s0) :
    Kept q t (runAct (optSlot d f w) s0).2 := by
  unfold optSlot
  repeat' first
    | with_reducible assumption | apply hf | with_reducible apply Kept.pure | split

theorem runBundle_kept {c : Ctx} {x : Task} {pc : Nat} {b : Bundle} {s0 : State} (hs0 : Kept q t s0) :
    Kept q t (runAct (runBundle c x pc b) s0).2 := by
  unfold runBundle
  repeat' first
    | intro _ | with_reducible assumption | with_reducible apply modClu_kept | with_reducible apply modJig_kept
    | with_reducible apply freeBelow_kept | with_reducible apply runM_kept | with_reducible apply runC_kept
    | with_reducible apply runPissue_kept | with_reducible apply optSlot_kept | with_reducible apply Kept.edit
    | with_reducible apply Kept.get_bind | with_reducible apply Kept.bind | with_reducible apply Kept.pure
    | with_reducible apply Kept.set | with_reducible apply Kept.iteAct | split

theorem skipBundle_kept {s : State} {c : Ctx} {pc : Nat} {b : Bundle} (hs : Kept q t s) :
    Kept q t (skipBundle s c pc b) := by
  unfold skipBundle
  repeat' first
    | with_reducible assumption | with_reducible apply modJig_kept

theorem fetchBytes_kept {c : Ctx} {a n : Nat} {s0 : State} (hs0 : Kept q t s0) :
    Kept q t (runAct (fetchBytes c a n) s0).2 := by
  unfold fetchBytes
  repeat' first
    | intro _ | with_reducible assumption | with_reducible apply testWindows_kept | with_reducible apply iLine_kept
    | with_reducible apply mapAct_kept | with_reducible apply need_kept | with_reducible apply Kept.get_bind
    | with_reducible apply Kept.bind | with_reducible apply Kept.pure | split

theorem fetchBundle_kept {c : Ctx} {pc : Nat} {s0 : State} (hs0 : Kept q t s0) :
    Kept q t (runAct (fetchBundle c pc) s0).2 := by
  unfold fetchBundle
  repeat' first
    | intro _ | with_reducible assumption | with_reducible apply fetchBytes_kept | with_reducible apply Kept.get_bind
    | with_reducible apply Kept.bind | with_reducible apply Kept.pure

theorem freeIssue_kept {s : State} {c : Ctx} {x : Task} {n : Nat} (hs : Kept q t s) :
    Kept q t (freeIssue s c x n) := by
  unfold freeIssue
  repeat' first
    | with_reducible assumption | with_reducible apply endJigTask_kept | with_reducible apply issueOp_kept | split
    | dsimp only

theorem freePad_kept {s : State} {cl n : Nat} (hs : Kept q t s) : Kept q t (freePad s cl n) :=
  ⟨hs.1, hs.2, hs.3, memory_wf_foldl _ (fun m c h => memory_wf_mset h _ _) hs.4, hs.5, hs.6, hs.7⟩

theorem havoc_kept {s : State} {c : Ctx} {x : Task} (hs : Kept q t s) :
    Kept q t (havoc s c x) := by
  unfold havoc
  repeat' first
    | with_reducible assumption | with_reducible apply modClu_kept | with_reducible apply modJig_kept
    | with_reducible apply freeIssue_kept | with_reducible apply freePad_kept
    | fail_if_no_progress with_reducible apply Kept.upd

theorem afterBundle_kept {s : State} {c : Ctx} {ce : CEffect} (hs : Kept q t s) :
    Kept q t (afterBundle s c ce) := by
  unfold afterBundle
  repeat' first
    | with_reducible assumption | with_reducible apply modJig_kept | with_reducible apply refreshHold_kept
    | with_reducible apply stopJig_kept | with_reducible apply endJigTask_kept | split | dsimp only

theorem tryBundle_kept {s : State} {c : Ctx} {x : Task} {pc : Nat} {b : Bundle} (hs : Kept q t s) :
    Kept q t (tryBundle s c x pc b) := by
  unfold tryBundle
  repeat' first
    | with_reducible assumption | with_reducible apply flushJig_kept | with_reducible apply markStall_kept
    | with_reducible apply endJigTask_kept | with_reducible apply runBundle_kept | with_reducible apply afterBundle_kept
    | split | refine Kept.of_snd (by with_reducible assumption) ?_

theorem oneBundle_kept {s : State} {c : Ctx} {x : Task} (hs : Kept q t s) :
    Kept q t (oneBundle s c x) := by
  unfold oneBundle
  repeat' first
    | intro _ | with_reducible assumption | with_reducible apply endJigTask_kept | with_reducible apply skipBundle_kept
    | with_reducible apply fetchBundle_kept | with_reducible apply havoc_kept | with_reducible apply afterBundle_kept
    | with_reducible apply tryBundle_kept | with_reducible apply settle_kept | split

theorem runJig_kept {s : State} {cl j : Nat} (hs : Kept q t s) :
    Kept q t (runJig s cl j) := by
  unfold runJig
  repeat' first
    | with_reducible assumption | with_reducible apply stopJig_kept | with_reducible apply oneBundle_kept | split
    | dsimp only

theorem resumeJig_kept {s : State} {cl j : Nat} {stepping : Bool} (hs : Kept q t s) :
    Kept q t (resumeJig s cl j stepping) := by
  unfold resumeJig
  repeat' first
    | with_reducible assumption | with_reducible apply modJig_kept | with_reducible apply refreshHold_kept | split

end Sys2Proof.Laws
end

