-- ==== Sys2Proof/Laws/KeptLinks.lean ====
section
/-! SUPPORT. Each operation of Machine/Links.lean keeps the queue, device time and canonical memories. -/

namespace Sys2Proof.Laws
open Sys2Proof Sys2Proof.Machine

variable {q : List Instr} {t : BitVec 64}

theorem trainFailed_kept {s : State} {i : Nat} (hs : Kept q t s) :
    Kept q t (trainFailed s i) := by
  unfold trainFailed
  repeat' first
    | intro _ | with_reducible assumption | with_reducible apply modLnk_kept | with_reducible apply logEvent_kept
    | with_reducible apply Kept.bind | with_reducible apply Kept.pure | with_reducible apply Kept.throw
    | fail_if_no_progress with_reducible apply Kept.upd | with_reducible apply Kept.iteAct | split
    | refine Kept.of_fst (by with_reducible assumption) ?_ | refine Kept.of_snd (by with_reducible assumption) ?_
    | dsimp only

theorem endTraining_kept {s : State} {i : Nat} {r : TrainResult} (hs : Kept q t s) :
    Kept q t (endTraining s i r) := by
  unfold endTraining
  repeat' first
    | intro _ | with_reducible assumption | with_reducible apply modLnk_kept | with_reducible apply logEvent_kept
    | with_reducible apply clearLink_kept | with_reducible apply trainFailed_kept | with_reducible apply Kept.bind
    | with_reducible apply Kept.pure | with_reducible apply Kept.throw
    | fail_if_no_progress with_reducible apply Kept.upd | with_reducible apply Kept.iteAct | split
    | refine Kept.of_fst (by with_reducible assumption) ?_ | refine Kept.of_snd (by with_reducible assumption) ?_
    | dsimp only

theorem trainAll_kept {s : State} (hs : Kept q t s) :
    Kept q t (trainAll s) := by
  unfold trainAll
  repeat' first
    | intro _ | with_reducible assumption | with_reducible apply modLnk_kept | with_reducible apply beginTraining_kept
    | with_reducible apply Kept.bind | with_reducible apply Kept.foldl | with_reducible apply Kept.foldl_fst
    | with_reducible apply Kept.pure | with_reducible apply Kept.throw
    | fail_if_no_progress with_reducible apply Kept.upd | with_reducible apply Kept.iteAct | split
    | refine Kept.of_fst (by with_reducible assumption) ?_ | refine Kept.of_snd (by with_reducible assumption) ?_
    | dsimp only

theorem fabricWrite_kept {s : State} {off : Nat} {value : Word} {ok : Bool} {f : Fst} (hs : Kept q t s) :
    Kept q t (fabricWrite s off value ok f) := by
  unfold fabricWrite
  repeat' first
    | intro _ | with_reducible assumption | with_reducible apply setupIgnored_kept | with_reducible apply Kept.bind
    | with_reducible apply Kept.pure | with_reducible apply Kept.throw
    | fail_if_no_progress with_reducible apply Kept.upd | with_reducible apply Kept.iteAct | split
    | refine Kept.of_fst (by with_reducible assumption) ?_ | refine Kept.of_snd (by with_reducible assumption) ?_
    | dsimp only

theorem rootState_kept {s : State} (hs : Kept q t s) :
    Kept q t (rootState s) := by
  unfold rootState
  repeat' first
    | intro _ | with_reducible assumption | with_reducible apply Kept.bind | with_reducible apply Kept.pure
    | with_reducible apply Kept.throw | fail_if_no_progress with_reducible apply Kept.upd
    | with_reducible apply Kept.iteAct | split | refine Kept.of_fst (by with_reducible assumption) ?_
    | refine Kept.of_snd (by with_reducible assumption) ?_ | dsimp only

theorem writeFstNode_kept {value : Word} {s : State} (hs : Kept q t s) :
    Kept q t (writeFstNode value s) := by
  unfold writeFstNode
  repeat' first
    | intro _ | with_reducible assumption | with_reducible apply trainAll_kept | with_reducible apply fabricWrite_kept
    | with_reducible apply rootState_kept | with_reducible apply Kept.bind | with_reducible apply Kept.pure
    | with_reducible apply Kept.throw | fail_if_no_progress with_reducible apply Kept.upd
    | with_reducible apply Kept.iteAct | split | refine Kept.of_fst (by with_reducible assumption) ?_
    | refine Kept.of_snd (by with_reducible assumption) ?_ | dsimp only

theorem writeFstTorus_kept {value : Word} {s : State} (hs : Kept q t s) :
    Kept q t (writeFstTorus value s) := by
  unfold writeFstTorus
  repeat' first
    | intro _ | with_reducible assumption | with_reducible apply fabricWrite_kept | with_reducible apply Kept.bind
    | with_reducible apply Kept.pure | with_reducible apply Kept.throw
    | fail_if_no_progress with_reducible apply Kept.upd | with_reducible apply Kept.iteAct | split
    | refine Kept.of_fst (by with_reducible assumption) ?_ | refine Kept.of_snd (by with_reducible assumption) ?_
    | dsimp only

theorem writeFstTimeout_kept {value : Word} {s : State} (hs : Kept q t s) :
    Kept q t (writeFstTimeout value s) := by
  unfold writeFstTimeout
  repeat' first
    | intro _ | with_reducible assumption | with_reducible apply fabricWrite_kept | with_reducible apply Kept.bind
    | with_reducible apply Kept.pure | with_reducible apply Kept.throw
    | fail_if_no_progress with_reducible apply Kept.upd | with_reducible apply Kept.iteAct | split
    | refine Kept.of_fst (by with_reducible assumption) ?_ | refine Kept.of_snd (by with_reducible assumption) ?_
    | dsimp only

theorem writeFstTime_kept {value : Word} {s : State} (hs : Kept q t s) :
    Kept q t (writeFstTime value s) := by
  unfold writeFstTime
  repeat' first
    | intro _ | with_reducible assumption | with_reducible apply fabricWrite_kept | with_reducible apply rootState_kept
    | with_reducible apply Kept.bind | with_reducible apply Kept.pure | with_reducible apply Kept.throw
    | fail_if_no_progress with_reducible apply Kept.upd | with_reducible apply Kept.iteAct | split
    | refine Kept.of_fst (by with_reducible assumption) ?_ | refine Kept.of_snd (by with_reducible assumption) ?_
    | dsimp only

theorem writeSysOffset_kept {value : Word} {s : State} (hs : Kept q t s) :
    Kept q t (writeSysOffset value s) := by
  unfold writeSysOffset
  repeat' first
    | intro _ | with_reducible assumption | with_reducible apply fabricWrite_kept | with_reducible apply Kept.bind
    | with_reducible apply Kept.pure | with_reducible apply Kept.throw
    | fail_if_no_progress with_reducible apply Kept.upd | with_reducible apply Kept.iteAct | split
    | refine Kept.of_fst (by with_reducible assumption) ?_ | refine Kept.of_snd (by with_reducible assumption) ?_
    | dsimp only

theorem writeDetour_kept {dir : Nat} {value : Word} {s : State} (hs : Kept q t s) :
    Kept q t (writeDetour dir value s) := by
  unfold writeDetour
  repeat' first
    | intro _ | with_reducible assumption | with_reducible apply setupIgnored_kept | with_reducible apply Kept.bind
    | with_reducible apply Kept.pure | with_reducible apply Kept.throw
    | fail_if_no_progress with_reducible apply Kept.upd | with_reducible apply Kept.iteAct | split
    | refine Kept.of_fst (by with_reducible assumption) ?_ | refine Kept.of_snd (by with_reducible assumption) ?_
    | dsimp only

theorem returnQueued_kept {s : State} {i : Nat} (hs : Kept q t s) :
    Kept q t (returnQueued s i) := by
  unfold returnQueued
  repeat' first
    | intro _ | with_reducible assumption | with_reducible apply modLnk_kept | with_reducible apply pushRouter_kept
    | with_reducible apply Kept.bind | with_reducible apply Kept.foldl | with_reducible apply Kept.foldl_fst
    | with_reducible apply Kept.pure | with_reducible apply Kept.throw
    | fail_if_no_progress with_reducible apply Kept.upd | with_reducible apply Kept.iteAct | split
    | refine Kept.of_fst (by with_reducible assumption) ?_ | refine Kept.of_snd (by with_reducible assumption) ?_
    | dsimp only

theorem linkStatus_kept {s : State} {i : Nat} {st : Status} (hs : Kept q t s) :
    Kept q t (linkStatus s i st) := by
  unfold linkStatus
  repeat' first
    | intro _ | with_reducible assumption | with_reducible apply modLnk_kept | with_reducible apply Kept.bind
    | with_reducible apply Kept.pure | with_reducible apply Kept.throw
    | fail_if_no_progress with_reducible apply Kept.upd | with_reducible apply Kept.iteAct | split
    | refine Kept.of_fst (by with_reducible assumption) ?_ | refine Kept.of_snd (by with_reducible assumption) ?_
    | dsimp only

theorem drainLink_kept {s : State} {i : Nat} {disable : Bool} (hs : Kept q t s) :
    Kept q t (drainLink s i disable) := by
  unfold drainLink
  repeat' first
    | intro _ | with_reducible assumption | with_reducible apply modLnk_kept | with_reducible apply returnQueued_kept
    | with_reducible apply Kept.bind | with_reducible apply Kept.pure | with_reducible apply Kept.throw
    | fail_if_no_progress with_reducible apply Kept.upd | with_reducible apply Kept.iteAct | split
    | refine Kept.of_fst (by with_reducible assumption) ?_ | refine Kept.of_snd (by with_reducible assumption) ?_
    | dsimp only

theorem writeFlkCtrl_kept {i : Nat} {value : Word} {s : State} (hs : Kept q t s) :
    Kept q t (writeFlkCtrl i value s) := by
  unfold writeFlkCtrl
  repeat' first
    | intro _ | with_reducible assumption | with_reducible apply modLnk_kept | with_reducible apply beginTraining_kept
    | with_reducible apply linkStatus_kept | with_reducible apply drainLink_kept | with_reducible apply Kept.bind
    | with_reducible apply Kept.pure | with_reducible apply Kept.throw
    | fail_if_no_progress with_reducible apply Kept.upd | with_reducible apply Kept.iteAct | split
    | refine Kept.of_fst (by with_reducible assumption) ?_ | refine Kept.of_snd (by with_reducible assumption) ?_
    | dsimp only

theorem flkWrite_kept {s : State} {p : PortId} {i : Nat} {value : Word} (hs : Kept q t s) :
    Kept q t (flkWrite s p i value) := by
  unfold flkWrite
  repeat' first
    | intro _ | with_reducible assumption | with_reducible apply viseWrite_kept | with_reducible apply writeFlkCtrl_kept
    | with_reducible apply Kept.bind | with_reducible apply Kept.pure | with_reducible apply Kept.throw
    | fail_if_no_progress with_reducible apply Kept.upd | with_reducible apply Kept.iteAct | split
    | refine Kept.of_fst (by with_reducible assumption) ?_ | refine Kept.of_snd (by with_reducible assumption) ?_
    | dsimp only

theorem emitData_kept {s : State} {i : Nat} {f : SentFlit} (hs : Kept q t s) :
    Kept q t (emitData s i f) := by
  unfold emitData
  repeat' first
    | intro _ | with_reducible assumption | with_reducible apply sendFlit_kept | with_reducible apply Kept.bind
    | with_reducible apply Kept.pure | with_reducible apply Kept.throw
    | fail_if_no_progress with_reducible apply Kept.upd | with_reducible apply Kept.iteAct | split
    | refine Kept.of_fst (by with_reducible assumption) ?_ | refine Kept.of_snd (by with_reducible assumption) ?_
    | dsimp only

theorem sendData_kept {i : Nat} {s : State} {payload : List Byte} (hs : Kept q t s) :
    Kept q t (sendData i s payload) := by
  unfold sendData
  repeat' first
    | intro _ | with_reducible assumption | with_reducible apply modLnk_kept | with_reducible apply emitData_kept
    | with_reducible apply Kept.bind | with_reducible apply Kept.pure | with_reducible apply Kept.throw
    | fail_if_no_progress with_reducible apply Kept.upd | with_reducible apply Kept.iteAct | split
    | refine Kept.of_fst (by with_reducible assumption) ?_ | refine Kept.of_snd (by with_reducible assumption) ?_
    | dsimp only

theorem sendReplay_kept {s : State} {i : Nat} (hs : Kept q t s) :
    Kept q t (sendReplay s i) := by
  unfold sendReplay
  repeat' first
    | intro _ | with_reducible assumption | with_reducible apply modLnk_kept | with_reducible apply sendFlit_kept
    | with_reducible apply Kept.bind | with_reducible apply Kept.pure | with_reducible apply Kept.throw
    | fail_if_no_progress with_reducible apply Kept.upd | with_reducible apply Kept.iteAct | split
    | refine Kept.of_fst (by with_reducible assumption) ?_ | refine Kept.of_snd (by with_reducible assumption) ?_
    | dsimp only

theorem resend_kept {s : State} {i : Nat} {l : List SentFlit} (hs : Kept q t s) :
    Kept q t (resend s i l) := by
  unfold resend
  repeat' first
    | intro _ | with_reducible assumption | with_reducible apply emitData_kept | with_reducible apply Kept.bind
    | with_reducible apply Kept.foldl | with_reducible apply Kept.foldl_fst | with_reducible apply Kept.pure
    | with_reducible apply Kept.throw | fail_if_no_progress with_reducible apply Kept.upd
    | with_reducible apply Kept.iteAct | split | refine Kept.of_fst (by with_reducible assumption) ?_
    | refine Kept.of_snd (by with_reducible assumption) ?_ | dsimp only

theorem answerReplay_kept {s : State} {i : Nat} {seq : BitVec 12} (hs : Kept q t s) :
    Kept q t (answerReplay s i seq) := by
  unfold answerReplay
  repeat' first
    | intro _ | with_reducible assumption | with_reducible apply modLnk_kept | with_reducible apply resend_kept
    | with_reducible apply Kept.bind | with_reducible apply Kept.pure | with_reducible apply Kept.throw
    | fail_if_no_progress with_reducible apply Kept.upd | with_reducible apply Kept.iteAct | split
    | refine Kept.of_fst (by with_reducible assumption) ?_ | refine Kept.of_snd (by with_reducible assumption) ?_
    | dsimp only

theorem replayOldest_kept {s : State} {i : Nat} (hs : Kept q t s) :
    Kept q t (replayOldest s i) := by
  unfold replayOldest
  repeat' first
    | intro _ | with_reducible assumption | with_reducible apply modLnk_kept | with_reducible apply resend_kept
    | with_reducible apply Kept.bind | with_reducible apply Kept.pure | with_reducible apply Kept.throw
    | fail_if_no_progress with_reducible apply Kept.upd | with_reducible apply Kept.iteAct | split
    | refine Kept.of_fst (by with_reducible assumption) ?_ | refine Kept.of_snd (by with_reducible assumption) ?_
    | dsimp only

theorem countFec_kept {s : State} {i : Nat} {h : FlitHead} (hs : Kept q t s) :
    Kept q t (countFec s i h) := by
  unfold countFec
  repeat' first
    | intro _ | with_reducible assumption | with_reducible apply modLnk_kept | with_reducible apply Kept.bind
    | with_reducible apply Kept.pure | with_reducible apply Kept.throw
    | fail_if_no_progress with_reducible apply Kept.upd | with_reducible apply Kept.iteAct | split
    | refine Kept.of_fst (by with_reducible assumption) ?_ | refine Kept.of_snd (by with_reducible assumption) ?_
    | dsimp only

theorem takeHead_kept {s : State} {i : Nat} {h : FlitHead} (hs : Kept q t s) :
    Kept q t (takeHead s i h) := by
  unfold takeHead
  repeat' first
    | intro _ | with_reducible assumption | with_reducible apply modLnk_kept | with_reducible apply Kept.bind
    | with_reducible apply Kept.pure | with_reducible apply Kept.throw
    | fail_if_no_progress with_reducible apply Kept.upd | with_reducible apply Kept.iteAct | split
    | refine Kept.of_fst (by with_reducible assumption) ?_ | refine Kept.of_snd (by with_reducible assumption) ?_
    | dsimp only

theorem onFlit_kept {s : State} {i : Nat} {h : FlitHead} {kind : BitVec 2} {seq : BitVec 12} {payload : List Byte} {k : State
    → State} (hs : Kept q t s) (hk : ∀ x0, Kept q t x0 → Kept q t (k x0)) :
    Kept q t (onFlit s i h kind seq payload k) := by
  unfold onFlit
  repeat' first
    | intro _ | with_reducible assumption | apply hk | with_reducible apply sendReplay_kept
    | with_reducible apply countFec_kept | with_reducible apply takeHead_kept | with_reducible apply Kept.bind
    | with_reducible apply Kept.pure | with_reducible apply Kept.throw
    | fail_if_no_progress with_reducible apply Kept.upd | with_reducible apply Kept.iteAct | split
    | refine Kept.of_fst (by with_reducible assumption) ?_ | refine Kept.of_snd (by with_reducible assumption) ?_
    | dsimp only

theorem dropUnknown_kept {s : State} {i : Nat} {p : Packet} (hs : Kept q t s) :
    Kept q t (dropUnknown s i p) := by
  unfold dropUnknown
  repeat' first
    | intro _ | with_reducible assumption | with_reducible apply sendIdle_kept | with_reducible apply Kept.bind
    | with_reducible apply Kept.pure | with_reducible apply Kept.throw
    | fail_if_no_progress with_reducible apply Kept.upd | with_reducible apply Kept.iteAct | split
    | refine Kept.of_fst (by with_reducible assumption) ?_ | refine Kept.of_snd (by with_reducible assumption) ?_
    | dsimp only

theorem takePackets_kept {i : Nat} :
    ∀ {y0 : Nat} {y1 : State}, Kept q t y1 → Kept q t (takePackets i y0 y1) := by
  intro y0
  induction y0 with
  | zero => intros; unfold takePackets; assumption
  | succ n ih =>
    intros
    unfold takePackets
    repeat' first
    | intro _ | apply ih | with_reducible assumption | with_reducible apply modLnk_kept
    | with_reducible apply pushRouter_kept | with_reducible apply dropUnknown_kept | with_reducible apply Kept.bind
    | with_reducible apply Kept.pure | with_reducible apply Kept.throw
    | fail_if_no_progress with_reducible apply Kept.upd | with_reducible apply Kept.iteAct | split
    | refine Kept.of_fst (by with_reducible assumption) ?_ | refine Kept.of_snd (by with_reducible assumption) ?_
    | dsimp only

theorem takeData_kept {s : State} {i : Nat} {seq : BitVec 12} {payload : List Byte} (hs : Kept q t s) :
    Kept q t (takeData s i seq payload) := by
  unfold takeData
  repeat' first
    | intro _ | with_reducible assumption | with_reducible apply modLnk_kept | with_reducible apply sendIdle_kept
    | with_reducible apply sendReplay_kept | with_reducible apply takePackets_kept | with_reducible apply Kept.bind
    | with_reducible apply Kept.pure | with_reducible apply Kept.throw
    | fail_if_no_progress with_reducible apply Kept.upd | with_reducible apply Kept.iteAct | split
    | refine Kept.of_fst (by with_reducible assumption) ?_ | refine Kept.of_snd (by with_reducible assumption) ?_
    | dsimp only

theorem takeQueued_kept {s : State} {i vc : Nat} (hs : Kept q t s) :
    Kept q t (takeQueued s i vc) := by
  unfold takeQueued
  repeat' first
    | intro _ | with_reducible assumption | with_reducible apply modLnk_kept | with_reducible apply Kept.bind
    | with_reducible apply Kept.pure | with_reducible apply Kept.throw
    | fail_if_no_progress with_reducible apply Kept.upd | with_reducible apply Kept.iteAct | split
    | refine Kept.of_fst (by with_reducible assumption) ?_ | refine Kept.of_snd (by with_reducible assumption) ?_
    | dsimp only

theorem sendPacket_kept {s : State} {i vc : Nat} {p : Packet} (hs : Kept q t s) :
    Kept q t (sendPacket s i vc p) := by
  unfold sendPacket
  repeat' first
    | intro _ | with_reducible assumption | with_reducible apply modLnk_kept | with_reducible apply sendData_kept
    | with_reducible apply takeQueued_kept | with_reducible apply Kept.bind | with_reducible apply Kept.foldl
    | with_reducible apply Kept.foldl_fst | with_reducible apply Kept.pure | with_reducible apply Kept.throw
    | fail_if_no_progress with_reducible apply Kept.upd | with_reducible apply Kept.iteAct | split
    | refine Kept.of_fst (by with_reducible assumption) ?_ | refine Kept.of_snd (by with_reducible assumption) ?_
    | dsimp only

end Sys2Proof.Laws
end

