-- ==== Sys2Proof/Laws/KeptParts.lean ====
section
/-! SUPPORT. Each operation of Machine/Parts.lean keeps the queue, device time and canonical memories. -/

namespace Sys2Proof.Laws
open Sys2Proof Sys2Proof.Machine

variable {q : List Instr} {t : BitVec 64}

theorem startLock_kept {s : State} {q' : Nat} {value : Word} (hs : Kept q t s) :
    Kept q t (startLock s q' value) := by
  unfold startLock
  repeat' first
    | with_reducible assumption | with_reducible apply modPrt_kept | split | dsimp only

theorem writePart_kept {q' off src : Nat} {value : Word} {s : State} (hs : Kept q t s) :
    Kept q t (writePart q' off src value s) := by
  unfold writePart
  repeat' first
    | intro _ | with_reducible assumption | with_reducible apply modPrt_kept | with_reducible apply logEvent_kept
    | with_reducible apply setupIgnored_kept | with_reducible apply startLock_kept | with_reducible apply Kept.foldl
    | split | dsimp only

theorem readHeader_kept {table : BitVec 40} {n : Nat} {s0 : State} (hs0 : Kept q t s0) :
    Kept q t (runAct (readHeader table n) s0).2 := by
  unfold readHeader
  repeat' first
    | intro _ | with_reducible assumption | with_reducible apply loadFrom_kept | with_reducible apply Kept.bind
    | with_reducible apply Kept.pure | with_reducible apply Kept.iteAct

theorem lockChecks_kept {q' : Nat} {s0 : State} (hs0 : Kept q t s0) :
    Kept q t (runAct (lockChecks q') s0).2 := by
  unfold lockChecks
  repeat' first
    | intro _ | with_reducible assumption | with_reducible apply readHeader_kept | with_reducible apply attempt_kept
    | with_reducible apply Kept.get_bind | with_reducible apply Kept.bind | with_reducible apply Kept.pure
    | with_reducible apply Kept.iteAct | split

theorem latchPool_kept {q' : Nat} {h : List Byte} {s : State} {i : Nat} (hs : Kept q t s) :
    Kept q t (latchPool q' h s i) := by
  unfold latchPool
  repeat' first
    | with_reducible assumption | with_reducible apply modPrt_kept | with_reducible apply logEvent_kept | split

theorem rebuildSeq_kept {q' n : Nat} {s0 : State} (hs0 : Kept q t s0) :
    Kept q t (runAct (rebuildSeq q' n) s0).2 := by
  unfold rebuildSeq
  repeat' first
    | intro _ | with_reducible assumption | with_reducible apply modSeq_kept | with_reducible apply reportSeq_kept
    | with_reducible apply readDesc_kept | with_reducible apply Kept.edit | with_reducible apply attempt_kept
    | with_reducible apply Kept.bind | with_reducible apply Kept.pure | with_reducible apply Kept.iteAct | split

theorem rebuildSlot_kept {q' k : Nat} {s0 : State} (hs0 : Kept q t s0) :
    Kept q t (runAct (rebuildSlot q' k) s0).2 := by
  unfold rebuildSlot
  repeat' first
    | intro _ | with_reducible assumption | with_reducible apply loadFrom_kept | with_reducible apply modVen_kept
    | with_reducible apply reportSlot_kept | with_reducible apply freeRetired_kept | with_reducible apply Kept.edit
    | with_reducible apply attempt_kept | with_reducible apply Kept.get_bind | with_reducible apply Kept.bind
    | with_reducible apply Kept.pure | with_reducible apply Kept.iteAct | split

theorem latchHeaders_kept {q' : Nat} {kv ven : Option (List Byte)} {s0 : State} (hs0 : Kept q t s0) :
    Kept q t (runAct (latchHeaders q' kv ven) s0).2 := by
  unfold latchHeaders
  repeat' first
    | intro _ | with_reducible assumption | with_reducible apply modPrt_kept | with_reducible apply latchPool_kept
    | with_reducible apply rebuildSeq_kept | with_reducible apply rebuildSlot_kept | with_reducible apply Kept.edit
    | with_reducible apply eachAct_kept | with_reducible apply Kept.bind | with_reducible apply Kept.foldl
    | with_reducible apply Kept.pure | split

theorem zeroPads_kept {s : State} {q' : Nat} (hs : Kept q t s) :
    Kept q t (zeroPads s q') := by
  unfold zeroPads
  repeat' first
    | intro _ | with_reducible assumption | with_reducible apply zeroSpad_kept | with_reducible apply Kept.foldl

theorem finishLock_kept {q' : Nat} {s0 : State} (hs0 : Kept q t s0) :
    Kept q t (runAct (finishLock q') s0).2 := by
  unfold finishLock
  repeat' first
    | intro _ | with_reducible assumption | with_reducible apply modPrt_kept | with_reducible apply lockChecks_kept
    | with_reducible apply latchHeaders_kept | with_reducible apply zeroPads_kept | with_reducible apply Kept.edit
    | with_reducible apply Kept.bind | split

end Sys2Proof.Laws
end

