-- ==== Sys2Proof/Laws/KeptPlace.lean ====
section
/-! SUPPORT. Each operation of Machine/Place.lean keeps the queue, device time and canonical memories. -/

namespace Sys2Proof.Laws
open Sys2Proof Sys2Proof.Machine

variable {q : List Instr} {t : BitVec 64}

theorem placeOn_kept {s : State} {t' : Nat} {x : Task} {u : Nat} (hs : Kept q t s) :
    Kept q t (placeOn s t' x u) := by
  unfold placeOn
  repeat' first
    | with_reducible assumption | with_reducible apply modStk_kept | with_reducible apply modClu_kept
    | with_reducible apply modTask_kept | with_reducible apply submitChain_kept | split

theorem endAtOnce_kept {s : State} {t' : Nat} {x : Task} {st : Status} (hs : Kept q t s) :
    Kept q t (endAtOnce s t' x st) := by
  unfold endAtOnce
  repeat' first
    | with_reducible assumption | with_reducible apply startTask_kept | with_reducible apply endWork_kept
    | with_reducible apply endUnstarted_kept | split

theorem releaseAll_kept {s : State} {d : Nat} (hs : Kept q t s) :
    Kept q t (releaseAll s d) := by
  unfold releaseAll
  repeat' first
    | intro _ | with_reducible assumption | with_reducible apply modWlk_kept | with_reducible apply modTask_kept
    | with_reducible apply Kept.foldl | split | dsimp only

theorem writeWlkCtrl_kept {d : Nat} {value : Word} {s : State} (hs : Kept q t s) :
    Kept q t (writeWlkCtrl d value s) := by
  unfold writeWlkCtrl
  repeat' first
    | with_reducible assumption | with_reducible apply releaseAll_kept | split

theorem writeWlkLimits_kept {d : Nat} {value : Word} {s : State} (hs : Kept q t s) :
    Kept q t (writeWlkLimits d value s) := by
  unfold writeWlkLimits
  repeat' first
    | with_reducible assumption | with_reducible apply modWlk_kept | with_reducible apply setupIgnored_kept | split
    | dsimp only

theorem writeWlkBrk_kept {d : Nat} {value : Word} {s : State} (hs : Kept q t s) :
    Kept q t (writeWlkBrk d value s) := by
  unfold writeWlkBrk
  repeat' first
    | with_reducible assumption | with_reducible apply modWlk_kept

end Sys2Proof.Laws
end

