-- ==== Sys2Proof/Laws/KeptPower.lean ====
section
/-! SUPPORT. Each operation of Machine/Power.lean keeps the queue, device time and canonical memories. -/

namespace Sys2Proof.Laws
open Sys2Proof Sys2Proof.Machine

variable {q : List Instr} {t : BitVec 64}

theorem clearShim_kept {s : State} {d : Nat} (hs : Kept q t s) :
    Kept q t (clearShim s d) := by
  unfold clearShim
  repeat' first
    | intro _ | with_reducible assumption | with_reducible apply modClu_kept | with_reducible apply modDom_kept
    | with_reducible apply Kept.foldl

theorem holdDomain_kept {s : State} {n : Nat} (hs : Kept q t s) :
    Kept q t (holdDomain s n) := by
  unfold holdDomain
  repeat' first
    | with_reducible assumption | with_reducible apply modDom_kept | with_reducible apply logMerged_kept
    | with_reducible apply beginReset_kept | with_reducible apply clearShim_kept | split

theorem shutDown_kept {s : State} {n : Nat} {cls : BitVec 8} {d0 : Nat} (hs : Kept q t s) :
    Kept q t (shutDown s n cls d0) := by
  unfold shutDown
  repeat' first
    | intro _ | with_reducible assumption | with_reducible apply modDom_kept | with_reducible apply logThermal_kept
    | with_reducible apply holdDomain_kept | with_reducible apply Kept.foldl
    | fail_if_no_progress with_reducible apply Kept.upd | split

theorem takeSource_kept {s : State} {n : Nat} (hs : Kept q t s) :
    Kept q t (takeSource s n) := by
  unfold takeSource
  repeat' first
    | with_reducible assumption | with_reducible apply modDom_kept | with_reducible apply logThermal_kept | split
    | dsimp only

theorem takeThrottle_kept {s : State} {n : Nat} (hs : Kept q t s) :
    Kept q t (takeThrottle s n) := by
  unfold takeThrottle
  repeat' first
    | with_reducible assumption | with_reducible apply modDom_kept | with_reducible apply logThermal_kept | split
    | dsimp only

theorem takeCeiling_kept {s : State} {n : Nat} (hs : Kept q t s) :
    Kept q t (takeCeiling s n) := by
  unfold takeCeiling
  repeat' first
    | with_reducible assumption | with_reducible apply modDom_kept | split | dsimp only

theorem takeDuty_kept {s : State} {n : Nat} (hs : Kept q t s) :
    Kept q t (takeDuty s n) := by
  unfold takeDuty
  repeat' first
    | with_reducible assumption | with_reducible apply modDom_kept | split | dsimp only

theorem takeFloors_kept {s : State} {n : Nat} (hs : Kept q t s) :
    Kept q t (takeFloors s n) := by
  unfold takeFloors
  repeat' first
    | with_reducible assumption | with_reducible apply modDom_kept

theorem takeState_kept {s : State} {n : Nat} (hs : Kept q t s) :
    Kept q t (takeState s n) := by
  unfold takeState
  repeat' first
    | with_reducible assumption | with_reducible apply modDom_kept | with_reducible apply clearShim_kept | split
    | dsimp only

theorem takeHold_kept {s : State} {i : Nat} (hs : Kept q t s) :
    Kept q t (takeHold s i) := by
  unfold takeHold
  repeat' first
    | with_reducible assumption | with_reducible apply modStk_kept | with_reducible apply logEvent_kept
    | with_reducible apply endStalls_kept | with_reducible apply flushStaged_kept | split | dsimp only

theorem judge_kept {s : State} {n : Nat} (hs : Kept q t s) :
    Kept q t (judge s n) := by
  unfold judge
  repeat' first
    | with_reducible assumption | with_reducible apply shutDown_kept | with_reducible apply takeSource_kept
    | with_reducible apply takeThrottle_kept | with_reducible apply takeCeiling_kept
    | with_reducible apply takeDuty_kept | with_reducible apply takeFloors_kept | with_reducible apply takeState_kept
    | with_reducible apply takeHold_kept | split

theorem judgeAll_kept {s : State} (hs : Kept q t s) :
    Kept q t (judgeAll s) := by
  unfold judgeAll
  repeat' first
    | intro _ | with_reducible assumption | with_reducible apply flushStaged_kept | with_reducible apply makeReports_kept
    | with_reducible apply drainPorts_kept | with_reducible apply tryFlash_kept | with_reducible apply tryFuse_kept
    | with_reducible apply judge_kept | with_reducible apply Kept.foldl
    | fail_if_no_progress with_reducible apply Kept.upd

theorem modelStep_kept {l : List (Nat × Nat)} {s : State} {n : Nat} (hs : Kept q t s) :
    Kept q t (modelStep l s n) := by
  unfold modelStep
  repeat' first
    | with_reducible assumption | with_reducible apply modDom_kept

theorem scaleShim_kept {old total : Nat} {s : State} {d : Nat} (hs : Kept q t s) :
    Kept q t (scaleShim old total s d) := by
  unfold scaleShim
  repeat' first
    | with_reducible assumption | with_reducible apply modDom_kept | with_reducible apply clearShim_kept | split
    | dsimp only

theorem setShim_kept {s : State} {ds : List Nat} {total : Nat} (hs : Kept q t s) :
    Kept q t (setShim s ds total) := by
  unfold setShim
  repeat' first
    | intro _ | with_reducible assumption | with_reducible apply scaleShim_kept | with_reducible apply Kept.foldl

theorem steerShim_kept {s : State} (hs : Kept q t s) :
    Kept q t (steerShim s) := by
  unfold steerShim
  repeat' first
    | with_reducible assumption | with_reducible apply setShim_kept

theorem shimStep_kept {s : State} {d : Nat} (hs : Kept q t s) :
    Kept q t (shimStep s d) := by
  unfold shimStep
  repeat' first
    | with_reducible assumption | with_reducible apply clearShim_kept | split | dsimp only

theorem shimUpdate_kept {l : List (Nat × Nat)} {s : State} (hs : Kept q t s) :
    Kept q t (shimUpdate l s) := by
  unfold shimUpdate
  repeat' first
    | intro _ | with_reducible assumption | with_reducible apply shimStep_kept | with_reducible apply steerShim_kept
    | with_reducible apply Kept.foldl | split | dsimp only

theorem noteFault_kept {s : State} {old new : Sensor} {unit d0 : Nat} (hs : Kept q t s) :
    Kept q t (noteFault s old new unit d0) := by
  unfold noteFault
  repeat' first
    | with_reducible assumption | with_reducible apply logThermal_kept | split

theorem oneReading_kept {s : State} {r : SensorReading} (hs : Kept q t s) :
    Kept q t (oneReading s r) := by
  unfold oneReading
  repeat' first
    | with_reducible assumption | with_reducible apply modDom_kept | with_reducible apply noteFault_kept
    | fail_if_no_progress with_reducible apply Kept.upd | split

theorem coolantAlert_kept {s : State} (hs : Kept q t s) :
    Kept q t (coolantAlert s) := by
  unfold coolantAlert
  repeat' first
    | with_reducible assumption | with_reducible apply logThermal_kept

theorem takeInlet_kept {s : State} (hs : Kept q t s) :
    Kept q t (takeInlet s) := by
  unfold takeInlet
  repeat' first
    | with_reducible assumption | with_reducible apply coolantAlert_kept | fail_if_no_progress with_reducible apply Kept.upd
    | split | dsimp only

theorem takeRise_kept {s : State} (hs : Kept q t s) :
    Kept q t (takeRise s) := by
  unfold takeRise
  repeat' first
    | with_reducible assumption | with_reducible apply coolantAlert_kept | fail_if_no_progress with_reducible apply Kept.upd
    | split | dsimp only

theorem takeCoolant_kept {s : State} (hs : Kept q t s) :
    Kept q t (takeCoolant s) := by
  unfold takeCoolant
  repeat' first
    | with_reducible assumption | with_reducible apply takeInlet_kept | with_reducible apply takeRise_kept | split
    | dsimp only

theorem takeRate_kept {s : State} {n : Nat} (hs : Kept q t s) :
    Kept q t (takeRate s n) := by
  unfold takeRate
  repeat' first
    | with_reducible assumption | with_reducible apply modDom_kept | with_reducible apply logThermal_kept | split
    | dsimp only

theorem pwrStatus_kept {s : State} {st : Status} (hs : Kept q t s) :
    Kept q t (pwrStatus s st) := by
  unfold pwrStatus
  repeat' first
    | with_reducible assumption | fail_if_no_progress with_reducible apply Kept.upd

theorem releaseDomain_kept {s : State} {d i : Nat} (hs : Kept q t s) :
    Kept q t (releaseDomain s d i) := by
  unfold releaseDomain
  repeat' first
    | with_reducible assumption | with_reducible apply wipeDomain_kept | fail_if_no_progress with_reducible apply Kept.upd

theorem restoreDomain_kept {s : State} {n : Nat} (hs : Kept q t s) :
    Kept q t (restoreDomain s n) := by
  unfold restoreDomain
  repeat' first
    | with_reducible assumption | with_reducible apply modDom_kept | with_reducible apply logThermal_kept
    | with_reducible apply takeState_kept | with_reducible apply releaseDomain_kept
    | fail_if_no_progress with_reducible apply Kept.upd | split

theorem writePwrCtrl_kept {value : Word} {s : State} (hs : Kept q t s) :
    Kept q t (writePwrCtrl value s) := by
  unfold writePwrCtrl
  repeat' first
    | with_reducible assumption | with_reducible apply pwrStatus_kept | with_reducible apply restoreDomain_kept | split
    | dsimp only

theorem countBreak_kept {s : State} {avg : Nat} {unpreventable : Bool} (hs : Kept q t s) :
    Kept q t (countBreak s avg unpreventable) := by
  unfold countBreak
  repeat' first
    | with_reducible assumption | with_reducible apply logEvent_kept | fail_if_no_progress with_reducible apply Kept.upd
    | split | dsimp only

theorem setKnobs_kept {s : State} {tight : Bool} (hs : Kept q t s) :
    Kept q t (setKnobs s tight) := by
  unfold setKnobs
  repeat' first
    | with_reducible assumption | with_reducible apply freeBelow_kept | fail_if_no_progress with_reducible apply Kept.upd

theorem noteLimits_kept {s : State} {avg : Nat} (hs : Kept q t s) :
    Kept q t (noteLimits s avg) := by
  unfold noteLimits
  repeat' first
    | with_reducible assumption | fail_if_no_progress with_reducible apply Kept.upd

theorem boundShim_kept {s : State} {ds : List Nat} {shimW : Nat} (hs : Kept q t s) :
    Kept q t (boundShim s ds shimW) := by
  unfold boundShim
  repeat' first
    | intro _ | with_reducible assumption | with_reducible apply setShim_kept | with_reducible apply modDom_kept
    | with_reducible apply Kept.foldl

theorem armShim_kept {avg : Nat} {run : List Nat} {s : State} {d : Nat} (hs : Kept q t s) :
    Kept q t (armShim avg run s d) := by
  unfold armShim
  repeat' first
    | with_reducible assumption | with_reducible apply modDom_kept | with_reducible apply freeBelow_kept | split

theorem windowShim_kept {s : State} {avg shimW : Nat} (hs : Kept q t s) :
    Kept q t (windowShim s avg shimW) := by
  unfold windowShim
  repeat' first
    | intro _ | with_reducible assumption | with_reducible apply modDom_kept | with_reducible apply clearShim_kept
    | with_reducible apply boundShim_kept | with_reducible apply steerShim_kept | with_reducible apply armShim_kept | with_reducible apply Kept.foldl | split

theorem putCap_kept {v : Nat} {s w : State} (hs : Kept q t s) (hw : putCap v s = some w) : Kept q t w := by
  unfold putCap at hw
  obtain ⟨c, _, hc⟩ := Option.map_eq_some_iff.mp hw
  subst hc
  exact Kept.upd hs

theorem putRamp_kept {v : Nat} {s w : State} (hs : Kept q t s) (hw : putRamp v s = some w) : Kept q t w := by
  unfold putRamp at hw
  dsimp only at hw
  split at hw
  · cases hw; exact Kept.upd hs
  · cases hw

theorem writePwrCap_kept {value : Word} {s : State} (hs : Kept q t s) : Kept q t (writePwrCap value s) :=
  Kept.getD (fun _ hw => putCap_kept hs hw) (setupIgnored_kept hs)

theorem writePwrRamp_kept {value : Word} {s : State} (hs : Kept q t s) : Kept q t (writePwrRamp value s) :=
  Kept.getD (fun _ hw => putRamp_kept hs hw) (setupIgnored_kept hs)

theorem writeDomSel_kept {value : Word} {s : State} (hs : Kept q t s) :
    Kept q t (writeDomSel value s) := by
  unfold writeDomSel
  repeat' first
    | with_reducible assumption | with_reducible apply setupIgnored_kept | fail_if_no_progress with_reducible apply Kept.upd
    | split

end Sys2Proof.Laws
end

