-- ==== Sys2Proof/Laws/KeptStacks.lean ====
section
/-! SUPPORT. Each operation of Machine/Stacks.lean keeps the queue, device time and canonical memories. -/

namespace Sys2Proof.Laws
open Sys2Proof Sys2Proof.Machine

variable {q : List Instr} {t : BitVec 64}

theorem changeMode_kept {s : State} {i : Nat} {sharded : Bool} (hs : Kept q t s) :
    Kept q t (changeMode s i sharded) := by
  unfold changeMode
  repeat' first
    | with_reducible assumption | with_reducible apply modStk_kept | with_reducible apply fillStack_kept | split

theorem writeStkConfig_kept {i off : Nat} {value : Word} {s : State} (hs : Kept q t s) :
    Kept q t (writeStkConfig i off value s) := by
  unfold writeStkConfig
  repeat' first
    | with_reducible assumption | with_reducible apply modStk_kept | with_reducible apply setupIgnored_kept
    | with_reducible apply changeMode_kept | split | dsimp only

theorem restoreSector_kept {s : State} {i j sec : Nat} (hs : Kept q t s) :
    Kept q t (restoreSector s i j sec) := by
  unfold restoreSector
  repeat' first
    | with_reducible assumption | with_reducible apply logEvent_kept | with_reducible apply pokeDram_kept
    | with_reducible apply clearBad_kept

theorem repairSector_kept {s : State} {i sec : Nat} (hs : Kept q t s) :
    Kept q t (repairSector s i sec) := by
  unfold repairSector
  repeat' first
    | with_reducible assumption | with_reducible apply modStk_kept | with_reducible apply poisonSector_kept
    | with_reducible apply clearBad_kept | with_reducible apply readAlone_kept | with_reducible apply restoreSector_kept
    | split | refine Kept.of_snd (by with_reducible assumption) ?_ | dsimp only

theorem scrubRead_kept {s : State} {i sec : Nat} (hs : Kept q t s) :
    Kept q t (scrubRead s i sec) := by
  unfold scrubRead
  repeat' first
    | with_reducible assumption | with_reducible apply readSector_kept | split

theorem scrubSector_kept {s : State} {i sec : Nat} (hs : Kept q t s) :
    Kept q t (scrubSector s i sec).1 := by
  unfold scrubSector
  repeat' first
    | with_reducible assumption | with_reducible apply clearBad_kept | with_reducible apply readSector_kept
    | with_reducible apply restoreSector_kept | split | refine Kept.of_snd (by with_reducible assumption) ?_

theorem scrubAll_kept {i : Nat} :
    ∀ {l : List Nat} {s : State}, Kept q t s → Kept q t (scrubAll s i l).1 := by
  intro l
  induction l with
  | nil => intro s h; exact h
  | cons sec l ih =>
    intro s h
    exact ih (scrubSector_kept h)

theorem forceRefresh_kept {s : State} {i : Nat} (hs : Kept q t s) :
    Kept q t (forceRefresh s i) := by
  unfold forceRefresh
  repeat' first
    | with_reducible assumption | with_reducible apply modStk_kept

theorem refreshStep_kept {s : State} {i : Nat} (hs : Kept q t s) :
    Kept q t (refreshStep s i) := by
  unfold refreshStep
  repeat' first
    | with_reducible assumption | with_reducible apply modStk_kept | with_reducible apply freeBelow_kept
    | with_reducible apply forceRefresh_kept | split | refine Kept.of_snd (by with_reducible assumption) ?_

theorem writeRetrain_kept {i : Nat} {value : Word} {s : State} (hs : Kept q t s) :
    Kept q t (writeRetrain i value s) := by
  unfold writeRetrain
  repeat' first
    | with_reducible assumption | with_reducible apply modStk_kept | split | dsimp only

theorem beginGranule_kept {s : State} {i : Nat} {m : Maint} (hs : Kept q t s) :
    Kept q t (beginGranule s i m) := by
  unfold beginGranule
  repeat' first
    | with_reducible assumption | with_reducible apply modStk_kept | with_reducible apply modGran_kept | split | dsimp only

theorem convertGranule_kept {s : State} {i g : Nat} {worked : Bool} (hs : Kept q t s) :
    Kept q t (convertGranule s i g worked).1 := by
  unfold convertGranule
  repeat' first
    | with_reducible assumption | with_reducible apply modGran_kept | with_reducible apply scrubAll_kept

theorem zeroGranule_kept {s : State} {i g : Nat} (hs : Kept q t s) :
    Kept q t (zeroGranule s i g) := by
  unfold zeroGranule
  repeat' first
    | with_reducible assumption | with_reducible apply modStk_kept | with_reducible apply wipeDram_kept

theorem copyCells_kept {s : State} {i j : Nat} {cells : Memory} (hs : Kept q t s) : Kept q t (copyCells s i j cells) :=
  ⟨hs.1, hs.2, memory_wf_foldl _ (fun m c h => memory_wf_mset h _ _) hs.3, hs.4, hs.5, hs.6, hs.7⟩

theorem readOver_kept {s : State} {i : Nat} {l : List Nat} (hs : Kept q t s) :
    Kept q t (readOver s i l).1 := by
  unfold readOver
  repeat' first
    | intro _ | with_reducible assumption | with_reducible apply scrubRead_kept | with_reducible apply scrubAll_kept
    | with_reducible apply Kept.foldl_fst | split | dsimp only

theorem fillCopy_kept {s : State} {i j g : Nat} (hs : Kept q t s) :
    Kept q t (fillCopy s i j g).1 := by
  unfold fillCopy
  repeat' first
    | intro _ | with_reducible assumption | with_reducible apply modGran_kept | with_reducible apply poisonSector_kept
    | with_reducible apply readOver_kept | with_reducible apply zeroGranule_kept | with_reducible apply copyCells_kept
    | with_reducible apply Kept.foldl

theorem markHome_kept {s : State} {i : Nat} (hs : Kept q t s) :
    Kept q t (markHome s i) := by
  unfold markHome
  repeat' first
    | with_reducible assumption | with_reducible apply markPoison_kept

theorem mapOut_kept {s : State} {i h : Nat} (hs : Kept q t s) :
    Kept q t (mapOut s i h).1 := by
  unfold mapOut
  repeat' first
    | with_reducible assumption | with_reducible apply modStk_kept | with_reducible apply fillStack_kept
    | with_reducible apply markHome_kept | split | dsimp only

theorem doGranule_kept {s : State} {i : Nat} {m : Maint} (hs : Kept q t s) :
    Kept q t (doGranule s i m).1 := by
  unfold doGranule
  repeat' first
    | with_reducible assumption | with_reducible apply modGran_kept | with_reducible apply scrubAll_kept
    | with_reducible apply convertGranule_kept | with_reducible apply zeroGranule_kept
    | with_reducible apply fillCopy_kept | with_reducible apply mapOut_kept | split | dsimp only

theorem granuleDone_kept {s : State} {i : Nat} {m : Maint} (hs : Kept q t s) :
    Kept q t (granuleDone s i m) := by
  unfold granuleDone
  repeat' first
    | with_reducible assumption | with_reducible apply modStk_kept | with_reducible apply flushStaged_kept
    | with_reducible apply beginGranule_kept | with_reducible apply doGranule_kept | split

theorem maintRefused_kept {s : State} {i t' : Nat} {st : Status} (hs : Kept q t s) :
    Kept q t (maintRefused s i t' st) := by
  unfold maintRefused
  repeat' first
    | with_reducible assumption | with_reducible apply modStk_kept | with_reducible apply endWork_kept

theorem maintCheck_kept {s : State} {i : Nat} {x : Task} {m : Maint} (hs : Kept q t s) :
    Kept q t (maintCheck s i x m) := by
  unfold maintCheck
  repeat' first
    | with_reducible assumption | with_reducible apply modStk_kept | with_reducible apply modTask_kept
    | with_reducible apply holdFuse_kept | with_reducible apply freeFuse_kept | with_reducible apply beginGranule_kept
    | with_reducible apply maintRefused_kept | split | dsimp only

theorem maintBegin_kept {i t' : Nat} {x : Task} {s0 : State} (hs0 : Kept q t s0) :
    Kept q t (runAct (maintBegin i t' x) s0).2 := by
  unfold maintBegin
  repeat' first
    | intro _ | with_reducible assumption | with_reducible apply loadFor_kept | with_reducible apply startTask_kept
    | with_reducible apply Kept.edit | with_reducible apply Kept.get_bind | with_reducible apply Kept.bind
    | with_reducible apply Kept.pure

theorem maintFinish_kept {s : State} {i : Nat} {m : Maint} {x : Task} (hs : Kept q t s) :
    Kept q t (maintFinish s i m x) := by
  unfold maintFinish
  repeat' first
    | with_reducible assumption | with_reducible apply modStk_kept | with_reducible apply endWork_kept
    | with_reducible apply freeFuse_kept

end Sys2Proof.Laws
end

