-- ==== Sys2Proof/Laws/KeptRegs.lean ====
section
/-! SUPPORT. Each operation of Machine/Regs.lean keeps the queue, device time and canonical memories. -/

namespace Sys2Proof.Laws
open Sys2Proof Sys2Proof.Machine

variable {q : List Instr} {t : BitVec 64}

theorem writeLock_kept {value : Word} {s : State} (hs : Kept q t s) :
    Kept q t (writeLock value s) := by
  unfold writeLock
  repeat' first
    | intro _ | with_reducible assumption | with_reducible apply Kept.bind | with_reducible apply Kept.pure
    | with_reducible apply Kept.throw | fail_if_no_progress with_reducible apply Kept.upd
    | with_reducible apply Kept.iteAct | split | refine Kept.of_fst (by with_reducible assumption) ?_
    | refine Kept.of_snd (by with_reducible assumption) ?_ | dsimp only

theorem writeMode_kept {value : Word} {s : State} (hs : Kept q t s) :
    Kept q t (writeMode value s) := by
  unfold writeMode
  repeat' first
    | intro _ | with_reducible assumption | with_reducible apply tapGate_kept | with_reducible apply Kept.bind
    | with_reducible apply Kept.pure | with_reducible apply Kept.throw
    | fail_if_no_progress with_reducible apply Kept.upd | with_reducible apply Kept.iteAct | split
    | refine Kept.of_fst (by with_reducible assumption) ?_ | refine Kept.of_snd (by with_reducible assumption) ?_
    | dsimp only

theorem writeWin_kept {p : PortId} {off : Nat} {value : Word} {s : State} (hs : Kept q t s) :
    Kept q t (writeWin p off value s) := by
  unfold writeWin
  repeat' first
    | intro _ | with_reducible assumption | exact fun _ h => h | exact Kept.port (by with_reducible assumption) _
    | with_reducible apply modPort_kept | with_reducible apply setupIgnored_kept | with_reducible apply Kept.bind
    | with_reducible apply Kept.pure | with_reducible apply Kept.throw
    | fail_if_no_progress with_reducible apply Kept.upd | with_reducible apply Kept.iteAct | split
    | refine Kept.of_fst (by with_reducible assumption) ?_ | refine Kept.of_snd (by with_reducible assumption) ?_
    | dsimp only

theorem writeBar4Map_kept {p : PortId} {off : Nat} {value : Word} {s : State} (hs : Kept q t s) :
    Kept q t (writeBar4Map p off value s) := by
  unfold writeBar4Map
  repeat' first
    | intro _ | with_reducible assumption | exact fun _ h => h | exact Kept.port (by with_reducible assumption) _
    | with_reducible apply modPort_kept | with_reducible apply setupIgnored_kept | with_reducible apply Kept.bind
    | with_reducible apply Kept.pure | with_reducible apply Kept.throw
    | fail_if_no_progress with_reducible apply Kept.upd | with_reducible apply Kept.iteAct | split
    | refine Kept.of_fst (by with_reducible assumption) ?_ | refine Kept.of_snd (by with_reducible assumption) ?_
    | dsimp only

theorem writeHub_kept {o : Nat} {value : Word} {s : State} (hs : Kept q t s) :
    Kept q t (writeHub o value s) := by
  unfold writeHub
  repeat' first
    | intro _ | with_reducible assumption | with_reducible apply writeLock_kept | with_reducible apply writeMode_kept
    | with_reducible apply writeWin_kept | with_reducible apply writeBar4Map_kept | with_reducible apply Kept.bind
    | with_reducible apply Kept.pure | with_reducible apply Kept.throw
    | fail_if_no_progress with_reducible apply Kept.upd | with_reducible apply Kept.iteAct | split
    | refine Kept.of_fst (by with_reducible assumption) ?_ | refine Kept.of_snd (by with_reducible assumption) ?_
    | dsimp only

theorem writeArb_kept {i : Nat} {value : Word} {s : State} (hs : Kept q t s) :
    Kept q t (writeArb i value s) := by
  unfold writeArb
  repeat' first
    | intro _ | with_reducible assumption | with_reducible apply modStk_kept | with_reducible apply setupIgnored_kept
    | with_reducible apply Kept.bind | with_reducible apply Kept.pure | with_reducible apply Kept.throw
    | fail_if_no_progress with_reducible apply Kept.upd | with_reducible apply Kept.iteAct | split
    | refine Kept.of_fst (by with_reducible assumption) ?_ | refine Kept.of_snd (by with_reducible assumption) ?_
    | dsimp only

theorem writeStk_kept {i o : Nat} {value : Word} {s : State} (hs : Kept q t s) :
    Kept q t (writeStk i o value s) := by
  unfold writeStk
  repeat' first
    | intro _ | with_reducible assumption | with_reducible apply modStk_kept | with_reducible apply thresholdAsk_kept
    | with_reducible apply writeStkConfig_kept | with_reducible apply writeRetrain_kept
    | with_reducible apply writeArb_kept | with_reducible apply Kept.bind | with_reducible apply Kept.foldl
    | with_reducible apply Kept.foldl_fst | with_reducible apply Kept.pure | with_reducible apply Kept.throw
    | fail_if_no_progress with_reducible apply Kept.upd | with_reducible apply Kept.iteAct | split
    | refine Kept.of_fst (by with_reducible assumption) ?_ | refine Kept.of_snd (by with_reducible assumption) ?_
    | dsimp only

theorem writeDbgCtrl_kept {n j : Nat} {value : Word} {s : State} (hs : Kept q t s) :
    Kept q t (writeDbgCtrl n j value s) := by
  unfold writeDbgCtrl
  repeat' first
    | intro _ | with_reducible assumption | with_reducible apply modJig_kept | with_reducible apply refreshHold_kept
    | with_reducible apply stopJig_kept | with_reducible apply runJig_kept | with_reducible apply resumeJig_kept
    | with_reducible apply Kept.bind | with_reducible apply Kept.pure | with_reducible apply Kept.throw
    | fail_if_no_progress with_reducible apply Kept.upd | with_reducible apply Kept.iteAct | split
    | refine Kept.of_fst (by with_reducible assumption) ?_ | refine Kept.of_snd (by with_reducible assumption) ?_
    | dsimp only

theorem writeJig_kept {n j o : Nat} {value : Word} {s : State} (hs : Kept q t s) :
    Kept q t (writeJig n j o value s) := by
  unfold writeJig
  repeat' first
    | intro _ | with_reducible assumption | with_reducible apply modJig_kept | with_reducible apply writeDbgCtrl_kept
    | with_reducible apply Kept.bind | with_reducible apply Kept.pure | with_reducible apply Kept.throw
    | fail_if_no_progress with_reducible apply Kept.upd | with_reducible apply Kept.iteAct | split
    | refine Kept.of_fst (by with_reducible assumption) ?_ | refine Kept.of_snd (by with_reducible assumption) ?_
    | dsimp only

theorem writeRing_kept {r o : Nat} {value : Word} {s : State} (hs : Kept q t s) :
    Kept q t (writeRing r o value s) := by
  unfold writeRing
  repeat' first
    | intro _ | with_reducible assumption | with_reducible apply writeRingCtrl_kept
    | with_reducible apply writeRingConfig_kept | with_reducible apply writeSqBase_kept
    | with_reducible apply writeCqBase_kept | with_reducible apply Kept.bind | with_reducible apply Kept.pure
    | with_reducible apply Kept.throw | fail_if_no_progress with_reducible apply Kept.upd
    | with_reducible apply Kept.iteAct | split | refine Kept.of_fst (by with_reducible assumption) ?_
    | refine Kept.of_snd (by with_reducible assumption) ?_ | dsimp only

theorem writeWlk_kept {d o : Nat} {value : Word} {s : State} (hs : Kept q t s) :
    Kept q t (writeWlk d o value s) := by
  unfold writeWlk
  repeat' first
    | intro _ | with_reducible assumption | with_reducible apply writeWlkCtrl_kept
    | with_reducible apply writeWlkLimits_kept | with_reducible apply writeWlkBrk_kept | with_reducible apply Kept.bind
    | with_reducible apply Kept.pure | with_reducible apply Kept.throw
    | fail_if_no_progress with_reducible apply Kept.upd | with_reducible apply Kept.iteAct | split
    | refine Kept.of_fst (by with_reducible assumption) ?_ | refine Kept.of_snd (by with_reducible assumption) ?_
    | dsimp only

theorem writeFst_kept {o : Nat} {value : Word} {s : State} (hs : Kept q t s) :
    Kept q t (writeFst o value s) := by
  unfold writeFst
  repeat' first
    | intro _ | with_reducible assumption | with_reducible apply writeFstNode_kept | with_reducible apply writeFstTorus_kept
    | with_reducible apply writeFstTimeout_kept | with_reducible apply writeFstTime_kept
    | with_reducible apply writeSysOffset_kept | with_reducible apply writeDetour_kept | with_reducible apply Kept.bind
    | with_reducible apply Kept.pure | with_reducible apply Kept.throw
    | fail_if_no_progress with_reducible apply Kept.upd | with_reducible apply Kept.iteAct | split
    | refine Kept.of_fst (by with_reducible assumption) ?_ | refine Kept.of_snd (by with_reducible assumption) ?_
    | dsimp only

theorem writeMgt_kept {o : Nat} {value : Word} {s : State} (hs : Kept q t s) :
    Kept q t (writeMgt o value s) := by
  unfold writeMgt
  repeat' first
    | intro _ | with_reducible assumption | with_reducible apply Kept.bind | with_reducible apply Kept.pure
    | with_reducible apply Kept.throw | fail_if_no_progress with_reducible apply Kept.upd
    | with_reducible apply Kept.iteAct | split | refine Kept.of_fst (by with_reducible assumption) ?_
    | refine Kept.of_snd (by with_reducible assumption) ?_ | dsimp only

theorem writeBlock_kept {src : Nat} {value : Word} {s : State} {y0 : Block} (hs : Kept q t s) :
    Kept q t (writeBlock src value s y0) := by
  unfold writeBlock
  repeat' first
    | intro _ | with_reducible assumption | with_reducible apply writeFlkCtrl_kept | with_reducible apply writeRstCtrl_kept
    | with_reducible apply writeEpochSel_kept | with_reducible apply writeWdog_kept
    | with_reducible apply writeHbCfg_kept | with_reducible apply writeEvtIrq_kept | with_reducible apply writePart_kept
    | with_reducible apply writePwrCtrl_kept | with_reducible apply writePwrCap_kept
    | with_reducible apply writePwrRamp_kept | with_reducible apply writeDomSel_kept
    | with_reducible apply writeHub_kept | with_reducible apply writeStk_kept | with_reducible apply writeJig_kept
    | with_reducible apply writeRing_kept | with_reducible apply writeWlk_kept | with_reducible apply writeFst_kept
    | with_reducible apply writeMgt_kept | with_reducible apply Kept.bind | with_reducible apply Kept.pure
    | with_reducible apply Kept.throw | fail_if_no_progress with_reducible apply Kept.upd
    | with_reducible apply Kept.iteAct | split | refine Kept.of_fst (by with_reducible assumption) ?_
    | refine Kept.of_snd (by with_reducible assumption) ?_ | dsimp only

theorem absentBy_kept {s : State} {src off : Nat} (hs : Kept q t s) :
    Kept q t (absentBy s src off) := by
  unfold absentBy
  repeat' first
    | intro _ | with_reducible assumption | with_reducible apply logEvent_kept | with_reducible apply Kept.bind
    | with_reducible apply Kept.pure | with_reducible apply Kept.throw
    | fail_if_no_progress with_reducible apply Kept.upd | with_reducible apply Kept.iteAct | split
    | refine Kept.of_fst (by with_reducible assumption) ?_ | refine Kept.of_snd (by with_reducible assumption) ?_
    | dsimp only

theorem setRegister_kept {src off : Nat} {value : Word} {s : State} (hs : Kept q t s) :
    Kept q t (setRegister src off value s) := by
  unfold setRegister
  repeat' first
    | intro _ | with_reducible assumption | with_reducible apply writeBlock_kept | with_reducible apply absentBy_kept
    | with_reducible apply Kept.bind | with_reducible apply Kept.pure | with_reducible apply Kept.throw
    | fail_if_no_progress with_reducible apply Kept.upd | with_reducible apply Kept.iteAct | split
    | refine Kept.of_fst (by with_reducible assumption) ?_ | refine Kept.of_snd (by with_reducible assumption) ?_
    | dsimp only

end Sys2Proof.Laws
end

