-- ==== Sys2Proof/Laws/KeptMgmt.lean ====
section
/-! SUPPORT. Each operation of Machine/Mgmt.lean keeps the queue, device time and canonical memories. -/

namespace Sys2Proof.Laws
open Sys2Proof Sys2Proof.Machine

variable {q : List Instr} {t : BitVec 64}

theorem reply_kept {s : State} {b : Binding} {typ cmd code : BitVec 8} {body : List Byte} (hs : Kept q t s) :
    Kept q t (reply s b typ cmd code body) := by
  unfold reply
  repeat' first
    | with_reducible assumption | with_reducible apply emit_kept

theorem tell_kept {s : State} {b : Binding} {typ cmd code : BitVec 8} {body : List Byte} (hs : Kept q t s) :
    Kept q t (Machine.tell s b typ cmd code body) := by
  unfold Machine.tell
  repeat' first
    | with_reducible assumption | with_reducible apply reply_kept | split

theorem pldm_kept {s : State} {b : Binding} {t' : Nat} {cmd code : BitVec 8} {body : List Byte} (hs : Kept q t s) :
    Kept q t (pldm s b t' cmd code body) := by
  unfold pldm
  repeat' first
    | with_reducible assumption | with_reducible apply reply_kept

theorem setEffecter_kept {s : State} {id v : Nat} (hs : Kept q t s) :
    Kept q t (setEffecter s id v) := by
  unfold setEffecter
  repeat' first
    | with_reducible assumption | fail_if_no_progress with_reducible apply Kept.upd

theorem tryEvent_kept {s : State} {r : BitVec 8} {t' : BitVec 32} {n : Nat} (hs : Kept q t s) :
    Kept q t (tryEvent s r t' n) := by
  unfold tryEvent
  repeat' first
    | with_reducible assumption | with_reducible apply emit_kept | fail_if_no_progress with_reducible apply Kept.upd

theorem endEvent_kept {s : State} (hs : Kept q t s) :
    Kept q t (endEvent s) := by
  unfold endEvent
  repeat' first
    | with_reducible assumption | fail_if_no_progress with_reducible apply Kept.upd

theorem vendor_kept {s : State} {b : Binding} {cmd : BitVec 8} {body : List Byte} (hs : Kept q t s) :
    Kept q t (vendor s b cmd body) := by
  unfold vendor
  repeat' first
    | with_reducible assumption | with_reducible apply reply_kept

theorem mgmtClaim_kept {s : State} (hs : Kept q t s) :
    Kept q t (mgmtClaim s).1 := by
  unfold mgmtClaim
  repeat' first
    | with_reducible assumption | with_reducible apply setupIgnored_kept | with_reducible apply logMgmt_kept
    | fail_if_no_progress with_reducible apply Kept.upd | split | dsimp only

theorem mgmtRelease_kept {s : State} (hs : Kept q t s) :
    Kept q t (mgmtRelease s).1 := by
  unfold mgmtRelease
  repeat' first
    | with_reducible assumption | with_reducible apply setupIgnored_kept | with_reducible apply logMgmt_kept
    | fail_if_no_progress with_reducible apply Kept.upd | split

theorem mgmtWrite_kept {s : State} {off : Nat} {value : Word} (hs : Kept q t s) :
    Kept q t (mgmtWrite s off value).1 := by
  unfold mgmtWrite
  repeat' first
    | with_reducible assumption | with_reducible apply setupIgnored_kept | with_reducible apply writeEvtHead_kept
    | with_reducible apply absentBy_kept | with_reducible apply setRegister_kept | with_reducible apply mgmtClaim_kept
    | with_reducible apply mgmtRelease_kept | split

theorem mgmtReset_kept {s : State} {d i : Nat} (hs : Kept q t s) :
    Kept q t (mgmtReset s d i).1 := by
  unfold mgmtReset
  repeat' first
    | with_reducible assumption | with_reducible apply beginReset_kept | split | dsimp only

theorem served_kept {s w : State} {b : Binding} {k : State → State} (hk : ∀ u, Kept q t u → Kept q t (k u)) (hs : Kept q t s)
    (hw : served s b k = .next w) : Kept q t w := by
  unfold served at hw
  cases hw
  split
  · exact hk s hs
  · exact hs

theorem servedByFirmware_kept {s w : State} {b : Binding} {typ cmd : BitVec 8} {k : State → State}
    (hk : ∀ u, Kept q t u → Kept q t (k u)) (hs : Kept q t s) (hw : servedByFirmware s b typ cmd k = .next w) :
    Kept q t w := by
  refine served_kept (fun u hu => ?_) hs hw
  repeat' first
    | with_reducible assumption | with_reducible apply reply_kept | apply hk | split

end Sys2Proof.Laws
end

