-- ==== Sys2Proof/Laws/KeptPorts.lean ====
section
/-! SUPPORT. Each operation of Machine/Ports.lean keeps the queue, device time and canonical memories. -/

namespace Sys2Proof.Laws
open Sys2Proof Sys2Proof.Machine

variable {q : List Instr} {t : BitVec 64}

theorem msixServe_kept {s : State} {p : PortId} {v : Nat} (hs : Kept q t s) :
    Kept q t (msixServe s p v) := by
  unfold msixServe
  repeat' first
    | intro _ | with_reducible assumption | with_reducible apply modPort_kept | with_reducible apply emit_kept | split
    | dsimp only

theorem writeMsix_kept {p : PortId} {off n : Nat} {value : Word} {s : State} (hs : Kept q t s) :
    Kept q t (writeMsix p off n value s) := by
  unfold writeMsix
  repeat' first
    | intro _ | with_reducible assumption | with_reducible apply modPort_kept | with_reducible apply msixServe_kept | split

theorem bar0Give_kept {s : State} {p : PortId} {v : Word} (hs : Kept q t s) :
    Kept q t (bar0Give s p v) := by
  unfold bar0Give
  repeat' first
    | with_reducible assumption | with_reducible apply emit_kept

theorem writeBar2_kept {p : PortId} {o : Nat} {value : Word} {s : State} (hs : Kept q t s) :
    Kept q t (writeBar2 p o value s) := by
  unfold writeBar2
  repeat' first
    | with_reducible assumption | with_reducible apply deafBell_kept | with_reducible apply ringBell_kept | split
    | dsimp only

theorem writeVise_kept {p : PortId} {value : Word} {s : State} (hs : Kept q t s) :
    Kept q t (writeVise p value s) := by
  unfold writeVise
  repeat' first
    | with_reducible assumption | with_reducible apply setupIgnored_kept | fail_if_no_progress with_reducible apply Kept.upd
    | split | dsimp only

theorem writeBeat_kept {p : PortId} {value : Word} {s : State} (hs : Kept q t s) :
    Kept q t (writeBeat p value s) := by
  unfold writeBeat
  repeat' first
    | intro _ | with_reducible assumption | with_reducible apply modPort_kept | split

theorem writeBar0_kept {p : PortId} {off : Nat} {value : Word} {s : State} (hs : Kept q t s) :
    Kept q t (writeBar0 p off value s) := by
  unfold writeBar0
  repeat' first
    | intro _ | with_reducible assumption | with_reducible apply openWrite_kept | with_reducible apply viseWrite_kept
    | with_reducible apply writeEvtHead_kept | with_reducible apply setRegister_kept
    | with_reducible apply writeVise_kept | with_reducible apply writeBeat_kept | split

theorem loseRing_kept {p : PortId} {s : State} {r : Nat} (hs : Kept q t s) :
    Kept q t (loseRing p s r) := by
  unfold loseRing
  repeat' first
    | with_reducible assumption | with_reducible apply drainRing_kept | with_reducible apply stopRing_kept | split
    | dsimp only

theorem losePort_kept {s : State} {p : PortId} {cls : BitVec 8} {d0 : Nat} (hs : Kept q t s) :
    Kept q t (losePort s p cls d0) := by
  unfold losePort
  repeat' first
    | intro _ | with_reducible assumption | with_reducible apply logEvent_kept | with_reducible apply endFlush_kept
    | with_reducible apply loseSwaps_kept | with_reducible apply loseRing_kept | with_reducible apply Kept.foldl
    | fail_if_no_progress with_reducible apply Kept.upd | split

theorem dropLink_kept {s : State} {p : PortId} (hs : Kept q t s) :
    Kept q t (dropLink s p) := by
  unfold dropLink
  repeat' first
    | intro _ | with_reducible assumption | with_reducible apply modPort_kept | with_reducible apply losePort_kept | split
    | dsimp only

end Sys2Proof.Laws
end

