-- ==== Sys2Proof/Laws/KeptModule.lean ====
section
/-! SUPPORT. Each operation of Machine/Module.lean keeps the queue, device time and canonical memories. -/

namespace Sys2Proof.Laws
open Sys2Proof Sys2Proof.Machine

variable {q : List Instr} {t : BitVec 64}

theorem markBad_kept {s : State} {c : Nat} {b : Bool} (hs : Kept q t s) :
    Kept q t (markBad s c b) := by
  unfold markBad
  repeat' first
    | with_reducible assumption | with_reducible apply modImage_kept

theorem setBootErr_kept {s : State} {code : Nat} (hs : Kept q t s) :
    Kept q t (setBootErr s code) := by
  unfold setBootErr
  repeat' first
    | with_reducible assumption | fail_if_no_progress with_reducible apply Kept.upd

theorem fallBack_kept {s : State} {c : Nat} (hs : Kept q t s) :
    Kept q t (fallBack s c) := by
  unfold fallBack
  repeat' first
    | with_reducible assumption | with_reducible apply logMgmt_kept | with_reducible apply markBad_kept
    | with_reducible apply setBootErr_kept | fail_if_no_progress with_reducible apply Kept.upd

theorem bootComponent_kept {bad : List Nat} {s : State} {c : Nat} (hs : Kept q t s) :
    Kept q t (bootComponent bad s c) := by
  unfold bootComponent
  repeat' first
    | with_reducible assumption | with_reducible apply markBad_kept | with_reducible apply setBootErr_kept
    | with_reducible apply fallBack_kept | fail_if_no_progress with_reducible apply Kept.upd | split | dsimp only

theorem bootCalibration_kept {s : State} {calBad : Bool} (hs : Kept q t s) :
    Kept q t (bootCalibration s calBad) := by
  unfold bootCalibration
  repeat' first
    | with_reducible assumption | with_reducible apply modImage_kept | with_reducible apply setBootErr_kept
    | fail_if_no_progress with_reducible apply Kept.upd | split

theorem startFirmware_kept {s : State} {calBad : Bool} {bad : List Nat} (hs : Kept q t s) :
    Kept q t (startFirmware s calBad bad) := by
  unfold startFirmware
  repeat' first
    | intro _ | with_reducible assumption | with_reducible apply bootComponent_kept
    | with_reducible apply bootCalibration_kept | with_reducible apply Kept.foldl
    | fail_if_no_progress with_reducible apply Kept.upd

theorem bootEnd_kept {s : State} {bad : List Nat} {calBad : Bool} (hs : Kept q t s) :
    Kept q t (bootEnd s bad calBad) := by
  unfold bootEnd
  repeat' first
    | with_reducible assumption | with_reducible apply setBootErr_kept | with_reducible apply bootComponent_kept
    | with_reducible apply startFirmware_kept | fail_if_no_progress with_reducible apply Kept.upd | split | dsimp only

theorem logReads_kept {s : State} {addresses : List (BitVec 64)} (hs : Kept q t s) :
    Kept q t (logReads s addresses) := by
  unfold logReads
  repeat' first
    | intro _ | with_reducible assumption | with_reducible apply logMgmt_kept | with_reducible apply Kept.foldl

theorem setSupply_kept {s : State} {millivolts : Nat} {pwrEn : Bool} (hs : Kept q t s) :
    Kept q t (setSupply s millivolts pwrEn) := by
  unfold setSupply
  repeat' first
    | with_reducible assumption | fail_if_no_progress with_reducible apply Kept.upd

theorem lostState_kept {s : State} (hs : Kept q t s) : Kept q t (lostState s) := by
  have h : Kept q t (advanceAll (dropLink (dropLink s .a) .b) Dom.warm 0) :=
    advanceAll_kept (dropLink_kept (dropLink_kept hs))
  unfold lostState
  dsimp only
  generalize advanceAll (dropLink (dropLink s .a) .b) Dom.warm 0 = u at h ⊢
  exact ⟨h.1, h.2, rfl, rfl, rfl, h.6, h.7⟩

theorem mainLoss_kept {s : State} (hs : Kept q t s) :
    Kept q t (mainLoss s) := by
  unfold mainLoss
  repeat' first
    | with_reducible assumption | with_reducible apply tapGate_kept | with_reducible apply lostState_kept

theorem coldState_kept {s : State} (hs : Kept q t s) : Kept q 0 (coldState s) :=
  ⟨hs.1, rfl, rfl, rfl, rfl, hs.6, hs.7⟩

theorem unplugged_kept {s : State} {i : Nat} (hs : Kept q t s) :
    Kept q t (unplugged s i) := by
  unfold unplugged
  repeat' first
    | with_reducible assumption | with_reducible apply modLnk_kept | split

theorem plugged_kept {s : State} {i : Nat} (hs : Kept q t s) :
    Kept q t (plugged s i) := by
  unfold plugged
  repeat' first
    | with_reducible assumption | with_reducible apply modLnk_kept | with_reducible apply beginTraining_kept | split
    | dsimp only

theorem giveBypass_kept {s : State} {k : Nat} (hs : Kept q t s) :
    Kept q t (giveBypass s k) := by
  unfold giveBypass
  repeat' first
    | with_reducible assumption | with_reducible apply emit_kept

theorem loadTap_kept {s w : State} {k : Nat} {f : State → State} (hf : ∀ u, Kept q t u → Kept q t (f u))
    (hs : Kept q t s) (hw : loadTap s k f = .next w) : Kept q t w := by
  unfold loadTap at hw
  cases hw
  split
  · exact hf _ (Kept.upd hs)
  · exact hs

end Sys2Proof.Laws
end

