-- ==== Sys2Proof/Laws/KeptRouter.lean ====
section
/-! SUPPORT. Each operation of Machine/Router.lean keeps the queue, device time and canonical memories. -/

namespace Sys2Proof.Laws
open Sys2Proof Sys2Proof.Machine

variable {q : List Instr} {t : BitVec 64}

theorem dropAged_kept {s : State} {x : Transit} (hs : Kept q t s) :
    Kept q t (dropAged s x) := by
  unfold dropAged
  repeat' first
    | with_reducible assumption | with_reducible apply countAged_kept | with_reducible apply releaseHeld_kept

theorem takeOut_kept {s : State} {d : Nat} {x : Transit} (hs : Kept q t s) :
    Kept q t (takeOut s d x) := by
  unfold takeOut
  repeat' first
    | with_reducible assumption | fail_if_no_progress with_reducible apply Kept.upd

theorem dropUnroutable_kept {s : State} {d : Nat} {p : Packet} (hs : Kept q t s) :
    Kept q t (dropUnroutable s d p) := by
  unfold dropUnroutable
  repeat' first
    | with_reducible assumption | with_reducible apply sendNak_kept | fail_if_no_progress with_reducible apply Kept.upd
    | split

theorem toLink_kept {s : State} {i : Nat} {p : Packet} (hs : Kept q t s) :
    Kept q t (toLink s i p) := by
  unfold toLink
  repeat' first
    | with_reducible assumption | with_reducible apply modLnk_kept

theorem routeOne_kept {s : State} {d : Nat} {x : Transit} (hs : Kept q t s) :
    Kept q t (routeOne s d x) := by
  unfold routeOne
  repeat' first
    | with_reducible assumption | with_reducible apply pushIngress_kept | with_reducible apply releaseHeld_kept
    | with_reducible apply dropAged_kept | with_reducible apply takeOut_kept | with_reducible apply dropUnroutable_kept
    | with_reducible apply toLink_kept | split | dsimp only

theorem dropQueued_kept {s w : State} {d : Nat} (hs : Kept q t s) (hw : dropQueued s d = some w) : Kept q t w := by
  unfold dropQueued at hw
  obtain ⟨e, _, he⟩ := List.exists_of_findSome?_eq_some hw
  split at he
  · split at he
    · cases he; exact countAged_kept (takeQueued_kept hs)
    · cases he
  · cases he

theorem probePiece_kept {p : Nat × Nat} {s0 : State} (hs0 : Kept q t s0) :
    Kept q t (runAct (probePiece p) s0).2 := by
  unfold probePiece
  repeat' first
    | intro _ | with_reducible assumption | with_reducible apply loadSector_kept | with_reducible apply noteSpadBad_kept
    | with_reducible apply Kept.edit | with_reducible apply eachAct_kept | with_reducible apply Kept.get_bind
    | with_reducible apply Kept.bind | with_reducible apply Kept.pure | with_reducible apply Kept.throw
    | with_reducible apply Kept.iteAct | split

theorem onlinePiece_kept {p : Nat × Nat} {s0 : State} (hs0 : Kept q t s0) :
    Kept q t (runAct (onlinePiece p) s0).2 := by
  unfold onlinePiece
  repeat' first
    | with_reducible assumption | with_reducible apply need_kept | with_reducible apply Kept.get_bind
    | with_reducible apply Kept.pure | split

theorem presentPiece_kept {p : Nat × Nat} {s0 : State} (hs0 : Kept q t s0) :
    Kept q t (runAct (presentPiece p) s0).2 := by
  unfold presentPiece
  repeat' first
    | with_reducible assumption | with_reducible apply need_kept | with_reducible apply Kept.get_bind
    | with_reducible apply Kept.pure | split

theorem admitRequest_kept {p : Packet} {s0 : State} (hs0 : Kept q t s0) :
    Kept q t (runAct (admitRequest p) s0).2 := by
  unfold admitRequest
  repeat' first
    | intro _ | with_reducible assumption | with_reducible apply need_kept | with_reducible apply Kept.get_bind
    | with_reducible apply Kept.bind | with_reducible apply Kept.pure | with_reducible apply Kept.throw | split

theorem mayBegin_kept {p : Packet} {s0 : State} (hs0 : Kept q t s0) :
    Kept q t (runAct (mayBegin p) s0).2 := by
  unfold mayBegin
  repeat' first
    | with_reducible assumption | with_reducible apply needReady_kept | with_reducible apply Kept.get_bind

theorem servePut_kept {p : Packet} {s0 : State} (hs0 : Kept q t s0) :
    Kept q t (runAct (servePut p) s0).2 := by
  unfold servePut
  repeat' first
    | intro _ | with_reducible assumption | with_reducible apply checkStore_kept | with_reducible apply storeFrom_kept
    | with_reducible apply probePiece_kept | with_reducible apply presentPiece_kept
    | with_reducible apply admitRequest_kept | with_reducible apply mayBegin_kept | with_reducible apply eachAct_kept
    | with_reducible apply need_kept | with_reducible apply Kept.get_bind | with_reducible apply Kept.bind
    | with_reducible apply Kept.pure

theorem serveGet_kept {p : Packet} {s0 : State} (hs0 : Kept q t s0) :
    Kept q t (runAct (serveGet p) s0).2 := by
  unfold serveGet
  repeat' first
    | intro _ | with_reducible assumption | with_reducible apply loadFrom_kept | with_reducible apply onlinePiece_kept
    | with_reducible apply presentPiece_kept | with_reducible apply admitRequest_kept
    | with_reducible apply mayBegin_kept | with_reducible apply eachAct_kept | with_reducible apply need_kept
    | with_reducible apply Kept.get_bind | with_reducible apply Kept.bind

theorem serveAdd_kept {p : Packet} {s0 : State} (hs0 : Kept q t s0) :
    Kept q t (runAct (serveAdd p) s0).2 := by
  unfold serveAdd
  repeat' first
    | intro _ | with_reducible assumption | with_reducible apply checkStore_kept | with_reducible apply loadFrom_kept
    | with_reducible apply storeFrom_kept | with_reducible apply admitRequest_kept | with_reducible apply mayBegin_kept
    | with_reducible apply need_kept | with_reducible apply Kept.get_bind | with_reducible apply Kept.bind
    | with_reducible apply Kept.pure

theorem servePeg_kept {p : Packet} {s0 : State} (hs0 : Kept q t s0) :
    Kept q t (runAct (servePeg p) s0).2 := by
  unfold servePeg
  repeat' first
    | intro _ | with_reducible assumption | with_reducible apply setPeg_kept | with_reducible apply addPeg_kept
    | with_reducible apply admitRequest_kept | with_reducible apply mayBegin_kept | with_reducible apply Kept.edit
    | with_reducible apply need_kept | with_reducible apply Kept.get_bind | with_reducible apply Kept.bind
    | with_reducible apply Kept.pure | with_reducible apply Kept.throw | split

theorem answer_kept {s : State} {d : Nat} {p : Packet} {typ : BitVec 4} {bs : List Byte} (hs : Kept q t s) :
    Kept q t (answer s d p typ bs) := by
  unfold answer
  repeat' first
    | with_reducible assumption | with_reducible apply respond_kept

theorem leaveIngress_kept {s : State} {d : Nat} {x : Transit} (hs : Kept q t s) :
    Kept q t (leaveIngress s d x) := by
  unfold leaveIngress
  repeat' first
    | with_reducible assumption | fail_if_no_progress with_reducible apply Kept.upd

theorem tryServe_kept {s w : State} {d : Nat} {typ : BitVec 4} {serve : Packet → Act (List Byte)} {x : Transit}
    (hserve : ∀ p u, Kept q t u → Kept q t (runAct (serve p) u).2) (hs : Kept q t s)
    (hw : tryServe s d typ serve x = some w) : Kept q t w := by
  have h := hserve x.pkt s hs
  unfold tryServe at hw
  split at hw
  · next he => cases hw; rw [he] at h; exact releaseHeld_kept (answer_kept (leaveIngress_kept h))
  · next he => cases hw; rw [he] at h; exact releaseHeld_kept (sendNak_kept (leaveIngress_kept h))
  · cases hw

theorem serveFirst_kept {s : State} {d : Nat} {typ ans : BitVec 4} {serve : Packet → Act (List Byte)} (hs : Kept q t s)
    (hserve : ∀ p u, Kept q t u → Kept q t (runAct (serve p) u).2) : Kept q t (serveFirst s d typ ans serve) := by
  unfold serveFirst
  split
  · refine Kept.getD (fun w hw => ?_) hs
    obtain ⟨x, _, hx⟩ := List.exists_of_findSome?_eq_some hw
    exact tryServe_kept hserve hs hx
  · exact hs

theorem stallAsker_kept {s : State} {p : Packet} {on : List Nat} (hs : Kept q t s) :
    Kept q t (stallAsker s p on) := by
  unfold stallAsker
  repeat' first
    | with_reducible assumption | with_reducible apply markStall_kept | split

theorem dealWith_kept {s : State} {p : Packet} (hs : Kept q t s) : Kept q t (dealWith s p) := by
  have h := takeResponse_kept (p := p) hs
  unfold dealWith
  split
  · exact Kept.upd (Kept.ite (stallAsker_kept hs) hs)
  · next he => rw [he] at h; exact h

theorem absorb_kept {s : State} {d : Nat} {typ : BitVec 4} {p : Packet} (hs : Kept q t s) :
    Kept q t (absorb s d typ p) := by
  unfold absorb
  repeat' first
    | with_reducible assumption | with_reducible apply releaseHeld_kept | with_reducible apply takeOut_kept
    | with_reducible apply dealWith_kept | fail_if_no_progress with_reducible apply Kept.upd | split

theorem retireTag_kept {s : State} {d : Nat} {tag : BitVec 16} (hs : Kept q t s) :
    Kept q t (retireTag s d tag) := by
  unfold retireTag
  repeat' first
    | with_reducible assumption | fail_if_no_progress with_reducible apply Kept.upd

theorem timeOut_kept {s : State} {o : Outstanding} (hs : Kept q t s) :
    Kept q t (timeOut s o) := by
  unfold timeOut
  repeat' first
    | with_reducible assumption | with_reducible apply launch_kept | with_reducible apply settleRequest_kept
    | with_reducible apply retireTag_kept | fail_if_no_progress with_reducible apply Kept.upd | split | dsimp only

theorem sendTime_kept {s : State} {i : Nat} {t1 t2 t3 t4 : BitVec 64} (hs : Kept q t s) :
    Kept q t (sendTime s i t1 t2 t3 t4) := by
  unfold sendTime
  repeat' first
    | with_reducible assumption | with_reducible apply sendFlit_kept

theorem noteOffset_kept {s : State} {off : Int} (hs : Kept q t s) :
    Kept q t (noteOffset s off) := by
  unfold noteOffset
  repeat' first
    | with_reducible assumption | fail_if_no_progress with_reducible apply Kept.upd

theorem steer_kept {s : State} {off : Int} (hs : Kept q t s) :
    Kept q t (steer s off) := by
  unfold steer
  repeat' first
    | with_reducible assumption | with_reducible apply freeBelow_kept | fail_if_no_progress with_reducible apply Kept.upd

theorem exchangeDone_kept {s : State} {off : Int} (hs : Kept q t s) :
    Kept q t (exchangeDone s off) := by
  unfold exchangeDone
  repeat' first
    | with_reducible assumption | with_reducible apply noteOffset_kept | with_reducible apply steer_kept
    | fail_if_no_progress with_reducible apply Kept.upd | split | dsimp only

theorem takeTime_kept {s : State} {i : Nat} {root : BitVec 18} {ts : TimeStamps} {parentLocked : Bool} (hs : Kept q t s) :
    Kept q t (takeTime s i root ts parentLocked) := by
  unfold takeTime
  repeat' first
    | with_reducible assumption | with_reducible apply modLnk_kept | with_reducible apply logEvent_kept
    | with_reducible apply sendTime_kept | with_reducible apply noteOffset_kept | with_reducible apply exchangeDone_kept
    | split

end Sys2Proof.Laws
end

