-- ==== Sys2Proof/Laws/KeptSpdm.lean ====
section
/-! SUPPORT. Each operation of Machine/Spdm.lean keeps the queue, device time and canonical memories. -/

namespace Sys2Proof.Laws
open Sys2Proof Sys2Proof.Machine

variable {q : List Instr} {t : BitVec 64}

theorem spdm_kept {s : State} {b : Binding} {cmd : BitVec 8} {body : List Byte} (hs : Kept q t s) :
    Kept q t (spdm s b cmd body) := by
  unfold spdm
  repeat' first
    | with_reducible assumption | with_reducible apply reply_kept

theorem spdmError_kept {s : State} {b : Binding} {cmd : BitVec 8} (hs : Kept q t s) :
    Kept q t (spdmError s b cmd) := by
  unfold spdmError
  repeat' first
    | with_reducible assumption | with_reducible apply reply_kept

theorem signature_kept {s : State} (hs : Kept q t s) :
    Kept q t (signature s).2 := by
  unfold signature
  repeat' first
    | with_reducible assumption | with_reducible apply freeBytes_kept

end Sys2Proof.Laws
end

