-- ==== Sys2Proof/Laws/KeptUpdate.lean ====
section
/-! SUPPORT. Each operation of Machine/Update.lean keeps the queue, device time and canonical memories. -/

namespace Sys2Proof.Laws
open Sys2Proof Sys2Proof.Machine

variable {q : List Instr} {t : BitVec 64}

theorem fwReply_kept {s : State} {b : Binding} {cmd : Nat} {code : BitVec 8} {body : List Byte} (hs : Kept q t s) :
    Kept q t (fwReply s b cmd code body) := by
  unfold fwReply
  repeat' first
    | with_reducible assumption | with_reducible apply pldm_kept

theorem sessionCmd_kept {s : State} {b : Binding} {cmd : Nat} {states : List Nat} {k : State → State} (hs : Kept q t s) (hk :
    ∀ x0, Kept q t x0 → Kept q t (k x0)) :
    Kept q t (sessionCmd s b cmd states k) := by
  unfold sessionCmd
  repeat' first
    | with_reducible assumption | apply hk | with_reducible apply fwReply_kept
    | fail_if_no_progress with_reducible apply Kept.upd | split

theorem inSession_kept {s : State} {b : Binding} {cmd : Nat} {states : List Nat} {k : State → State} (hs : Kept q t s) (hk :
    ∀ x0, Kept q t x0 → Kept q t (k x0)) :
    Kept q t (inSession s b cmd states k) := by
  unfold inSession
  repeat' first
    | intro _ | with_reducible assumption | apply hk | with_reducible apply fwReply_kept
    | with_reducible apply sessionCmd_kept | split

theorem setUpdate_kept {s : State} {state c : Nat} (hs : Kept q t s) :
    Kept q t (setUpdate s state c) := by
  unfold setUpdate
  repeat' first
    | with_reducible assumption | fail_if_no_progress with_reducible apply Kept.upd

theorem closeSession_kept {s : State} (hs : Kept q t s) :
    Kept q t (closeSession s) := by
  unfold closeSession
  repeat' first
    | with_reducible assumption | with_reducible apply setUpdate_kept | fail_if_no_progress with_reducible apply Kept.upd

theorem beginComponent_kept {s : State} {c size : Nat} (hs : Kept q t s) :
    Kept q t (beginComponent s c size) := by
  unfold beginComponent
  repeat' first
    | with_reducible assumption | with_reducible apply spoilIdle_kept | with_reducible apply askFlash_kept
    | with_reducible apply setUpdate_kept | fail_if_no_progress with_reducible apply Kept.upd

theorem askPiece_kept {s : State} (hs : Kept q t s) :
    Kept q t (askPiece s) := by
  unfold askPiece
  repeat' first
    | with_reducible assumption | with_reducible apply tell_kept

theorem dropComponent_kept {s : State} (hs : Kept q t s) :
    Kept q t (dropComponent s) := by
  unfold dropComponent
  repeat' first
    | with_reducible assumption | with_reducible apply spoilIdle_kept | with_reducible apply setUpdate_kept
    | fail_if_no_progress with_reducible apply Kept.upd

theorem flashDone_kept {s : State} {op : Nat} (hs : Kept q t s) :
    Kept q t (flashDone s op) := by
  unfold flashDone
  repeat' first
    | with_reducible assumption | with_reducible apply askFlash_kept | with_reducible apply askPiece_kept
    | fail_if_no_progress with_reducible apply Kept.upd | split | dsimp only

theorem verifySlot_kept {s : State} {c : Nat} {version : BitVec 32} {svn : BitVec 8} {sigOk : Bool} (hs : Kept q t s) :
    Kept q t (verifySlot s c version svn sigOk) := by
  unfold verifySlot
  repeat' first
    | with_reducible assumption | with_reducible apply modIdle_kept | with_reducible apply logMgmt_kept
    | with_reducible apply setUpdate_kept | fail_if_no_progress with_reducible apply Kept.upd | split | dsimp only

theorem cancelAll_kept {s : State} (hs : Kept q t s) :
    Kept q t (cancelAll s) := by
  unfold cancelAll
  repeat' first
    | intro _ | with_reducible assumption | with_reducible apply spoilIdle_kept | with_reducible apply closeSession_kept
    | with_reducible apply dropComponent_kept | with_reducible apply Kept.foldl | split

theorem recalLink_kept {s : State} {i : Nat} (hs : Kept q t s) :
    Kept q t (recalLink s i) := by
  unfold recalLink
  repeat' first
    | with_reducible assumption | with_reducible apply drainLink_kept | split

theorem startChannel_kept {s : State} (hs : Kept q t s) :
    Kept q t (startChannel s) := by
  unfold startChannel
  repeat' first
    | with_reducible assumption | with_reducible apply modStk_kept | fail_if_no_progress with_reducible apply Kept.upd
    | split | dsimp only

theorem startUnit_kept {s : State} {u : Nat} (hs : Kept q t s) :
    Kept q t (startUnit s u) := by
  unfold startUnit
  repeat' first
    | with_reducible assumption | with_reducible apply recalLink_kept | with_reducible apply startChannel_kept
    | fail_if_no_progress with_reducible apply Kept.upd | split | dsimp only

theorem endChannel_kept {s : State} (hs : Kept q t s) :
    Kept q t (endChannel s) := by
  unfold endChannel
  repeat' first
    | with_reducible assumption | fail_if_no_progress with_reducible apply Kept.upd | split

theorem startComponent_kept {s : State} (hs : Kept q t s) :
    Kept q t (startComponent s) := by
  unfold startComponent
  repeat' first
    | with_reducible assumption | with_reducible apply setUpdate_kept | with_reducible apply closeSession_kept
    | with_reducible apply startUnit_kept | fail_if_no_progress with_reducible apply Kept.upd | split

theorem logActivated_kept {c : Nat} {s : State} {u : Nat} (hs : Kept q t s) :
    Kept q t (logActivated c s u) := by
  unfold logActivated
  repeat' first
    | with_reducible assumption | with_reducible apply logEvent_kept

theorem resumeHub_kept {s : State} (hs : Kept q t s) :
    Kept q t (resumeHub s) := by
  unfold resumeHub
  repeat' first
    | intro _ | with_reducible assumption | with_reducible apply drainRing_kept | with_reducible apply ringLatched_kept
    | with_reducible apply Kept.foldl

theorem finishComponent_kept {s : State} {c : Nat} (hs : Kept q t s) :
    Kept q t (finishComponent s c) := by
  unfold finishComponent
  repeat' first
    | intro _ | with_reducible assumption | with_reducible apply modIdle_kept | with_reducible apply advanceSvn_kept
    | with_reducible apply logActivated_kept | with_reducible apply resumeHub_kept | with_reducible apply Kept.foldl
    | fail_if_no_progress with_reducible apply Kept.upd | split

theorem failComponent_kept {s : State} {c : Nat} (hs : Kept q t s) :
    Kept q t (failComponent s c) := by
  unfold failComponent
  repeat' first
    | intro _ | with_reducible assumption | with_reducible apply logEvent_kept | with_reducible apply spoilIdle_kept
    | with_reducible apply recalLink_kept | with_reducible apply resumeHub_kept | with_reducible apply Kept.foldl
    | fail_if_no_progress with_reducible apply Kept.upd | split

end Sys2Proof.Laws
end

