-- ==== Sys2Proof/Laws/Map.lean ====
section
/-! SUPPORT. Sparse tables and byte memories: a read after a write gives what was written, every other key is unchanged, and what
is written twice is the second value. -/

namespace Sys2Proof.Laws
open Sys2Proof Sys2Proof.Machine

variable {α : Type} [DecidableEq α] {d : α}

theorem tget_below {lo i : Nat} {t : Tab α} (h : twfFrom d lo t = true) (hi : i < lo) : tget d t i = d := by
  cases t with
  | nil => rfl
  | cons e t =>
    obtain ⟨k, v⟩ := e
    simp only [twfFrom, Bool.and_eq_true, decide_eq_true_eq] at h
    have h1 : ¬ i = k := by omega
    have h2 : i < k := by omega
    simp [tget, h1, h2]

theorem tget_tset_same_from (i : Nat) (v : α) :
    ∀ (lo : Nat) (t : Tab α), twfFrom d lo t = true → tget d (tset d t i v) i = v
  | _, [], _ => by
    simp only [tset]
    split
    · next h => simp [tget, h]
    · simp [tget]
  | lo, (k, w) :: t, h => by
    simp only [twfFrom, Bool.and_eq_true, decide_eq_true_eq] at h
    simp only [tset]
    by_cases h1 : i = k
    · simp only [if_pos h1]
      split
      · next hv => subst hv; exact tget_below h.2 (by omega)
      · simp [tget]
    · simp only [if_neg h1]
      by_cases h2 : i < k
      · simp only [if_pos h2]
        split
        · next hv => simp [tget, h1, h2, hv]
        · simp [tget]
      · simp only [if_neg h2, tget, if_neg h1]
        exact tget_tset_same_from i v (k + 1) t h.2

/-- A read after a write to the same key gives the value written. -/
theorem tget_tset_same {t : Tab α} (h : twf d t = true) (i : Nat) (v : α) : tget d (tset d t i v) i = v :=
  tget_tset_same_from i v 0 t h

theorem tget_tset_other_from (i j : Nat) (v : α) (hij : j ≠ i) :
    ∀ (lo : Nat) (t : Tab α), twfFrom d lo t = true → tget d (tset d t i v) j = tget d t j
  | _, [], _ => by
    simp only [tset]
    split
    · rfl
    · simp only [tget, if_neg hij]
      split <;> rfl
  | lo, (k, w) :: t, h => by
    simp only [twfFrom, Bool.and_eq_true, decide_eq_true_eq] at h
    simp only [tset]
    by_cases h1 : i = k
    · subst h1
      simp only [if_true]
      split
      · simp only [tget, if_neg hij]
        split
        · next hlt => exact tget_below h.2 (by omega)
        · rfl
      · simp only [tget, if_neg hij]
    · simp only [if_neg h1]
      by_cases h2 : i < k
      · simp only [if_pos h2]
        split
        · rfl
        · simp only [tget, if_neg hij]
          split
          · next hlt =>
            have h3 : ¬ j = k := by omega
            have h4 : j < k := by omega
            simp [h3, h4]
          · rfl
      · simp only [if_neg h2, tget]
        split
        · rfl
        · split
          · rfl
          · exact tget_tset_other_from i j v hij (k + 1) t h.2

/-- A write leaves every other key alone. -/
theorem tget_tset_other {t : Tab α} (h : twf d t = true) {i j : Nat} (hij : j ≠ i) (v : α) :
    tget d (tset d t i v) j = tget d t j := tget_tset_other_from i j v hij 0 t h

/-- A value that is not the default is read back from any table. -/
theorem tget_tset_live (i : Nat) (v : α) (hv : v ≠ d) : ∀ t : Tab α, tget d (tset d t i v) i = v
  | [] => by simp [tset, hv, tget]
  | (k, w) :: t => by
    simp only [tset]
    by_cases h1 : i = k
    · simp [h1, hv, tget]
    · by_cases h2 : i < k
      · simp [h1, h2, hv, tget]
      · simp only [if_neg h1, if_neg h2, tget]
        exact tget_tset_live i v hv t

theorem twf_tset {t : Tab α} (h : twf d t = true) (i : Nat) (v : α) : twf d (tset d t i v) = true :=
  twfFrom_tset d i v 0 t (Nat.zero_le _) h

theorem twf_filter {t : Tab α} (h : twf d t = true) (p : Nat × α → Bool) : twf d (t.filter p) = true := twfFrom_filter d p 0 t h

/-! ## Bytes -/

theorem mget_mset_same {m : Memory} (h : Memory.wf m = true) (a : Nat) (b : Byte) : mget (mset m a b) a = b :=
  tget_tset_same h a b

theorem mget_mset_other {m : Memory} (h : Memory.wf m = true) {a c : Nat} (hc : c ≠ a) (b : Byte) :
    mget (mset m a b) c = mget m c := tget_tset_other h hc b

/-- Outside the bytes written, memory reads as before. -/
theorem mget_mwrite_other (bs : List Byte) :
    ∀ {m : Memory} (a : Nat) {c : Nat}, Memory.wf m = true → (c < a ∨ a + bs.length ≤ c) → mget (mwrite m a bs) c = mget m c := by
  induction bs with
  | nil => intro m a c _ _; rfl
  | cons b bs ih =>
    intro m a c h hc
    simp only [List.length_cons] at hc
    have h1 : mget (mwrite (mset m a b) (a + 1) bs) c = mget (mset m a b) c :=
      ih (a + 1) (memory_wf_mset h a b) (by omega)
    exact h1.trans (mget_mset_other h (by omega) b)

end Sys2Proof.Laws
end

