-- ==== Sys2Proof/Laws/State.lean ====
section
/-! SUPPORT. The parts of the state under the shared updates: every field that an update does not name is unchanged (one lemma per
field per update, true by computation), so that no proof unfolds a record update. -/

namespace Sys2Proof.Laws
open Sys2Proof Sys2Proof.Machine

variable (s : State)

@[simp] theorem modStk_pending (i : Nat) (f : Stack → Stack) : (modStk s i f).pending = s.pending := rfl
@[simp] theorem modStk_time (i : Nat) (f : Stack → Stack) : (modStk s i f).time = s.time := rfl
@[simp] theorem modStk_hub (i : Nat) (f : Stack → Stack) : (modStk s i f).hub = s.hub := rfl
@[simp] theorem modStk_portA (i : Nat) (f : Stack → Stack) : (modStk s i f).portA = s.portA := rfl
@[simp] theorem modStk_portB (i : Nat) (f : Stack → Stack) : (modStk s i f).portB = s.portB := rfl
@[simp] theorem modStk_evt (i : Nat) (f : Stack → Stack) : (modStk s i f).evt = s.evt := rfl
@[simp] theorem modStk_rst (i : Nat) (f : Stack → Stack) : (modStk s i f).rst = s.rst := rfl
@[simp] theorem modStk_pwr (i : Nat) (f : Stack → Stack) : (modStk s i f).pwr = s.pwr := rfl
@[simp] theorem modStk_fst (i : Nat) (f : Stack → Stack) : (modStk s i f).fst = s.fst := rfl
@[simp] theorem modStk_mgt (i : Nat) (f : Stack → Stack) : (modStk s i f).mgt = s.mgt := rfl
@[simp] theorem modStk_links (i : Nat) (f : Stack → Stack) : (modStk s i f).links = s.links := rfl
@[simp] theorem modStk_rings (i : Nat) (f : Stack → Stack) : (modStk s i f).rings = s.rings := rfl
@[simp] theorem modStk_parts (i : Nat) (f : Stack → Stack) : (modStk s i f).parts = s.parts := rfl
@[simp] theorem modStk_walkers (i : Nat) (f : Stack → Stack) : (modStk s i f).walkers = s.walkers := rfl
@[simp] theorem modStk_regions (i : Nat) (f : Stack → Stack) : (modStk s i f).regions = s.regions := rfl
@[simp] theorem modStk_clusters (i : Nat) (f : Stack → Stack) : (modStk s i f).clusters = s.clusters := rfl
@[simp] theorem modStk_graphs (i : Nat) (f : Stack → Stack) : (modStk s i f).graphs = s.graphs := rfl
@[simp] theorem modStk_tasks (i : Nat) (f : Stack → Stack) : (modStk s i f).tasks = s.tasks := rfl
@[simp] theorem modStk_steps (i : Nat) (f : Stack → Stack) : (modStk s i f).steps = s.steps := rfl
@[simp] theorem modStk_admitQueue (i : Nat) (f : Stack → Stack) : (modStk s i f).admitQueue = s.admitQueue := rfl
@[simp] theorem modStk_nextGraph (i : Nat) (f : Stack → Stack) : (modStk s i f).nextGraph = s.nextGraph := rfl
@[simp] theorem modStk_dram (i : Nat) (f : Stack → Stack) : (modStk s i f).dram = s.dram := rfl
@[simp] theorem modStk_spad (i : Nat) (f : Stack → Stack) : (modStk s i f).spad = s.spad := rfl
@[simp] theorem modStk_bbuf (i : Nat) (f : Stack → Stack) : (modStk s i f).bbuf = s.bbuf := rfl
@[simp] theorem modStk_pegs (i : Nat) (f : Stack → Stack) : (modStk s i f).pegs = s.pegs := rfl
@[simp] theorem modStk_out (i : Nat) (f : Stack → Stack) : (modStk s i f).out = s.out := rfl
@[simp] theorem modStk_freeCtr (i : Nat) (f : Stack → Stack) : (modStk s i f).freeCtr = s.freeCtr := rfl

@[simp] theorem modClu_pending (i : Nat) (f : Cluster → Cluster) : (modClu s i f).pending = s.pending := rfl
@[simp] theorem modClu_time (i : Nat) (f : Cluster → Cluster) : (modClu s i f).time = s.time := rfl
@[simp] theorem modClu_hub (i : Nat) (f : Cluster → Cluster) : (modClu s i f).hub = s.hub := rfl
@[simp] theorem modClu_portA (i : Nat) (f : Cluster → Cluster) : (modClu s i f).portA = s.portA := rfl
@[simp] theorem modClu_portB (i : Nat) (f : Cluster → Cluster) : (modClu s i f).portB = s.portB := rfl
@[simp] theorem modClu_evt (i : Nat) (f : Cluster → Cluster) : (modClu s i f).evt = s.evt := rfl
@[simp] theorem modClu_rst (i : Nat) (f : Cluster → Cluster) : (modClu s i f).rst = s.rst := rfl
@[simp] theorem modClu_pwr (i : Nat) (f : Cluster → Cluster) : (modClu s i f).pwr = s.pwr := rfl
@[simp] theorem modClu_fst (i : Nat) (f : Cluster → Cluster) : (modClu s i f).fst = s.fst := rfl
@[simp] theorem modClu_mgt (i : Nat) (f : Cluster → Cluster) : (modClu s i f).mgt = s.mgt := rfl
@[simp] theorem modClu_links (i : Nat) (f : Cluster → Cluster) : (modClu s i f).links = s.links := rfl
@[simp] theorem modClu_rings (i : Nat) (f : Cluster → Cluster) : (modClu s i f).rings = s.rings := rfl
@[simp] theorem modClu_parts (i : Nat) (f : Cluster → Cluster) : (modClu s i f).parts = s.parts := rfl
@[simp] theorem modClu_walkers (i : Nat) (f : Cluster → Cluster) : (modClu s i f).walkers = s.walkers := rfl
@[simp] theorem modClu_regions (i : Nat) (f : Cluster → Cluster) : (modClu s i f).regions = s.regions := rfl
@[simp] theorem modClu_stackTab (i : Nat) (f : Cluster → Cluster) : (modClu s i f).stackTab = s.stackTab := rfl
@[simp] theorem modClu_graphs (i : Nat) (f : Cluster → Cluster) : (modClu s i f).graphs = s.graphs := rfl
@[simp] theorem modClu_tasks (i : Nat) (f : Cluster → Cluster) : (modClu s i f).tasks = s.tasks := rfl
@[simp] theorem modClu_steps (i : Nat) (f : Cluster → Cluster) : (modClu s i f).steps = s.steps := rfl
@[simp] theorem modClu_admitQueue (i : Nat) (f : Cluster → Cluster) : (modClu s i f).admitQueue = s.admitQueue := rfl
@[simp] theorem modClu_nextGraph (i : Nat) (f : Cluster → Cluster) : (modClu s i f).nextGraph = s.nextGraph := rfl
@[simp] theorem modClu_dram (i : Nat) (f : Cluster → Cluster) : (modClu s i f).dram = s.dram := rfl
@[simp] theorem modClu_spad (i : Nat) (f : Cluster → Cluster) : (modClu s i f).spad = s.spad := rfl
@[simp] theorem modClu_bbuf (i : Nat) (f : Cluster → Cluster) : (modClu s i f).bbuf = s.bbuf := rfl
@[simp] theorem modClu_pegs (i : Nat) (f : Cluster → Cluster) : (modClu s i f).pegs = s.pegs := rfl
@[simp] theorem modClu_out (i : Nat) (f : Cluster → Cluster) : (modClu s i f).out = s.out := rfl
@[simp] theorem modClu_freeCtr (i : Nat) (f : Cluster → Cluster) : (modClu s i f).freeCtr = s.freeCtr := rfl

@[simp] theorem modReg_pending (i : Nat) (f : Region → Region) : (modReg s i f).pending = s.pending := rfl
@[simp] theorem modReg_time (i : Nat) (f : Region → Region) : (modReg s i f).time = s.time := rfl
@[simp] theorem modReg_hub (i : Nat) (f : Region → Region) : (modReg s i f).hub = s.hub := rfl
@[simp] theorem modReg_portA (i : Nat) (f : Region → Region) : (modReg s i f).portA = s.portA := rfl
@[simp] theorem modReg_portB (i : Nat) (f : Region → Region) : (modReg s i f).portB = s.portB := rfl
@[simp] theorem modReg_evt (i : Nat) (f : Region → Region) : (modReg s i f).evt = s.evt := rfl
@[simp] theorem modReg_rst (i : Nat) (f : Region → Region) : (modReg s i f).rst = s.rst := rfl
@[simp] theorem modReg_pwr (i : Nat) (f : Region → Region) : (modReg s i f).pwr = s.pwr := rfl
@[simp] theorem modReg_fst (i : Nat) (f : Region → Region) : (modReg s i f).fst = s.fst := rfl
@[simp] theorem modReg_mgt (i : Nat) (f : Region → Region) : (modReg s i f).mgt = s.mgt := rfl
@[simp] theorem modReg_links (i : Nat) (f : Region → Region) : (modReg s i f).links = s.links := rfl
@[simp] theorem modReg_rings (i : Nat) (f : Region → Region) : (modReg s i f).rings = s.rings := rfl
@[simp] theorem modReg_parts (i : Nat) (f : Region → Region) : (modReg s i f).parts = s.parts := rfl
@[simp] theorem modReg_walkers (i : Nat) (f : Region → Region) : (modReg s i f).walkers = s.walkers := rfl
@[simp] theorem modReg_clusters (i : Nat) (f : Region → Region) : (modReg s i f).clusters = s.clusters := rfl
@[simp] theorem modReg_stackTab (i : Nat) (f : Region → Region) : (modReg s i f).stackTab = s.stackTab := rfl
@[simp] theorem modReg_graphs (i : Nat) (f : Region → Region) : (modReg s i f).graphs = s.graphs := rfl
@[simp] theorem modReg_tasks (i : Nat) (f : Region → Region) : (modReg s i f).tasks = s.tasks := rfl
@[simp] theorem modReg_steps (i : Nat) (f : Region → Region) : (modReg s i f).steps = s.steps := rfl
@[simp] theorem modReg_admitQueue (i : Nat) (f : Region → Region) : (modReg s i f).admitQueue = s.admitQueue := rfl
@[simp] theorem modReg_nextGraph (i : Nat) (f : Region → Region) : (modReg s i f).nextGraph = s.nextGraph := rfl
@[simp] theorem modReg_dram (i : Nat) (f : Region → Region) : (modReg s i f).dram = s.dram := rfl
@[simp] theorem modReg_spad (i : Nat) (f : Region → Region) : (modReg s i f).spad = s.spad := rfl
@[simp] theorem modReg_bbuf (i : Nat) (f : Region → Region) : (modReg s i f).bbuf = s.bbuf := rfl
@[simp] theorem modReg_pegs (i : Nat) (f : Region → Region) : (modReg s i f).pegs = s.pegs := rfl
@[simp] theorem modReg_out (i : Nat) (f : Region → Region) : (modReg s i f).out = s.out := rfl
@[simp] theorem modReg_freeCtr (i : Nat) (f : Region → Region) : (modReg s i f).freeCtr = s.freeCtr := rfl

@[simp] theorem modRing_pending (i : Nat) (f : Ring → Ring) : (modRing s i f).pending = s.pending := rfl
@[simp] theorem modRing_time (i : Nat) (f : Ring → Ring) : (modRing s i f).time = s.time := rfl
@[simp] theorem modRing_hub (i : Nat) (f : Ring → Ring) : (modRing s i f).hub = s.hub := rfl
@[simp] theorem modRing_portA (i : Nat) (f : Ring → Ring) : (modRing s i f).portA = s.portA := rfl
@[simp] theorem modRing_portB (i : Nat) (f : Ring → Ring) : (modRing s i f).portB = s.portB := rfl
@[simp] theorem modRing_evt (i : Nat) (f : Ring → Ring) : (modRing s i f).evt = s.evt := rfl
@[simp] theorem modRing_rst (i : Nat) (f : Ring → Ring) : (modRing s i f).rst = s.rst := rfl
@[simp] theorem modRing_pwr (i : Nat) (f : Ring → Ring) : (modRing s i f).pwr = s.pwr := rfl
@[simp] theorem modRing_fst (i : Nat) (f : Ring → Ring) : (modRing s i f).fst = s.fst := rfl
@[simp] theorem modRing_mgt (i : Nat) (f : Ring → Ring) : (modRing s i f).mgt = s.mgt := rfl
@[simp] theorem modRing_links (i : Nat) (f : Ring → Ring) : (modRing s i f).links = s.links := rfl
@[simp] theorem modRing_parts (i : Nat) (f : Ring → Ring) : (modRing s i f).parts = s.parts := rfl
@[simp] theorem modRing_walkers (i : Nat) (f : Ring → Ring) : (modRing s i f).walkers = s.walkers := rfl
@[simp] theorem modRing_regions (i : Nat) (f : Ring → Ring) : (modRing s i f).regions = s.regions := rfl
@[simp] theorem modRing_clusters (i : Nat) (f : Ring → Ring) : (modRing s i f).clusters = s.clusters := rfl
@[simp] theorem modRing_stackTab (i : Nat) (f : Ring → Ring) : (modRing s i f).stackTab = s.stackTab := rfl
@[simp] theorem modRing_graphs (i : Nat) (f : Ring → Ring) : (modRing s i f).graphs = s.graphs := rfl
@[simp] theorem modRing_tasks (i : Nat) (f : Ring → Ring) : (modRing s i f).tasks = s.tasks := rfl
@[simp] theorem modRing_steps (i : Nat) (f : Ring → Ring) : (modRing s i f).steps = s.steps := rfl
@[simp] theorem modRing_admitQueue (i : Nat) (f : Ring → Ring) : (modRing s i f).admitQueue = s.admitQueue := rfl
@[simp] theorem modRing_nextGraph (i : Nat) (f : Ring → Ring) : (modRing s i f).nextGraph = s.nextGraph := rfl
@[simp] theorem modRing_dram (i : Nat) (f : Ring → Ring) : (modRing s i f).dram = s.dram := rfl
@[simp] theorem modRing_spad (i : Nat) (f : Ring → Ring) : (modRing s i f).spad = s.spad := rfl
@[simp] theorem modRing_bbuf (i : Nat) (f : Ring → Ring) : (modRing s i f).bbuf = s.bbuf := rfl
@[simp] theorem modRing_pegs (i : Nat) (f : Ring → Ring) : (modRing s i f).pegs = s.pegs := rfl
@[simp] theorem modRing_out (i : Nat) (f : Ring → Ring) : (modRing s i f).out = s.out := rfl
@[simp] theorem modRing_freeCtr (i : Nat) (f : Ring → Ring) : (modRing s i f).freeCtr = s.freeCtr := rfl

@[simp] theorem modPrt_pending (i : Nat) (f : Part → Part) : (modPrt s i f).pending = s.pending := rfl
@[simp] theorem modPrt_time (i : Nat) (f : Part → Part) : (modPrt s i f).time = s.time := rfl
@[simp] theorem modPrt_hub (i : Nat) (f : Part → Part) : (modPrt s i f).hub = s.hub := rfl
@[simp] theorem modPrt_portA (i : Nat) (f : Part → Part) : (modPrt s i f).portA = s.portA := rfl
@[simp] theorem modPrt_portB (i : Nat) (f : Part → Part) : (modPrt s i f).portB = s.portB := rfl
@[simp] theorem modPrt_evt (i : Nat) (f : Part → Part) : (modPrt s i f).evt = s.evt := rfl
@[simp] theorem modPrt_rst (i : Nat) (f : Part → Part) : (modPrt s i f).rst = s.rst := rfl
@[simp] theorem modPrt_pwr (i : Nat) (f : Part → Part) : (modPrt s i f).pwr = s.pwr := rfl
@[simp] theorem modPrt_fst (i : Nat) (f : Part → Part) : (modPrt s i f).fst = s.fst := rfl
@[simp] theorem modPrt_mgt (i : Nat) (f : Part → Part) : (modPrt s i f).mgt = s.mgt := rfl
@[simp] theorem modPrt_links (i : Nat) (f : Part → Part) : (modPrt s i f).links = s.links := rfl
@[simp] theorem modPrt_rings (i : Nat) (f : Part → Part) : (modPrt s i f).rings = s.rings := rfl
@[simp] theorem modPrt_walkers (i : Nat) (f : Part → Part) : (modPrt s i f).walkers = s.walkers := rfl
@[simp] theorem modPrt_regions (i : Nat) (f : Part → Part) : (modPrt s i f).regions = s.regions := rfl
@[simp] theorem modPrt_clusters (i : Nat) (f : Part → Part) : (modPrt s i f).clusters = s.clusters := rfl
@[simp] theorem modPrt_stackTab (i : Nat) (f : Part → Part) : (modPrt s i f).stackTab = s.stackTab := rfl
@[simp] theorem modPrt_graphs (i : Nat) (f : Part → Part) : (modPrt s i f).graphs = s.graphs := rfl
@[simp] theorem modPrt_tasks (i : Nat) (f : Part → Part) : (modPrt s i f).tasks = s.tasks := rfl
@[simp] theorem modPrt_steps (i : Nat) (f : Part → Part) : (modPrt s i f).steps = s.steps := rfl
@[simp] theorem modPrt_admitQueue (i : Nat) (f : Part → Part) : (modPrt s i f).admitQueue = s.admitQueue := rfl
@[simp] theorem modPrt_nextGraph (i : Nat) (f : Part → Part) : (modPrt s i f).nextGraph = s.nextGraph := rfl
@[simp] theorem modPrt_dram (i : Nat) (f : Part → Part) : (modPrt s i f).dram = s.dram := rfl
@[simp] theorem modPrt_spad (i : Nat) (f : Part → Part) : (modPrt s i f).spad = s.spad := rfl
@[simp] theorem modPrt_bbuf (i : Nat) (f : Part → Part) : (modPrt s i f).bbuf = s.bbuf := rfl
@[simp] theorem modPrt_pegs (i : Nat) (f : Part → Part) : (modPrt s i f).pegs = s.pegs := rfl
@[simp] theorem modPrt_out (i : Nat) (f : Part → Part) : (modPrt s i f).out = s.out := rfl
@[simp] theorem modPrt_freeCtr (i : Nat) (f : Part → Part) : (modPrt s i f).freeCtr = s.freeCtr := rfl

@[simp] theorem modWlk_pending (i : Nat) (f : Walker → Walker) : (modWlk s i f).pending = s.pending := rfl
@[simp] theorem modWlk_time (i : Nat) (f : Walker → Walker) : (modWlk s i f).time = s.time := rfl
@[simp] theorem modWlk_hub (i : Nat) (f : Walker → Walker) : (modWlk s i f).hub = s.hub := rfl
@[simp] theorem modWlk_portA (i : Nat) (f : Walker → Walker) : (modWlk s i f).portA = s.portA := rfl
@[simp] theorem modWlk_portB (i : Nat) (f : Walker → Walker) : (modWlk s i f).portB = s.portB := rfl
@[simp] theorem modWlk_evt (i : Nat) (f : Walker → Walker) : (modWlk s i f).evt = s.evt := rfl
@[simp] theorem modWlk_rst (i : Nat) (f : Walker → Walker) : (modWlk s i f).rst = s.rst := rfl
@[simp] theorem modWlk_pwr (i : Nat) (f : Walker → Walker) : (modWlk s i f).pwr = s.pwr := rfl
@[simp] theorem modWlk_fst (i : Nat) (f : Walker → Walker) : (modWlk s i f).fst = s.fst := rfl
@[simp] theorem modWlk_mgt (i : Nat) (f : Walker → Walker) : (modWlk s i f).mgt = s.mgt := rfl
@[simp] theorem modWlk_links (i : Nat) (f : Walker → Walker) : (modWlk s i f).links = s.links := rfl
@[simp] theorem modWlk_rings (i : Nat) (f : Walker → Walker) : (modWlk s i f).rings = s.rings := rfl
@[simp] theorem modWlk_parts (i : Nat) (f : Walker → Walker) : (modWlk s i f).parts = s.parts := rfl
@[simp] theorem modWlk_regions (i : Nat) (f : Walker → Walker) : (modWlk s i f).regions = s.regions := rfl
@[simp] theorem modWlk_clusters (i : Nat) (f : Walker → Walker) : (modWlk s i f).clusters = s.clusters := rfl
@[simp] theorem modWlk_stackTab (i : Nat) (f : Walker → Walker) : (modWlk s i f).stackTab = s.stackTab := rfl
@[simp] theorem modWlk_graphs (i : Nat) (f : Walker → Walker) : (modWlk s i f).graphs = s.graphs := rfl
@[simp] theorem modWlk_tasks (i : Nat) (f : Walker → Walker) : (modWlk s i f).tasks = s.tasks := rfl
@[simp] theorem modWlk_steps (i : Nat) (f : Walker → Walker) : (modWlk s i f).steps = s.steps := rfl
@[simp] theorem modWlk_admitQueue (i : Nat) (f : Walker → Walker) : (modWlk s i f).admitQueue = s.admitQueue := rfl
@[simp] theorem modWlk_nextGraph (i : Nat) (f : Walker → Walker) : (modWlk s i f).nextGraph = s.nextGraph := rfl
@[simp] theorem modWlk_dram (i : Nat) (f : Walker → Walker) : (modWlk s i f).dram = s.dram := rfl
@[simp] theorem modWlk_spad (i : Nat) (f : Walker → Walker) : (modWlk s i f).spad = s.spad := rfl
@[simp] theorem modWlk_bbuf (i : Nat) (f : Walker → Walker) : (modWlk s i f).bbuf = s.bbuf := rfl
@[simp] theorem modWlk_pegs (i : Nat) (f : Walker → Walker) : (modWlk s i f).pegs = s.pegs := rfl
@[simp] theorem modWlk_out (i : Nat) (f : Walker → Walker) : (modWlk s i f).out = s.out := rfl
@[simp] theorem modWlk_freeCtr (i : Nat) (f : Walker → Walker) : (modWlk s i f).freeCtr = s.freeCtr := rfl

@[simp] theorem modLnk_pending (i : Nat) (f : Link → Link) : (modLnk s i f).pending = s.pending := rfl
@[simp] theorem modLnk_time (i : Nat) (f : Link → Link) : (modLnk s i f).time = s.time := rfl
@[simp] theorem modLnk_hub (i : Nat) (f : Link → Link) : (modLnk s i f).hub = s.hub := rfl
@[simp] theorem modLnk_portA (i : Nat) (f : Link → Link) : (modLnk s i f).portA = s.portA := rfl
@[simp] theorem modLnk_portB (i : Nat) (f : Link → Link) : (modLnk s i f).portB = s.portB := rfl
@[simp] theorem modLnk_evt (i : Nat) (f : Link → Link) : (modLnk s i f).evt = s.evt := rfl
@[simp] theorem modLnk_rst (i : Nat) (f : Link → Link) : (modLnk s i f).rst = s.rst := rfl
@[simp] theorem modLnk_pwr (i : Nat) (f : Link → Link) : (modLnk s i f).pwr = s.pwr := rfl
@[simp] theorem modLnk_fst (i : Nat) (f : Link → Link) : (modLnk s i f).fst = s.fst := rfl
@[simp] theorem modLnk_mgt (i : Nat) (f : Link → Link) : (modLnk s i f).mgt = s.mgt := rfl
@[simp] theorem modLnk_rings (i : Nat) (f : Link → Link) : (modLnk s i f).rings = s.rings := rfl
@[simp] theorem modLnk_parts (i : Nat) (f : Link → Link) : (modLnk s i f).parts = s.parts := rfl
@[simp] theorem modLnk_walkers (i : Nat) (f : Link → Link) : (modLnk s i f).walkers = s.walkers := rfl
@[simp] theorem modLnk_regions (i : Nat) (f : Link → Link) : (modLnk s i f).regions = s.regions := rfl
@[simp] theorem modLnk_clusters (i : Nat) (f : Link → Link) : (modLnk s i f).clusters = s.clusters := rfl
@[simp] theorem modLnk_stackTab (i : Nat) (f : Link → Link) : (modLnk s i f).stackTab = s.stackTab := rfl
@[simp] theorem modLnk_graphs (i : Nat) (f : Link → Link) : (modLnk s i f).graphs = s.graphs := rfl
@[simp] theorem modLnk_tasks (i : Nat) (f : Link → Link) : (modLnk s i f).tasks = s.tasks := rfl
@[simp] theorem modLnk_steps (i : Nat) (f : Link → Link) : (modLnk s i f).steps = s.steps := rfl
@[simp] theorem modLnk_admitQueue (i : Nat) (f : Link → Link) : (modLnk s i f).admitQueue = s.admitQueue := rfl
@[simp] theorem modLnk_nextGraph (i : Nat) (f : Link → Link) : (modLnk s i f).nextGraph = s.nextGraph := rfl
@[simp] theorem modLnk_dram (i : Nat) (f : Link → Link) : (modLnk s i f).dram = s.dram := rfl
@[simp] theorem modLnk_spad (i : Nat) (f : Link → Link) : (modLnk s i f).spad = s.spad := rfl
@[simp] theorem modLnk_bbuf (i : Nat) (f : Link → Link) : (modLnk s i f).bbuf = s.bbuf := rfl
@[simp] theorem modLnk_pegs (i : Nat) (f : Link → Link) : (modLnk s i f).pegs = s.pegs := rfl
@[simp] theorem modLnk_out (i : Nat) (f : Link → Link) : (modLnk s i f).out = s.out := rfl
@[simp] theorem modLnk_freeCtr (i : Nat) (f : Link → Link) : (modLnk s i f).freeCtr = s.freeCtr := rfl

@[simp] theorem modDom_pending (i : Nat) (f : Domain → Domain) : (modDom s i f).pending = s.pending := rfl
@[simp] theorem modDom_time (i : Nat) (f : Domain → Domain) : (modDom s i f).time = s.time := rfl
@[simp] theorem modDom_hub (i : Nat) (f : Domain → Domain) : (modDom s i f).hub = s.hub := rfl
@[simp] theorem modDom_portA (i : Nat) (f : Domain → Domain) : (modDom s i f).portA = s.portA := rfl
@[simp] theorem modDom_portB (i : Nat) (f : Domain → Domain) : (modDom s i f).portB = s.portB := rfl
@[simp] theorem modDom_evt (i : Nat) (f : Domain → Domain) : (modDom s i f).evt = s.evt := rfl
@[simp] theorem modDom_rst (i : Nat) (f : Domain → Domain) : (modDom s i f).rst = s.rst := rfl
@[simp] theorem modDom_fst (i : Nat) (f : Domain → Domain) : (modDom s i f).fst = s.fst := rfl
@[simp] theorem modDom_mgt (i : Nat) (f : Domain → Domain) : (modDom s i f).mgt = s.mgt := rfl
@[simp] theorem modDom_links (i : Nat) (f : Domain → Domain) : (modDom s i f).links = s.links := rfl
@[simp] theorem modDom_rings (i : Nat) (f : Domain → Domain) : (modDom s i f).rings = s.rings := rfl
@[simp] theorem modDom_parts (i : Nat) (f : Domain → Domain) : (modDom s i f).parts = s.parts := rfl
@[simp] theorem modDom_walkers (i : Nat) (f : Domain → Domain) : (modDom s i f).walkers = s.walkers := rfl
@[simp] theorem modDom_regions (i : Nat) (f : Domain → Domain) : (modDom s i f).regions = s.regions := rfl
@[simp] theorem modDom_clusters (i : Nat) (f : Domain → Domain) : (modDom s i f).clusters = s.clusters := rfl
@[simp] theorem modDom_stackTab (i : Nat) (f : Domain → Domain) : (modDom s i f).stackTab = s.stackTab := rfl
@[simp] theorem modDom_graphs (i : Nat) (f : Domain → Domain) : (modDom s i f).graphs = s.graphs := rfl
@[simp] theorem modDom_tasks (i : Nat) (f : Domain → Domain) : (modDom s i f).tasks = s.tasks := rfl
@[simp] theorem modDom_steps (i : Nat) (f : Domain → Domain) : (modDom s i f).steps = s.steps := rfl
@[simp] theorem modDom_admitQueue (i : Nat) (f : Domain → Domain) : (modDom s i f).admitQueue = s.admitQueue := rfl
@[simp] theorem modDom_nextGraph (i : Nat) (f : Domain → Domain) : (modDom s i f).nextGraph = s.nextGraph := rfl
@[simp] theorem modDom_dram (i : Nat) (f : Domain → Domain) : (modDom s i f).dram = s.dram := rfl
@[simp] theorem modDom_spad (i : Nat) (f : Domain → Domain) : (modDom s i f).spad = s.spad := rfl
@[simp] theorem modDom_bbuf (i : Nat) (f : Domain → Domain) : (modDom s i f).bbuf = s.bbuf := rfl
@[simp] theorem modDom_pegs (i : Nat) (f : Domain → Domain) : (modDom s i f).pegs = s.pegs := rfl
@[simp] theorem modDom_out (i : Nat) (f : Domain → Domain) : (modDom s i f).out = s.out := rfl
@[simp] theorem modDom_freeCtr (i : Nat) (f : Domain → Domain) : (modDom s i f).freeCtr = s.freeCtr := rfl

@[simp] theorem modJig_pending (i j : Nat) (f : Jig → Jig) : (modJig s i j f).pending = s.pending := rfl
@[simp] theorem modJig_time (i j : Nat) (f : Jig → Jig) : (modJig s i j f).time = s.time := rfl
@[simp] theorem modJig_hub (i j : Nat) (f : Jig → Jig) : (modJig s i j f).hub = s.hub := rfl
@[simp] theorem modJig_portA (i j : Nat) (f : Jig → Jig) : (modJig s i j f).portA = s.portA := rfl
@[simp] theorem modJig_portB (i j : Nat) (f : Jig → Jig) : (modJig s i j f).portB = s.portB := rfl
@[simp] theorem modJig_evt (i j : Nat) (f : Jig → Jig) : (modJig s i j f).evt = s.evt := rfl
@[simp] theorem modJig_rst (i j : Nat) (f : Jig → Jig) : (modJig s i j f).rst = s.rst := rfl
@[simp] theorem modJig_pwr (i j : Nat) (f : Jig → Jig) : (modJig s i j f).pwr = s.pwr := rfl
@[simp] theorem modJig_fst (i j : Nat) (f : Jig → Jig) : (modJig s i j f).fst = s.fst := rfl
@[simp] theorem modJig_mgt (i j : Nat) (f : Jig → Jig) : (modJig s i j f).mgt = s.mgt := rfl
@[simp] theorem modJig_links (i j : Nat) (f : Jig → Jig) : (modJig s i j f).links = s.links := rfl
@[simp] theorem modJig_rings (i j : Nat) (f : Jig → Jig) : (modJig s i j f).rings = s.rings := rfl
@[simp] theorem modJig_parts (i j : Nat) (f : Jig → Jig) : (modJig s i j f).parts = s.parts := rfl
@[simp] theorem modJig_walkers (i j : Nat) (f : Jig → Jig) : (modJig s i j f).walkers = s.walkers := rfl
@[simp] theorem modJig_regions (i j : Nat) (f : Jig → Jig) : (modJig s i j f).regions = s.regions := rfl
@[simp] theorem modJig_stackTab (i j : Nat) (f : Jig → Jig) : (modJig s i j f).stackTab = s.stackTab := rfl
@[simp] theorem modJig_graphs (i j : Nat) (f : Jig → Jig) : (modJig s i j f).graphs = s.graphs := rfl
@[simp] theorem modJig_tasks (i j : Nat) (f : Jig → Jig) : (modJig s i j f).tasks = s.tasks := rfl
@[simp] theorem modJig_steps (i j : Nat) (f : Jig → Jig) : (modJig s i j f).steps = s.steps := rfl
@[simp] theorem modJig_admitQueue (i j : Nat) (f : Jig → Jig) : (modJig s i j f).admitQueue = s.admitQueue := rfl
@[simp] theorem modJig_nextGraph (i j : Nat) (f : Jig → Jig) : (modJig s i j f).nextGraph = s.nextGraph := rfl
@[simp] theorem modJig_dram (i j : Nat) (f : Jig → Jig) : (modJig s i j f).dram = s.dram := rfl
@[simp] theorem modJig_spad (i j : Nat) (f : Jig → Jig) : (modJig s i j f).spad = s.spad := rfl
@[simp] theorem modJig_bbuf (i j : Nat) (f : Jig → Jig) : (modJig s i j f).bbuf = s.bbuf := rfl
@[simp] theorem modJig_pegs (i j : Nat) (f : Jig → Jig) : (modJig s i j f).pegs = s.pegs := rfl
@[simp] theorem modJig_out (i j : Nat) (f : Jig → Jig) : (modJig s i j f).out = s.out := rfl
@[simp] theorem modJig_freeCtr (i j : Nat) (f : Jig → Jig) : (modJig s i j f).freeCtr = s.freeCtr := rfl

@[simp] theorem modTask_pending (i : Nat) (f : Task → Task) : (modTask s i f).pending = s.pending := by unfold modTask; split <;> rfl
@[simp] theorem modTask_time (i : Nat) (f : Task → Task) : (modTask s i f).time = s.time := by unfold modTask; split <;> rfl
@[simp] theorem modTask_hub (i : Nat) (f : Task → Task) : (modTask s i f).hub = s.hub := by unfold modTask; split <;> rfl
@[simp] theorem modTask_portA (i : Nat) (f : Task → Task) : (modTask s i f).portA = s.portA := by unfold modTask; split <;> rfl
@[simp] theorem modTask_portB (i : Nat) (f : Task → Task) : (modTask s i f).portB = s.portB := by unfold modTask; split <;> rfl
@[simp] theorem modTask_evt (i : Nat) (f : Task → Task) : (modTask s i f).evt = s.evt := by unfold modTask; split <;> rfl
@[simp] theorem modTask_rst (i : Nat) (f : Task → Task) : (modTask s i f).rst = s.rst := by unfold modTask; split <;> rfl
@[simp] theorem modTask_pwr (i : Nat) (f : Task → Task) : (modTask s i f).pwr = s.pwr := by unfold modTask; split <;> rfl
@[simp] theorem modTask_fst (i : Nat) (f : Task → Task) : (modTask s i f).fst = s.fst := by unfold modTask; split <;> rfl
@[simp] theorem modTask_mgt (i : Nat) (f : Task → Task) : (modTask s i f).mgt = s.mgt := by unfold modTask; split <;> rfl
@[simp] theorem modTask_links (i : Nat) (f : Task → Task) : (modTask s i f).links = s.links := by unfold modTask; split <;> rfl
@[simp] theorem modTask_rings (i : Nat) (f : Task → Task) : (modTask s i f).rings = s.rings := by unfold modTask; split <;> rfl
@[simp] theorem modTask_parts (i : Nat) (f : Task → Task) : (modTask s i f).parts = s.parts := by unfold modTask; split <;> rfl
@[simp] theorem modTask_walkers (i : Nat) (f : Task → Task) : (modTask s i f).walkers = s.walkers := by unfold modTask; split <;> rfl
@[simp] theorem modTask_regions (i : Nat) (f : Task → Task) : (modTask s i f).regions = s.regions := by unfold modTask; split <;> rfl
@[simp] theorem modTask_clusters (i : Nat) (f : Task → Task) : (modTask s i f).clusters = s.clusters := by unfold modTask; split <;> rfl
@[simp] theorem modTask_stackTab (i : Nat) (f : Task → Task) : (modTask s i f).stackTab = s.stackTab := by unfold modTask; split <;> rfl
@[simp] theorem modTask_graphs (i : Nat) (f : Task → Task) : (modTask s i f).graphs = s.graphs := by unfold modTask; split <;> rfl
@[simp] theorem modTask_steps (i : Nat) (f : Task → Task) : (modTask s i f).steps = s.steps := by unfold modTask; split <;> rfl
@[simp] theorem modTask_admitQueue (i : Nat) (f : Task → Task) : (modTask s i f).admitQueue = s.admitQueue := by unfold modTask; split <;> rfl
@[simp] theorem modTask_nextGraph (i : Nat) (f : Task → Task) : (modTask s i f).nextGraph = s.nextGraph := by unfold modTask; split <;> rfl
@[simp] theorem modTask_dram (i : Nat) (f : Task → Task) : (modTask s i f).dram = s.dram := by unfold modTask; split <;> rfl
@[simp] theorem modTask_spad (i : Nat) (f : Task → Task) : (modTask s i f).spad = s.spad := by unfold modTask; split <;> rfl
@[simp] theorem modTask_bbuf (i : Nat) (f : Task → Task) : (modTask s i f).bbuf = s.bbuf := by unfold modTask; split <;> rfl
@[simp] theorem modTask_pegs (i : Nat) (f : Task → Task) : (modTask s i f).pegs = s.pegs := by unfold modTask; split <;> rfl
@[simp] theorem modTask_out (i : Nat) (f : Task → Task) : (modTask s i f).out = s.out := by unfold modTask; split <;> rfl
@[simp] theorem modTask_freeCtr (i : Nat) (f : Task → Task) : (modTask s i f).freeCtr = s.freeCtr := by unfold modTask; split <;> rfl

@[simp] theorem modGraph_pending (i : Nat) (f : Graph → Graph) : (modGraph s i f).pending = s.pending := by unfold modGraph; split <;> rfl
@[simp] theorem modGraph_time (i : Nat) (f : Graph → Graph) : (modGraph s i f).time = s.time := by unfold modGraph; split <;> rfl
@[simp] theorem modGraph_hub (i : Nat) (f : Graph → Graph) : (modGraph s i f).hub = s.hub := by unfold modGraph; split <;> rfl
@[simp] theorem modGraph_portA (i : Nat) (f : Graph → Graph) : (modGraph s i f).portA = s.portA := by unfold modGraph; split <;> rfl
@[simp] theorem modGraph_portB (i : Nat) (f : Graph → Graph) : (modGraph s i f).portB = s.portB := by unfold modGraph; split <;> rfl
@[simp] theorem modGraph_evt (i : Nat) (f : Graph → Graph) : (modGraph s i f).evt = s.evt := by unfold modGraph; split <;> rfl
@[simp] theorem modGraph_rst (i : Nat) (f : Graph → Graph) : (modGraph s i f).rst = s.rst := by unfold modGraph; split <;> rfl
@[simp] theorem modGraph_pwr (i : Nat) (f : Graph → Graph) : (modGraph s i f).pwr = s.pwr := by unfold modGraph; split <;> rfl
@[simp] theorem modGraph_fst (i : Nat) (f : Graph → Graph) : (modGraph s i f).fst = s.fst := by unfold modGraph; split <;> rfl
@[simp] theorem modGraph_mgt (i : Nat) (f : Graph → Graph) : (modGraph s i f).mgt = s.mgt := by unfold modGraph; split <;> rfl
@[simp] theorem modGraph_links (i : Nat) (f : Graph → Graph) : (modGraph s i f).links = s.links := by unfold modGraph; split <;> rfl
@[simp] theorem modGraph_rings (i : Nat) (f : Graph → Graph) : (modGraph s i f).rings = s.rings := by unfold modGraph; split <;> rfl
@[simp] theorem modGraph_parts (i : Nat) (f : Graph → Graph) : (modGraph s i f).parts = s.parts := by unfold modGraph; split <;> rfl
@[simp] theorem modGraph_walkers (i : Nat) (f : Graph → Graph) : (modGraph s i f).walkers = s.walkers := by unfold modGraph; split <;> rfl
@[simp] theorem modGraph_regions (i : Nat) (f : Graph → Graph) : (modGraph s i f).regions = s.regions := by unfold modGraph; split <;> rfl
@[simp] theorem modGraph_clusters (i : Nat) (f : Graph → Graph) : (modGraph s i f).clusters = s.clusters := by unfold modGraph; split <;> rfl
@[simp] theorem modGraph_stackTab (i : Nat) (f : Graph → Graph) : (modGraph s i f).stackTab = s.stackTab := by unfold modGraph; split <;> rfl
@[simp] theorem modGraph_tasks (i : Nat) (f : Graph → Graph) : (modGraph s i f).tasks = s.tasks := by unfold modGraph; split <;> rfl
@[simp] theorem modGraph_steps (i : Nat) (f : Graph → Graph) : (modGraph s i f).steps = s.steps := by unfold modGraph; split <;> rfl
@[simp] theorem modGraph_admitQueue (i : Nat) (f : Graph → Graph) : (modGraph s i f).admitQueue = s.admitQueue := by unfold modGraph; split <;> rfl
@[simp] theorem modGraph_nextGraph (i : Nat) (f : Graph → Graph) : (modGraph s i f).nextGraph = s.nextGraph := by unfold modGraph; split <;> rfl
@[simp] theorem modGraph_dram (i : Nat) (f : Graph → Graph) : (modGraph s i f).dram = s.dram := by unfold modGraph; split <;> rfl
@[simp] theorem modGraph_spad (i : Nat) (f : Graph → Graph) : (modGraph s i f).spad = s.spad := by unfold modGraph; split <;> rfl
@[simp] theorem modGraph_bbuf (i : Nat) (f : Graph → Graph) : (modGraph s i f).bbuf = s.bbuf := by unfold modGraph; split <;> rfl
@[simp] theorem modGraph_pegs (i : Nat) (f : Graph → Graph) : (modGraph s i f).pegs = s.pegs := by unfold modGraph; split <;> rfl
@[simp] theorem modGraph_out (i : Nat) (f : Graph → Graph) : (modGraph s i f).out = s.out := by unfold modGraph; split <;> rfl
@[simp] theorem modGraph_freeCtr (i : Nat) (f : Graph → Graph) : (modGraph s i f).freeCtr = s.freeCtr := by unfold modGraph; split <;> rfl

@[simp] theorem modStep_pending (i : Nat) (f : Step → Step) : (modStep s i f).pending = s.pending := by unfold modStep; split <;> rfl
@[simp] theorem modStep_time (i : Nat) (f : Step → Step) : (modStep s i f).time = s.time := by unfold modStep; split <;> rfl
@[simp] theorem modStep_hub (i : Nat) (f : Step → Step) : (modStep s i f).hub = s.hub := by unfold modStep; split <;> rfl
@[simp] theorem modStep_portA (i : Nat) (f : Step → Step) : (modStep s i f).portA = s.portA := by unfold modStep; split <;> rfl
@[simp] theorem modStep_portB (i : Nat) (f : Step → Step) : (modStep s i f).portB = s.portB := by unfold modStep; split <;> rfl
@[simp] theorem modStep_evt (i : Nat) (f : Step → Step) : (modStep s i f).evt = s.evt := by unfold modStep; split <;> rfl
@[simp] theorem modStep_rst (i : Nat) (f : Step → Step) : (modStep s i f).rst = s.rst := by unfold modStep; split <;> rfl
@[simp] theorem modStep_pwr (i : Nat) (f : Step → Step) : (modStep s i f).pwr = s.pwr := by unfold modStep; split <;> rfl
@[simp] theorem modStep_fst (i : Nat) (f : Step → Step) : (modStep s i f).fst = s.fst := by unfold modStep; split <;> rfl
@[simp] theorem modStep_mgt (i : Nat) (f : Step → Step) : (modStep s i f).mgt = s.mgt := by unfold modStep; split <;> rfl
@[simp] theorem modStep_links (i : Nat) (f : Step → Step) : (modStep s i f).links = s.links := by unfold modStep; split <;> rfl
@[simp] theorem modStep_rings (i : Nat) (f : Step → Step) : (modStep s i f).rings = s.rings := by unfold modStep; split <;> rfl
@[simp] theorem modStep_parts (i : Nat) (f : Step → Step) : (modStep s i f).parts = s.parts := by unfold modStep; split <;> rfl
@[simp] theorem modStep_walkers (i : Nat) (f : Step → Step) : (modStep s i f).walkers = s.walkers := by unfold modStep; split <;> rfl
@[simp] theorem modStep_regions (i : Nat) (f : Step → Step) : (modStep s i f).regions = s.regions := by unfold modStep; split <;> rfl
@[simp] theorem modStep_clusters (i : Nat) (f : Step → Step) : (modStep s i f).clusters = s.clusters := by unfold modStep; split <;> rfl
@[simp] theorem modStep_stackTab (i : Nat) (f : Step → Step) : (modStep s i f).stackTab = s.stackTab := by unfold modStep; split <;> rfl
@[simp] theorem modStep_graphs (i : Nat) (f : Step → Step) : (modStep s i f).graphs = s.graphs := by unfold modStep; split <;> rfl
@[simp] theorem modStep_tasks (i : Nat) (f : Step → Step) : (modStep s i f).tasks = s.tasks := by unfold modStep; split <;> rfl
@[simp] theorem modStep_admitQueue (i : Nat) (f : Step → Step) : (modStep s i f).admitQueue = s.admitQueue := by unfold modStep; split <;> rfl
@[simp] theorem modStep_nextGraph (i : Nat) (f : Step → Step) : (modStep s i f).nextGraph = s.nextGraph := by unfold modStep; split <;> rfl
@[simp] theorem modStep_dram (i : Nat) (f : Step → Step) : (modStep s i f).dram = s.dram := by unfold modStep; split <;> rfl
@[simp] theorem modStep_spad (i : Nat) (f : Step → Step) : (modStep s i f).spad = s.spad := by unfold modStep; split <;> rfl
@[simp] theorem modStep_bbuf (i : Nat) (f : Step → Step) : (modStep s i f).bbuf = s.bbuf := by unfold modStep; split <;> rfl
@[simp] theorem modStep_pegs (i : Nat) (f : Step → Step) : (modStep s i f).pegs = s.pegs := by unfold modStep; split <;> rfl
@[simp] theorem modStep_out (i : Nat) (f : Step → Step) : (modStep s i f).out = s.out := by unfold modStep; split <;> rfl
@[simp] theorem modStep_freeCtr (i : Nat) (f : Step → Step) : (modStep s i f).freeCtr = s.freeCtr := by unfold modStep; split <;> rfl

@[simp] theorem modPort_pending (p : PortId) (f : Port → Port) : (modPort s p f).pending = s.pending := by cases p <;> rfl
@[simp] theorem modPort_time (p : PortId) (f : Port → Port) : (modPort s p f).time = s.time := by cases p <;> rfl
@[simp] theorem modPort_hub (p : PortId) (f : Port → Port) : (modPort s p f).hub = s.hub := by cases p <;> rfl
@[simp] theorem modPort_evt (p : PortId) (f : Port → Port) : (modPort s p f).evt = s.evt := by cases p <;> rfl
@[simp] theorem modPort_rst (p : PortId) (f : Port → Port) : (modPort s p f).rst = s.rst := by cases p <;> rfl
@[simp] theorem modPort_pwr (p : PortId) (f : Port → Port) : (modPort s p f).pwr = s.pwr := by cases p <;> rfl
@[simp] theorem modPort_fst (p : PortId) (f : Port → Port) : (modPort s p f).fst = s.fst := by cases p <;> rfl
@[simp] theorem modPort_mgt (p : PortId) (f : Port → Port) : (modPort s p f).mgt = s.mgt := by cases p <;> rfl
@[simp] theorem modPort_links (p : PortId) (f : Port → Port) : (modPort s p f).links = s.links := by cases p <;> rfl
@[simp] theorem modPort_rings (p : PortId) (f : Port → Port) : (modPort s p f).rings = s.rings := by cases p <;> rfl
@[simp] theorem modPort_parts (p : PortId) (f : Port → Port) : (modPort s p f).parts = s.parts := by cases p <;> rfl
@[simp] theorem modPort_walkers (p : PortId) (f : Port → Port) : (modPort s p f).walkers = s.walkers := by cases p <;> rfl
@[simp] theorem modPort_regions (p : PortId) (f : Port → Port) : (modPort s p f).regions = s.regions := by cases p <;> rfl
@[simp] theorem modPort_clusters (p : PortId) (f : Port → Port) : (modPort s p f).clusters = s.clusters := by cases p <;> rfl
@[simp] theorem modPort_stackTab (p : PortId) (f : Port → Port) : (modPort s p f).stackTab = s.stackTab := by cases p <;> rfl
@[simp] theorem modPort_graphs (p : PortId) (f : Port → Port) : (modPort s p f).graphs = s.graphs := by cases p <;> rfl
@[simp] theorem modPort_tasks (p : PortId) (f : Port → Port) : (modPort s p f).tasks = s.tasks := by cases p <;> rfl
@[simp] theorem modPort_steps (p : PortId) (f : Port → Port) : (modPort s p f).steps = s.steps := by cases p <;> rfl
@[simp] theorem modPort_admitQueue (p : PortId) (f : Port → Port) : (modPort s p f).admitQueue = s.admitQueue := by cases p <;> rfl
@[simp] theorem modPort_nextGraph (p : PortId) (f : Port → Port) : (modPort s p f).nextGraph = s.nextGraph := by cases p <;> rfl
@[simp] theorem modPort_dram (p : PortId) (f : Port → Port) : (modPort s p f).dram = s.dram := by cases p <;> rfl
@[simp] theorem modPort_spad (p : PortId) (f : Port → Port) : (modPort s p f).spad = s.spad := by cases p <;> rfl
@[simp] theorem modPort_bbuf (p : PortId) (f : Port → Port) : (modPort s p f).bbuf = s.bbuf := by cases p <;> rfl
@[simp] theorem modPort_pegs (p : PortId) (f : Port → Port) : (modPort s p f).pegs = s.pegs := by cases p <;> rfl
@[simp] theorem modPort_out (p : PortId) (f : Port → Port) : (modPort s p f).out = s.out := by cases p <;> rfl
@[simp] theorem modPort_freeCtr (p : PortId) (f : Port → Port) : (modPort s p f).freeCtr = s.freeCtr := by cases p <;> rfl
@[simp] theorem modPort_same (p : PortId) (f : Port → Port) : port (modPort s p f) p = f (port s p) := by cases p <;> rfl
@[simp] theorem modPort_a_b (f : Port → Port) : port (modPort s .a f) .b = port s .b := rfl
@[simp] theorem modPort_b_a (f : Port → Port) : port (modPort s .b f) .a = port s .a := rfl

@[simp] theorem emit_pending (x : Output) : (emit s x).pending = s.pending := rfl
@[simp] theorem emit_time (x : Output) : (emit s x).time = s.time := rfl
@[simp] theorem emit_hub (x : Output) : (emit s x).hub = s.hub := rfl
@[simp] theorem emit_portA (x : Output) : (emit s x).portA = s.portA := rfl
@[simp] theorem emit_portB (x : Output) : (emit s x).portB = s.portB := rfl
@[simp] theorem emit_evt (x : Output) : (emit s x).evt = s.evt := rfl
@[simp] theorem emit_rst (x : Output) : (emit s x).rst = s.rst := rfl
@[simp] theorem emit_pwr (x : Output) : (emit s x).pwr = s.pwr := rfl
@[simp] theorem emit_fst (x : Output) : (emit s x).fst = s.fst := rfl
@[simp] theorem emit_mgt (x : Output) : (emit s x).mgt = s.mgt := rfl
@[simp] theorem emit_links (x : Output) : (emit s x).links = s.links := rfl
@[simp] theorem emit_rings (x : Output) : (emit s x).rings = s.rings := rfl
@[simp] theorem emit_parts (x : Output) : (emit s x).parts = s.parts := rfl
@[simp] theorem emit_walkers (x : Output) : (emit s x).walkers = s.walkers := rfl
@[simp] theorem emit_regions (x : Output) : (emit s x).regions = s.regions := rfl
@[simp] theorem emit_clusters (x : Output) : (emit s x).clusters = s.clusters := rfl
@[simp] theorem emit_stackTab (x : Output) : (emit s x).stackTab = s.stackTab := rfl
@[simp] theorem emit_graphs (x : Output) : (emit s x).graphs = s.graphs := rfl
@[simp] theorem emit_tasks (x : Output) : (emit s x).tasks = s.tasks := rfl
@[simp] theorem emit_steps (x : Output) : (emit s x).steps = s.steps := rfl
@[simp] theorem emit_admitQueue (x : Output) : (emit s x).admitQueue = s.admitQueue := rfl
@[simp] theorem emit_nextGraph (x : Output) : (emit s x).nextGraph = s.nextGraph := rfl
@[simp] theorem emit_dram (x : Output) : (emit s x).dram = s.dram := rfl
@[simp] theorem emit_spad (x : Output) : (emit s x).spad = s.spad := rfl
@[simp] theorem emit_bbuf (x : Output) : (emit s x).bbuf = s.bbuf := rfl
@[simp] theorem emit_pegs (x : Output) : (emit s x).pegs = s.pegs := rfl
@[simp] theorem emit_freeCtr (x : Output) : (emit s x).freeCtr = s.freeCtr := rfl
@[simp] theorem emit_out (x : Output) : (emit s x).out = s.out ++ [x] := rfl

end Sys2Proof.Laws
end

