-- ==== Sys2Proof/Laws/Work.lean ====
section
/-! SUPPORT. What `settleWork` and `settleChain` do with an action that runs to its end, and with one that waits under a write hold-off;
what becomes of a task's stalls, and of one die's shim budget. -/

namespace Sys2Proof.Laws

open Sys2Proof.Machine

theorem settleWork_ok {t : Nat} {b : Staller} {m : Act Unit} {s u : State} (h : runAct m s = (.ok (), u)) : settleWork t b m s = u := by
  have hw : heldOff m s = false := by simp [heldOff, waits, h]
  rw [settleWork, hw, if_neg (by simp), settle_ok h]

theorem settleWork_held {t : Nat} {b : Staller} {m : Act Unit} {s : State} (h : heldOff m s = true) :
    settleWork t b m s = markStall s t b (keepers m s) := by
  rw [settleWork, if_pos h]

theorem settleChain_ok {r : Nat} {c : Chain} {m : Act Unit} {s u : State} (h : runAct m s = (.ok (), u)) : settleChain r c m s = u := by
  have hw : heldOff m s = false := by simp [heldOff, waits, h]
  rw [settleChain, hw, if_neg (by simp), settle_ok h]

theorem settleChain_held {r : Nat} {c : Chain} {m : Act Unit} {s : State} (h : heldOff m s = true) :
    settleChain r c m s = markChain s r c (keepers m s) := by
  rw [settleChain, if_pos h]

/-- A task of whose waits one goes on keeps its stall, with the waits that go on. -/
theorem keepStalls_waits {s : State} {p : Staller × Nat → Bool} {x : Task} (h : ∃ e ∈ x.stallOn, p e = true) :
    keepStalls s p x = { x with stallOn := x.stallOn.filter p } := by
  obtain ⟨e, he, hp⟩ := h
  have : (x.stallOn.filter p).isEmpty = false :=
    List.isEmpty_eq_false_iff_exists_mem.2 ⟨e, List.mem_filter.2 ⟨he, hp⟩⟩
  simp [keepStalls, this]

/-- With the last of its waits a task's stall ends, and its time is kept. -/
theorem keepStalls_ends {s : State} {p : Staller × Nat → Bool} {x : Task} (h : ∀ e ∈ x.stallOn, p e = false) :
    keepStalls s p x = { x with stallNs := stalledNs s x, stallSince := none, stallOn := [] } := by
  have : x.stallOn.filter p = [] := List.filter_eq_nil_iff.2 (fun a b => by simp [h a b])
  simp [keepStalls, this]

/-- One die's shim budget takes its share of the whole, which is all of it where no other die has any. -/
theorem scaleShim_alone {s : State} {d w : Nat} (h : w ≤ (dom s d).shimTopW) :
    scaleShim (dom s d).shimTopW w s d = if w = 0 then clearShim s d else modDom s d (fun x => { x with shimBudgetW := w }) := by
  have : (dom s d).shimTopW * w / Nat.max 1 (dom s d).shimTopW = w := by
    rcases Nat.eq_zero_or_pos (dom s d).shimTopW with z | z
    · simp [z, Nat.le_zero.1 (z ▸ h)]
    · rw [show Nat.max 1 (dom s d).shimTopW = (dom s d).shimTopW from Nat.max_eq_right z]
      exact Nat.mul_div_cancel_left _ z
  unfold scaleShim
  simp only [this]

end Sys2Proof.Laws
end

