-- ==== Sys2Proof/WellFormed.lean ====
section
/-! DEFINITION. Which commands are well formed: every index lies in its range (R8, R9, Table 13-3), and every operand fits the
field that the spec gives it. -/

namespace Sys2Proof

namespace Wf

def ring (r : Nat) : Bool := decide (r < 64)
def cluster (n : Nat) : Bool := decide (n < 256)
def jig (j : Nat) : Bool := decide (j < 2)
def press (p : Nat) : Bool := decide (p < 4)
def stack (i : Nat) : Bool := decide (i < 24)
def region (r : Nat) : Bool := decide (r < 32)
def die (d : Nat) : Bool := decide (d < 4)
def link (l : Nat) : Bool := decide (l < 24)
def partition (q : Nat) : Bool := decide (q < 16)

/-- A sector of a stack: 30 bits (Table 3-9). -/
def sector (k : Nat) : Bool := decide (k < 2 ^ 30)

/-- An offset in BAR0, or behind its 64 MiB in BAR2 of 256 KiB, and an access size (R389, R390). -/
def bar0 (off size : Nat) : Bool :=
  decide (off + size ≤ 2 ^ 26 + 2 ^ 18) && (decide (2 ^ 26 ≤ off) || decide (off + size ≤ 2 ^ 26)) && [1, 2, 4, 8].contains size

/-- A read of BAR0 is of 4 or 8 bytes and aligned (R390). -/
def bar0Read (off size : Nat) : Bool := bar0 off size && [4, 8].contains size && decide (off % size = 0)

/-- Bytes through BAR4, of at most 64 GiB (R389). -/
def bar4 (off n : Nat) : Bool := decide (1 ≤ n) && decide (off + n ≤ 2 ^ 36)

/-- The unit of a reset domain (Tables 13-3 and 13-13). -/
def domain (d i : Nat) : Bool :=
  match d with
  | 1 => cluster i
  | 2 => region i
  | 3 => die i
  | 4 => stack i
  | 5 => link i
  | 7 => decide (i = 0)
  | _ => false

/-- A sensor reading: 31 sensors, and a circuit code of Table 14-10's faults. -/
def reading (r : SensorReading) : Bool := decide (r.sensor < 31) && decide (r.circuit ≠ 3)

/-- Power samples name domains 0 to 28, each once. -/
def samples (l : List (Nat × Nat)) : Bool := l.all (fun e => decide (e.1 < 29)) && decide (l.map Prod.fst).Nodup

/-- A packet's data are as long as its LENGTH says, at most 1,024 bytes (Table 12-4). -/
def packet (k : Packet) : Bool := decide (k.data.length ≤ 1024)

/-- The payload of a DATA flit: 304 bytes (Table 12-2). -/
def payload (l : List Byte) : Bool := decide (l.length = 304)

/-- A vector that exists. -/
def msix : MsixWrite → Bool
  | .vector v => decide (v < 2048)
  | .control _ _ => true

/-- Slot numbers of images: components 1 to 6 times 2, plus 0 for A and 1 for B; 0 and 1 stand for the flash itself. -/
def slots (l : List Nat) : Bool := l.all (fun n => decide (n < 14))

end Wf

/-- Whether a command is well formed. -/
def Instr.wellFormed : Instr → Bool
  | .auxPowerUp _ => true
  | .firmwareBootEnd bad _ => Wf.slots bad
  | .mainPowerOn _ _ => true
  | .mainReady _ => true
  | .mainPowerLoss _ _ => true
  | .mainInputDipTimeout _ => true
  | .auxPowerLoss => true
  | .perstAssert _ => true
  | .perstDeassert _ => true
  | .cablePresenceChange l _ => Wf.link l
  | .trstAssert => true
  | .hostLinkDown _ => true
  | .hostLinkUp _ => true
  | .hostD3hotEntry _ => true
  | .heartbeatWrite _ _ => true
  | .heartbeatLapse _ => true
  | .hubAliveTick => true
  | .registerWrite _ off size _ => Wf.bar0 off size
  | .portViseClaim _ _ => true
  | .portViseRelease _ => true
  | .lockHost _ => true
  | .lockRings _ => true
  | .lockFabric _ => true
  | .lockReset _ => true
  | .modeWrite _ _ => true
  | .partitionLock _ q _ => Wf.partition q
  | .partitionLockDone q _ => Wf.partition q
  | .ringConfigWrite _ r _ => Wf.ring r
  | .msixUnmask _ w => Wf.msix w
  | .bar4Read _ off size _ => Wf.bar4 off size
  | .bar4Write _ off data _ => Wf.bar4 off data.length
  | .evtHeadWrite _ _ => true
  | .sqTail _ r _ => Wf.ring r
  | .cqHead _ r _ => Wf.ring r
  | .start _ r => Wf.ring r
  | .stop _ r => Wf.ring r
  | .abort _ r => Wf.ring r
  | .graphFetch r _ => Wf.ring r
  | .graphEnter r => Wf.ring r
  | .stepAdmission _ _ => true
  | .swapCopyEnd q _ _ => Wf.partition q
  | .taskPlace _ => true
  | .releaseAll _ d => Wf.die d
  | .jigTaskStart n _ => Wf.cluster n
  | .benchTaskActivate i _ => Wf.stack i
  | .layoutChainStart r _ => Wf.region r
  | .maintTaskStart i _ => Wf.stack i
  | .taskComplete _ _ => true
  | .taskTimeLimit _ => true
  | .waitLimit _ => true
  | .hostFlushReadComplete _ => true
  | .bundleExecute n j _ => Wf.cluster n && Wf.jig j
  | .jigHaltReq _ n j => Wf.cluster n && Wf.jig j
  | .jigResume _ n j => Wf.cluster n && Wf.jig j
  | .jigStep _ n j _ => Wf.cluster n && Wf.jig j
  | .jigDbgDataWrite _ n j _ => Wf.cluster n && Wf.jig j
  | .pressOpStart n p _ => Wf.cluster n && Wf.press p
  | .pressOpRetire n p => Wf.cluster n && Wf.press p
  | .notePush n p => Wf.cluster n && Wf.press p
  | .shimLoadStop n p => Wf.cluster n && Wf.press p
  | .benchOperationStart i _ => Wf.stack i
  | .benchOperationEnd i _ => Wf.stack i
  | .layoutCallEnd r _ => Wf.region r
  | .stackModeWrite _ i _ => Wf.stack i
  | .stackConfigLock _ i => Wf.stack i
  | .stackFillEnd i => Wf.stack i
  | .retrain _ i _ => Wf.stack i
  | .retrainEnd i _ => Wf.stack i
  | .maintTaskEnd i => Wf.stack i
  | .conversionResume i _ => Wf.stack i
  | .correctedWriteback i k => Wf.stack i && Wf.sector k
  | .mirrorReadReturn i k _ => Wf.stack i && Wf.sector k
  | .scrubTick i _ => Wf.stack i
  | .spareCopyEnd i l => Wf.stack i && l.all Wf.sector
  | .refreshCommand i => Wf.stack i
  | .forcedRefresh i => Wf.stack i
  | .linkTrainEnd l _ => Wf.link l
  | .linkTrainRetry l => Wf.link l
  | .nodeEnable _ _ => true
  | .syncEnable _ _ => true
  | .recal _ l => Wf.link l
  | .disable _ l => Wf.link l
  | .enable _ l => Wf.link l
  | .linkDrainEnd l => Wf.link l
  | .dataFlit l _ _ b => Wf.link l && Wf.payload b
  | .idleFlit l _ => Wf.link l
  | .replayFlit l _ _ => Wf.link l
  | .timeFlit l _ _ _ _ => Wf.link l
  | .replayTimeout l => Wf.link l
  | .linkDownTimeout (.noProgress l) => Wf.link l
  | .linkDownTimeout (.stopped l) => Wf.link l
  | .packetSend l vc => Wf.link l && decide (vc < 8)
  | .packetRoute d => Wf.die d
  | .putPacket d _ => Wf.die d
  | .getPacket d _ => Wf.die d
  | .addPacket d _ => Wf.die d
  | .pegPacket d => Wf.die d
  | .ack d k => Wf.die d && Wf.packet k
  | .dataResponse d k => Wf.die d && Wf.packet k
  | .resultResponse d k => Wf.die d && Wf.packet k
  | .nak d k => Wf.die d && Wf.packet k
  | .remoteRequestTimeout d _ => Wf.die d
  | .ingressAgeDrop d => Wf.die d
  | .timeExchange => true
  | .holdoverEntry => true
  | .holdoverLimit => true
  | .dieEdgeFailure e => decide (e < 6)
  | .dieEdgeRetrainEnd e => decide (e < 6)
  | .clusterReset _ i => decide (i < 4096)
  | .regionReset _ i => decide (i < 4096)
  | .computeDieReset _ i => decide (i < 4096)
  | .stackLogicReset _ i => decide (i < 4096)
  | .linkReset _ i => decide (i < 4096)
  | .packageWarmReset _ => true
  | .resetDrainEnd d i => Wf.domain d i
  | .domainServeAgain d i => Wf.domain d i
  | .resetEscalation d i => Wf.domain d i
  | .clusterWatchdog n => Wf.cluster n
  | .layoutWatchdog r => Wf.region r
  | .benchWatchdog i => Wf.stack i
  | .walkerWatchdog d => Wf.die d
  | .hubWatchdog => true
  | .activationReady => true
  | .activationTimeout => true
  | .thermalModelUpdate l => Wf.samples l
  | .sensorRead l => l.all Wf.reading
  | .noSourceTimeout n => decide (n < 29)
  | .powerWindow _ _ _ _ _ => true
  | .restore _ n => decide (n < 32)
  | .setEndpointId _ _ => true
  | .getEndpointId _ => true
  | .getEndpointUuid _ => true
  | .getMctpVersionSupport _ _ => true
  | .getMessageTypeSupport _ => true
  | .getVendorDefinedMsgSupport _ => true
  | .mctpUnsupported _ _ _ => true
  | .setTid _ _ => true
  | .getTid _ => true
  | .getPldmVersion _ _ => true
  | .getPldmTypes _ => true
  | .getPldmCommands _ _ => true
  | .getPdrRepositoryInfo _ => true
  | .getPdr _ _ => true
  | .getSensorReading _ _ => true
  | .getStateSensorReadings _ _ => true
  | .getNumericEffecterValue _ _ => true
  | .setNumericEffecterValue _ _ _ => true
  | .setEventReceiver _ _ => true
  | .platformEventMessage => true
  | .platformEventRetry => true
  | .queryDeviceIdentifiers _ => true
  | .getFirmwareParameters _ => true
  | .requestUpdate _ => true
  | .passComponentTable _ _ _ => true
  | .updateComponent _ _ _ => true
  | .requestFirmwareData _ n => decide (n ≤ 4096)
  | .transferComplete _ => true
  | .verifyComplete _ _ _ _ => true
  | .applyComplete _ => true
  | .activateFirmware _ _ => true
  | .getStatus _ => true
  | .cancelUpdateComponent _ => true
  | .cancelUpdate _ => true
  | .getVersion _ => true
  | .getCapabilities _ => true
  | .negotiateAlgorithms _ => true
  | .getDigests _ => true
  | .getCertificate _ slot _ _ => decide (slot < 8)
  | .challenge _ slot nonce => decide (slot < 8) && decide (nonce.length = 32)
  | .getMeasurements _ k _ nonce => decide (k < 256) && decide (nonce.length = 32)
  | .viseClaim _ => true
  | .viseRelease _ => true
  | .regRead _ off => decide (off < 2 ^ 26)
  | .regWrite _ off _ => decide (off < 2 ^ 26)
  | .resetRequest _ d i => decide (d < 16) && decide (i < 4096)
  | .getFuseMap _ => true
  | .getCalibration _ => true
  | .idcode => true
  | .bypass => true
  | .samplePreload _ => true
  | .extest => true
  | .clamp => true
  | .highz => true
  | .platformEventMessageResponse _ => true
  | .flashOperationEnd _ _ => true
  | .maintGranuleDone i _ => Wf.stack i
  | .routerAgeDrop d _ => Wf.die d
  | .resizableBarWrite _ n => decide (n < 64)
  | .portReturnToD0 _ => true
  | .trstDeassert => true
  | .bar0Read _ off size => Wf.bar0Read off size

end Sys2Proof
end

