-- ==== Sys2Proof/Tests/Slice0.lean ====
section
/-! SUPPORT. Tests of the model, each a small closed fact: ill-formed commands that the checks refuse, values taken from spec/,
and, for every statement with hypotheses, states and operands that meet them. -/

set_option Elab.async false

namespace Sys2Proof.Tests
open Sys2Proof Sys2Proof.Machine Sys2Proof.Claims

/-! ## Ill-formed commands are refused -/

theorem test_wf_slots : (Instr.firmwareBootEnd [0, 13] { errors := [7] }).wellFormed = true ∧
    (Instr.firmwareBootEnd [14] {}).wellFormed = false := by decide
theorem test_wf_link : (Instr.cablePresenceChange 23 true).wellFormed = true ∧
    (Instr.cablePresenceChange 24 true).wellFormed = false := by decide
theorem test_wf_bar0 : (Instr.registerWrite .a (2 ^ 26 - 8) 8 0).wellFormed = true ∧
    (Instr.registerWrite .a (2 ^ 26 + 2 ^ 18 - 4) 4 0).wellFormed = true ∧
    (Instr.registerWrite .a (2 ^ 26 + 2 ^ 18) 1 0).wellFormed = false ∧ (Instr.registerWrite .a (2 ^ 26 - 4) 8 0).wellFormed = false ∧
    (Instr.registerWrite .a 0 3 0).wellFormed = false := by decide
theorem test_wf_bar0Read : (Instr.bar0Read .b 8 8).wellFormed = true ∧ (Instr.bar0Read .b 4 8).wellFormed = false ∧
    (Instr.bar0Read .b 0 2).wellFormed = false := by decide
theorem test_wf_partition : (Instr.partitionLock .a 15 0).wellFormed = true ∧
    (Instr.partitionLock .a 16 0).wellFormed = false := by decide
theorem test_wf_ring : (Instr.start .a 63).wellFormed = true ∧ (Instr.start .a 64).wellFormed = false := by decide
theorem test_wf_vector : (Instr.msixUnmask .a (.vector 2047)).wellFormed = true ∧
    (Instr.msixUnmask .a (.vector 2048)).wellFormed = false := by decide
theorem test_wf_bar4 : (Instr.bar4Read .a (2 ^ 36 - 1) 1 {}).wellFormed = true ∧ (Instr.bar4Read .a 0 0 {}).wellFormed = false ∧
    (Instr.bar4Write .a (2 ^ 36) [0] {}).wellFormed = false := by decide
theorem test_wf_die : (Instr.releaseAll .a 3).wellFormed = true ∧ (Instr.releaseAll .a 4).wellFormed = false := by decide
theorem test_wf_cluster : (Instr.jigTaskStart 255 {}).wellFormed = true ∧ (Instr.jigTaskStart 256 {}).wellFormed = false := by decide
theorem test_wf_jig : (Instr.bundleExecute 0 1 {}).wellFormed = true ∧ (Instr.bundleExecute 0 2 {}).wellFormed = false := by decide
theorem test_wf_press : (Instr.pressOpRetire 0 3).wellFormed = true ∧ (Instr.pressOpRetire 0 4).wellFormed = false := by decide
theorem test_wf_stack : (Instr.refreshCommand 23).wellFormed = true ∧ (Instr.refreshCommand 24).wellFormed = false := by decide
theorem test_wf_region : (Instr.layoutCallEnd 31 {}).wellFormed = true ∧ (Instr.layoutCallEnd 32 {}).wellFormed = false := by decide
theorem test_wf_sector : (Instr.correctedWriteback 0 (2 ^ 30 - 1)).wellFormed = true ∧
    (Instr.correctedWriteback 0 (2 ^ 30)).wellFormed = false ∧ (Instr.spareCopyEnd 0 [2 ^ 30]).wellFormed = false := by decide
theorem test_wf_samples : (Instr.thermalModelUpdate [(28, 1), (0, 1)]).wellFormed = true ∧
    (Instr.thermalModelUpdate [(29, 1)]).wellFormed = false ∧
    (Instr.thermalModelUpdate [(3, 1), (3, 2)]).wellFormed = false := by decide
theorem test_wf_reading : (Instr.sensorRead [⟨30, 2, 0, 0⟩]).wellFormed = true ∧ (Instr.sensorRead [⟨31, 0, 0, 0⟩]).wellFormed = false ∧
    (Instr.sensorRead [⟨0, 3, 0, 0⟩]).wellFormed = false := by decide
theorem test_wf_packet : (Instr.ack 0 { (default : Packet) with data := List.replicate 1024 0 }).wellFormed = true ∧
    (Instr.ack 0 { (default : Packet) with data := List.replicate 1025 0 }).wellFormed = false := by decide +kernel
theorem test_wf_payload : (Instr.dataFlit 0 default 0 (List.replicate 304 0)).wellFormed = true ∧
    (Instr.dataFlit 0 default 0 (List.replicate 303 0)).wellFormed = false := by decide +kernel
theorem test_wf_channel : (Instr.packetSend 0 7).wellFormed = true ∧ (Instr.packetSend 0 8).wellFormed = false := by decide
theorem test_wf_edge : (Instr.dieEdgeFailure 5).wellFormed = true ∧ (Instr.dieEdgeFailure 6).wellFormed = false := by decide
theorem test_wf_resetIndex : (Instr.clusterReset .a 4095).wellFormed = true ∧
    (Instr.clusterReset .a 4096).wellFormed = false := by decide
theorem test_wf_domain : (Instr.resetDrainEnd 1 255).wellFormed = true ∧ (Instr.resetDrainEnd 1 256).wellFormed = false ∧
    (Instr.resetDrainEnd 2 32).wellFormed = false ∧ (Instr.resetDrainEnd 3 4).wellFormed = false ∧
    (Instr.resetDrainEnd 4 24).wellFormed = false ∧ (Instr.resetDrainEnd 5 24).wellFormed = false ∧
    (Instr.resetDrainEnd 6 0).wellFormed = false ∧ (Instr.resetDrainEnd 7 1).wellFormed = false := by decide
theorem test_wf_thermalDomain : (Instr.noSourceTimeout 28).wellFormed = true ∧ (Instr.noSourceTimeout 29).wellFormed = false ∧
    (Instr.restore .a 32).wellFormed = false := by decide
theorem test_wf_firmwareData : (Instr.requestFirmwareData .smbus 4096).wellFormed = true ∧
    (Instr.requestFirmwareData .smbus 4097).wellFormed = false := by decide
theorem test_wf_certificate : (Instr.getCertificate .smbus 7 0 0).wellFormed = true ∧
    (Instr.getCertificate .smbus 8 0 0).wellFormed = false := by decide
theorem test_wf_nonce : (Instr.challenge .smbus 0 (List.replicate 32 0)).wellFormed = true ∧
    (Instr.challenge .smbus 0 []).wellFormed = false ∧ (Instr.challenge .smbus 8 (List.replicate 32 0)).wellFormed = false := by decide
theorem test_wf_measurement : (Instr.getMeasurements .smbus 255 true (List.replicate 32 0)).wellFormed = true ∧
    (Instr.getMeasurements .smbus 256 true (List.replicate 32 0)).wellFormed = false ∧
    (Instr.getMeasurements .smbus 1 true []).wellFormed = false := by decide
theorem test_wf_regOffset : (Instr.regRead .smbus (2 ^ 26)).wellFormed = false ∧
    (Instr.regWrite .smbus (2 ^ 26) 0).wellFormed = false := by decide
theorem test_wf_resetRequest : (Instr.resetRequest .smbus 16 0).wellFormed = false ∧
    (Instr.resetRequest .smbus 1 4096).wellFormed = false := by decide
theorem test_wf_resizableBar : (Instr.resizableBarWrite .a 63).wellFormed = true ∧
    (Instr.resizableBarWrite .a 64).wellFormed = false := by decide

/-- No row of the table gives bits. -/
theorem test_no_words (n w : Nat) : decodeTableWord n w = none := rfl

/-! ## States for the tests -/

/-- The package as it serves, with port A up and holding the vise, and stack 0 initialised. -/
def serving : State := {
  hub := { stage := .mainReady, mainPg := true, auxOn := true, vise := 0x41 }
  portA := { linkUp := true, perst := false }
  portB := { linkUp := true, perst := false }
  stackTab := [(0, { initBusy := false })] }

/-- The outcome is a value: the actions that a statement names run to their end. -/
def okAct {α : Type} (r : Except Stop α × State) : Bool :=
  match r.1 with
  | .ok _ => true
  | .error _ => false

/-- The outcome is this status. -/
def failAct {α : Type} (r : Except Stop α × State) (st : Status) : Bool :=
  match r.1 with
  | .error (.fail e) => decide (e = st)
  | _ => false

/-- An action that ends in a value has that value and the state it leaves: what the hypotheses of a statement ask. -/
theorem okAct_spec {α : Type} {r : Except Stop α × State} (h : okAct r = true) : ∃ x u, r = (.ok x, u) := by
  obtain ⟨o, u⟩ := r
  cases o with
  | ok x => exact ⟨x, u, rfl⟩
  | error e => simp [okAct] at h

theorem failAct_spec {α : Type} {r : Except Stop α × State} {st : Status} (h : failAct r st = true) :
    ∃ u, r = (.error (.fail st), u) := by
  obtain ⟨o, u⟩ := r
  cases o with
  | ok x => simp [failAct] at h
  | error e =>
    cases e with
    | fail e => simp only [failAct, decide_eq_true_eq] at h; exact ⟨u, by rw [h]⟩
    | wait => simp [failAct] at h

/-- The state that an outcome gives, or `s` where it stops. -/
def after (i : Instr) (s : State) : State :=
  match exec i s with
  | .next t => t
  | _ => s

/-! ## The step, memory, bring-up -/

theorem test_canonical_reset : Canonical State.reset := by decide
theorem test_canonical_written : Canonical { serving with dram := [(5, 1), (9, 2)] } := by decide
theorem test_step_idle : step State.reset = .next { State.reset with time := 1 } ∧ State.reset.pending = [] ∧
    State.reset.fst.rate = 0 ∧ State.reset.fst.rateSum.natAbs < 1000000 := ⟨rfl, by decide⟩
/-- R338: at 100 ppm the 10,000th nanosecond counts twice. -/
theorem test_step_rate : ({ serving with fst := { rate := 100, rateSum := 999900 } } : State).pending = [] ∧
    step { serving with fst := { rate := 100, rateSum := 999900 } } =
      .next { serving with time := 2, fst := { rate := 100, rateSum := 0 } } := ⟨rfl, rfl⟩
theorem test_step_front : ∃ t, step { serving with pending := [.bypass, .idcode] } = .next t ∧ t.pending = [.idcode] ∧ t.time = 0 := by
  exact ⟨_, rfl, by decide, by decide⟩
theorem test_not_aux : Instr.bypass ≠ .auxPowerLoss ∧ ∀ a, Instr.bypass ≠ .auxPowerUp a := by simp
theorem test_memory : Memory.wf [(5, 1), (9, 2)] = true ∧ mbytes (mwrite [(5, 1), (9, 2)] 8 [7, 0]) 7 4 = [0, 7, 0, 0] := by decide
/-- Table 3-2, at the first and last byte of each row. -/
theorem test_addresses : placeOf 0 = .stack 0 0 ∧ placeOf (24 * 2 ^ 36 - 1) = .stack 23 (2 ^ 36 - 1) ∧
    placeOf 0x100000000000 = .spad 0 0 ∧ placeOf (0x100000000000 + 256 * 2 ^ 22 - 1) = .spad 255 (2 ^ 22 - 1) ∧
    placeOf 0x200000000000 = .peg 0 0 ∧ placeOf (0x200000000000 + 4 * 65536 - 1) = .peg 65535 3 ∧
    placeOf 0x300000000000 = .host .a 0 ∧ placeOf 0x37FFFFFFFFFF = .host .a 0x7FFFFFFFFFF ∧ placeOf 0x380000000000 = .host .b 0 ∧
    placeOf 0x3FFFFFFFFFFF = .host .b 0x7FFFFFFFFFF ∧ placeOf 0x400000000000 = .outside := by decide
/-- The holes between the rows of Table 3-2 are no place. -/
theorem test_holes : placeOf (24 * 2 ^ 36) = .outside ∧ placeOf (0x100000000000 + 256 * 2 ^ 22) = .outside ∧
    placeOf (0x200000000000 + 4 * 65536) = .outside := by decide

/-- Auxiliary power is up, the main rails are not. -/
def auxUp (st : Stage) : State := { hub := { auxOn := true, stage := st } }

theorem test_bringUp_aux : State.reset.hub.auxOn = false := by decide
theorem test_bringUp_boot : (auxUp .reset).hub.auxOn = true ∧ (auxUp .reset).hub.stage = .reset ∧
    ∀ c, c < 7 → 1 ≤ c → slotBad (auxUp .reset) [] c (runsB (auxUp .reset) c) = false := by decide
theorem test_bringUp_power : (auxUp .auxReady).hub.mainPg = false ∧ (auxUp .auxReady).hub.auxOn = true ∧
    (auxUp .auxReady).hub.stage = .auxReady ∧ 40000 ≤ 59500 := by decide
theorem test_bringUp_ready : ∃ s : State, s.hub.mainPg = true ∧ s.hub.stage = .auxReady ∧ inReset s Dom.warm 0 = false ∧
    s.mgt.tapWants = .normal := ⟨{ hub := { auxOn := true, mainPg := true, stage := .auxReady } }, by decide⟩
theorem test_bringUp_cable : (lnk { serving with links := [(23, { state := .training })] } 23).state = .training := by decide
/-- R404 and R427: the stages from the auxiliary rail to MAIN_READY. -/
theorem test_bringUp : (after (.mainReady 0) (after (.mainPowerOn 50000 true) (after (.firmwareBootEnd [] {})
    (after (.auxPowerUp 0) State.reset)))).hub.stage = .mainReady := by decide +kernel
/-- R427: outside 40.0 V to 59.5 V the main rails stay off. -/
theorem test_mainPowerOn_low : (after (.mainPowerOn 39999 true) (auxUp .auxReady)).hub.mainPg = false ∧
    (after (.mainPowerOn 40000 true) (auxUp .auxReady)).hub.mainPg = true ∧
    (after (.mainPowerOn 59501 true) (auxUp .auxReady)).hub.mainPg = false := by decide +kernel

theorem test_powerLoss : serving.hub.mainPg = true ∧ (false = false ∨ 50000 < 38000 ∨ 61000 < 50000) ∧
    (true = false ∨ 37999 < 38000 ∨ 61000 < 37999) ∧ (true = false ∨ 61001 < 38000 ∨ 61000 < 61001) := by decide
theorem test_dip : serving.hub.mainPg = true ∧ 38000 ≤ 38000 ∧ 38000 < 40000 ∧ 39999 < 40000 := by decide
theorem test_auxLoss : serving.hub.auxOn = true := by decide
/-- R429: the main rails go with everything that they feed. -/
theorem test_mainPowerLoss : (after (.mainPowerLoss 0 true) { serving with pegs := [(3, 1)], dram := [(0, 1)] }).pegs = [] ∧
    (after (.mainPowerLoss 0 true) serving).hub.stage = .auxReady := by decide +kernel

/-- A package whose TAP is out of reset, in this mode, while its pins are driven or not. -/
def tapped (s : State) (mode : BitVec 2) (d : PinDrive) : State := { s with
  hub := { s.hub with mode := mode }, mgt := { tapReset := false, tapPins := d } }
theorem test_tap : (auxUp .auxReady).hub.auxOn = true ∧ (tapped (auxUp .auxReady) 0 .normal).mgt.tapReset = false ∧
    (tapped (auxUp .auxReady) 0 .normal).mgt.tapPins = .normal ∧ (tapped (auxUp .auxReady) 0 .levels).mgt.tapPins ≠ .normal ∧
    (tapped serving 2 .normal).hub.mode = 2 ∧
    ((auxUp .auxReady).hub.stage ≠ .mainReady ∧ (auxUp .auxReady).hub.mode ≠ 1) ∧
    (serving.hub.stage = .mainReady ∧ serving.hub.mode ≠ 2) ∧
    ((tapped (auxUp .auxReady) 1 .normal).hub.mode = 1 ∧ (tapped (auxUp .auxReady) 1 .normal).hub.mode ≠ 2) := by decide
theorem test_tap_letGo : letGo (tapped serving 0 .normal) = tapped serving 0 .normal ∧
    (letGo (tapped serving 0 .floating)).mgt.tapPins = .normal := by decide +kernel
/-- R418: EXTEST drives pins before MAIN_READY and not after it. -/
theorem test_extest : (after .extest (tapped (auxUp .auxReady) 0 .normal)).mgt.tapPins = .levels ∧
    (after .extest (tapped serving 0 .normal)).mgt.tapPins = .normal ∧
    (after .highz (tapped (auxUp .auxReady) 1 .normal)).mgt.tapPins = .normal := by decide +kernel

/-! ## Ports, the vise, registers -/

theorem test_ports : serving.hub.stage = .mainReady ∧ serving.hub.mainPg = true ∧ (port serving .a).linkUp = true ∧
    (port serving .a).d3hot = false ∧ (port { serving with portA := { perst := false } } .a).linkUp = false ∧
    (port { serving with portA := { perst := false } } .a).perst = false := by decide
theorem test_ports_lost : serving.rings = [] ∧ serving.hub.vise = portCode .a ∧ 6 ≤ 6 := by decide
/-- Port A's first flushing read has failed: the task that waits for it loses its host, the one that waits for the second does not. -/
theorem test_taskFlushed : (∃ k, (PortId.a, k) ∈ ({ flushOut := [(.a, 1)] } : Task).flushOut ∧ k ≤ 1) ∧
    ({ flushOut := [(.a, 1)] } : Task).relFail = 0 ∧
    (∀ k, (PortId.a, k) ∈ ({ flushOut := [(.a, 2)] } : Task).flushOut → 1 < k) ∧
    (taskFlushed .a 1 false { flushOut := [(.a, 1)] }).relFail = Code.hostUnreachable := by
  refine ⟨⟨1, by decide, by decide⟩, rfl, ?_, by decide⟩
  intro k h
  have e : (PortId.a, k) = (PortId.a, 2) := by simpa using h
  cases e
  decide
theorem test_beat : MayWrite serving .a ∧ (1 : Word).toNat.testBit 0 = true ∧ firmwareRuns serving = true := by decide
/-- A beat that is due: a period of 1 ms, and 1 ms gone. -/
def beating : State := { serving with time := 1000000, rst := { periodA := 1 } }
theorem test_beat_due : beatPeriod beating .a ≠ 0 ∧ (port beating .a).lapsed = false ∧
    (port beating .a).lastBeat + 1000000 * beatPeriod beating .a ≤ now beating ∧ beatPeriod serving .a = 0 := by decide
theorem test_vise : MayWrite serving .a ∧ serving.hub.vise = portCode .a ∧ MayWrite serving .b ∧ serving.hub.vise ≠ 0 ∧
    serving.hub.vise ≠ portCode .b ∧ MayWrite { serving with hub := { serving.hub with vise := 0 } } .a := by decide
/-- R394: the second port's claim changes nothing and is logged. -/
theorem test_vise_held : (after (.portViseClaim .b 0x42) serving).hub.vise = 0x41 ∧
    (after (.portViseClaim .b 0x42) serving).evt.tail = 1 := by decide +kernel
theorem test_setUp : MaySet serving .a ∧ serving.hub.vise ≠ portCode .b ∧ assignedReg (blockOf 0x38) = true ∧ inMsix 0x38 = false ∧
    0x38 % 8 = 0 ∧ 0x38 ≠ 0x30 ∧ 0x38 ≠ Base.evt + 8 ∧ 0x38 ≠ Base.rst + 0x30 ∧ 0x38 < bar2Base ∧ serving.hub.lockHost = false ∧
    { serving.hub with lockHost := true }.lockHost = true := by decide
/-- R395, Table 15-5: zero bits clear no lock, and a locked host window keeps its value. -/
theorem test_lockBits : (after (.registerWrite .a 0x38 8 0) { serving with hub := { serving.hub with lockRings := true } }).hub.lockRings = true ∧
    (port (after (.registerWrite .a 0x50 8 0x1001) { serving with hub := { serving.hub with lockHost := true } }) .a).hostBase = 0 ∧
    (port (after (.registerWrite .a 0x50 8 0x1001) serving) .a).hostBase = 1 := by decide +kernel
theorem test_bar0 : portsDark serving = false ∧ inMsix 0x48 = false ∧ fusedBlock serving (blockOf 0x48) = false ∧
    portsDark { serving with hub := { serving.hub with stage := .auxReady } } = true := by decide
/-- R5: what HUB.IDENT of a PL-2464F reads. -/
theorem test_bar0_ident : (after (.bar0Read .a 0 8) serving).out = [.bar0Data .a 0x2464461010104004] := by decide +kernel
theorem test_msix : (msixAt (port serving .a) 2047).pend = false ∧
    (msixAt { (port serving .a) with msix := [(5, { pend := true })] } 5).pend = true ∧ (port serving .a).funcMask = false ∧
    { (port serving .a) with msixEnable := true }.msixEnable = true ∧ { (port serving .a) with msixEnable := false }.msixEnable = false ∧
    { (port serving .a) with funcMask := true }.funcMask = true ∧
    twf ({} : MsixEntry) [(5, { pend := true })] = true := by decide
theorem test_msix_control : (∀ v, (msixAt (port serving .a) v).pend = false) ∧ serving.hub.stage = .mainReady :=
  ⟨fun _ => rfl, rfl⟩
/-- R403: a message of a masked function stays pending, and leaves with the function mask. -/
theorem test_funcMask : (msixAt (port (raiseMsix { serving with
    portA := { linkUp := true, perst := false, msixEnable := true, funcMask := true, msix := [(5, { masked := false })] } } .a 5) .a) 5).pend
      = true := by decide +kernel
/-- A log of three records, one freed. -/
def logged : State := { serving with evt := { head := 1, tail := 3 } }
theorem test_evtHead : (((3 : Word).setWidth 32 : BitVec 32) - logged.evt.head).toNat ≤ (logged.evt.tail - logged.evt.head).toNat ∧
    (logged.evt.tail - logged.evt.head).toNat < (((4 : Word).setWidth 32 : BitVec 32) - logged.evt.head).toNat := by decide
theorem test_events : serving.evt.irqEn = false ∧ evtStores serving.evt Cls.reset 0 = true ∧
    evtStores { head := 0, tail := 8192 } Cls.reset 0 = false ∧ evtStores { head := 0, tail := 8191 } Cls.reset 0 = true ∧
    evtStores { head := 0, tail := 8128 } Cls.hostLinkDown 2 = false ∧
    evtStores { head := 0, tail := 8127 } Cls.hostLinkDown 2 = true := by decide
theorem test_lock : MaySet serving .a ∧ (0x4000000000000000 : Word).toNat.testBit 62 = true ∧ (prt serving 15).locked = false ∧
    (prt serving 15).busy = false ∧ (prt { serving with parts := [(0, { locked := true })] } 0).locked = true := by decide
/-- A partition under check, with no table. -/
def locking : State := { serving with parts := [(2, { busy := true, valid := true, lockAge := 1 })] }
theorem test_lockDone : lockTurn (applyEnv {} locking) 2 = true ∧ okAct (runAct (lockChecks 2) (applyEnv {} locking)) = true ∧
    (prt (after (.partitionLockDone 2 {}) locking) 2).locked = true := by decide +kernel
/-- Port A's BAR4 reaches every address, and bytes 0 to 3 of stack 0 hold 1, 2, 3, 4. -/
def mapped : State := { serving with
  portA := { linkUp := true, perst := false, bar4En := true, bar4All := true }, dram := [(0, 1), (1, 2), (2, 3), (3, 4)] }
theorem test_bar4 : (port mapped .a).held = [] ∧ bar4Serves mapped .a false (bar4Addr mapped .a 0) 4 = true ∧
    okAct (runAct (loadHome (bar4Addr mapped .a 0) 4) (applyEnv {} mapped)) = true ∧
    bar4Serves mapped .a true (bar4Addr mapped .a 0) 1 = true ∧
    okAct (runAct (storeHome none (bar4Addr mapped .a 0) [9]) (applyEnv {} mapped)) = true ∧
    bar4Serves serving .a true (bar4Addr serving .a 0) 1 = false := by decide +kernel
theorem test_bar4_read : (after (.bar4Read .a 0 4 {}) mapped).out = [.bar4Data .a [1, 2, 3, 4] false] ∧
    mbytes (after (.bar4Write .a 2 [7, 8] {}) mapped).dram 0 4 = [1, 2, 7, 8] := by decide +kernel

/-! ## Rings and graphs -/

/-- Memory that holds these bytes at these addresses. -/
def image (l : List (Nat × List Byte)) : Memory := l.foldl (fun m e => mwrite m e.1 e.2) []

/-- A partition with its windows on stack 0, writable, and on all of port A's memory. -/
def partition0 : Part := {
  locked := true, valid := true, privileged := true, stackTab := 1
  windows := [(0, { en := true, write := true, base := 0, limit := 0xFFFFFF }),
    (1, { en := true, write := true, base := 0x300000000, limit := 0x37FFFFFFF })] }

/-- A ring of partition 0 on port A, its submission ring at host address 0 and its completion ring at 1 MiB. -/
def ring0 : Ring := { assigned := true, sqBase := 0xC000000000, cqBase := 0xC000004000 }

/-- The serving package with partition 0 and with ring 63 of it, stopped. -/
def ringed (x : Ring) : State := { serving with
  portA := { linkUp := true, perst := false, winEn := true }, parts := [(0, partition0)], rings := [(63, x)] }

theorem test_ring_start : MaySet (ringed ring0) .a ∧ (ring (ringed ring0) 63).state = .stopped ∧
    (ring (ringed ring0) 63).assigned = true ∧ ringSetUp (ringed ring0) (ring (ringed ring0) 63) = true ∧
    (ring (after (.start .a 63) (ringed ring0)) 63).state = .running := by decide +kernel
theorem test_ring_stop : (ring (ringed { ring0 with state := .running, graphs := 1 }) 63).state = .running ∧
    (ring (after (.stop .a 63) (ringed { ring0 with state := .running, graphs := 1 })) 63).state = .stopping ∧
    (ring (ringed ring0) 63).state ≠ .running := by decide +kernel
theorem test_ring_abort : (ring (ringed { ring0 with state := .stopping }) 63).state ≠ .stopped ∧
    (ring (after (.abort .a 63) (ringed ring0)) 63).lastCmd = Code.stateConflict := by decide +kernel
theorem test_ring_config : (ring (ringed ring0) 63).state = .stopped ∧ (ringed ring0).hub.lockRings = false ∧
    (0x0000080007000404 : Word).toNat.testBit 31 = false ∧
    (ring (after (.ringConfigWrite .a 63 0x0000080007000404) (ringed ring0)) 63).irqEn = true ∧
    (ring (after (.ringConfigWrite .a 63 0x0000080007000404) (ringed ring0)) 63).part = 7 := by decide +kernel
theorem test_sqTail : (ringed { ring0 with state := .running }).hub.stage = .mainReady ∧
    (port (ringed ring0) .a).held = [] ∧ ringPort (ring (ringed ring0) 63) = .a ∧
    (((16 : Word).setWidth 32 : BitVec 32) - 0).toNat ≤ 2 ^ ring0.sqLog2.toNat ∧
    2 ^ ring0.sqLog2.toNat < (((17 : Word).setWidth 32 : BitVec 32) - 0).toNat ∧ ringPort (ring (ringed ring0) 63) ≠ .b ∧
    (ring (after (.sqTail .a 63 16) (ringed { ring0 with state := .running })) 63).sqTail = 16 ∧
    (ring (after (.sqTail .a 63 17) (ringed { ring0 with state := .running })) 63).sqTail = 0 := by decide +kernel
/-- A ring with two completions written and none taken. -/
def completed : State := ringed { ring0 with state := .running, cqTail := 2 }
theorem test_cqHead : (((2 : Word).setWidth 32 : BitVec 32) - (ring completed 63).cqHead).toNat ≤
      ((ring completed 63).cqTail - (ring completed 63).cqHead).toNat ∧ (ring completed 63).held = [] ∧
    ((ring completed 63).cqTail - (ring completed 63).cqHead).toNat <
      (((3 : Word).setWidth 32 : BitVec 32) - (ring completed 63).cqHead).toNat ∧ twf ({} : Ring) completed.rings = true ∧
    (ring (after (.cqHead .a 63 2) completed) 63).cqHead = 2 ∧ (ring (after (.cqHead .a 63 3) completed) 63).cqHead = 0 := by
  decide +kernel

/-- A submission entry for a graph at `a` (Table 8-2). -/
def entryFor (a : Nat) : List Byte := leBytes 8 a ++ zeros 56
/-- A graph of one NOP task without successors (Tables 8-5 and 8-6). -/
def nopGraph : List Byte := leBytes 2 1 ++ zeros 126 ++ zeros 40 ++ List.replicate 16 0xFF ++ zeros 72
/-- Ring 63 runs, with one entry that names a graph at `a` of stack 0. -/
def submitted (a : Nat) : State := { ringed { ring0 with state := .running, sqTail := 1 } with
  portA := { linkUp := true, perst := false, winEn := true, mem := image [(0, entryFor a)] }
  dram := image [(0x1000, nopGraph)] }
theorem test_fetch : frontPaused (submitted 0x1000) = false ∧ (submitted 0x1000).graphs.length < 1024 ∧
    fetchTurn (submitted 0x1000) = some 63 ∧ bit (at_ (entryFor 0x1000) 24 1) 0 = false ∧
    (match runAct (loadHome (sqSlot (ring (submitted 0x1000) 63)) 64) (submitted 0x1000) with
      | (.ok e, _) => decide (e = entryFor 0x1000)
      | _ => false) = true := by decide +kernel
/-- The host line of the entry answers with an error. -/
theorem test_fetch_unread : fetchTurn (applyEnv { hostBad := [(.a, 0)] } (submitted 0x1000)) = some 63 ∧
    failAct (runAct (loadHome (sqSlot (ring (submitted 0x1000) 63)) 64) (applyEnv { hostBad := [(.a, 0)] } (submitted 0x1000)))
      Code.poisoned = true ∧
    (ring (after (.graphFetch 63 { hostBad := [(.a, 0)] }) (submitted 0x1000)) 63).sqHead = 1 := by decide +kernel
/-- R213: an entry with FENCE waits for the earlier graphs of its ring. -/
def fenced : State := { ringed { ring0 with state := .running, sqTail := 1, graphs := 1 } with
  portA := { linkUp := true, perst := false, winEn := true, mem := image [(24, [1])] } }
theorem test_fetch_fenced : fetchTurn fenced = some 63 ∧ bit (at_ (zeros 24 ++ [1] ++ zeros 39) 24 1) 0 = true ∧ (ring fenced 63).graphs ≠ 0 ∧
    (match runAct (loadHome (sqSlot (ring fenced 63)) 64) fenced with
      | (.ok e, _) => decide (e = zeros 24 ++ [1] ++ zeros 39)
      | _ => false) = true ∧ (ring (after (.graphFetch 63 {}) fenced) 63).sqHead = 0 := by decide +kernel
theorem test_fetch_read : (match runAct (readGraph 0 (entryFor 0x1000)) (submitted 0x1000) with
      | (.ok (.ok (_, ds)), _) => decide (ds.length = 1)
      | _ => false) = true ∧
    (match runAct (readGraph 0 (entryFor 0x1001)) (submitted 0x1001) with
      | (.ok (.error (st, _)), _) => decide (st = Code.descriptorInvalid)
      | _ => false) = true := by decide +kernel
/-- R223, R224: a sound graph waits and enters; one at an address that is no multiple of 64 is rejected with DESCRIPTOR_INVALID. -/
theorem test_graphFetch : ((ring (after (.graphFetch 63 {}) (submitted 0x1000)) 63).waiting.map (fun g => g.tasks.length)) = some 1 ∧
    ((ring (after (.graphFetch 63 {}) (submitted 0x1001)) 63).sqHead = 1) := by decide +kernel
theorem test_graphEnter : (ring (after (.graphEnter 63) (after (.graphFetch 63 {}) (submitted 0x1000))) 63).sqHead = 1 ∧
    (after (.graphEnter 63) (after (.graphFetch 63 {}) (submitted 0x1000))).tasks.length = 1 := by decide +kernel
/-- A graph that waits to enter. -/
def entering : State := ringed { ring0 with state := .running, sqTail := 1, waiting := some {} }
theorem test_enter : (ring entering 63).waiting = some {} ∧ frontPaused entering = false ∧
    canEnter entering (ring entering 63).waitSeq {} = true ∧ ({} : Graph).tasks = [] ∧ ({} : Graph).admitted = true := by decide
/-- A waiting graph of two tasks, the second behind the first. -/
def chained : Graph := { tasks := [{}, { predCount := 1, tag := 9 }], dies := [0, 0] }
def chainEntering : State := ringed { ring0 with state := .running, sqTail := 1, waiting := some chained }
theorem test_enter_tasks : (ring chainEntering 63).waiting = some chained ∧ frontPaused chainEntering = false ∧
    canEnter chainEntering (ring chainEntering 63).waitSeq chained = true ∧ twf ({} : Ring) chainEntering.rings = true ∧
    twf (none : Option Task) chainEntering.tasks = true ∧ chained.dies.length = chained.tasks.length ∧ chained.tasks.length ≤ 16384 ∧
    chained.tasks[1]? = some { predCount := 1, tag := 9 } ∧ 0 < 1 ∧ offline chainEntering 0 { predCount := 1, tag := 9 } = false ∧
    ((taskAt (after (.graphEnter 63) chainEntering) 1).map (·.state)) = some .pending := by decide +kernel

/-- A step descriptor with no request and no command (Table 11-1). -/
def stepHead : List Byte := zeros 16 ++ leBytes 8 0x2000 ++ leBytes 8 0x3000 ++ leBytes 8 0x300000000000 ++ zeros 24
/-- Graph 5 waits for admission, its descriptor at 0x1000 of stack 0. -/
def admitting (h : List Byte) : State := { ringed ring0 with
  dram := image [(0x1000, h)], admitQueue := [5]
  graphs := [(5, some { ring := 63, stepAddr := 0x1000, admitted := false, left := 1 })] }
theorem test_admit : frontPaused (admitting stepHead) = false ∧ (admitting stepHead).admitQueue.head? = some 5 ∧
    (graphAt (admitting stepHead) 5).isSome = true ∧
    failAct (runAct (readStep 0 0x1000) (admitting (leBytes 2 0x2000))) Code.descriptorInvalid = true ∧
    (match runAct (readStep 0 0x1000) (admitting stepHead) with
      | (.ok (h, es, cs), u) =>
        match runAct (admitStep 5 { ring := 63, stepAddr := 0x1000, admitted := false, left := 1 } h es cs) u with
        | (.ok (), w) => okAct (runAct (endGraph 5) w)
        | _ => false
      | _ => false) = true := by decide +kernel
theorem test_stepAdmission : ((graphAt (after (.stepAdmission 5 {}) (admitting stepHead)) 5).map (·.admitted)) = some true ∧
    graphAt (after (.stepAdmission 5 {}) (admitting (leBytes 2 0x2000))) 5 = none := by decide +kernel
/-- A swap whose copies have ended: sequence 3 of partition 0. -/
def swapping (st : KvState) : State := { ringed ring0 with
  parts := [(0, { partition0 with seqCount := 4, kvTable := 0x100, seqs := [(3, { state := st })] })] }
theorem test_swap : (seqAt (swapping .swappingOut) 0 3).state = .swappingOut ∧ (seqAt (swapping .swappingIn) 0 3).state = .swappingIn ∧
    (seqAt (swapping .swappingIn) 0 3).swapLeft = 0 ∧ (seqAt (swapping .swappingIn) 0 3).swapGraph = none ∧
    (seqAt (swapping .swappingIn) 0 3).swapFlush = [] ∧ (seqAt (swapping .swappingIn) 0 3).swapStatus = 0 ∧
    okAct (runAct (reportSeq 0 3) (modSeq (swapping .swappingOut) 0 3 (fun k => afterCopy k 0))) = true ∧
    (seqAt (after (.swapCopyEnd 0 3 {}) (swapping .swappingOut)) 0 3).state = .swapped ∧
    (seqAt (after (.swapCopyEnd 0 3 {}) (swapping .swappingIn)) 0 3).state = .resident := by decide +kernel

/-! ## Tasks -/

/-- Task 81920 of graph 5, in this state. -/
def tasked (x : Task) : State := { ringed ring0 with
  tasks := [(81920, some { x with graph := 5 })], graphs := [(5, some { ring := 63, left := 2 })] }
theorem test_place : isReady { state := .ready, desc := { kind := 2 } } = true ∧
    walkerServes (tasked { state := .ready, desc := { kind := 2 } }) 0 = true ∧
    spotOf (tasked { state := .ready, desc := { kind := 2 } }) { state := .ready, graph := 5, desc := { kind := 2 } } = .unit 0 ∧
    earlierReady (tasked { state := .ready, desc := { kind := 2 } }) 81920 { state := .ready, graph := 5, desc := { kind := 2 } } = [] ∧
    Kind.bench = 2 ∧ Kind.nop = 0 := by decide +kernel
theorem test_taskPlace : (stk (after (.taskPlace 81920) (tasked { state := .ready, desc := { kind := 2 } })) 0).benchQueue = [81920] ∧
    ((taskAt (after (.taskPlace 81920) (tasked { state := .ready })) 81920).map (·.workDone)) = some true := by decide +kernel
theorem test_release : MaySet (tasked { state := .held, die := 3 }) .a ∧ heldTasks (tasked { state := .held, die := 3 }) 3 ≠ [] ∧
    heldTasks (tasked { state := .held }) 3 = [] ∧
    ((taskAt (after (.releaseAll .a 3) (tasked { state := .held, die := 3 })) 81920).map (·.state)) = some .ready := by decide +kernel

/-- A JIG program header (Table 6-2): code base 0x4000, jig 0 at entry 0, jig 1 off. -/
def jigHead : List Byte := leBytes 8 0x4000 ++ leBytes 4 0 ++ leBytes 4 0xFFFFFFFF ++ zeros 48
/-- A JIG task. -/
def jigTask : Task := { graph := 5, desc := { kind := 1, code := 0x1000 }, state := .placed, unit := some 255 }
/-- Cluster 255 with that task placed on it, its program header at 0x1000 of stack 0. -/
def jigPlaced (h : List Byte) : State := { tasked jigTask with
  clusters := [(255, { task := some 81920 })], dram := image [(0x1000, h)] }
theorem test_jigBegin : (clu (jigPlaced jigHead) 255).task = some 81920 ∧ taskAt (jigPlaced jigHead) 81920 = some jigTask ∧
    (clu (jigPlaced jigHead) 255).begun = false ∧ (clu (jigPlaced jigHead) 255).ended = 0 ∧ jigTask.workDone = false ∧ inReset (jigPlaced jigHead) Dom.cluster 255 = false ∧
    okAct (runAct (jigBegin 255 jigTask) (startOnce (jigPlaced jigHead) 81920)) = true ∧
    failAct (runAct (jigBegin 255 jigTask) (startOnce (jigPlaced (leBytes 8 1)) 81920)) Code.descriptorInvalid = true := by
  decide +kernel
theorem test_jigTaskStart : (clu (after (.jigTaskStart 255 {}) (jigPlaced jigHead)) 255).begun = true ∧
    (jig (after (.jigTaskStart 255 {}) (jigPlaced jigHead)) 255 0).pc = 0x4000 := by decide +kernel

/-- A task whose work has ended. -/
def doneTask : Task := { graph := 5, workDone := true, state := .running }
theorem test_complete : taskAt (tasked doneTask) 81920 = some doneTask ∧ doneTask.unit = none ∧ doneTask.flushOut = [] ∧
    (match runAct (releaseRegions 81920) (tasked doneTask) with
      | (.ok (), u) => twf none u.tasks && decide (taskAt u 81920 = some doneTask)
      | _ => false) = true ∧ doneTask.hostPorts = [] ∧ doneTask.remoteLeft = 0 ∧ doneTask.remoteSent = false ∧
    okAct (runAct (concludeTask 81920 doneTask)
      (sendRemoteOps (modTask (tasked doneTask) 81920 (fun x => { x with status := 0 })) 81920)) = true ∧
    (taskAt (after (.taskComplete 81920 {}) (tasked doneTask)) 81920).map (fun x => (x.state, x.recorded)) = some (.completed, true) := by
  decide +kernel
/-- A task that began at 0 and has had its second, and one that has waited 100 ms. -/
def limited (kind : Nat) : State := { tasked { started := true, unit := some 255, desc := { kind := kind } } with time := 1000000000 }
theorem test_limit : limitReached (limited 1) { graph := 5, started := true, unit := some 255, desc := { kind := 1 } } = true ∧
    limitReached { limited 1 with time := 999999999 } { graph := 5, started := true, unit := some 255, desc := { kind := 1 } } = false ∧
    Kind.jig = 1 ∧ Kind.maint = 4 := by decide +kernel
/-- R253: a JIG task that has done its work and waits for its release keeps the status it has. -/
def quietCluster : State := { limited 1 with clusters := [(255, { task := some 81920, begun := true, jig0 := { halted := true }, jig1 := { halted := true } })] }
theorem test_quietLimit : clusterQuiet (clu quietCluster 255) = true ∧ clusterQuiet (clu (limited 1) 255) = false ∧
    (after (.taskTimeLimit 81920) quietCluster = quietCluster) := by decide +kernel
theorem test_taskTimeLimit : ((taskAt (after (.taskTimeLimit 81920) (limited 4)) 81920).map (·.limitHit)) = some true := by
  decide +kernel
/-- A task that waits for peg 0 to reach 1. -/
def pegWaiting : Task := { graph := 5, state := .waiting, desc := { waits := [{ peg := 0, value := 1 }] } }
theorem test_wait : waitsMet pegWaiting = false ∧ pegWaiting.state = .waiting ∧ pegWaiting.workDone = false ∧
    pegWaiting.waitSince + waitLimitNs (tasked pegWaiting) pegWaiting = 100000000 ∧
    ((taskAt (after (.waitLimit 81920) { tasked pegWaiting with time := 100000001 }) 81920).map (·.status)) = some Code.waitTimeout ∧
    ((taskAt (after (.waitLimit 81920) { tasked pegWaiting with time := 100000000 }) 81920).map (·.workDone)) = some false := by
  decide +kernel
/-- R249: a task that has written through port A sends its flushing read, which comes home. -/
def flushing : State := flushTask (tasked { hostPorts := [.a] }) 81920
theorem test_flush : ((taskAt (tasked { hostPorts := [.a] }) 81920).map (·.flushOut)) = some [] ∧
    portLost (port (tasked { hostPorts := [.a] }) .a) = false ∧
    ((taskAt flushing 81920).map (·.flushOut)) = some [(.a, 1)] ∧ (port flushing .a).flushDone < (port flushing .a).flushSent ∧
    (port serving .a).flushSent ≤ (port serving .a).flushDone ∧
    ((taskAt (after (.hostFlushReadComplete .a) flushing) 81920).map (·.flushOut)) = some [] := by decide +kernel

/-! ## Numbers -/

/-- R29, R30, R40 to R42: 1.5, the smallest subnormal, ties to even, saturation, NaN. -/
theorem test_narrow : narrow .fp32 (Scalar.decode .fp32 0x3FC00000) = 0x3FC00000 ∧
    narrow .bf16 (Scalar.decode .fp32 0x3F808000) = 0x3F80 ∧ narrow .bf16 (Scalar.decode .fp32 0x3F818000) = 0x3F82 ∧
    narrow .int8 (Scalar.decode .fp32 0x43480000) = 0x7F ∧ narrow .fp16 (Scalar.decode .fp32 0x7FC00001) = 0x7E00 := by
  decide +kernel
theorem test_finite : 1 < 2 ^ Scalar.width .fp16 ∧ (Scalar.decode .fp16 1).isNan = false ∧ (Scalar.decode .fp16 1).isInf = false ∧
    narrow .fp16 (Scalar.decode .fp16 1) = 1 ∧ narrow .e4m3 (Scalar.decode .e4m3 0x7E) = 0x7E := by decide +kernel
/-- R160: division by zero gives all ones and the dividend; a shift takes the low six bits. -/
theorem test_alu : alu 0x0F 5 0 = BitVec.allOnes 64 ∧ alu 0x10 5 0 = 5 ∧ alu 0x05 1 65 = 2 ∧ alu 0x0F 7 2 = 3 ∧ alu 0x10 7 2 = 1 ∧
    alu 0x07 (BitVec.allOnes 64) 63 = BitVec.allOnes 64 := by decide +kernel
theorem test_intRange : (Scalar.int8, 8) ∈ [(Scalar.int32, 32), (.int16, 16), (.int8, 8), (.int6, 6), (.int4, 4), (.int3, 3)] ∧
    0xFF < 2 ^ 8 ∧ Scalar.decodeInt 8 0xFF = -1 ∧ Scalar.decodeInt 3 4 = -4 := by decide
/-- 2 × 3 + 1 in BF16 pairs, and −128 × −128 in INT8 pairs. -/
theorem test_cell : mmaCell false (some 0x3F800000) (rowValues (fmtD 1) (leBytes 2 0x4000) 1) (rowValues (fmtD 1) (leBytes 2 0x4040) 1)
      = 0x40E00000 ∧
    mmaCell true none (rowValues (fmtD 5) [0x80] 1) (rowValues (fmtD 5) [0x80] 1) = 16384 := by decide +kernel

/-! ## Clusters -/

/-- A started cluster 255 whose jig 0 stands at 0x4000 of stack 0, before these bytes. -/
def bundling (g : Jig) (bytes : List Byte) : State := { tasked jigTask with
  clusters := [(255, { task := some 81920, begun := true, jig0 := { g with pc := 0x4000 }, jig1 := { halted := true } })]
  dram := image [(0x4000, bytes)] }
/-- `ADD s1, s2, s3` alone in its bundle (Tables 6-3 and 6-5), and the same under a guard that fails. -/
def addBundle : List Byte := [0x00, 0x80, 0x00, 0x18, 0x22, 0x00]
def skippedBundle : List Byte := [0x00, 0x81, 0x00, 0x18, 0x22, 0x00]
/-- `LD8 s1, s4, 0` alone in its bundle. -/
def loadBundle : List Byte := [0x00, 0x20, 0x00, 0x00, 0x24, 0x00]
/-- Registers for them: s4 is outside every window. -/
def regs : Jig := { s := [(2, 5), (3, 7), (4, 0x2FFFFFFFFFFF)] }

/-- What a fetch and a run of the bundle answer. -/
def fetched (s : State) : Except Stop (Bundle × Bool) × State := runAct (fetchBundle (ctxOf s 255 0 81920 jigTask) 0x4000) s
def ran (s : State) (b : Bundle) : Except Stop CEffect × State := runAct (runBundle (ctxOf s 255 0 81920 jigTask) jigTask 0x4000 b) s

theorem test_bundle : (clu (bundling regs addBundle) 255).task = some 81920 ∧
    taskAt (bundling regs addBundle) 81920 = some jigTask ∧ jigActive (bundling regs addBundle) 255 0 = true ∧
    (jig (bundling regs addBundle) 255 0).stopped = false ∧
    breakCause (jig (bundling regs addBundle) 255 0) jigTask.desc.tag.toNat = none ∧
    (match fetched (bundling regs addBundle) with
      | (.ok (b, il), u) => !il && guardOf (jig u 255 0) b && decide (b.head = 0x8000)
      | _ => false) = true := by decide +kernel
theorem test_bundle_guard : (match fetched (bundling regs skippedBundle) with
      | (.ok (b, il), u) => !il && !guardOf (jig u 255 0) b
      | _ => false) = true ∧
    (jig (after (.bundleExecute 255 0 {}) (bundling regs skippedBundle)) 255 0).pc = 0x4006 := by decide +kernel
theorem test_bundle_runs : okAct (ran (bundling regs addBundle) { head := 0x8000, s := some 0x221800 }) = true ∧
    failAct (ran (bundling regs loadBundle) { head := 0x2000, m := some 0x240000 }) Code.windowFault = true := by decide +kernel
theorem test_bundle_fault : (match fetched (bundling regs loadBundle) with
      | (.ok (b, il), u) => !il && guardOf (jig u 255 0) b
      | _ => false) = true ∧
    (clu (after (.bundleExecute 255 0 {}) (bundling regs loadBundle)) 255).ended = Code.windowFault := by decide +kernel
/-- R160: s1 = s2 + s3. -/
theorem test_bundleExecute : sreg (jig (after (.bundleExecute 255 0 {}) (bundling regs addBundle)) 255 0) 1 = 12 ∧
    (jig (after (.bundleExecute 255 0 {}) (bundling regs addBundle)) 255 0).bundles = 1 := by decide +kernel
/-- R176: a bundle without slots is illegal, and so is a legal one at an address that the control flow has not reached. -/
theorem test_bundle_illegal : (match fetched (bundling regs [0, 0]) with
      | (.ok (_, il), _) => il
      | _ => false) = true ∧
    (match fetched (bundling { regs with astray := true } addBundle) with
      | (.ok (_, il), _) => il
      | _ => false) = true := by decide +kernel
theorem test_break : breakCause { brkCountEn := true } 0 = some 1 ∧ breakCause { brkTagEn := true, brkTag := 7 } 7 = some 2 ∧
    breakCause { brkCountEn := true, skipBreak := true } 0 = none := by decide
theorem test_registers : twf (0 : Word) regs.s = true ∧ twf (0 : BitVec 512) regs.v = true ∧ (1 : Nat) ≠ 0 ∧ 7 < 8 := by decide
/-- Cluster 255 with jig 0 stopped for debug. -/
def halted : State := bundling { regs with stopped := true, dbgSel := 8 } addBundle
theorem test_debug : MaySet halted .a ∧ clusterPresent halted 255 = true ∧ jigActive (bundling regs addBundle) 255 0 = true ∧
    (jig halted 255 0).stopped = true ∧ fld (8 : BitVec 11).toNat 10 8 = 0 ∧ fld (0x300 : BitVec 11).toNat 10 8 = 3 := by
  decide +kernel
theorem test_jigHaltReq : (jig (after (.jigHaltReq .a 255 0) (bundling regs addBundle)) 255 0).cause = 4 ∧
    (jig (after (.jigResume .a 255 0) halted) 255 0).stopped = false := by decide +kernel
theorem test_jigStep : sreg (jig (after (.jigStep .a 255 0 {}) halted) 255 0) 1 = 12 ∧
    (jig (after (.jigStep .a 255 0 {}) halted) 255 0).stopped = true ∧
    sreg (jig (after (.jigDbgDataWrite .a 255 0 9) halted) 255 0) 1 = 9 := by decide +kernel

/-- Cluster 255 with operations of press 3 in its queue. -/
def pressing (q : List PressOp) : State := { tasked jigTask with
  clusters := [(255, { task := some 81920, begun := true, queue := q })] }
/-- An operation with a note into drawer 5, and one that reads what an earlier one writes. -/
def noted : PressOp := { press := 3, record := [0, 0x68] ++ zeros 62, reads := [(0, 64)], writes := [(64, 128)] }
def reader : PressOp := { press := 3, record := zeros 64, reads := [(127, 130)] }
def earlierWriter : PressOp := { press := 0, record := zeros 64, writes := [(64, 128)] }

theorem test_press : headOp (clu (pressing [noted]) 255).queue 3 = some (noted, []) ∧ noted.running = false ∧
    4 > notesOf (clu (pressing [noted]) 255) 3 ∧ bit (clu (pressing [noted]) 255).shim.toNat 3 = false ∧ opWaits noted [] = false ∧
    okAct (runAct (runRecord 255 noted.record) (pressing [noted])) = true ∧
    (clu (after (.pressOpStart 255 3 {}) (pressing [noted])) 255).queue.map (·.running) = [true] := by decide +kernel
theorem test_press_same : 0 < [noted].length ∧
    (clu (after (.pressOpStart 255 3 {}) (pressing [noted, noted])) 255).queue.map (·.running) = [true, false] := by decide +kernel
theorem test_press_waits : headOp (clu (pressing [earlierWriter, reader]) 255).queue 3 = some (reader, [earlierWriter]) ∧
    earlierWriter ∈ [earlierWriter] ∧ (64, 128) ∈ earlierWriter.writes ∧ (127, 130) ∈ reader.reads ++ reader.writes ∧
    64 < 130 ∧ 127 < 128 ∧
    (clu (after (.pressOpStart 255 3 {}) (pressing [earlierWriter, reader])) 255).queue.map (·.running) = [false, false] := by
  decide +kernel
theorem test_press_retire : headOp (clu (pressing [{ noted with running := true }]) 255).queue 3 = some ({ noted with running := true }, []) ∧
    (clu (after (.pressOpRetire 255 3) (pressing [{ noted with running := true }])) 255).retired = 1 ∧
    (drawer (after (.pressOpRetire 255 3) (pressing [{ noted with running := true }])) 255 5).words = [0x8000000000030000] := by
  decide +kernel
theorem test_note : noteWaits (clu (pressing [noted]) 255) 3 5 = false ∧ Rec.noteEn noted.record = true ∧ Rec.noteDrawer noted.record = 5 ∧
    (drawer (pressing [noted]) 255 5).packet = false ∧ notesOf (clu (pressing [noted]) 255) 3 = 0 ∧
    (drawer (pressing [noted]) 255 5).words.length < 1024 ∧ 0 < pressLoad (clu (pressing [noted]) 255) 3 := by decide +kernel
/-- Cluster 255 with a note that waits, and with a shim load on press 3. -/
def noting : State := { pressing [noted] with clusters := [(255, { queue := [noted], notes := [⟨3, 5, 77⟩], shim := 8 })] }
theorem test_notePush : firstNote (clu noting 255) 3 = some ⟨3, 5, 77⟩ ∧
    (drawer (after (.notePush 255 3) noting) 255 5).words = [0x800000000000004D] ∧
    (clu (after (.shimLoadStop 255 3) noting) 255).shim = 0 := by decide +kernel
/-- R145 to R148: words come out in order; another producer finds no room in an open packet. -/
theorem test_drawer : ({ packet := true, openLeft := 1, openBy := 0 } : Drawer).openLeft ≠ 0 ∧
    pushRoom { packet := true, openLeft := 1, openBy := 0 } 1 1 = false ∧ pushRoom { packet := false } 1 1024 = true ∧
    pushRoom { packet := false } 1 1025 = false ∧ ({} : Drawer).marks = [] ∧ twf ({} : Cluster) noting.clusters = true ∧
    poppedWords 2 { words := [5, 6, 7] } = [5, 6] ∧
    (popWords 1 (pushWord 0 (pushWord 0 {} 1) 2)).words = [0x8000000000000002] := by decide +kernel

/-! ## Benches and layout engines -/

/-- A bench program of one MOVE of 16 FP32 values from offset 0 to offset 64 of bench 0's broadcast buffer (Tables 4-1, 4-2). -/
def moveRecord : List Byte := [0x01, 0x80, 0x00, 0x08] ++ leBytes 2 1 ++ leBytes 2 1 ++ leBytes 4 0 ++ leBytes 4 16 ++ zeros 8 ++
  leBytes 4 64 ++ zeros 4
def moveProgram : List Byte := leBytes 2 1 ++ zeros 6 ++ leBytes 4 128 ++ zeros 4 ++ leBytes 8 1 ++ zeros 8 ++ moveRecord
/-- A BENCH task for it. -/
def benchTask : Task := { graph := 5, state := .placed, unit := some 0, desc := { kind := 2, code := 0x1000 } }
/-- Stack 0 SHARDED, with this much of the task: its program at 0x1000. -/
def benching (f : Stack → Stack) (p : List Byte) : State := { tasked benchTask with
  stackTab := [(0, f { initBusy := false, sharded := true })], dram := image [(0x1000, p)], bbuf := image [(0, [1, 2, 3, 4])] }
def queued (p : List Byte) : State := benching (fun y => { y with benchQueue := [81920] }) p
theorem test_activate : inReset (queued moveProgram) Dom.stack 0 = false ∧ (stk (queued moveProgram) 0).benchQueue = [81920] ∧
    freeSlot (stk (queued moveProgram) 0) = some 0 ∧ taskAt (queued moveProgram) 81920 = some benchTask ∧
    rangesBusy (queued moveProgram) (declared (queued moveProgram) benchTask) = false ∧
    (match runAct (fetchProgram benchTask) (queued moveProgram) with
      | (.ok p, u) => decide (p = moveProgram) && decide (Prog.regs p ≤ 32) && decide (regsHeld (stk u 0) + Prog.regs p ≤ 32) &&
          decide (progStatus u benchTask 0 p = 0)
      | _ => false) = true := by decide +kernel
theorem test_activate_refused : (match runAct (fetchProgram benchTask) (queued (zeros 64)) with
      | (.ok p, u) => decide (Prog.regs p ≤ 32) && decide (progStatus u benchTask 0 p = Code.unitAbsent ∨
          progStatus u benchTask 0 p = Code.descriptorInvalid)
      | _ => false) = true ∧
    (tget none (stk (after (.benchTaskActivate 0 {}) (queued moveProgram)) 0).slots 0).isSome = true ∧
    (tget none (stk (after (.benchTaskActivate 0 {}) (queued (zeros 64))) 0).slots 0) = none := by decide +kernel
/-- The same task active in slot 0. -/
def active : BenchTask := { task := 81920, prog := moveProgram }
def slotted : State := benching (fun y => { y with slots := [(0, some active)] }) moveProgram
/-- What its operation answers. -/
def operated : Except Stop BOut × State := runAct (runOperation { i := 0, part := 0, base := 0, mask := 1, regs := [], ins := [] }
  moveRecord []) slotted
theorem test_operation : (stk slotted 0).running = none ∧ nextSlot slotted (stk slotted 0) = some 0 ∧
    tget none (stk slotted 0).slots 0 = some active ∧ benchPaused slotted 0 = false ∧ okAct operated = true ∧
    (stk slotted 0).retrainBusy = false ∧ (stk slotted 0).restUntil ≤ now slotted ∧
    Prog.base active.prog = 0 ∧ Prog.mask active.prog = 1 ∧ Prog.record active.prog 0 = moveRecord ∧
    extensionAt active.prog 0 = [] := by decide +kernel
theorem test_benchOperation :
    mbytes (after (.benchOperationEnd 0 {}) (after (.benchOperationStart 0 {}) slotted)).bbuf 64 4 = [1, 2, 3, 4] := by decide +kernel
/-- A running operation with a write to DRAM, during a write hold-off. -/
def holding : State := benching (fun y => { y with
  slots := [(0, some active)], running := some { stores := [.dram 0x2000 [9]] }, writeHold := true }) moveProgram
theorem test_operation_held : (stk holding 0).running = some { stores := [.dram 0x2000 [9]] } ∧ (stk holding 0).writeHold = true ∧
    [Store.dram 0x2000 [9]].any isDram = true ∧
    ((tget none (stk (after (.benchOperationEnd 0 {}) holding) 0).slots 0).map (·.staged)) = some [.dram 0x2000 [9]] := by
  decide +kernel
/-- R361, R380: while a channel retrains, and while the duty has the array rest, no operation starts. -/
theorem test_operation_rests : (stk (benching (fun y => { y with retrainBusy := true }) moveProgram) 0).retrainBusy = true ∧
    now (benching (fun y => { y with restUntil := 1 }) moveProgram) < (stk (benching (fun y => { y with restUntil := 1 }) moveProgram) 0).restUntil := by
  decide +kernel
theorem test_operation_end : (stk slotted 0).retrainBusy = false ∧ ((stk slotted 0).writeHold && [Store.bbuf 64 [1]].any isDram) = false ∧
    okAct (runAct (writeOut 0 0 [.bbuf 64 [1]]) slotted) = true := by decide +kernel

/-- A FILL of four INT32 values at 0x2000 of stack 0 with 7 (Tables 7-2 and 7-3). -/
def fillCall : List Byte := [5] ++ zeros 3 ++ leBytes 4 7 ++ zeros 24 ++ zeros 96 ++
  (leBytes 8 0x2000 ++ [0x70, 0x20] ++ zeros 6 ++ leBytes 8 4 ++ zeros 40 ++ leBytes 4 4 ++ zeros 28) ++ zeros 96
/-- A LAYOUT task, its chain at the head of region 31's engine. -/
def layoutTask : Task := { graph := 5, state := .placed, unit := some 31, desc := {
  kind := 3, code := 0x1000, outs := [{ start := 0x2000, len := 64 }] } }
def fillChain : Chain := { owner := .task 81920, task := 81920, addr := 0x1000 }
def laying (c : Chain) : State := { tasked layoutTask with
  regions := [(31, { chains := [c] })], dram := image [(0x1000, fillCall)] }
theorem test_chain : (reg (laying fillChain) 31).chains = [fillChain] ∧ fillChain.started = false ∧
    inReset (laying fillChain) Dom.region 31 = false ∧ (∀ q n, fillChain.owner ≠ .swap q n) ∧ fillChain.busy = false ∧
    (match runAct (chainAcquire 31 fillChain) (startOwner (laying fillChain) 31 fillChain) with
      | (.ok (), u) => okAct (runAct (beginCall 31 fillChain) (modReg u 31 (fun x => { x with mitreFail := none })))
      | _ => false) = true := by
  refine ⟨by decide +kernel, rfl, by decide +kernel, ?_, by decide, by decide +kernel⟩
  intro q n h; cases h
/-- R183, R192: the chain ends with its call, and the values are home when its task completes. -/
theorem test_regionsForm : twf ({} : Region) (laying fillChain).regions = true := by decide +kernel
theorem test_layout : mbytes (after (.taskComplete 81920 {}) (after (.layoutCallEnd 31 {})
      (after (.layoutChainStart 31 {}) (laying fillChain)))).dram 0x2000 8 = [7, 0, 0, 0, 7, 0, 0, 0] ∧
    (reg (after (.layoutCallEnd 31 {}) (after (.layoutChainStart 31 {}) (laying fillChain))) 31).chains = [] ∧
    ((taskAt (after (.layoutCallEnd 31 {}) (after (.layoutChainStart 31 {}) (laying fillChain))) 81920).map (·.workDone)) = some true := by
  decide +kernel
/-- A chain whose running call fails, one whose call is the last, and one that goes on at 0x1000. -/
def failing : Chain := { fillChain with busy := true, started := true, status := Code.descriptorInvalid }
def ending : Chain := { fillChain with busy := true, started := true }
def going : Chain := { fillChain with busy := true, started := true, next := 0x1000 }
theorem test_chain_end : (∀ cl j t, failing.owner ≠ .ticket cl j t) ∧ failing.busy = true ∧
    (match runAct (watched failing (finishStores 31 failing)) (laying failing) with
      | (.ok (st, _), _) => decide (st ≠ 0)
      | _ => false) = true ∧
    (match runAct (watched ending (finishStores 31 ending)) (laying ending) with
      | (.ok (st, _), u) => decide (st = 0) && decide ((reg u 31).waiting = [])
      | _ => false) = true := by
  refine ⟨?_, rfl, by decide +kernel, by decide +kernel⟩
  intro cl j t h; cases h
theorem test_chain_last : ({ going with calls := 64 } : Chain).next ≠ 0 ∧ 64 ≤ ({ going with calls := 64 } : Chain).calls ∧
    (match runAct (watched { going with calls := 64 } (finishStores 31 { going with calls := 64 })) (laying { going with calls := 64 }) with
      | (.ok (st, _), _) => decide (st = 0)
      | _ => false) = true := by decide +kernel
theorem test_chain_next : going.next ≠ 0 ∧ going.calls < 64 ∧
    (match runAct (watched going (finishStores 31 going)) (laying going) with
      | (.ok (st, e), u) => decide (st = 0) && okAct (runAct (startCall 31 { e with busy := false, stores := [], passes := [], status := 0, addr := going.next })
          (modReg u 31 (fun x => { x with calls := x.calls + 1 })))
      | _ => false) = true := by decide +kernel

/-! ## Stacks -/

/-- The serving package with this stack 23, and another. -/
def stacked (y : Stack) : State := { serving with stackTab := [(22, { initBusy := false }), (23, { y with initBusy := false })] }

theorem test_stackMode : (stk (stacked {}) 23).lock = false ∧ twf ({} : Stack) (stacked {}).stackTab = true ∧
    (stk (stacked {}) 23).sharded ≠ true ∧ (stk (stacked { sharded := true }) 23).sharded = true ∧
    (stk (stacked { lock := true }) 23).lock = true ∧ (stk (stacked { lock := true }) 23).sharded ≠ true := by decide +kernel
theorem test_stackModeWrite : (stk (after (.stackModeWrite .a 23 true) (stacked {})) 23).initBusy = true ∧
    (after (.stackModeWrite .a 23 true) { stacked {} with dram := [(stackBase 23, 1)] }).dram = [] ∧
    (stk (after (.stackModeWrite .a 23 true) (stacked { lock := true })) 23).sharded = false := by decide +kernel
theorem test_fillEnd : (stk serving 5).initBusy = true ∧ serving.hub.mainPg = true ∧ inReset serving Dom.stack 5 = false ∧
    (stk serving 5).writeHold = false ∧ (stk (after (.stackFillEnd 5) serving) 5).initBusy = false := by decide +kernel
/-- R61, R62 at the ends: 64 channels of 1 GiB. -/
theorem test_window : stackPresent (stacked {}) 23 = true ∧ (stk (stacked {}) 23).sharded = false ∧
    absentOff (stacked {}) 23 (64 * 2 ^ 30 - 1) = false ∧ 0 < (activeChannels (stk (stacked {}) 23)).length * channelBytes (stacked {}) / 2097152 ∧
    (0 : Nat) ∈ activeChannels (stk (stacked {}) 23) ∧ bit (stk (stacked { sharded := true }) 23).chAbsent.toNat 63 = false ∧
    channelOf (stacked { sharded := true }) 23 (63 * 2 ^ 30 + 5) = (63, 5) := by decide +kernel
/-- R63 at an offset of each field, and the 12 GiB stack's last row. -/
theorem test_bank : 2 ^ 30 - 1 < 2 ^ 30 ∧ 768 * 2 ^ 20 - 1 < 768 * 2 ^ 20 ∧ bankOf 0x20800 = (1, 0, 0, 0) ∧ bankOf 0x43 = (0, 0, 1, 3) := by
  decide +kernel
theorem test_poison : isPoisoned (stacked {}) 23 7 = false ∧
    isPoisoned (stacked { poison := [(0, some { sector := 7 })] }) 23 7 = true ∧
    (stk (poisonSector (stacked {}) 23 7 true) 23).poison = [(0, some { worked := true, sector := 7 })] := by decide +kernel
/-- A list of this many entries, for the sectors from 100 up. -/
def poisonList (n : Nat) : Tab (Option Poison) := (List.range n).map (fun k => (k, some { sector := 100 + k }))
/-- R284: sequence 3 of partition 0, resident on the device, has its region on channel 0 of stack 23. -/
theorem test_poison_unmarked : (stk (stacked {}) 23).sharded = false ∧
    unmarked (stacked { sharded := true }) (seqHolds 23 (channelOf (stacked { sharded := true }) 23 (7 * 64)).2 64) = [] := by decide +kernel
theorem test_poison_full : (stk (stacked { poison := poisonList 4096 }) 23).poison.length = 4096 ∧
    isPoisoned (stacked { poison := poisonList 4096 }) 23 7 = false := by decide +kernel
theorem test_poison_high : (stk (stacked { poison := poisonList 3840 }) 23).poison.length = 3840 ∧
    isPoisoned (stacked { poison := poisonList 3840 }) 23 7 = false ∧ 3839 ≠ 3840 ∧ 3841 ≠ 3840 := by decide +kernel
/-- Sector 7 of stack 23 with this many bad bytes, set down for write-back; the COPY is on stack 22. -/
def wrong (n : Nat) : State := stacked {
  latent := [(7, 2 ^ n - 1)], writeback := [7], mirrorPending := [7], granules := [(0, { role := 1, partner := 22 })] }
theorem test_sector : isPoisoned (wrong 4) 23 7 = false ∧ badBytes (wrong 4) 23 7 = 4 ∧ correctable (stk (wrong 4) 23) = 4 ∧
    (gran (wrong 4) 23 (7 / 32768)).worked = false ∧ (stk (wrong 4) 23).writeback.contains 7 = true ∧ badBytes (wrong 4) 23 8 = 0 ∧
    badBytes (wrong 4) (gran (wrong 4) 23 (7 / 32768)).partner 7 = 0 ∧
    isPoisoned (wrong 4) (gran (wrong 4) 23 (7 / 32768)).partner 7 = false ∧
    (stk (wrong 4) 23).mirrorPending.contains 7 = true := by decide +kernel
/-- Sector 7 with as many bad bytes in a worked granule, in an unmirrored one, and under the two-byte code, not yet set down. -/
def badSector (n : Nat) (worked two : Bool) : State := stacked {
  latent := [(7, 2 ^ n - 1)], correct2 := two, granules := [(0, { worked := worked })] }
theorem test_sector_worked : isPoisoned (badSector 1 true false) 23 7 = false ∧ (gran (badSector 1 true false) 23 (7 / 32768)).worked = true ∧
    0 < badBytes (badSector 1 true false) 23 7 ∧
    failAct (runAct (loadSector 23 7) (badSector 1 true false)) Code.poisoned = true := by decide +kernel
theorem test_sector_two : (stk (badSector 6 false true) 23).correct2 = true ∧ badBytes (badSector 3 false true) 23 7 = 3 ∧
    badBytes (badSector 6 false true) 23 7 = 6 ∧ (gran (badSector 6 false true) 23 (7 / 32768)).role ≠ 1 ∧
    (gran (badSector 6 false true) 23 (7 / 32768)).worked = false ∧
    decodeSealed (badSector 6 false true) 23 7 = (.uncorrectable, badSector 6 false true) ∧
    failAct (runAct (loadSector 23 7) (badSector 6 false true)) Code.poisoned = true := by decide +kernel
/-- R68: each read that corrects is counted, the sector is set down once. -/
theorem test_sector_counted : badBytes (badSector 4 false false) 23 7 ≤ correctable (stk (badSector 4 false false) 23) ∧
    twf ({} : Stack) (badSector 4 false false).stackTab = true ∧
    (stk (noteRepair (noteRepair (badSector 4 false false) 23 7) 23 7) 23).ceEvents.length = 2 ∧
    (stk (noteRepair (noteRepair (badSector 4 false false) 23 7) 23 7) 23).writeback = [7] := by decide +kernel
/-- R80: the patrol at sector 7, with this many bad bytes. -/
def patrolling (n : Nat) : State := stacked { latent := [(7, 2 ^ n - 1)], scrubPos := 7 }
theorem test_patrol : 0 < badBytes (patrolling 4) 23 7 ∧ badBytes (patrolling 4) 23 7 ≤ correctable (stk (patrolling 4) 23) ∧
    isPoisoned (patrolling 4) 23 7 = false ∧ (gran (patrolling 4) 23 (7 / 32768)).worked = false ∧ granBusy (patrolling 4) 23 (7 / 32768) = false ∧
    badBytes (patrolling 0) 23 7 = 0 ∧ (stk (after (.scrubTick 23 {}) (patrolling 4)) 23).latent = [] ∧
    (stk (after (.scrubTick 23 {}) (patrolling 4)) 23).scrubPos = 8 := by decide +kernel
theorem test_sector_written : (stk (after (.correctedWriteback 23 7) (wrong 4)) 23).latent = [] ∧
    (after (.mirrorReadReturn 23 7 {}) { wrong 5 with dram := [(stackBase 22 + 448, 9)] }).dram =
      [(stackBase 22 + 448, 9), (stackBase 23 + 448, 9)] := by decide +kernel
theorem test_scrub : (stk (stacked {}) 23).periodH ≠ 0 ∧ absentOff (stacked {}) 23 ((stk (stacked {}) 23).scrubPos * 64) = false ∧
    (stk (stacked {}) 23).scrubPos < 64 * (channelBytes (stacked {}) / 64) ∧ granBusy (stacked {}) 23 0 = false ∧
    badBytes (stacked {}) 23 (stk (stacked {}) 23).scrubPos = 0 ∧ (stk (after (.scrubTick 23 {}) (stacked {})) 23).scrubPos = 1 := by
  decide +kernel
theorem test_spare : (stk (stacked { sparing := some (3, 0) }) 23).sparing = some (3, 0) ∧
    (stk (stacked { sparing := some (3, 0) }) 23).latent = [] ∧
    (stk (after (.spareCopyEnd 23 []) (stacked { sparing := some (3, 0) })) 23).sparing = none := by decide +kernel
theorem test_retrain : (0x800000000000003F : Word).toNat.testBit 63 = true ∧ (stk (stacked {}) 23).sparing = none ∧
    (stk (stacked {}) 23).retrainBusy = false ∧
    (stk (stacked {}) 23).chAbsent.toNat.testBit (BitVec.ofNat 6 (0x800000000000003F : Word).toNat).toNat = false ∧
    (stk (stacked { chAbsent := 0x8000000000000000 }) 23).chAbsent.toNat.testBit
      (BitVec.ofNat 6 (0x800000000000003F : Word).toNat).toNat = true ∧
    (stk (after (.retrain .a 23 0x800000000000003F) (stacked {})) 23).retrainBusy = true ∧
    (stk (after (.retrainEnd 23 true) (after (.retrain .a 23 0x800000000000003F) (stacked {}))) 23).retrainBusy = false := by
  decide +kernel
theorem test_retrain_refused : (stk (stacked { sparing := some (3, 0) }) 23).sparing ≠ none ∧
    (stk (stacked { retrainBusy := true }) 23).retrainBusy = true ∧ retrainForTables (stacked { retrainBusy := true }) 23 = false ∧
    twf ({} : Stack) (stacked {}).stackTab = true ∧
    (stk (after (.retrain .a 23 0x800000000000003F) (stacked { sparing := some (3, 0) })) 23).retrainStatus = Code.stateConflict := by
  decide +kernel
theorem test_refresh : (stk (stacked {}) 23).running = none ∧ (stk (after (.refreshCommand 23) (stacked {})) 23).nextBank = 1 := by
  decide +kernel
/-- R84: four refreshes owed, and the fifth due. -/
theorem test_forcedRefresh : (stk (stacked { running := some { banks := [0] }, owed := 4 }) 23).owed = 4 ∧
    (stk (stacked { running := some { banks := [0] }, owed := 3 }) 23).owed < 4 ∧
    (stk (after (.forcedRefresh 23) (stacked { running := some { banks := [0] }, owed := 4 })) 23).forcedRefresh = 1 := by
  decide +kernel

/-- A MAINT task of stack 0, its operand block (Table 3-6) at 0x1000: this operation on granules 100 and 101. -/
def maintBlock (op : Byte) : List Byte := [op, 0, 0, 0] ++ leBytes 4 100 ++ leBytes 4 2 ++ zeros 4
def maintTask : Task := { graph := 5, state := .placed, unit := some 0, desc := { kind := 4, code := 0x1000 } }
def maintaining (f : Stack → Stack) (op : Byte) : State := { tasked maintTask with
  stackTab := [(0, f { initBusy := false })], dram := image [(0x1000, maintBlock op), (100 * 2097152, [9])] }
def maintPlaced (op : Byte) : State := maintaining (fun y => { y with maintPlaced := some 81920 }) op
theorem test_maint : (stk (maintPlaced 5) 0).maint = none ∧ (stk (maintPlaced 5) 0).maintPlaced = some 81920 ∧
    taskAt (maintPlaced 5) 81920 = some maintTask ∧ maintTask.workDone = false ∧ Mop.clearPoison ≠ Mop.mapOut ∧
    (match runAct (maintBegin 0 81920 maintTask) (maintPlaced 5) with
      | (.ok (some m), u) => decide (m.op = Mop.clearPoison) && decide (maintStatus u maintTask m 0 = 0)
      | _ => false) = true ∧
    (match runAct (maintBegin 0 81920 maintTask) (maintPlaced 8) with
      | (.ok none, _) => true
      | _ => false) = true := by decide +kernel
theorem test_maintTaskStart : (gran (after (.maintTaskStart 0 {}) (maintPlaced 5)) 0 100).state = workState Mop.clearPoison ∧
    ((taskAt (after (.maintTaskStart 0 {}) (maintPlaced 8)) 81920).map (·.status)) = some Code.descriptorInvalid := by decide +kernel
/-- The last granule of that task in work, and the task done. -/
def clearing : State := maintaining (fun y => { y with maint := some { task := 81920, op := 5, next := 100, last := 101, active := true } }) 5
theorem test_granule : (stk clearing 0).maint = some { task := 81920, op := 5, next := 100, last := 101, active := true } ∧
    (gran clearing 0 100).role ≠ 1 ∧ (stk clearing 0).writeHold = false ∧ 101 ≤ 100 + 1 ∧
    mget (after (.maintGranuleDone 0 {}) clearing).dram (100 * 2097152) = 0 ∧
    (stk (after (.maintGranuleDone 0 {}) clearing) 0).maintDone = true := by decide +kernel
theorem test_maintTaskEnd : maintTask.stopped = false ∧ maintTask.limitHit = false ∧
    ((taskAt (after (.maintTaskEnd 0) (after (.maintGranuleDone 0 {}) clearing)) 81920).map (·.result)) = some 0x100000000 := by
  decide +kernel
theorem test_conversion : (stk (stacked { conversion := [(9, true)] }) 23).conversion = [(9, true)] ∧
    badSectors (stacked { conversion := [(9, true)] }) 23 9 = [] ∧
    (gran (after (.conversionResume 23 {}) (stacked { conversion := [(9, true)] })) 23 9).worked = true := by decide +kernel

/-! ## Forset -/

/-- A torus of 4 × 1 × 1 nodes, this package at node 0, and link 0 (die 0, to +X) in this state. -/
def fabric (l : Link) : State := { serving with fst := { en := true, nx := 4 }, links := [(0, l)] }
theorem test_train : (lnk (fabric { state := .training }) 0).state = .training ∧ usableLanes 0xFF ≠ 0 ∧ usableLanes 0x0F = 0x0F ∧
    usableLanes 0x7E = 0 ∧ rightPeer (modLnk (fabric { state := .training }) 0
      (fun l => { l with peer := 1, peerDie := 0, delayNs := 3 })) 0 ⟨0xFF, 1, 0, 1, 3⟩ = true := by decide +kernel
theorem test_linkTrainEnd : (lnk (after (.linkTrainEnd 0 ⟨0xFF, 1, 0, 1, 3⟩) (fabric { state := .training })) 0).state = .up ∧
    (lnk (after (.linkTrainEnd 0 ⟨0xF7, 1, 0, 1, 3⟩) (fabric { state := .training })) 0).state = .degraded ∧
    (lnk (after (.linkTrainEnd 0 ⟨0x7E, 1, 0, 1, 3⟩) (fabric { state := .training, failures := 7 })) 0).state = .down := by decide +kernel
theorem test_retry : (lnk (fabric { failures := 7 }) 0).state = .down ∧ (lnk (fabric { failures := 7 }) 0).failures < 8 ∧
    mayTrain (fabric { failures := 7 }) 0 = true ∧ (lnk (after (.linkTrainRetry 0) (fabric { failures := 7 })) 0).state = .training ∧
    (lnk (after (.linkTrainRetry 0) (fabric { failures := 8 })) 0).state = .down := by decide +kernel
theorem test_enable : (lnk (fabric { disabled := true }) 0).disabled = true ∧
    mayTrain (linkStatus (modLnk (fabric { disabled := true }) 0 (fun l => { l with disabled := false, failures := 0 })) 0 Code.ok) 0 = true ∧
    mayTrain (linkStatus (modLnk (fabric { disabled := true, cableHigh := true }) 0 (fun l => { l with disabled := false, failures := 0 })) 0
      Code.ok) 0 = false ∧ (lnk (after (.enable .a 0) (fabric { disabled := true })) 0).state = .training ∧
    (lnk (after (.disable .a 0) (fabric {})) 0).disabled = true ∧ (lnk (fabric {}) 0).state = .down ∧
    (lnk (fabric {}) 0).disabled = false := by decide +kernel
theorem test_linkCommand : MaySet (fabric { state := .up }) .a ∧ (lnk (fabric { state := .degraded }) 0).state = .degraded ∧
    (lnk (fabric { draining := some false }) 0).draining = some false ∧
    (lnk (fabric { disabled := true }) 0).disabled = true ∧ { (fabric {}).fst with en := false }.en = false ∧
    (lnk (fabric { draining := some true }) 0).replayBuf = [] := by decide +kernel
theorem test_recal : (lnk (after (.recal .a 0) (fabric { state := .up })) 0).draining = some false ∧
    (lnk (after (.disable .a 0) (fabric { state := .up })) 0).draining = some true ∧
    (lnk (after (.linkDrainEnd 0) (fabric { state := .up, draining := some true })) 0).disabled = true ∧
    (lnk (after (.enable .a 0) (fabric { disabled := true })) 0).disabled = false := by decide +kernel
theorem test_node : serving.hub.lockFabric = false ∧ (3 : Word).toNat.testBit 63 = false ∧
    serving.fst.root ≠ BitVec.ofNat 18 (3 : Word).toNat ∧ serving.fst.en = false ∧ (fabric {}).fst.en = true ∧
    torusOk (BitVec.ofNat 18 (3 : Word).toNat) 4 1 1 = true ∧ torusOk (BitVec.ofNat 18 (4 : Word).toNat) 4 1 1 = false ∧
    (0x8000000000000003 : Word).toNat.testBit 63 = true ∧ BitVec.ofNat 18 (3 : Word).toNat ≠ serving.fst.node ∧
    serving.fst.node = BitVec.ofNat 18 (0x80000000 : Word).toNat ∧ (0x80000000 : Word).toNat.testBit 31 = true := by decide
theorem test_nodeEnable : (after (.nodeEnable .a 3) { serving with fst := { nx := 4 } }).fst.node = 3 ∧
    (after (.nodeEnable .a 4) { serving with fst := { nx := 4 } }).fst.node = 0 ∧
    (after (.nodeEnable .a 1) { serving with fst := { nx := 4, root := 1, syncEn := true } }).fst.timeState = .locked ∧
    (after (.syncEnable .a 0x80000000) serving).fst.timeState = .locked := by decide +kernel
/-- A good flit's head, one with a wrong CRC, one of another epoch. -/
def goodHead (kind : BitVec 2) (seq : BitVec 12) (payload : List Byte) : FlitHead :=
  ⟨0, 0, 0, 0, crc64 (flitBody kind seq 0 0 0 0 payload), [15, 0], false⟩
def idleHead : FlitHead := goodHead FlitKind.idle 0 []
def badHead : FlitHead := { idleHead with errors := [16] }
/-- The check value of CRC-64/ECMA-182 (log entry 107) over the nine digits. -/
theorem test_crc : crc64 [0x31, 0x32, 0x33, 0x34, 0x35, 0x36, 0x37, 0x38, 0x39] = 0x6C40DF5F0B497347 := by decide +kernel
/-- The generator of RS(544,514): the coefficients that IEEE 802.3 tabulates for this code. -/
theorem test_generator : rsTaps = [575, 552, 187, 230, 552, 1, 108, 565, 282, 249, 593, 132, 94, 720, 495, 385, 942, 503, 883, 361,
    788, 610, 193, 392, 127, 185, 158, 128, 834, 523] := by decide +kernel
theorem test_flit : flitGood badHead FlitKind.idle 0 [] = false ∧ flitGood idleHead FlitKind.idle 0 [] = true ∧
    flitGood idleHead FlitKind.idle 1 [] = false ∧ flitGood (goodHead FlitKind.data 5 (zeros 304)) FlitKind.data 5 (zeros 304) = true ∧
    flitGood badHead FlitKind.data 5 (zeros 304) = false ∧ flitGood (goodHead FlitKind.replay 5 []) FlitKind.replay 5 [] = true ∧
    flitGood badHead FlitKind.replay 5 [] = false := by decide +kernel
theorem test_flit_state : idleHead.epoch = (lnk (countFec (fabric { state := .up }) 0 idleHead) 0).epoch ∧
    idleHead.epoch ≠ (lnk (countFec (fabric { state := .up, epoch := 1 }) 0 idleHead) 0).epoch ∧
    (0 : BitVec 12) = (lnk (takeHead (countFec (fabric { state := .up }) 0 idleHead) 0 idleHead) 0).rxSeq ∧
    (0xFFF : BitVec 12) ≠ (lnk (takeHead (countFec (fabric { state := .up }) 0 idleHead) 0 idleHead) 0).rxSeq ∧
    2048 ≤ ((0xFFF : BitVec 12) - (lnk (takeHead (countFec (fabric { state := .up }) 0 idleHead) 0 idleHead) 0).rxSeq).toNat := by
  decide +kernel
theorem test_dataFlit : (lnk (after (.dataFlit 0 (goodHead FlitKind.data 0 (zeros 304)) 0 (zeros 304)) (fabric { state := .up })) 0).rxSeq = 1 ∧
    (lnk (after (.dataFlit 0 badHead 0 (zeros 304)) (fabric { state := .up })) 0).rxSeq = 0 ∧
    (lnk (after (.dataFlit 0 (goodHead FlitKind.data 0xFFF (zeros 304)) 0xFFF (zeros 304)) (fabric { state := .up })) 0).rxSeq = 0 := by decide +kernel
theorem test_replay : (lnk (fabric { state := .up, replayBuf := [{}] }) 0).ackAt + 2000 ≤
      now { fabric { state := .up, replayBuf := [{}] } with time := 2000 } ∧
    now { fabric { state := .up, replayBuf := [{}] } with time := 1999 } < (lnk (fabric { state := .up, replayBuf := [{}] }) 0).ackAt + 2000 ∧
    (lnk (after (.replayTimeout 0) { fabric { state := .up, replayBuf := [{}] } with time := 2000 }) 0).futileTimed = 1 := by decide +kernel
theorem test_linkDown : (lnk (fabric { state := .up, futileAsked := 32 }) 0).futileAsked = 32 ∧
    (lnk (fabric { state := .up, futileAnswered := 32 }) 0).futileAnswered = 32 ∧
    (lnk (fabric { state := .up, futileTimed := 32 }) 0).futileTimed = 32 ∧ 0 + 20000 ≤ 20000 ∧
    (lnk (fabric { state := .up, errorSince := some 0 }) 0).errorSince = some 0 ∧
    (lnk (fabric { state := .up, replayBuf := [{}] }) 0).replayBuf ≠ [] ∧
    (lnk (after (.linkDownTimeout (.noProgress 0)) (fabric { state := .up, futileAsked := 32 })) 0).state ≠ .up ∧
    (lnk (after (.linkDownTimeout (.stopped 0)) (fabric { state := .up })) 0).state ≠ .up ∧
    (lnk (after (.linkDownTimeout (.noProgress 0)) (fabric { state := .up, futileAsked := 31 })) 0).state = .up := by decide +kernel

/-- A packet of this type for this node, with data. -/
def packet (t : BitVec 4) (dst : BitVec 18) (a : Nat) (d : List Byte) : Packet := {
  (default : Packet) with typ := t, dst := dst, addr := BitVec.ofNat 46 a, length := BitVec.ofNat 11 d.length, data := d, fkey := 7 }
theorem test_packet : (packet 1 2 0x2000 [1, 2, 3]).data.length = dataLen (packet 1 2 0x2000 [1, 2, 3]) ∧
    parsePacket (packetBytes (packet 1 2 0x2000 [1, 2, 3]) ++ [9]) = packet 1 2 0x2000 [1, 2, 3] ∧
    (packetBytes (packet 1 2 0x2000 [1, 2, 3])).length = 48 := by decide +kernel
/-- R322: a detoured packet takes its ROUTE step off as it leaves. -/
theorem test_leaving : ({ packet 2 1 0 [] with detoured := true, hops := 2, route := 0x11 } : Packet).hops ≠ 0 ∧
    (leaving { packet 2 1 0 [] with detoured := true, hops := 2, route := 0x11 }).route = 2 ∧ (packet 2 1 0 []).detoured = false := by decide
theorem test_send : tooOld (fabric { state := .up, txq := [(7, [packet 2 1 0 []])] }) (packet 2 1 0 []) 2000 = false ∧ tget [] (lnk (fabric { state := .up, txq := [(7, [packet 2 1 0 []])] }) 0).txq 7 = [packet 2 1 0 []] ∧
    tget 0 (lnk (fabric { state := .up, credits := [(7, 1022)] }) 0).credits 7 + packetUnits (packet 2 1 0 []) ≤ 1024 ∧
    (payloadsOf (packetBytes (packet 2 1 0 []))).length = 1 ∧
    (lnk (after (.packetSend 0 7) (fabric { state := .up, txq := [(7, [packet 2 1 0 []])] })) 0).txSeq = 1 ∧
    (lnk (after (.packetSend 0 7) (fabric { state := .up, txq := [(7, [packet 2 1 0 []])], credits := [(7, 1023)] })) 0).txSeq = 0 := by
  decide +kernel

/-- A router of die 0 with one packet, and the partition whose key it carries. -/
def keyed : Part := { partition0 with fkey := 7, pegCount := 1 }
def routing (p : Packet) (l : Link) : State := { fabric l with
  parts := [(0, keyed)], stackTab := [(0, { initBusy := false })]
  fst := { en := true, nx := 4, routers := [(0, [{ pkt := p }])], ingress := [(0, [{ pkt := p }])] } }
theorem test_route : routable (routing (packet 2 0 0 []) {}) 0 = some { pkt := packet 2 0 0 [] } ∧
    tooOld (routing (packet 2 0 0 []) {}) (packet 2 0 0 []) 2000 = false ∧
    pathUp (routing (packet 2 0 0 []) {}) 0 (servingDie 0 (packet 2 0 0 [])) = true ∧
    wayOf (routing (packet 2 1 0 []) { state := .up }) 0 (packet 2 1 0 []) = .link 0 (packet 2 1 0 []) ∧
    wayOf (routing (packet 2 1 0 []) {}) 0 (packet 2 1 0 []) = .unroutable := by decide +kernel
theorem test_packetRoute : (tget [] (after (.packetRoute 0) (routing (packet 2 0 0 []) {})).fst.routers 0) = [] ∧
    (lnk (after (.packetRoute 0) (routing (packet 2 1 0 []) { state := .up })) 0).txq ≠ [] ∧
    (after (.packetRoute 0) (routing (packet 2 1 0 []) {})).fst.unroutable = 1 := by decide +kernel
/-- The same, with a packet that is over its time. -/
def late : Packet := { packet 2 0 0 [] with locked := true }
def lateState : State := { routing late {} with time := 2000, fst := { (routing late {}).fst with carryLocked := true, timeState := .locked } }
theorem test_late : tooOld lateState late 2000 = true ∧ routable lateState 0 = some { pkt := late } ∧
    (tget [] lateState.fst.routers 0)[0]? = some { pkt := late } ∧
    (tget [] lateState.fst.ingress 0).find? (fun x => tooOld lateState x.pkt 0) = some { pkt := late } ∧
    (after (.routerAgeDrop 0 0) lateState).fst.aged = 1 := by decide +kernel
/-- The late packet in a link's queue. -/
def lateQueue : State := { lateState with
  fst := { lateState.fst with routers := [] }, links := [(0, { state := .up, txq := [(2, [late])] })] }
theorem test_late_queued : tget [] (lnk lateQueue 0).txq 2 = [late] ∧ tooOld lateQueue late 2000 = true ∧
    (tget [] lateQueue.fst.routers 0)[0]? = none ∧ (dropQueued lateQueue 0).isSome = true ∧
    (after (.packetSend 0 2) lateQueue).fst.aged = 1 ∧ (after (.routerAgeDrop 0 0) lateQueue).fst.aged = 1 := by decide +kernel
/-- R321 on a ring of 4: one hop up to node 1, two hops tie to the positive way, three hops go down. -/
theorem test_dimension : coord 0 0 ≠ coord 1 0 ∧ coord 0 0 < extentOf { nx := 4 } 0 ∧ coord 3 0 < extentOf { nx := 4 } 0 ∧
    nextDir { nx := 4 } 0 1 = some 0 ∧ nextDir { nx := 4 } 0 2 = some 0 ∧ nextDir { nx := 4 } 0 3 = some 1 := by decide

/-- A PUT, a GET and an ADD of 0x2000 of stack 0, a PEG SET and ADD of peg 0, a PUT with an unknown key. -/
def put : Packet := packet 1 0 0x2000 [1, 2, 3]
def get_ : Packet := { packet 2 0 0x2000 [] with length := 3 }
def add : Packet := packet 3 0 0x2000 ([5] ++ zeros 15)
def peg (op : BitVec 2) : Packet := { packet 4 0 0x200000000000 ([5] ++ zeros 15) with pegOp := op }
theorem test_serve : engineServes (routing put {}) 0 = true ∧ tget [] (routing put {}).fst.ingress 0 = [{ pkt := put }] ∧
    okAct (runAct (servePut put) (routing put {})) = true ∧ okAct (runAct (serveGet get_) (routing get_ {})) = true ∧
    okAct (runAct (serveAdd add) (routing add {})) = true ∧
    failAct (runAct (servePut { put with fkey := 8 }) (routing { put with fkey := 8 } {})) Code.windowFault = true := by decide +kernel
/-- R328: a shape that Table 12-6 does not give, an unknown key, addresses outside the windows, and a package that is FATAL. -/
def shapeless (t : BitVec 4) : Packet := { packet t 0 0x2000 [] with length := 0 }
theorem test_refused : tooOld (routing (shapeless 1) {}) (shapeless 1) 0 = false ∧ (routing (shapeless 1) {}).rst.fatal = false ∧
    shapeOk (shapeless 1) = false ∧ shapeOk (shapeless 2) = false ∧ shapeOk (shapeless 3) = false ∧ shapeOk (shapeless 4) = false ∧
    shapeOk { put with fkey := 8 } = true ∧ keyOwner (routing { put with fkey := 8 } {}) 8 = none ∧ put.typ ≠ Pkt.peg ∧
    keyOwner (routing put {}) 7 = some 0 ∧ remoteRange (routing put {}) 0 true 0x300000000000 3 = false ∧
    { (routing put {}).rst with fatal := true }.fatal = true := by decide +kernel
theorem test_refused_get : failAct (runAct (serveGet (shapeless 2)) (routing (shapeless 2) {})) Code.descriptorInvalid = true ∧
    failAct (runAct (serveAdd (shapeless 3)) (routing (shapeless 3) {})) Code.descriptorInvalid = true ∧
    (after (.getPacket 0 {}) (routing (shapeless 2) {})).fst.naksSent = 1 ∧
    (after (.pegPacket 0) (routing (shapeless 4) {})).fst.naksSent = 1 := by decide +kernel
theorem test_refused_peg : (peg 1).typ = Pkt.peg ∧ shapeOk (peg 1) = true ∧ pegAt 0x2000 = none ∧ pegAt 0x200000000004 = some 1 ∧
    ownsPeg (routing (peg 1) {}) 0 1 = false ∧
    dieDown { routing (peg 1) {} with pwr := { domains := [(0, { down := true })] } } (0 / 16384) = true ∧
    engineServes { routing (peg 1) {} with pwr := { domains := [(0, { down := true })] } } 0 = true := by decide +kernel
theorem test_putPacket : mbytes (after (.putPacket 0 {}) (routing put {})).dram 0x2000 3 = [1, 2, 3] ∧
    mbytes (after (.addPacket 0 {}) { routing add {} with dram := [(0x2000, 2)] }).dram 0x2000 1 = [7] ∧
    (after (.putPacket 0 {}) (routing { put with fkey := 8 } {})).fst.naksSent = 1 := by decide +kernel
theorem test_peg : tooOld (routing (peg 1) {}) (peg 1) 0 = false ∧ (routing (peg 1) {}).rst.fatal = false ∧
    (peg 1).length = 16 ∧ (peg 1).addr.toNat % 4 = 0 ∧ keyOwner (routing (peg 1) {}) 7 = some 0 ∧
    pegAt (peg 1).addr.toNat = some 0 ∧ ownsPeg (routing (peg 1) {}) 0 0 = true ∧ dieDown (routing (peg 1) {}) (0 / 16384) = false ∧
    (peg 1).typ = Pkt.peg ∧ (peg 2).pegOp = 2 := by decide +kernel
theorem test_pegPacket : (after (.pegPacket 0) { routing (peg 1) {} with pegs := [(0, 2)] }).pegs = [(0, 5)] ∧
    (after (.pegPacket 0) { routing (peg 2) {} with pegs := [(0, 2)] }).pegs = [(0, 7)] := by decide +kernel

/-- An answer to request 9 of die 0, and the request. -/
def answer (t : BitVec 4) : Packet := { packet t 0 0 (zeros 8) with tag := 9 }
def asked : Outstanding := { tag := 9, pkt := { packet 1 1 0x2000 [1] with tag := 9 }, who := .completion 81920 }
/-- Table 13-6: a cluster loses its tickets; a request that has been sent keeps its tag. -/
theorem test_ticketsForgotten : (after (.clusterReset .a 3) { serving with fst := { requests := [{ asked with who := .ticket 3 0 1 },
    { asked with who := .ticket 4 0 1 }] } }).fst.requests.map (fun o => o.who) = [.nobody, .ticket 4 0 1] := by decide +kernel
def answered (t : BitVec 4) (l : List Outstanding) : State := { fabric {} with
  tasks := [(81920, some { workDone := true, remoteSent := true, remoteLeft := 1 })]
  fst := { en := true, nx := 4, requests := l, routers := [(0, [{ pkt := answer t }])] } }
theorem test_answer : (tget [] (answered 8 []).fst.routers 0).find? (fun x => x.pkt = answer 8) = some { pkt := answer 8 } ∧
    (answer 8).dst = (answered 8 []).fst.node ∧ pathUp (answered 8 []) 0 (answer 8).reqDie.toNat = true ∧
    matching (answered 8 []) (answer 8) = none ∧ matching (answered 8 [asked]) (answer 8) = some asked ∧
    matching (releaseHeld (takeOut (answered 8 [asked]) 0 { pkt := answer 8 }) { pkt := answer 8 }) (answer 8) = some asked ∧
    matching (releaseHeld (takeOut (answered 8 []) 0 { pkt := answer 8 }) { pkt := answer 8 }) (answer 8) = none := by decide +kernel
theorem test_answer_data : okAct (runAct (storeAnswer asked [1]) (answered 9 [asked])) = true ∧
    okAct (runAct (storeAnswer asked [1]) (releaseHeld (takeOut (answered 9 [asked]) 0 { pkt := answer 9 }) { pkt := answer 9 })) = true ∧
    failAct (runAct (storeAnswer asked [1]) (answered 9 [asked])) Code.ok = false ∧ (answer 9).typ = Pkt.data ∧ (answer 10).typ = Pkt.result ∧ (answer 11).typ = Pkt.nak := by decide +kernel
/-- The requester's bytes need a place in a full set of its region cache, whose dirty line waits while the write hold-off lasts. -/
def waitingFor : Outstanding := { asked with who := .ticket 255 0 1, local_ := 0x2000, pkt := { packet 2 1 0x2000 [] with tag := 9, length := 1 } }
def answerHeld : State := { answered 9 [waitingFor] with
  clusters := [(255, { task := some 81920, jig0 := { tickets := [(1, some {})] } })], stackTab := [(0, { initBusy := false, writeHold := true })]
  regions := [(31, { cache := (List.range 16).map (fun k => { line := 32 + 4096 * (k + 1), valid := 1, dirty := 1 }) })] }
theorem test_answer_waits : matching (releaseHeld (takeOut answerHeld 0 { pkt := answer 9 }) { pkt := answer 9 }) (answer 9) = some waitingFor ∧
    (match (runAct (storeAnswer waitingFor [1]) (releaseHeld (takeOut answerHeld 0 { pkt := answer 9 }) { pkt := answer 9 })).1 with
      | .error .wait => true
      | _ => false) = true ∧ (after (.dataResponse 0 (answer 9)) answerHeld).fst.arrived = [answer 9] := by decide +kernel
/-- The requester's own die's memory is lost to heat: the store fails, and the request ends with its status (R373). -/
def answerLost : State := { answered 9 [waitingFor] with
  clusters := [(255, { task := some 81920, jig0 := { tickets := [(1, some {})] } })], pwr := { domains := [(4, { down := true })] } }
theorem test_answer_fails : matching (releaseHeld (takeOut answerLost 0 { pkt := answer 9 }) { pkt := answer 9 }) (answer 9) = some waitingFor ∧
    failAct (runAct (storeAnswer waitingFor [1]) (releaseHeld (takeOut answerLost 0 { pkt := answer 9 }) { pkt := answer 9 })) Code.unitOffline = true ∧
    (after (.dataResponse 0 (answer 9)) answerLost).fst.requests = [] := by decide +kernel
theorem test_ack : (after (.ack 0 (answer 8)) (answered 8 [asked])).fst.requests = [] ∧
    (after (.ack 0 (answer 8)) (answered 8 [])).fst.late = 1 ∧
    (after (.nak 0 (answer 11)) (answered 11 [asked])).fst.naksReceived = 1 := by decide +kernel
theorem test_timeout : (answered 8 [asked]).fst.requests.find? (fun o => decide (o.die = 0) && decide (o.tag = 9)) = some asked ∧
    asked.pkt.dropBy.toNat + 2000 ≤ (sysTime { answered 8 [asked] with time := 2000 }).toNat ∧ asked.pkt.typ ≠ Pkt.get ∧
    (after (.remoteRequestTimeout 0 9) { answered 8 [asked] with time := 2000 }).fst.requests = [] ∧
    (after (.remoteRequestTimeout 0 9) { answered 8 [asked] with time := 1999 }).fst.requests = [asked] := by decide +kernel

/-- R334: with FST.TIMEOUT.GET_RETRY set, a GET that has had no answer is sent once more. -/
def retrying : State := { answered 9 [waitingFor] with time := 2000, fst := { (answered 9 [waitingFor]).fst with getRetry := true } }
theorem test_getRetry : retrying.fst.requests.find? (fun o => decide (o.die = 0) && decide (o.tag = 9)) = some waitingFor ∧
    waitingFor.pkt.dropBy.toNat + 2000 ≤ (sysTime retrying).toNat ∧ waitingFor.pkt.typ = Pkt.get ∧ waitingFor.retried = false ∧
    (after (.remoteRequestTimeout 0 9) retrying).fst.requests.map (fun o => (o.retried, o.who)) = [(true, .ticket 255 0 1)] := by decide +kernel

/-- Node 1 of the ring, with node 0 its root and link 1 (die 0, to −X) up. -/
def synced (f : Fst) (l : Link) : State := { serving with
  fst := { f with en := true, nx := 4, node := 1, syncEn := true }, links := [(1, { l with state := .up })] }
theorem test_parent : parentLink (synced {} {}) = some (1, 1) ∧ parentLink serving = none ∧ (synced {} {}).fst.everLocked = false ∧
    (synced { everLocked := true } {}).fst.everLocked = true ∧ (synced {} {}).fst.node ≠ (synced {} {}).fst.root ∧ 50 < (51 : Int).natAbs ∧ (50 : Int).natAbs ≤ 50 := by decide +kernel
theorem test_holdover : (synced { timeState := .locked } {}).fst.lastExchange + 1000000 = 1000000 ∧
    (after .holdoverEntry { synced { timeState := .locked } {} with time := 1000000 }).fst.timeState = .holdover ∧
    (after .holdoverEntry { synced { timeState := .locked } {} with time := 999999 }).fst.timeState = .locked ∧
    (after .holdoverEntry { synced { timeState := .acquiring } {} with time := 1000000 }).fst.carryLocked = true ∧
    (after .holdoverLimit { synced { timeState := .holdover, carryLocked := true } {} with time := 10000000 }).fst.carryLocked = false := by
  decide +kernel
/-- A good TIME flit with these stamps. -/
def timeHead (root : BitVec 18) (ts : TimeStamps) : FlitHead :=
  goodHead FlitKind.time 0 (timePayload root ts.t1 ts.t2 ts.t3 ts.t4)
theorem test_timeFlit : flitGood (timeHead 0 ⟨10, 120, 120, 0⟩) FlitKind.time 0 (timePayload 0 10 120 120 0) = true ∧
    (timeHead 0 ⟨10, 120, 120, 0⟩).epoch = (lnk (countFec (synced {} {}) 1 (timeHead 0 ⟨10, 120, 120, 0⟩)) 1).epoch ∧
    (lnk (takeHead (countFec (synced {} { t1 := some 10 }) 1 (timeHead 0 ⟨10, 120, 120, 0⟩)) 1 (timeHead 0 ⟨10, 120, 120, 0⟩)) 1).t1
      = some 10 ∧
    (0 : BitVec 18) = (takeHead (countFec (synced {} {}) 1 (timeHead 0 ⟨10, 120, 120, 0⟩)) 1 (timeHead 0 ⟨10, 120, 120, 0⟩)).fst.root ∧
    (120 : BitVec 64) ≠ 0 ∧
    parentLink (takeHead (countFec (synced {} { t1 := some 10 }) 1 (timeHead 0 ⟨10, 120, 120, 0⟩)) 1 (timeHead 0 ⟨10, 120, 120, 0⟩))
      = some (1, 1) := by decide +kernel
/-- R337, R338: asked at 10 and answered at 30; the parent stood at 120 then, so it is 100 ahead. A neighbour's question is answered,
whatever this package has asked. -/
theorem test_timeFlit_sets : (after (.timeFlit 1 (timeHead 0 ⟨10, 120, 120, 0⟩) 0 ⟨10, 120, 120, 0⟩ true)
      { synced {} { t1 := some 10 } with time := 30 }).fst.sysOffset = 100 ∧
    (after (.timeFlit 1 (timeHead 3 ⟨10, 120, 120, 0⟩) 3 ⟨10, 120, 120, 0⟩ true) (synced {} { t1 := some 10 })).evt.tail = 1 ∧
    (after (.timeFlit 1 (timeHead 0 ⟨7, 0, 0, 0⟩) 0 ⟨7, 0, 0, 0⟩ false) (synced {} { t1 := some 10 })).out.length = 1 := by decide +kernel

/-! ## Resets, watchdogs, die edges -/

/-- The serving package while this domain resets. -/
def resettingWith (r : Resetting) (t : Nat) : State := { serving with time := BitVec.ofNat 64 t, rst := { resetting := [r] } }
theorem test_resetCommand : MaySet serving .a ∧ clusterPresent serving 255 = true ∧ inReset serving Dom.cluster 255 = false ∧
    inReset serving Dom.region 31 = false ∧ inReset serving Dom.die 3 = false ∧ stackPresent serving 23 = true ∧
    inReset serving Dom.stack 23 = false ∧ inReset serving Dom.link 23 = false ∧ inReset serving Dom.warm 0 = false ∧
    clusterPresent { serving with hub := { serving.hub with fusedOff := [(3, 0x8000000000000000)] } } 255 = false ∧
    inReset (resettingWith { domain := 3, index := 3 } 0) Dom.die 3 = true := by decide +kernel
theorem test_clusterReset : inReset (after (.clusterReset .a 255) serving) Dom.cluster 255 = true ∧
    (after (.clusterReset .a 256) serving).rst.lastCmd = Code.descriptorInvalid ∧
    (after (.computeDieReset .a 3) (resettingWith { domain := 3, index := 3 } 0)).rst.lastCmd = Code.stateConflict := by decide +kernel
theorem test_warm : (after (.packageWarmReset .a) { serving with pegs := [(1, 1)], dram := [(0, 1)] }).pegs = [] ∧
    (after (.packageWarmReset .a) { serving with pegs := [(1, 1)], dram := [(0, 1)] }).dram = [(0, 1)] := by decide +kernel
theorem test_drain : resettingOf (resettingWith { domain := 1, index := 255 } 0) 1 255 = some { domain := 1, index := 255 } ∧
    heldDown (resettingWith { domain := 1, index := 255 } 0) 1 255 = false ∧
    resettingOf (resettingWith { domain := 1, index := 255, drained := true } 0) 1 255 =
      some { domain := 1, index := 255, drained := true } := by decide +kernel
/-- A stack that is in SHUTDOWN stays in reset. -/
def shutStack : State := { resettingWith { domain := 4, index := 0, drained := true } 0 with pwr := { domains := [(4, { down := true })] } }
theorem test_held : heldDown shutStack 4 0 = true ∧ resettingOf shutStack 4 0 = some { domain := 4, index := 0, drained := true } ∧
    (after (.domainServeAgain 4 0) shutStack).rst.resetting.length = 1 := by decide +kernel
theorem test_resetDrainEnd : (after (.domainServeAgain 1 255) (after (.resetDrainEnd 1 255)
      (resettingWith { domain := 1, index := 255 } 0))).rst.resetting = [] ∧
    (after (.resetDrainEnd 1 255) (resettingWith { domain := 1, index := 255 } 0)).evt.tail = 1 := by decide +kernel
theorem test_escalation : 0 + escalationNs 1 ≤ now (resettingWith { domain := 1, index := 255 } 40000) ∧
    escalationNs 2 ≤ 160000 ∧ escalationNs 3 ≤ 8000000 ∧ escalationNs 5 ≤ 240000000 ∧ escalationNs 7 ≤ 1600000000 ∧
    inReset (after (.resetEscalation 1 255) (resettingWith { domain := 1, index := 255 } 40000)) 2 31 = true ∧
    (after (.resetEscalation 7 0) (resettingWith { domain := 7 } 1600000000)).rst.fatal = true := by decide +kernel
/-- A task that began at 0 with a limit of 1 µs, on cluster 255, in region 31, and running on stack 0's benches. -/
def hanging (t : Nat) : State := {
  (tasked { started := true, desc := { kind := 1, timeLimitUs := 1 } }) with
  time := BitVec.ofNat 64 t, clusters := [(255, { task := some 81920, begun := true })]
  regions := [(31, { chains := [{ owner := .task 81920, task := 81920, started := true }] })]
  stackTab := [(0, { initBusy := false, slots := [(0, some { task := 81920 })], running := some {} })] }
theorem test_watchdog : (clu (hanging 101000) 255).task = some 81920 ∧ ((engineChain (hanging 0) 31).map (·.task)) = some 81920 ∧
    runningTask (stk (hanging 0) 0) = some 81920 ∧
    ((taskAt (hanging 0) 81920).map (fun x => taskLimitNs (hanging 0) x + 1000 * (hanging 0).rst.jigUs.toNat)) = some 101000 := by
  decide +kernel
theorem test_limitEnd : ((taskAt (hanging 0) 81920).map (fun x => limitEnd (hanging 0) x + stalledNs (hanging 0) x)) = some 1000 ∧
    ((taskAt (hanging 0) 81920).map (·.started)) = some true ∧ (hanging 0).rst.jigUs.toNat = 100 := by decide +kernel
/-- R357: time that a write hold-off has stalled a task past its limit is not counted. -/
def stalled : Task := { started := true, stallSince := some 5000, stallNs := 7, desc := { kind := 3, timeLimitUs := 1 } }
theorem test_stalled : stalled.stallSince = some 5000 ∧ ({} : Task).stallSince = none ∧ stalled.desc.kind ≠ Kind.jig ∧
    stalledNs (hanging 9000) stalled = 4007 ∧ taskAt (tasked stalled) 81920 = some { stalled with graph := 5 } := by decide +kernel
theorem test_clusterWatchdog : inReset (after (.clusterWatchdog 255) (hanging 101000)) Dom.cluster 255 = true ∧
    inReset (after (.clusterWatchdog 255) (hanging 100999)) Dom.cluster 255 = false := by decide +kernel
theorem test_layoutWatchdog : inReset (after (.layoutWatchdog 31) (hanging 101000)) Dom.region 31 = true ∧
    inReset (after (.layoutWatchdog 31) (hanging 100999)) Dom.region 31 = false := by decide +kernel
theorem test_benchWatchdog : inReset (after (.benchWatchdog 0) (hanging 1001000)) Dom.stack 0 = true ∧
    inReset (after (.benchWatchdog 0) (hanging 1000999)) Dom.stack 0 = false := by decide +kernel
theorem test_hubWatchdog : serving.mgt.activating = [] ∧ serving.hub.stage = .mainReady := by decide
/-- Die edge 5 failed at 0. -/
def edged (t : Nat) : State := { serving with time := BitVec.ofNat 64 t, rst := { edgeFailed := [(5, some 0)] } }
theorem test_edge : serving.rst.edgeDown.contains 5 = false ∧ tget none serving.rst.edgeFailed 5 = none ∧
    tget none (edged 1000000000).rst.edgeFailed 5 = some 0 ∧ now (edged 1000000000) ≤ 0 + 1000000000 := by decide
theorem test_dieEdgeFailure : (after (.dieEdgeFailure 5) serving).rst.fatal = false ∧
    (after (.dieEdgeFailure 5) serving).rst.edgeDown = [5] ∧ (after (.dieEdgeFailure 5) (edged 1000000000)).rst.fatal = true ∧
    (after (.dieEdgeFailure 5) (edged 1000000001)).rst.fatal = false := by decide +kernel

/-! ## Power and heat -/

theorem test_window_power : serving.hub.auxOn = true ∧ serving.pwr.rampEn = false ∧
    ({ rampEn := true, powerW := 1000, upW := 100 } : Pwr).powerW.toNat + 100 < 1101 := by decide
theorem test_powerWindow : (countBreak { serving with pwr := { rampEn := true, powerW := 1000, upW := 100 } } 1101 false).pwr.violUp = 1 ∧
    (countBreak { serving with pwr := { rampEn := true, powerW := 1000, upW := 100 } } 1100 false).pwr.violUp = 0 := by decide +kernel
/-- A window above its budget, with the clocks above their floor, and at it. -/
theorem test_window_tight : (serving.pwr.budgetW.toNat < 6000 ∨ ({ budgetW := 3000 } : Pwr).budgetW.toNat < 3001) ∧
    0 < ({ budgetW := 3000 } : Pwr).budgetW.toNat ∧ 600 < ({} : Pwr).capCeiling ∧ ({ capCeiling := 600 } : Pwr).capCeiling = 600 ∧
    1 < ({} : Pwr).capDuty ∧ ({} : Pwr).capDuty ≤ 8 := by decide
theorem test_model : [(3, 1000)].find? (fun e => decide (e.1 = 3)) = some (3, 1000) ∧ twf ({} : Domain) serving.pwr.domains = true := by decide
/-- Domain 28 has had no source since 0. -/
def sourceless (t : Nat) : State := { serving with time := BitVec.ofNat 64 t, pwr := { domains := [(28, { source := .none })] } }
theorem test_noSource : (dom (sourceless 0) 28).source = .none ∧ (dom (sourceless 0) 28).down = false ∧
    (dom (sourceless 100000000) 28).noneSince + 100000000 ≤ now (sourceless 100000000) ∧
    (dom (after (.noSourceTimeout 28) (sourceless 99999999)) 28).down = false := by decide +kernel
/-- Domain 27 is down, its model at this temperature. -/
def downAt (t : Int) : State := { serving with pwr := { domains := [(27, { down := true, tm := t })] } }
theorem test_restore : MaySet (downAt 0) .a ∧ (dom (downAt 0) 27).down = true ∧ sourceTemp (dom (downAt 79999999) 27) = some 79999999 ∧
    79999999 < 80 * degree ∧ 80 * degree ≤ 80000000 ∧ (dom serving 27).down = false := by decide +kernel
theorem test_restore_bound : (dom (after (.restore .a 27) (downAt 79999999)) 27).down = false ∧
    (dom (after (.restore .a 27) (downAt 80000000)) 27).down = true := by decide +kernel

/-! ## Firmware and management -/

/-- The hub firmware is being activated since 0. -/
def activatingAt (t : Nat) : State := { serving with time := BitVec.ofNat 64 t, mgt := { activating := [2], unit := 3, session := true } }
theorem test_activation : (activatingAt 0).mgt.activating = 2 :: [] ∧ unitQuiet (activatingAt 0) 2 3 = true ∧ unitsOf 2 ≤ 3 + 1 ∧
    2 + 1 < unitsOf 2 ∧ unitQuiet { activatingAt 0 with rst := { resetting := [{ domain := 3, index := 3 }] } } 2 3 = false ∧
    0 + readyWithin 2 ≤ now (activatingAt 100000) ∧ now (activatingAt 99999) < 0 + readyWithin 2 := by decide +kernel
/-- Lane tables (component 5) are being activated on stack 0, of whose channels only the last is present; it retrains or not. -/
def tabling (runs busy : Bool) (ch : Nat) : State := { serving with
  stackTab := [(0, { initBusy := false, retrainBusy := busy, chAbsent := 0x3FFFFFFFFFFFFFFF })]
  mgt := { activating := [5], unit := 0, session := true, channelRuns := runs, channel := ch } }
theorem test_channels : (tabling false false 0).mgt.activating = 5 :: [] ∧ channelsLeft (tabling false false 0) 0 = [62, 63] ∧
    channelsLeft (tabling false false 64) 0 = [] ∧ unitQuiet (tabling false false 64) 5 0 = true ∧ 0 + 1 < unitsOf 5 ∧
    (stk (tabling true true 62) 0).retrainBusy = true ∧ unitWaits (tabling true false 62) = false ∧
    channelsLeft { tabling true false 62 with mgt := { (tabling true false 62).mgt with channel := 63, channelRuns := false } } 0 = [63] ∧
    (stk (tabling false false 0) 0).sparing = none ∧ inReset (tabling false false 0) Dom.stack 0 = false := by decide +kernel
theorem test_channel_next : (after .activationReady (tabling true false 62)).mgt.channel = 63 ∧
    (stk (after .activationReady (tabling true false 62)) 0).retrainBusy = true := by decide +kernel
theorem test_unitWaits : unitWaits { activatingAt 100000 with rst := { resetting := [{ domain := 3, index := 3 }] } } = true ∧
    unitWaits (activatingAt 0) = false := by decide +kernel
theorem test_activationReady : (after .activationReady (activatingAt 0)).mgt.activating = [] ∧
    (after .activationTimeout (activatingAt 99999)).mgt.activating = [2] ∧
    (after .activationTimeout (activatingAt 100000)).mgt.activating = [] := by decide +kernel
/-- An update session of component 2. -/
def updating (m : Mgt) : State := { serving with mgt := { m with session := true, table := [2], updateComponent := 2 } }
theorem test_flash : (updating { flashOp := 1, erasesLeft := 1 }).mgt.flashStale = false ∧ 1 < 2 ∧
    (updating { flashOp := 2, imageSize := 8, imageDone := 4, piece := 4 }).mgt.imageSize ≤ 4 + 4 := by decide
theorem test_flashOperationEnd :
    (after (.flashOperationEnd true 0) (updating { flashOp := 2, updateState := 2, imageSize := 8, imageDone := 4, piece := 4 })).mgt.imageDone = 8 ∧
    (after (.flashOperationEnd false 0) (updating { flashOp := 2, updateState := 2, imageSize := 8, imageDone := 4, piece := 4 })).evt.tail = 1 := by
  decide +kernel
theorem test_binding : bindingUp serving .smbus = true ∧ bindingUp serving .vdmA = true ∧ bindingUp State.reset .smbus = false ∧
    (typesServed serving).contains 1 = true ∧ (typesServed serving).contains 2 = false ∧ (typesServed serving).contains 0 = true ∧
    listed 0 7 = false ∧ (7 : BitVec 8) ≠ 0 ∧ (7 : BitVec 8) ≠ 0xFF ∧ (pldmTypes serving).contains (5 : BitVec 8).toNat = true := by decide +kernel
theorem test_setEndpointId : (after (.setEndpointId .smbus 7) serving).mgt.eid = 7 ∧
    (after (.setEndpointId .smbus 0xFF) serving).mgt.eid = 0 := by decide +kernel
theorem test_pdr : romOnly serving = false ∧ pdrs.length = 123 ∧ pdrs.contains (.sensor, 0x100) = true ∧
    pdrs.contains (.sensor, 0x31C) = true ∧ pdrs.contains (.state, 0x602) = true ∧ 0x800 ≤ 0x803 := by decide +kernel
theorem test_pdr_ends : (pdrs[122]?).isSome = true ∧ pdrs[123]? = none := by decide +kernel
/-- R409: the cap's effecter takes 1,500 to 5,000. -/
theorem test_effecter : (after (.setNumericEffecterValue .smbus 0x800 1500) serving).pwr.capW = 1500 ∧
    (after (.setNumericEffecterValue .smbus 0x800 1499) serving).pwr.capW = 5000 ∧
    (after (.setNumericEffecterValue .smbus 0x800 5001) serving).pwr.capW = 5000 := by decide +kernel
/-- An event receiver is set, and one record is not sent. -/
def notifying (m : Mgt) (t : Nat) : State := { serving with
  time := BitVec.ofNat 64 t, mgt := { m with receiver := some 9 }, evt := { tail := 1, log := [(0, { sev := 2 })] } }
theorem test_events_sent : mgmtRuns (notifying {} 0) = true ∧ (notifying {} 0).mgt.receiver = some 9 ∧
    nextRecord (notifying {} 0) = some 0 ∧ (notifying {} 0).mgt.awaiting = 0 ∧
    (notifying { awaiting := 1 } 1000000000).mgt.sentAt + 1000000000 ≤ now (notifying { awaiting := 1 } 1000000000) := by decide +kernel
theorem test_platformEvent : (after .platformEventMessage (notifying {} 0)).mgt.awaiting = 1 ∧
    (after .platformEventRetry (notifying { awaiting := 1 } 1000000000)).mgt.awaiting = 2 ∧
    (after .platformEventRetry (notifying { awaiting := 2 } 1000000000)).mgt.nextEvent = 1 ∧
    (after .platformEventRetry (notifying { awaiting := 1 } 999999999)).mgt.awaiting = 1 := by decide +kernel
/-- R411: with the boot ROM alone, only component 1 is served. -/
theorem test_componentServed : componentServed (updating {}) = true ∧ (updating {}).mgt.updateComponent.toNat ≤ 6 ∧
    pendingComponents (updating { updateState := 1, images := [(6, { pendingSlot := true }), (7, { pendingSlot := true })] }) ≠ [] := by decide +kernel
theorem test_update : (updating {}).mgt.session = true ∧ serving.mgt.session = false ∧ updatable serving 6 = true ∧
    updatable serving 7 = false ∧ (updating { updateState := 1 }).mgt.table.contains 2 = true ∧ updatable (updating { updateState := 1 }) 2 = true ∧
    wantsPiece (updating { updateState := 2, imageSize := 4096 }) = true ∧ 4096 ≤ Nat.min 4096 (4096 - 0) ∧
    imageTrusted (updating { updateState := 3, svnCounter := [(2, 4)] }) 2 4 true = true ∧
    imageTrusted (updating { updateState := 3, svnCounter := [(2, 4)] }) 2 3 true = false := by decide +kernel
theorem test_transfer : 0 < (updating { updateState := 2, imageSize := 8, imageDone := 8 }).mgt.imageSize ∧
    (updating { updateState := 2, imageSize := 8, imageDone := 8 }).mgt.flashWant = 0 ∧
    (updating { updateState := 5 }).mgt.updateState = 5 ∧ twf ({} : Image) [(4, { svn := 3 })] = true := by decide +kernel
theorem test_updateCommands : (after (.requestUpdate .smbus) serving).mgt.updateState = 1 ∧
    (after (.transferComplete .smbus) (updating { updateState := 2, imageSize := 8, imageDone := 8 })).mgt.updateState = 3 ∧
    (after (.verifyComplete .smbus 1 3 true) (updating { updateState := 3, svnCounter := [(2, 4)] })).mgt.updateState = 1 := by
  decide +kernel
theorem test_vendor : { serving.hub with vise := 0 }.vise = 0 ∧ serving.hub.vise = 0x41 ∧ { serving.hub with vise := 0x4D }.vise = 0x4D ∧
    fusedBlock serving (blockOf (0x2030 / 8 * 8)) = false ∧ fld (28 : Word).toNat 4 0 ≤ 28 ∧ viseFree 0x38 = false ∧
    inReset serving Dom.warm 0 = false ∧ (1 : Nat) ≠ 7 ∧ domainNamed 1 = true ∧ serving.hub.vise ≠ 0x4D := by decide +kernel
theorem test_viseClaim : (after (.viseClaim .smbus) { serving with hub := { serving.hub with vise := 0 } }).hub.vise = 0x4D ∧
    (after (.viseClaim .smbus) serving).hub.vise = 0x41 ∧
    inReset (after (.resetRequest .smbus 7 0) serving) Dom.warm 0 = true := by decide +kernel

/-! ## Power, pins and ports again -/

/-- A package with this mode, whose TAP has a driving instruction loaded, with its pins so and its record made or not. -/
def wanting (s : State) (mode : BitVec 2) (want pins : PinDrive) (made : Bool) : State := { s with
  hub := { s.hub with mode := mode }
  mgt := { tapReset := false, tapInstr := Config.tapCode 3, tapWants := want, tapPins := pins, tapRefused := made } }
theorem test_tapGate : tapAllowed (wanting serving 2 .levels .normal true) = true ∧ tapAllowed (wanting serving 0 .levels .levels false) = false ∧
    tapAllowed (wanting (auxUp .auxReady) 1 .floating .normal false) = false ∧
    (wanting serving 2 .floating .levels false).mgt.tapPins ≠ .normal ∧ (wanting serving 0 .levels .levels true).mgt.tapWants ≠ .normal := by
  decide
/-- R397, R418: what MODE TEST allows begins with it, and what it no longer allows ends, with one record. -/
theorem test_modeDrives : (after (.modeWrite .a 2) (wanting serving 0 .levels .normal true)).mgt.tapPins = .levels ∧
    (after (.modeWrite .a 0) (wanting serving 2 .levels .levels false)).mgt.tapPins = .normal ∧
    (after (.modeWrite .a 0) (wanting serving 2 .levels .levels false)).evt.tail = 1 ∧
    (after (.modeWrite .a 0) (wanting serving 2 .levels .levels true)).evt.tail = 0 := by decide +kernel
/-- R428: what a main-power loss keeps, of links that are up and of links that are down. -/
def keeping : State := { auxUp .mainReady with
  time := 77, links := [(23, { epoch := 255 })], rst := { epochs := [(epochKey 1 255, 9)] }, fst := { sysOffset := 5, node := 3 }
  mgt := { eid := 8 }, hub := { stage := .mainReady, mainPg := true, auxOn := true } }
theorem test_kept : keeping.portA.linkUp = false ∧ keeping.portB.linkUp = false ∧ keeping.mgt.activating = [] ∧
    twf ({} : Link) keeping.links = true ∧ twf (0 : BitVec 8) keeping.rst.epochs = true ∧ (1, 255) ∈ innerDomains Dom.warm 0 ∧
    (5, 23) ∈ innerDomains Dom.warm 0 ∧ (8, 0) ∈ innerDomains Dom.warm 0 ∧ (1, 256) ∉ innerDomains Dom.warm 0 := by decide +kernel
theorem test_mainPowerKeeps : (after (.mainPowerLoss 0 true) keeping).time = 77 ∧ (after (.mainPowerLoss 0 true) keeping).mgt.eid = 8 ∧
    (after (.mainPowerLoss 0 true) keeping).fst = { sysOffset := 5 } ∧ (after (.mainPowerLoss 0 true) serving).evt.tail = 2 := by
  decide +kernel
/-- R355: a ring of the lost port with a graph in flight and one without, and a ring of the other port. -/
def threeRings : State := { serving with rings := [(0, { assigned := true, state := .running, graphs := 1, waiting := some {} }),
  (7, { assigned := true, portB := true, state := .running }), (63, { assigned := true, state := .running })] }
theorem test_lostRings_form : twf ({} : Ring) threeRings.rings = true ∧ ringPort (ring threeRings 63) = .a ∧
    ringPort (ring threeRings 7) ≠ .a ∧ (ring threeRings 5).assigned = false := by decide
theorem test_lostRings_held : ∀ q, (ring threeRings q).held = [] := by
  intro q
  simp only [ring, threeRings, tget]
  split <;> (try split) <;> (try split) <;> (try split) <;> (try split) <;> (try split) <;> rfl
theorem test_lostRings : (ring (losePort threeRings .a Cls.hostLinkDown 0) 0).state = .stopping ∧
    (ring (losePort threeRings .a Cls.hostLinkDown 0) 0).waiting = none ∧
    (ring (losePort threeRings .a Cls.hostLinkDown 0) 63).state = .stopped ∧
    (ring (losePort threeRings .a Cls.hostLinkDown 0) 7).state = .running := by decide +kernel
/-- R396, R404, R6: the words of the locks, of the boot register and of a die's fuse map. -/
theorem test_bar0_words : (after (.bar0Read .a 0x38 8) { serving with hub := { serving.hub with lockHost := true, lockReset := true } }).out =
      [.bar0Data .a 9] ∧ (after (.bar0Read .a 0x48 8) serving).out = [.bar0Data .a 0x12] ∧
    (after (.bar0Read .a 0x48 8) { serving with hub := { serving.hub with stage := .fault, bootErr := 0x20, fwImageB := true } }).out =
      [.bar0Data .a 0x2033] ∧
    (after (.bar0Read .a 0x28 8) { serving with hub := { serving.hub with fusedOff := [(3, 0x8000000000000000)] } }).out =
      [.bar0Data .a 0x7FFFFFFFFFFFFFFF] := by decide +kernel
/-- The event message goes to vector 5 of port A. -/
def messaging (min : BitVec 2) : State := { serving with
  evt := { irqEn := true, minSev := min, irqVector := 5 }
  portA := { linkUp := true, perst := false, msixEnable := true, funcMask := false, msix := [(5, { masked := false })] } }
theorem test_message_form : evtStores (messaging 1).evt Cls.setupIgnored 0 = true ∧ (messaging 1).evt.irqEn = true ∧
    (0 : BitVec 2).toNat < (messaging 1).evt.minSev.toNat ∧ (messaging 1).evt.minSev.toNat ≤ (1 : BitVec 2).toNat ∧
    (msixAt (port (messaging 1) .a) 5).masked = false := by decide
/-- R348: a record of MIN_SEVERITY raises the message, one below it does not. -/
theorem test_message : (logEvent (messaging 0) Cls.setupIgnored 0 0 0 0 0 0).out = [.msix .a 5] ∧
    (logEvent (messaging 1) Cls.setupIgnored 0 0 0 0 0 0).out = [] := by decide +kernel
/-- R236: pegs 0 to 7 are partition 0's, and BAR4 reaches any partition's. -/
def pegged : State := { mapped with parts := [(0, { pegFirst := 0, pegCount := 8 })], pegs := [(7, 0x01020304)] }
theorem test_peg_form : placeOf (bar4Addr pegged .a 0x20000000001C) = .peg 7 0 ∧
    bar4Serves pegged .a true (bar4Addr pegged .a 0x20000000001C) 4 = true ∧
    bar4Serves pegged .a false (bar4Addr pegged .a 0x20000000001C) 8 = false ∧
    bar4Serves pegged .a false (bar4Addr pegged .a 0x200000000020) 4 = false ∧ dieDown pegged 0 = false ∧
    bar4Checked pegged .a = false ∧ bar4Checked serving .a = true := by decide +kernel
theorem test_peg_access : (after (.bar4Read .a 0x20000000001C 4 {}) pegged).out = [.bar4Data .a [4, 3, 2, 1] false] ∧
    (after (.bar4Write .a 0x20000000001C [9, 0, 0, 0] {}) pegged).pegs = [(7, 9)] ∧
    (after (.bar4Read .a 0x200000000020 4 {}) pegged).out = [.bar4Data .a [0, 0, 0, 0] false] ∧
    (after (.bar4Read .a 0x200000000020 4 {}) pegged).evt.tail = 1 := by decide +kernel
/-- R396: ASSIGNED takes 1 for partition 0, which is locked, and not for partition 7. -/
theorem test_ring_assigned : (0x0000080080000404 : Word).toNat.testBit 31 = true ∧
    (prt (ringed ring0) (fld (0x0000080080000404 : Word).toNat 27 24)).locked = true ∧
    (prt (ringed ring0) (fld (0x0000080087000404 : Word).toNat 27 24)).locked = false ∧
    (ring (after (.ringConfigWrite .a 63 0x0000080080000404) (ringed {})) 63).assigned = true ∧
    (ring (after (.ringConfigWrite .a 63 0x0000080087000404) (ringed {})) 63).assigned = false ∧
    (ring (after (.ringConfigWrite .a 63 0x0000080087000404) (ringed {})) 63).irqEn = true ∧
    (after (.ringConfigWrite .a 63 0x0000080087000404) (ringed {})).evt.tail = 1 := by decide +kernel

/-! ## Tasks and engines again -/

/-- R232: a task that waits to make its record, which a write hold-off of stack 0 keeps back, and then does not. -/
def recording (hold : Bool) : State := { tasked { doneTask with state := .completed } with
  graphs := [(5, some { ring := 63, left := 2, resultAddr := 0x2000 })], stackTab := [(0, { initBusy := false, writeHold := hold })] }
theorem test_record : taskAt (recording false) 81920 = some { doneTask with state := .completed } ∧
    okAct (runAct (recordTask 81920) (recording false)) = true ∧
    (match (runAct (recordTask 81920) (recording true)).1 with
      | .error .wait => true
      | _ => false) = true ∧
    taskAt (after (.taskComplete 81920 {}) (recording true)) 81920 =
      some { doneTask with state := .completed, stallSince := some 0, stallOn := [(.release, 0)] } ∧
    (taskAt (after (.taskComplete 81920 {}) (recording false)) 81920).map (·.recorded) = some true := by decide +kernel
/-- R232: the status is final, and what the task tells has been told, while the record waits. -/
theorem test_record_waits : ((taskAt (after (.taskComplete 81920 {}) { recording true with
    tasks := [(81920, some doneTask)] }) 81920).map (·.state)) = some .completed := by decide +kernel
/-- R249: a jig and an LCALL's chain send their own flushing reads. -/
def jigFlushing : State := { serving with clusters := [(255, { jig1 := { hostPorts := [.b], tickets := [(1, some {})] } })] }
theorem test_jigFlush_form : twf ({} : Cluster) jigFlushing.clusters = true ∧ portLost (port jigFlushing .b) = false ∧
    ticketAt jigFlushing 255 1 1 = some {} := by decide
theorem test_jigFlush : (jig (flushJig jigFlushing 255 1) 255 1).flushOut = [(.b, 1)] ∧
    (flushJig jigFlushing 255 1).out = [.flushRead .b] ∧
    (ticketAt (endTicket jigFlushing { hostPorts := [.a] } 255 1 1) 255 1 1).map (fun x => (x.finished, x.flush)) = some (false, [(.a, 1)]) ∧
    (ticketAt (endTicket jigFlushing {} 255 1 1) 255 1 1).map (fun x => x.finished) = some true := by decide +kernel
/-- A bench operation whose source is poisoned fails, and the failure is its status at the end. -/
def badBuffer : State := benching (fun y => { y with slots := [(0, some active)], bbufBad := [0] }) moveProgram
theorem test_operation_fails : failAct (runAct (runOperation { i := 0, part := 0, base := 0, mask := 1, regs := [], ins := [] }
    moveRecord []) badBuffer) Code.poisoned = true ∧ nextSlot badBuffer (stk badBuffer 0) = some 0 ∧
    ((stk (after (.benchOperationStart 0 {}) badBuffer) 0).running.map (·.status)) = some Code.poisoned := by decide +kernel
/-- R61, R62: a channel's offset and back, in both modes. -/
theorem test_offset : (63 : Nat) ∈ activeChannels (stk (stacked { chAbsent := 5 }) 23) ∧ 2 ^ 30 - 1 < channelBytes (stacked {}) ∧
    channelOf (stacked { chAbsent := 5 }) 23 (offsetOf (stacked { chAbsent := 5 }) 23 63 (2 ^ 30 - 1)) = (63, 2 ^ 30 - 1) ∧
    absentOff (stacked { chAbsent := 5 }) 23 (offsetOf (stacked { chAbsent := 5 }) 23 63 (2 ^ 30 - 1)) = false ∧
    channelOf (stacked { chAbsent := 5, sharded := true }) 23 (offsetOf (stacked { chAbsent := 5, sharded := true }) 23 63 7) = (63, 7) := by
  decide +kernel
/-- R284: the descriptor's byte is written at once, and is due while a write hold-off of its stack lasts. -/
def resident (hold : Bool) : State := { ringed ring0 with
  parts := [(0, { partition0 with kvTable := 64, seqs := [(3, { state := .resident })] })]
  stackTab := [(0, { initBusy := false, writeHold := hold })] }
theorem test_poisonSeq : (seqAt (poisonSeq (resident false) (0, 3)) 0 3).poison = true ∧
    (seqAt (poisonSeq (resident false) (0, 3)) 0 3).reportDue = false ∧ (seqAt (poisonSeq (resident true) (0, 3)) 0 3).reportDue = true ∧
    mget (poisonSeq (resident false) (0, 3)).dram (descAddr (resident false) 0 3) = 0x81 ∧ (poisonSeq (resident true) (0, 3)).dram = [] := by
  decide +kernel
theorem test_refresh_other : (stk (stacked { running := some { banks := [0] }, nextBank := 1 }) 23).nextBank.toNat ∉ [0] ∧
    (stk (stacked { running := some { banks := [0] } }) 23).nextBank.toNat ∈ [0] ∧
    (stk (after (.refreshCommand 23) (stacked { running := some { banks := [0] }, nextBank := 1 })) 23).nextBank = 2 := by decide +kernel

/-! ## Forset and resets again -/

/-- R319: a peer on another die. -/
theorem test_miswired : rightPeer (modLnk (fabric { state := .training }) 0 (fun l => { l with peer := 1, peerDie := 2, delayNs := 3 })) 0
      ⟨0xFF, 1, 2, 1, 3⟩ = false ∧ (lnk (after (.linkTrainEnd 0 ⟨0xFF, 1, 2, 1, 3⟩) (fabric { state := .training })) 0).state = .down ∧
    (after (.linkTrainEnd 0 ⟨0xFF, 1, 2, 1, 3⟩) (fabric { state := .training })).evt.tail = 1 := by decide +kernel
/-- R317: a DATA flit with a gap is answered with REPLAY once. -/
theorem test_gap : ((5 : BitVec 12) - (lnk (takeHead (countFec (fabric { state := .up }) 0 idleHead) 0 idleHead) 0).rxSeq).toNat < 2048 ∧
    (lnk (after (.dataFlit 0 (goodHead FlitKind.data 5 (zeros 304)) 5 (zeros 304)) (fabric { state := .up })) 0).replays = 1 ∧
    (lnk (after (.dataFlit 0 (goodHead FlitKind.data 5 (zeros 304)) 5 (zeros 304)) (fabric { state := .up, errorSince := some 0 })) 0).replays = 0 := by
  decide +kernel
/-- R357: the answer that a hold-off keeps back stalls the jig's task. -/
theorem test_answer_stalls : heldOff (takeResponse (answer 9)) (releaseHeld (takeOut answerHeld 0 { pkt := answer 9 }) { pkt := answer 9 }) = true ∧
    (clu answerHeld 255).task = some 81920 ∧
    ((taskAt (after (.dataResponse 0 (answer 9)) answerHeld) 81920).map (·.stallSince)) = some (some 0) := by decide +kernel
/-- R338: after 10 ms of HOLDOVER the package is not locked until it is LOCKED again. -/
theorem test_holdExpired : (after .holdoverLimit { synced { timeState := .holdover, carryLocked := true } {} with time := 10000000 }).fst.holdExpired = true ∧
    (after .holdoverEntry { synced { timeState := .acquiring, holdExpired := true } {} with time := 1000000 }).fst.carryLocked = false ∧
    lockedNow (synced { timeState := .holdover, carryLocked := true } {}) = true ∧ lockedNow (synced { timeState := .acquiring, carryLocked := true } {}) = false := by
  decide +kernel
/-- R356: the epochs of a reset domain and of what it holds, and of a link; the neighbours' stay. -/
theorem test_epochs : epochOf (after (.regionReset .a 31) serving) 2 31 = 1 ∧ epochOf (after (.regionReset .a 31) serving) 1 255 = 1 ∧
    epochOf (after (.regionReset .a 31) serving) 1 247 = 0 ∧ serving.fst.en = false := by decide +kernel
theorem test_epochs_link : epochOf (after (.linkReset .a 23) serving) 5 23 = 1 ∧ (5, 23) ∈ innerDomains 5 23 := by decide +kernel
theorem test_epochs_all : epochOf (advanceEpoch serving 8 0) 8 0 = 1 ∧ (1, 255) ∈ innerDomains 3 3 ∧ (8, 0) ∈ innerDomains Dom.warm 0 := by
  decide +kernel
/-- R377: a window above the cap is above what is allowed, whatever the budget was. -/
theorem test_overCap : ({ capW := 2000 } : Pwr).capW.toNat < 2001 ∧ overBudget { capW := 2000 } 2001 = true ∧
    overBudget { capW := 2000 } 2000 = false ∧ overBudget { capW := 2000, budgetW := 1800 } 1801 = true := by decide
/-- R411: component 2 while only the boot ROM runs. -/
def romUpdating (m : Mgt) : State := { updating m with hub := { serving.hub with stage := .fault, bootErr := 0x20, romOnly := true } }
theorem test_rom : romOnly (romUpdating {}) = true ∧ componentServed (romUpdating { flashOp := 1, erasesLeft := 2 }) = false ∧
    (romUpdating { updateState := 5 }).mgt.session = true ∧ bindingUp (romUpdating {}) .smbus = true := by decide +kernel
theorem test_rom_flash : (after (.flashOperationEnd true 0) (romUpdating { flashOp := 1, erasesLeft := 2 })).mgt.flashWant = 0 ∧
    (after (.flashOperationEnd true 0) (updating { flashOp := 2, updateState := 2, imageSize := 9, imageDone := 4, piece := 4 })).mgt.imageDone = 8 ∧
    (after (.cancelUpdate .smbus) (romUpdating { updateState := 2 })).mgt.session = false ∧
    (after (.activateFirmware .smbus true) (romUpdating { updateState := 5 })).mgt.activating = [] := by decide +kernel

/-! ## Retraining edges and channels, latched doorbells, records and refusals -/

/-- R338: a rate that reaches a whole nanosecond either way. -/
def rated (r sum : Int) : State := { fst := { rate := r, rateSum := sum } }
theorem test_rate_up : (match step (rated 100 999900) with | .next t => decide (t.time = 2 ∧ t.fst.rateSum = 0) | _ => false) = true ∧
    (match step (rated 100 999899) with | .next t => decide (t.time = 1 ∧ t.fst.rateSum = 999999) | _ => false) = true := by decide +kernel
theorem test_rate_down : (match step (rated (-100) (-999900)) with | .next t => decide (t.time = 0 ∧ t.fst.rateSum = 0) | _ => false) = true := by
  decide +kernel
/-- R86: MAIN_READY waits for a zero fill that a write hold-off keeps. -/
theorem test_fillHeld : fillHeld { auxUp .auxReady with stackTab := [(5, { writeHold := true })] } 5 = true ∧
    (after (.mainReady 0) { auxUp .auxReady with
      hub := { auxOn := true, mainPg := true, stage := .auxReady }, stackTab := [(5, { writeHold := true })] }).hub.stage = .auxReady ∧
    (after (.mainReady 0) { auxUp .auxReady with
      hub := { auxOn := true, mainPg := true, stage := .auxReady }, stackTab := [(5, {})] }).hub.stage = .mainReady ∧
    (after (.mainPowerOn 48000 true) { auxUp .auxReady with rst := { resetting := [{ domain := 7, index := 0 }] } }).hub.mainPg = true ∧
    (after (.mainReady 0) { auxUp .auxReady with hub := { auxOn := true, mainPg := true, stage := .auxReady, romOnly := true } }).hub.stage = .auxReady := by
  decide +kernel
/-- R428: STAGE returns to AUX_READY when the main rails go, also where the boot ROM runs alone and goes on so. -/
theorem test_rom_loss : (after (.mainPowerLoss 0 false) (romUpdating {})).hub.stage = .auxReady ∧
    romOnly (after (.mainPowerLoss 0 false) (romUpdating {})) = true ∧
    romOnly serving = false ∧ (after (.mainPowerLoss 0 false) serving).hub.stage = .auxReady := by decide +kernel
/-- R390: halves of `HUB.IDENT`, an offset of BAR2's, and reads before MAIN_READY. -/
def named : State := { serving with hub := { serving.hub with ident := 0x1122334455667788 } }
theorem test_bar0_halves : (after (.bar0Read .a 0 4) named).out = [.bar0Data .a 0x55667788] ∧
    (after (.bar0Read .a 4 4) named).out = [.bar0Data .a 0x11223344] ∧ inMsix 4 = false ∧ fusedBlock named (blockOf 0) = false := by
  decide +kernel
theorem test_bar0_dark : (after (.bar0Read .a bar2Base 8) named).out = [.bar0Data .a 0] ∧
    (after (.bar0Read .a bar2Base 4) { named with hub := { named.hub with stage := .auxReady } }).out = [.bar0Data .a 0xFFFFFFFF] ∧
    portsDark { named with hub := { named.hub with stage := .auxReady } } = true := by decide +kernel
/-- R387: a message in D3hot is lost. -/
def unmasked (d3hot : Bool) : State := { serving with
  portA := { serving.portA with msixEnable := true, d3hot := d3hot, msix := [(3, { masked := false })] } }
theorem test_d3hot : (raiseMsix (unmasked true) .a 3).out = [] ∧ (raiseMsix (unmasked false) .a 3).out = [.msix .a 3] := by
  decide +kernel
/-- R18: from the hub to a peg of die 2 through die 0, and back. -/
theorem test_edges : edgePath 4 2 = [4, 2] ∧ edgePath 2 4 = [2, 4] ∧ bothWays pegged 4 0 = true ∧ pathUp pegged 4 0 = true ∧
    (after (.bar4Write .a 0x20000000001C [9, 0, 0, 0] {}) { pegged with rst := { edgeDown := [4] } }).pegs = pegged.pegs ∧
    (after (.dieEdgeRetrainEnd 4) (after (.bar4Write .a 0x20000000001C [9, 0, 0, 0] {}) { pegged with rst := { edgeDown := [4] } })).pegs = [(7, 9)] := by
  decide +kernel
/-- R217: START of a ring that is not assigned, and of one whose sizes are not sound. -/
theorem test_start_refused : (ring (after (.start .a 63) (ringed { ring0 with assigned := false })) 63).lastCmd = Code.stateConflict ∧
    ringSetUp (ringed { ring0 with sqLog2 := 3 }) { ring0 with sqLog2 := 3 } = false ∧
    (ring (after (.start .a 63) (ringed { ring0 with sqLog2 := 3 })) 63).lastCmd = Code.descriptorInvalid := by decide +kernel
/-- R360: doorbells during the activation of hub firmware. -/
def pausedRing : State := { ringed { ring0 with state := .running } with mgt := { activating := [1] } }
theorem test_latched : firmwarePaused pausedRing = true ∧ firmwarePaused (ringed ring0) = false ∧
    (after (.sqTail .a 63 1) pausedRing).portA.latched = [(63, 0, 1)] ∧ (ring (after (.sqTail .a 63 1) pausedRing) 63).sqTail = 0 := by
  decide +kernel
theorem test_latched_acted : (ring (resumeHub { after (.sqTail .a 63 1) pausedRing with mgt := {} }) 63).sqTail = 1 := by decide +kernel
/-- R18, R232, R242: a task whose peg operation a retraining edge keeps back, and the first failure of a graph. -/
def pegTask : Task := { doneTask with desc := { pegOps := [{ addr := 0x200000000000, value := 1 }] }, die := 1 }
theorem test_opsReach : opsReach { tasked pegTask with rst := { edgeDown := [0] } } pegTask 0 = false ∧ opsReach (tasked pegTask) pegTask 0 = true ∧
    ((taskAt (after (.taskComplete 81920 {}) { tasked pegTask with rst := { edgeDown := [0] } }) 81920).map (·.state)) = some .running := by
  decide +kernel
theorem test_recorded : doneTask.recorded = false ∧ taskAt (tasked { doneTask with recorded := true }) 81920 = some { doneTask with recorded := true } ∧
    okAct (runAct (writeRecord doneTask doneTask.status) (tasked doneTask)) = true ∧
    ((graphAt (countIn (tasked doneTask) { doneTask with index := 3 } Code.poisoned) 5).map (fun g => (g.left, g.firstFail))) =
      some (1, some (0, 3, Code.poisoned)) := by decide +kernel
/-- R86, R361: a fill does not end in a hold-off or a retraining. -/
theorem test_fill_waits : (stk (after (.stackFillEnd 5) { serving with stackTab := [(5, { retrainBusy := true })] }) 5).initBusy = true ∧
    (stk (after (.stackFillEnd 5) { serving with stackTab := [(5, { writeHold := true })] }) 5).initBusy = true ∧
    (stk (after (.stackFillEnd 5) { serving with stackTab := [(5, {})] }) 5).initBusy = false := by decide +kernel
/-- R284: POISON_ALL marks a sequence whose region meets the granule, though not the sector. -/
theorem test_granule_marks : seqHolds 23 0 2097152 { state := .resident, home := 23, base := 2097088, slabs := 1 } = true ∧
    seqHolds 23 0 2097088 { state := .resident, home := 23, base := 2097088, slabs := 1 } = false ∧
    seqHolds 23 0 2097152 { state := .swapped, home := 23, base := 2097088, slabs := 1 } = false := by decide +kernel
/-- R361: no rewrite on a channel that retrains. -/
theorem test_mayRewrite : mayRewrite (wrong 4) 23 7 = true ∧ mayRewrite (stacked { retrainBusy := true, retrainHeld := 1 }) 23 7 = false ∧
    mayRewrite (stacked { retrainBusy := true }) 23 7 = true ∧ chanHeld (patrolling 2) 23 (7 * 64) = false ∧
    copyHeld (patrolling 2) 23 7 = false := by decide +kernel
/-- R86: a patrol step in a write hold-off reads, counts and sets down, and rewrites nothing. -/
theorem test_scrub_held : (stk (after (.scrubTick 23 {}) (stacked {
      latent := [(7, 3)], scrubPos := 7, writeHold := true })) 23).writeback = [7] ∧
    (stk (after (.scrubTick 23 {}) (stacked { latent := [(7, 3)], scrubPos := 7, writeHold := true })) 23).latent = [(7, 3)] := by
  decide +kernel
theorem test_maint_held : maintHeld clearing 0 { task := 81920, op := 5, next := 100, last := 101, active := true } = false ∧
    maintHeld (maintaining (fun y => { y with writeHold := true }) 5) 0 { task := 81920, op := 5, next := 100, last := 101, active := true } = true ∧
    granRetrains (stacked {}) 23 0 = false := by decide +kernel
/-- R321: a hop in each dimension brings a packet nearer, the wrap included. -/
theorem test_hops : hopsLeft { nx := 4 } 0 3 0 = 1 ∧ nextDir { nx := 4 } 0 3 = some 1 ∧ hopsLeft { nx := 4 } (neighbour { nx := 4 } 0 1) 3 0 = 0 ∧
    hopsLeft { nx := 64 } 0 32 0 = 32 ∧ hopsLeft { nx := 64 } (neighbour { nx := 64 } 0 0) 32 0 = 31 := by decide +kernel
/-- R357: a stall lasts until no stack that keeps the task back is in hold-off. -/
theorem test_keepers : keepers (recordTask 81920) (recording true) = [0] ∧ heldOff (recordTask 81920) (recording false) = false := by decide +kernel
def stalledOn : State := { stacked { writeHold := true } with tasks := [(81920, some { stalled with stallOn := [(.jig 0, 23), (.engine 3, 22)] }), (81921, some { stalled with stallOn := [(.release, 22)] })] }
theorem test_endStalls : taskAt (endStalls stalledOn) 81920 = some { stalled with stallOn := [(.jig 0, 23)] } ∧
    (taskAt (dropStalls stalledOn 81920 ofJig) 81920).map (·.stallOn) = some [(.engine 3, 22)] ∧
    (taskAt (dropStalls stalledOn 81921 (fun b => !ofJig b)) 81921).map (·.stallOn) = some [] ∧
    (taskAt (endStalls stalledOn) 81921).map (fun x => (x.stallSince, x.stallOn)) = some (none, []) := by decide +kernel
theorem test_edge_free : reportsDue serving = [] ∧ serving.portA.held = [] ∧ serving.portB.held = [] ∧
    (after (.dieEdgeRetrainEnd 5) { serving with rst := { edgeDown := [5, 3] } }).rst.edgeDown = [3] := by decide +kernel
/-- R363: the refusals of reset commands at the ends of their ranges. -/
theorem test_reset_ranges : (after (.clusterReset .a 256) serving).rst.lastCmd = Code.descriptorInvalid ∧
    (after (.regionReset .a 32) serving).rst.lastCmd = Code.descriptorInvalid ∧
    (after (.computeDieReset .a 4) serving).rst.lastCmd = Code.descriptorInvalid ∧
    (after (.stackLogicReset .a 24) serving).rst.lastCmd = Code.descriptorInvalid ∧
    (after (.linkReset .a 4095) serving).rst.lastCmd = Code.descriptorInvalid ∧
    (after (.stackLogicReset .a 23) { serving with hub := { serving.hub with fuseStacks := 0 } }).rst.lastCmd = Code.unitAbsent := by decide +kernel
theorem test_reset_again : (after (.regionReset .a 31) (resettingWith { domain := 2, index := 31 } 0)).rst.lastCmd = Code.stateConflict ∧
    (after (.linkReset .a 23) (resettingWith { domain := 5, index := 23 } 0)).rst.lastCmd = Code.stateConflict ∧
    inReset (resettingWith { domain := 3, index := 1 } 0) Dom.cluster 64 = true ∧
    (after (.clusterReset .a 64) (resettingWith { domain := 3, index := 1 } 0)).rst.lastCmd = Code.stateConflict ∧
    (after (.stackLogicReset .a 0) (resettingWith { domain := 4, index := 0 } 0)).rst.lastCmd = Code.stateConflict ∧
    (after (.packageWarmReset .a) (resettingWith { domain := 7, index := 0 } 0)).rst.lastCmd = Code.stateConflict := by decide +kernel
/-- R378: a window that falls by more than DOWN_W_MS, and one that falls by as much. -/
def ramping : State := { serving with pwr := { rampEn := true, powerW := 3000, downW := 200, upW := 200 } }
theorem test_ramp_down : ramping.hub.auxOn = true ∧ (countBreak ramping 2799 false).pwr.violDown = 1 ∧
    (countBreak ramping 2800 false).pwr.violDown = 0 ∧ (countBreak ramping 2799 false).pwr.violUp = 0 := by
  decide +kernel
/-- R374: no RESTORE of the hub, or of a domain without a source. -/
theorem test_restore_refused : (after (.restore .a 28) serving).pwr.lastCmd = Code.stateConflict ∧
    (after (.restore .a 27) { serving with pwr := { domains := [(27, { down := true, source := .none })] } }).pwr.lastCmd = Code.stateConflict := by
  decide +kernel
/-- R369: the model moves by its last sample where a step brings none. -/
theorem test_model_sample : (dom (modelStep [] { serving with pwr := { domains := [(0, { powers := [1000] })] } } 0) 0).powers = [1000, 1000] ∧
    ([] : List (Nat × Nat)).find? (fun e => decide (e.1 = 0)) = none := by decide +kernel
/-- R406: which commands come on a binding. -/
theorem test_bindingOf : bindingOf (.getFuseMap .vdmB) = some .vdmB ∧ bindingUp (auxUp .reset) .vdmB = false ∧ bindingOf .timeExchange = none := by
  decide +kernel
/-- R409: the ends of the effecters' ranges. -/
theorem test_effecters : (after (.setNumericEffecterValue .smbus 0x803 1) serving).pwr.rampEn = true ∧
    (after (.setNumericEffecterValue .smbus 0x803 2) serving).pwr.rampEn = false ∧
    (after (.setNumericEffecterValue .smbus 0x801 501) serving).pwr.downW = serving.pwr.downW ∧
    (after (.setNumericEffecterValue .smbus 0x802 4) serving).pwr.upW = serving.pwr.upW := by decide +kernel
/-- R413: a command outside a session. -/
theorem test_no_session : serving.mgt.session = false ∧ (after (.passComponentTable .smbus 0xFFFF 1) serving).mgt.table = [] ∧
    (after (.updateComponent .smbus 1 9) serving).mgt = serving.mgt := by decide +kernel

/-! ## Locks with tables, news over die edges, stalls by part, and the shim -/

/-- Partition 2 under check: a KV header at 0x1000 (4 sequences, one pool in stack 0) and a veneer header at 0x2000. -/
def lockTab (kv ven : Nat) : State := { serving with
  dram := image [(0x1000, leBytes 4 4 ++ zeros 4 ++ leBytes 8 0x20001 ++ zeros 240), (0x2000, leBytes 2 3 ++ [2, 0] ++ leBytes 4 64 ++ [0, 1] ++ zeros 54)]
  stackTab := [(0, { initBusy := false, lock := true, sharded := true })]
  parts := [(2, { partition0 with locked := false, busy := true, lockAge := 1, kvTable := BitVec.ofNat 40 kv, venTable := BitVec.ofNat 40 ven })] }
theorem test_lock_tables : lockShape (lockTab 0x40 0x80) 2 = true ∧ lockOwned (lockTab 0x40 0x80) 2 = true ∧
    lockStacks (lockTab 0x40 0x80) 2 = true ∧ lockAlone (lockTab 0x40 0x80) 2 = true ∧ lockTurn (applyEnv {} (lockTab 0x40 0x80)) 2 = true ∧
    (prt (after (.partitionLockDone 2 {}) (lockTab 0x40 0x80)) 2).pools = [(0, some (1, 2))] ∧
    (prt (after (.partitionLockDone 2 {}) (lockTab 0x40 0x80)) 2).venSlots = 3 := by decide +kernel
/-- R401, Table 15-9: a header that is none, one that is poisoned, a stack that is not locked, and a window on a stack of another. -/
theorem test_lock_failed : (prt (after (.partitionLockDone 2 {}) (lockTab 0x80 0x80)) 2).failedCheck = 6 ∧
    (prt (after (.partitionLockDone 2 {}) (lockTab 0x80 0x80)) 2).lastCmd = Code.descriptorInvalid ∧
    (prt (after (.partitionLockDone 2 {}) (lockTab 0x80 0x80)) 2).locked = false ∧
    (prt (after (.partitionLockDone 2 {}) { lockTab 0x40 0 with
      stackTab := [(0, { initBusy := false, lock := true, sharded := true, poison := [(0, some { sector := 0x40 })] })] }) 2).failedCheck = 5 ∧
    lockStacks { lockTab 0 0 with stackTab := [] } 2 = false ∧
    lockOwned { lockTab 0 0 with parts := [(2, { partition0 with stackTab := 2 })] } 2 = false ∧
    lockShape { lockTab 0 0 with parts := [(2, { partition0 with pegFirst := 0xFFFF, pegCount := 2 })] } 2 = false ∧
    lockAlone { lockTab 0 0 with parts := [(2, partition0), (3, partition0)] } 2 = false := by decide +kernel
theorem test_lock_pool : poolRefused (lockTab 0 0) 2 (zeros 8 ++ leBytes 8 0x20001) 0 = false ∧
    poolRefused (lockTab 0 0) 2 (zeros 16 ++ leBytes 8 0x20001) 1 = true ∧ (poolField (zeros 8 ++ leBytes 8 0x20001) 0).2 = 2 ∧
    (poolField (zeros 16) 0).2 = 0 := by decide +kernel
/-- R401: a lock write while the checks run, and one with VALID 0; a field is frozen while they run. -/
theorem test_lock_again : (prt (after (.partitionLock .a 2 0x4000000000000000) (lockTab 0 0)) 2).lastCmd = Code.stateConflict ∧
    (prt (after (.partitionLock .a 2 0) serving) 2).lastCmd = Code.stateConflict ∧ MaySet (lockTab 0 0) .a ∧
    (prt (after (.registerWrite .a 0x62030 8 5) serving) 2).stackTab = 5 ∧
    (prt (after (.registerWrite .a 0x62030 8 5) (lockTab 0 0)) 2).stackTab = 1 ∧ partHas 0x30 = true ∧
    (after (.registerWrite .a 0x62030 8 5) (lockTab 0 0)).evt.tail = 1 ∧
    (after (.registerWrite .a 0x62030 8 1) (lockTab 0 0)).evt.tail = 0 := by decide +kernel
/-- R18, R217: an ABORT whose word to the walker of die 0 waits for hub edge 4. -/
theorem test_abort_waits : pathUp { serving with rst := { edgeDown := [4] } } 4 0 = false ∧
    (abortTask { tasked {} with rst := { edgeDown := [4] } } 81920).hub.abortsHeld = [81920] ∧
    ((taskAt (abortTask (tasked {}) 81920) 81920).map (·.status)) = some Code.skipped ∧
    ((taskAt (after (.dieEdgeRetrainEnd 4) (abortTask { tasked {} with rst := { edgeDown := [4] } } 81920)) 81920).map (·.status)) =
      some Code.skipped := by decide +kernel
/-- R298, R311: t0 stands from the first attempt, and a step whose records are still to be written keeps the next one waiting. -/
theorem test_admitStart : ((graphAt (after (.stepAdmission 5 {}) { admitting stepHead with
      time := 9, graphs := [(5, some { ring := 63, stepAddr := 0x1000, admitted := false, left := 1, admitStart := some 4 })] }) 5).map
      (·.admitStart)) = some (some 4) ∧
    completing { admitting stepHead with steps := [(4, some { finals := some [] })] } 0 = true ∧ completing (admitting stepHead) 0 = false ∧
    ((graphAt (after (.stepAdmission 5 {}) { admitting stepHead with steps := [(4, some { finals := some [] })] }) 5).map (·.admitted)) =
      some false := by decide +kernel
/-- R229: two earlier JIG tasks take clusters 0 and 1, though both would take the first one now. -/
def crowding : Task := { state := .ready, graph := 5, desc := { kind := 1 } }
def pinned : Task := { state := .ready, graph := 5, part := 1, desc := { kind := 1, pin := true, place := 1 } }
def crowd (n : Nat) : State := { serving with
  parts := [(0, { locked := true, clusters := [(0, 3)] }), (1, { locked := true, clusters := [(0, 3)] })]
  tasks := (List.range n).map (fun k => (k, some crowding)) ++ [(9, some pinned)], graphs := [(5, some { ring := 63 })] }
theorem test_heldBack : heldBack (crowd 2) 9 pinned 1 = true ∧ heldBack (crowd 1) 9 pinned 1 = false ∧
    heldBack (crowd 2) 0 crowding 0 = false ∧ isReady pinned = true ∧ spotOf (crowd 1) pinned = .unit 1 := by decide +kernel
/-- R240: the run of a task ends with its writes, though a retraining edge keeps its peg operation back. -/
theorem test_endTime : ((taskAt (after (.taskComplete 81920 {}) { tasked pegTask with time := 7, rst := { edgeDown := [0] } }) 81920).map
      (·.endTime)) = some 7 ∧ opsReach { tasked pegTask with rst := { edgeDown := [0] } } pegTask 0 = false := by decide +kernel
/-- R253: a release that failed before the limit stands, and one that failed after it does not. -/
def releasing (t : Nat) : Task := {
  workDone := true, started := true, relFail := Code.poisoned, relFailAt := t, desc := { kind := 3, timeLimitUs := 1 } }
theorem test_releasedStatus : releasedStatus (hanging 2000) (releasing 999) = Code.poisoned ∧
    releasedStatus (hanging 2000) (releasing 1000) = Code.runTimeout ∧ releasedStatus (hanging 500) (releasing 100) = Code.poisoned ∧
    limitReached (hanging 2000) (releasing 999) = true ∧ limitReached (hanging 500) (releasing 100) = false ∧
    (releasing 999).remoteSent = false := by decide +kernel
/-- R357: the layout watchdog leaves out what stalled the engine's own chain, and nothing else. -/
def hangingChain (c : Chain) (t : Nat) : State := { hanging t with
  regions := [(31, { chains := [{ c with owner := .task 81920, task := 81920, started := true }] })] }
theorem test_chain_stall : inReset (after (.layoutWatchdog 31) (hangingChain { stallNs := 10 } 101009)) Dom.region 31 = false ∧
    inReset (after (.layoutWatchdog 31) (hangingChain { stallNs := 10 } 101010)) Dom.region 31 = true ∧
    ((taskAt (hanging 0) 81920).map (fun x => (chainStalledNs (hanging 5000) x { stallSince := some 0 }))) = some 4000 := by decide +kernel
/-- R18, R238: the news of a peg of die 1 for a task of die 0 goes by the hub; peg 16384 is die 1's. -/
def newsTask : Task := { state := .waiting, desc := { waits := [{ peg := 16384, value := 9 }] } }
theorem test_news : newsReach serving 16384 0 = true ∧ newsReach { serving with rst := { edgeDown := [5] } } 16384 0 = false ∧
    newsReach { serving with rst := { edgeDown := [0] } } 16384 0 = true ∧
    (tellTask { serving with rst := { edgeDown := [5] } } 16384 9 newsTask).pegNews = [(16384, 9)] ∧
    waitsMet newsTask = false ∧ waitsMet (hearNews serving { newsTask with pegNews := [(16384, 9)] }) = true := by decide +kernel
/-- R377: only a cap newly set below the module's power is approached at the down-ramp. -/
theorem test_capApproach : capOf 2500 = some 2500 ∧ ((putCap 2500 { serving with pwr := { powerW := 2800 } }).map (·.pwr.capApproach)) = some true ∧
    capPart { rampEn := true, capW := 2500, downW := 200, capApproach := true } 2800 = 2600 ∧
    capPart { rampEn := true, capW := 2500, downW := 200 } 2800 = 2500 := by decide +kernel
/-- Table 14-5, step 2: of a fall of 1,800 W the shim fills 1,600 W, and the module falls by 200 W. -/
def declining : State := { serving with
  pwr := { rampEn := true, powerW := 4100, downW := 200, upW := 200, capW := 4200, meanMw := 2300000
           domains := [(0, { powers := [2120000], shimBudgetW := 1620, shimTopW := 1620 })] }
  clusters := [(0, { shim := 1 })] }
theorem test_decline : shimDies declining = [0] ∧ moduleNow declining = 3920 ∧ shimFloor declining.pwr = 3900 ∧
    (dom (steerShim declining) 0).shimBudgetW = 1600 := by decide +kernel
/-- R205: a pass that is repeated once, and fails its repeat. -/
def mitring : State := { serving with regions := [(3, { chains := [{ owner := .task 1, task := 1, busy := true, transposing := true }] })] }
theorem test_mitre : (reg (mitreUpset mitring 3 0 false) 3).mitreCe = 1 ∧ (reg (mitreUpset mitring 3 0 false) 3).mitreFail = none ∧
    (reg (mitreUpset (mitreUpset mitring 3 0 false) 3 0 false) 3).mitreFail = some 0 ∧
    (reg (mitreUpset (mitreUpset mitring 3 0 false) 3 0 false) 3).mitreCe = 1 ∧
    (reg (mitreUpset mitring 3 0 true) 3).mitreCe = 1 ∧ (reg (mitreUpset mitring 3 0 true) 3).mitreUe = 1 := by decide +kernel
/-- R82, R87: SET_MIRROR uses its partner's stack to its end, and waits only for a hold-off of the stack that it writes. -/
theorem test_mirror_uses : partnersOf serving 0 { task := 1, op := 3, partner := 5, next := 0, last := 1 } = [5] ∧
    usesStack serving 5 (1, { mirrors := [5] }) = true ∧ maintInto 0 0 { task := 1, op := 3, partner := 5, next := 0, last := 1 } = false ∧
    maintInto 0 5 { task := 1, op := 3, partner := 5, next := 0, last := 1 } = true := by decide +kernel
end Sys2Proof.Tests
end

section
/-! Every command keeps the queue, device time and canonical memories, but for the two commands of the auxiliary rail, which set
device time to 0. The commands that call one operation are settled by that operation's lemma, in `exec_keeps`; those that
choose between several have a lemma of their own. -/

namespace Sys2Proof.Laws
open Sys2Proof Sys2Proof.Machine

/-- A command that answers a next state keeps the queue, device time and canonical memories. -/
def Keeps (o : State → Host.Outcome State Fault Refusal) : Prop :=
  ∀ (q : List Instr) (t : BitVec 64) (s u : State), Kept q t s → o s = .next u → Kept q t u

theorem Keeps.next {f : State → State} (hf : ∀ {q t s}, Kept q t s → Kept q t (f s)) : Keeps (fun s => .next (f s)) := by
  intro q t s u hs hu
  cases hu
  exact hf hs

theorem Keeps.served {b : Binding} {k : State → State} (hk : ∀ {q t s}, Kept q t s → Kept q t (k s)) :
    Keeps (fun s => Machine.served s b k) :=
  fun _ _ _ _ hs hu => served_kept (fun _ hu => hk hu) hs hu

theorem Keeps.servedByFirmware {b : Binding} {typ cmd : BitVec 8} {k : State → State}
    (hk : ∀ {q t s}, Kept q t s → Kept q t (k s)) : Keeps (fun s => Machine.servedByFirmware s b typ cmd k) :=
  fun _ _ _ _ hs hu => servedByFirmware_kept (fun _ hu => hk hu) hs hu

theorem Keeps.loadTap {n : Nat} {f : State → State} (hf : ∀ {q t s}, Kept q t s → Kept q t (f s)) :
    Keeps (fun s => Machine.loadTap s n f) :=
  fun _ _ _ _ hs hu => loadTap_kept (fun _ hu => hf hu) hs hu

/-! ## Resets and die edges -/

theorem execResetDrainEnd_keeps {d i : Nat} : Keeps (execResetDrainEnd d i) := .next fun h => by
  have hw := wipeDomain_kept (d := d) (i := i) h
  split
  · exact .ite h (.upd (.ite hw (logReset_kept hw)))
  · exact h

theorem execDomainServeAgain_keeps {d i : Nat} : Keeps (execDomainServeAgain d i) := .next fun h => by
  split
  · exact .ite (.ite (serveHub_kept (resumeActivation_kept (.upd h))) (resumeActivation_kept (.upd h))) h
  · exact h

theorem execResetEscalation_keeps {d i : Nat} : Keeps (execResetEscalation d i) := .next fun h => by
  split
  · refine .ite ?_ h
    split
    · exact beginReset_kept h
    · exact .ite (goFatal_kept h) h
  · exact h

theorem execDieEdgeRetrainEnd_keeps {edge : Nat} : Keeps (execDieEdgeRetrainEnd edge) :=
  .next fun h => makeReports_kept (drainPorts_kept (.foldl (fun _ _ => flushStaged_kept)
    (walkersHear_kept (abortsGoOn_kept (.upd h)))))

/-! ## Presses -/

theorem execPressOpStart_keeps {cl press : Nat} {env : Env} : Keeps (execPressOpStart cl press env) := .next fun h => by
  have he := applyEnv_kept (env := env) h
  split
  · exact .ite (startOp_kept he) he
  · exact he

theorem execPressOpRetire_keeps {cl press : Nat} : Keeps (execPressOpRetire cl press) := .next fun h => by
  split
  · exact .ite (retireOp_kept h) h
  · exact h

theorem execNotePush_keeps {cl press : Nat} : Keeps (execNotePush cl press) := .next fun h => by
  split
  · exact deliverNote_kept (modClu_kept h)
  · exact h

/-! ## Layout engines and benches -/

theorem execLayoutChainStart_keeps {r : Nat} {env : Env} : Keeps (execLayoutChainStart r env) := .next fun h => by
  have he := applyEnv_kept (env := env) h
  split
  · exact .ite he (settleChain_kept (startOwner_kept he) fun _ hu => .bind (chainAcquire_kept hu) fun _ _ => startCall_kept)
  · exact he

theorem execLayoutCallEnd_keeps {r : Nat} {env : Env} : Keeps (execLayoutCallEnd r env) := .next fun h => by
  have he := applyEnv_kept (env := env) h
  split
  · exact .ite (settleChain_kept he fun _ => finishCall_kept) he
  · exact he

theorem execBenchTaskActivate_keeps {i : Nat} {env : Env} : Keeps (execBenchTaskActivate i env) := .next fun h => by
  have he := applyEnv_kept (env := env) h
  split
  · split
    · exact .ite he (settle_kept (fun _ _ hu => hu) (activate_kept he) he)
    · exact he
  · exact he

theorem execBenchOperationStart_keeps {i : Nat} {env : Env} : Keeps (execBenchOperationStart i env) := .next fun h => by
  have he := applyEnv_kept (env := env) h
  split
  · split
    · split
      · exact .ite (settle_kept (fun _ _ hu => hu) (startOperation_kept he) he) he
      · exact he
    · exact he
  · exact he

theorem execBenchOperationEnd_keeps {i : Nat} {env : Env} : Keeps (execBenchOperationEnd i env) := .next fun h => by
  have he := applyEnv_kept (env := env) h
  split
  · exact .ite he (settle_kept (fun _ _ hu => hu) (endOperation_kept he) he)
  · exact he

/-! ## Stacks -/

theorem execScrubTick_keeps {i : Nat} {env : Env} : Keeps (execScrubTick i env) := .next fun h =>
  have he := applyEnv_kept (env := env) h
  .ite he (modStk_kept (.ite (scrubRead_kept he) (scrubSector_kept he)))

theorem execSpareCopyEnd_keeps {i : Nat} {unreadable : List Nat} : Keeps (execSpareCopyEnd i unreadable) := .next fun h => by
  split
  · exact .ite (.ite h (spareServe_kept (modStk_kept (.foldl (fun _ _ => poisonSector_kept) (scrubAll_kept h))))) h
  · exact h

theorem execMaintTaskStart_keeps {i : Nat} {env : Env} : Keeps (execMaintTaskStart i env) := .next fun h => by
  have he := applyEnv_kept (env := env) h
  refine .ite he ?_
  split
  · split
    · exact .ite he (maintCheck_kept he)
    · exact he
  · split
    · refine .ite he (settle_kept (fun r u hu => ?_) (maintBegin_kept he) he)
      split
      · exact maintRefused_kept hu
      · exact maintRefused_kept hu
      · exact maintCheck_kept hu
    · exact he
  · exact he

theorem execMaintGranuleDone_keeps {i : Nat} {env : Env} : Keeps (execMaintGranuleDone i env) := .next fun h => by
  have he := applyEnv_kept (env := env) h
  split
  · exact .ite (granuleDone_kept he) he
  · exact he

theorem execMaintTaskEnd_keeps {i : Nat} : Keeps (execMaintTaskEnd i) := .next fun h => by
  split
  · split
    · exact .ite (maintFinish_kept h) h
    · exact h
  · exact h

theorem execConversionResume_keeps {i : Nat} {env : Env} : Keeps (execConversionResume i env) := .next fun h => by
  have he := applyEnv_kept (env := env) h
  split
  · exact .ite (flushStaged_kept (modStk_kept (convertGranule_kept he))) he
  · exact he

/-! ## Tasks, graphs, rings -/

theorem execTaskTimeLimit_keeps {k : Nat} : Keeps (execTaskTimeLimit k) := .next fun h => by
  split
  · exact .ite (limitTask_kept h) h
  · exact h

theorem execWaitLimit_keeps {k : Nat} : Keeps (execWaitLimit k) := .next fun h => by
  split
  · exact .ite (endUnstarted_kept h) h
  · exact h

theorem execTaskPlace_keeps {k : Nat} : Keeps (execTaskPlace k) := .next fun h => by
  split
  · refine .ite ?_ h
    split
    · exact .ite h (placeOn_kept h)
    · exact endAtOnce_kept h
    · exact h
  · exact h

theorem execStepAdmission_keeps {g : Nat} {env : Env} : Keeps (execStepAdmission g env) := .next fun h => by
  have he := applyEnv_kept (env := env) h
  refine .ite he ?_
  split
  · exact .ite he (settle_kept (fun _ _ hu => hu) (admitGraph_kept (modGraph_kept he)) (modGraph_kept he))
  · exact he

theorem execPartitionLockDone_keeps {k : Nat} {env : Env} : Keeps (execPartitionLockDone k env) := .next fun h =>
  have he := applyEnv_kept (env := env) h
  .ite (settle_kept (fun _ _ hu => hu) (finishLock_kept he) he) he

theorem execGraphFetch_keeps {r : Nat} {env : Env} : Keeps (execGraphFetch r env) := .next fun h =>
  have he := applyEnv_kept (env := env) h
  .ite he (settle_kept (fun _ _ hu => hu) (fetchGraph_kept he) he)

theorem execSwapCopyEnd_keeps {k n : Nat} {env : Env} : Keeps (execSwapCopyEnd k n env) := .next fun h =>
  have he := applyEnv_kept (env := env) h
  .ite (settle_kept (fun _ _ hu => hu) (endSwap_kept he) he) he

theorem execGraphEnter_keeps {r : Nat} : Keeps (execGraphEnter r) := .next fun h => by
  split
  · exact .ite (enterGraph_kept h) h
  · exact h

theorem execJigTaskStart_keeps {cl : Nat} {env : Env} : Keeps (execJigTaskStart cl env) := .next fun h => by
  have he := applyEnv_kept (env := env) h
  split
  · split
    · exact .ite he (startJigTask_kept he)
    · exact he
  · exact he

/-! ## Links and packets -/

theorem execLinkDrainEnd_keeps {i : Nat} : Keeps (execLinkDrainEnd i) := .next fun h => by
  refine .ite ?_ h
  split
  · exact clearLink_kept h
  · exact .ite (beginTraining_kept (clearLink_kept h)) (clearLink_kept h)
  · exact h

theorem execLinkDownTimeout_keeps {loss : LinkLoss} : Keeps (execLinkDownTimeout loss) := .next fun h => by
  split
  · exact .ite (linkDown_kept h) h
  · exact .ite (linkDown_kept h) h

theorem execPacketSend_keeps {i vc : Nat} : Keeps (execPacketSend i vc) := .next fun h => by
  split
  · exact .ite h (.ite (countAged_kept (takeQueued_kept h)) (.ite (sendPacket_kept h) h))
  · exact h

theorem execPacketRoute_keeps {d : Nat} : Keeps (execPacketRoute d) := .next fun h => by
  split
  · exact routeOne_kept h
  · exact h

theorem execRouterAgeDrop_keeps {d i : Nat} : Keeps (execRouterAgeDrop d i) := .next fun h => by
  split
  · exact .ite (dropAged_kept (takeOut_kept h)) h
  · exact .getD (fun _ => dropQueued_kept h) h

theorem execIngressAgeDrop_keeps {d : Nat} : Keeps (execIngressAgeDrop d) := .next fun h => by
  split
  · exact dropAged_kept (leaveIngress_kept h)
  · exact h

theorem execRemoteRequestTimeout_keeps {d : Nat} {tag : BitVec 16} : Keeps (execRemoteRequestTimeout d tag) :=
  .next fun h => by
    split
    · exact .ite (timeOut_kept h) h
    · exact h

theorem execTimeExchange_keeps : Keeps execTimeExchange := .next fun h => by
  split
  · exact sendTime_kept (.upd (modLnk_kept h))
  · exact h

/-! ## Power and heat -/

theorem execSensorRead_keeps {readings : List SensorReading} : Keeps (execSensorRead readings) := .next fun h =>
  .ite (judgeAll_kept (.foldl (fun _ _ => takeRate_kept) (.foldl (fun _ _ => takeSource_kept)
    (takeCoolant_kept (.foldl (fun _ _ => oneReading_kept) h))))) h

theorem execPowerWindow_keeps {avgW shimW energyMj shimMj : Nat} {unpreventable : Bool} :
    Keeps (execPowerWindow avgW shimW energyMj shimMj unpreventable) := .next fun h =>
  .ite (noteLimits_kept (setKnobs_kept (windowShim_kept (.upd (countBreak_kept h))))) h

/-! ## Ports -/

theorem execMsixUnmask_keeps {p : PortId} {what : MsixWrite} : Keeps (execMsixUnmask p what) := .next fun h => by
  split
  · exact openWrite_kept h fun _ hu => .ite (msixServe_kept (modPort_kept (fun _ hx => hx) hu)) hu
  · exact .ite (.foldl (fun _ _ => msixServe_kept) (modPort_kept (fun _ hx => hx) h)) h

theorem execBar0Read_keeps {p : PortId} {off size : Nat} : Keeps (execBar0Read p off size) := .next fun h =>
  .ite h (.ite (bar0Give_kept h) (.ite (bar0Give_kept h) (.ite (bar0Give_kept h)
    (.ite (bar0Give_kept (absentBy_kept h)) (bar0Give_kept h)))))

theorem execRegisterWrite_keeps {p : PortId} {off size : Nat} {v : Word} : Keeps (execRegisterWrite p off size v) :=
  .next fun h => .ite (writeBar2_kept h) (.ite (openWrite_kept h fun _ => writeMsix_kept)
    (.ite (openWrite_kept h fun _ => setupIgnored_kept) (writeBar0_kept h)))

theorem execBar4Read_keeps {p : PortId} {off size : Nat} {env : Env} : Keeps (execBar4Read p off size env) := .next fun h =>
  have he := applyEnv_kept (env := env) h
  have hd := drainPort_kept he
  .ite he (.ite (bar4Give_kept he) (.ite hd (.ite (bar4Fetch_kept hd) (bar4Give_kept (absentAccess_kept hd)))))

theorem execBar4Write_keeps {p : PortId} {off : Nat} {data : List Byte} {env : Env} : Keeps (execBar4Write p off data env) :=
  .next fun h =>
    have he := applyEnv_kept (env := env) h
    .ite he (.ite (queueWrite_kept (drainPort_kept he)) (absentAccess_kept he))

/-! ## Management -/

theorem execGetPdr_keeps {b : Binding} {record : Nat} : Keeps (execGetPdr b record) := .servedByFirmware fun h => by
  split
  · exact pldm_kept h
  · exact pldm_kept h

theorem execPlatformEventMessage_keeps : Keeps execPlatformEventMessage := .next fun h => by
  split
  · exact .ite (tryEvent_kept h) h
  · exact h

theorem execPlatformEventRetry_keeps : Keeps execPlatformEventRetry := .next fun h => by
  split
  · exact .ite (.ite (tryEvent_kept h) (endEvent_kept h)) h
  · exact h

theorem logFailed_kept {q : List Instr} {t : BitVec 64} {s : State} {m : Mgt} {ok : Bool} {cls : BitVec 8} {sev : BitVec 2}
    {d0 d1 : Nat} (hs : Kept q t s) :
    Kept q t (if ok then { s with mgt := m } else logMgmt { s with mgt := m } cls sev d0 d1) :=
  .ite (.upd hs) (logMgmt_kept (.upd hs))

theorem execFlashOperationEnd_keeps {ok : Bool} {address : BitVec 64} : Keeps (execFlashOperationEnd ok address) :=
  .next fun h => .ite h (.ite (tryFlash_kept (logFailed_kept h))
    (.ite (flashDone_kept (logFailed_kept h)) (dropComponent_kept (logFailed_kept h))))

theorem endChannelIf_kept {q : List Instr} {t : BitVec 64} {s : State} {c : Prop} [Decidable c] (hs : Kept q t s) :
    Kept q t (if c then endChannel s else s) :=
  .ite (endChannel_kept hs) hs

theorem execActivationReady_keeps : Keeps execActivationReady := .next fun h => by
  split
  · have hc {c : Prop} [Decidable c] := endChannelIf_kept (c := c) h
    exact .ite (.ite hc (startChannel_kept hc))
      (.ite (.ite (startUnit_kept (.upd hc)) (startComponent_kept (finishComponent_kept (.upd hc)))) hc)
  · exact h

theorem execActivationTimeout_keeps : Keeps execActivationTimeout := .next fun h => by
  split
  · exact .ite (startComponent_kept (failComponent_kept h)) h
  · exact h

theorem execActivateFirmware_keeps {b : Binding} {selfContained : Bool} : Keeps (execActivateFirmware b selfContained) :=
  .served fun h => inSession_kept h fun _ hu =>
    .ite (startComponent_kept (.upd (fwReply_kept hu))) (closeSession_kept (fwReply_kept hu))

theorem execGetMeasurements_keeps {b : Binding} {k : Nat} {signed : Bool} (nonce : List Byte) :
    Keeps (execGetMeasurements b k signed nonce) := .served fun h => by
  split
  · exact spdmError_kept h
  · exact .ite (spdm_kept (signature_kept h)) (spdm_kept h)

/-! ## The module -/

theorem execMainReady_keeps {trainErr : BitVec 8} : Keeps (execMainReady trainErr) := .next fun h =>
  .ite (.ite (.ite h (tapGate_kept (.upd (.foldl (fun _ _ => modStk_kept) h)))) (.upd h)) h

theorem execCablePresenceChange_keeps {i : Nat} {high : Bool} : Keeps (execCablePresenceChange i high) := .next fun h =>
  .ite (.ite (unplugged_kept (modLnk_kept h)) (plugged_kept (modLnk_kept h))) h

theorem execIdcode_keeps : Keeps execIdcode := .loadTap fun h => emit_kept (letGo_kept h)

theorem execSamplePreload_keeps {pins : List Bool} : Keeps (execSamplePreload pins) := .loadTap fun h => .upd (letGo_kept h)

theorem loadDriving_keeps {n : Nat} {drive : PinDrive} : Keeps (fun s => loadDriving s n drive) :=
  .loadTap fun h => .ite (drivePins_kept (.upd h)) (giveBypass_kept (refuseTap_kept (.upd h)))

/-! ## All commands -/

/-- Every command but the coming and going of the auxiliary rail keeps the queue, device time and canonical memories. -/
theorem exec_keeps (c : Instr) (hl : c ≠ .auxPowerLoss) (hu : ∀ a, c ≠ .auxPowerUp a) : Keeps (exec c) := by
  cases c with
  | auxPowerLoss => exact absurd rfl hl
  | auxPowerUp a => exact absurd rfl (hu a)
  | firmwareBootEnd bad reads => exact .next fun h => .ite (bootEnd_kept (logReads_kept h)) h
  | mainPowerOn mv en => exact .next fun h => .ite h (.ite (.upd (setSupply_kept h)) (setSupply_kept h))
  | mainReady e => exact execMainReady_keeps
  | mainPowerLoss mv en => exact .next fun h => .ite (mainLoss_kept (setSupply_kept h)) h
  | mainInputDipTimeout mv => exact .next fun h => .ite (mainLoss_kept (setSupply_kept h)) h
  | perstAssert p => exact .next fun h => dropLink_kept (modPort_kept (fun _ hx => hx) h)
  | perstDeassert p => exact .next fun h => modPort_kept (fun _ hx => hx) h
  | cablePresenceChange i high => exact execCablePresenceChange_keeps
  | trstAssert => exact .next fun h => .upd (letGo_kept h)
  | hostLinkDown p => exact .next dropLink_kept
  | hostLinkUp p => exact .next fun h => .ite (modPort_kept (fun _ hx => hx) h) h
  | hostD3hotEntry p => exact .next fun h => .ite (losePort_kept (modPort_kept (fun _ hx => hx) h)) h
  | heartbeatWrite p v => exact .next fun h => openWrite_kept h fun _ => writeBeat_kept
  | heartbeatLapse p => exact .next fun h => .ite (losePort_kept (modPort_kept (fun _ hx => hx) h)) h
  | hubAliveTick => exact .next fun h => .ite (.upd h) h
  | registerWrite p off size v => exact execRegisterWrite_keeps
  | portViseClaim p code => exact .next fun h => openWrite_kept h fun _ => writeVise_kept
  | portViseRelease p => exact .next fun h => openWrite_kept h fun _ => writeVise_kept
  | lockHost p => exact .next fun h => viseWrite_kept h fun _ => writeLock_kept
  | lockRings p => exact .next fun h => viseWrite_kept h fun _ => writeLock_kept
  | lockFabric p => exact .next fun h => viseWrite_kept h fun _ => writeLock_kept
  | lockReset p => exact .next fun h => viseWrite_kept h fun _ => writeLock_kept
  | modeWrite p m => exact .next fun h => viseWrite_kept h fun _ => writeMode_kept
  | partitionLock p k v => exact .next fun h => .ite (viseWrite_kept h fun _ => writePart_kept) h
  | partitionLockDone k env => exact execPartitionLockDone_keeps
  | ringConfigWrite p r v => exact .next fun h => ringWrite_kept h fun _ => writeRingConfig_kept
  | msixUnmask p what => exact execMsixUnmask_keeps
  | bar4Read p off size env => exact execBar4Read_keeps
  | bar4Write p off data env => exact execBar4Write_keeps
  | evtHeadWrite p v => exact .next fun h => openWrite_kept h fun _ => writeEvtHead_kept
  | sqTail p r v => exact .next ringBell_kept
  | cqHead p r v => exact .next ringBell_kept
  | start p r => exact .next fun h => ringWrite_kept h fun _ => writeRingCtrl_kept
  | stop p r => exact .next fun h => ringWrite_kept h fun _ => writeRingCtrl_kept
  | abort p r => exact .next fun h => ringWrite_kept h fun _ => writeRingCtrl_kept
  | graphFetch r env => exact execGraphFetch_keeps
  | graphEnter r => exact execGraphEnter_keeps
  | stepAdmission g env => exact execStepAdmission_keeps
  | swapCopyEnd k n env => exact execSwapCopyEnd_keeps
  | taskPlace k => exact execTaskPlace_keeps
  | releaseAll p d => exact .next fun h => .ite (viseWrite_kept h fun _ => writeWlkCtrl_kept) h
  | jigTaskStart cl env => exact execJigTaskStart_keeps
  | benchTaskActivate i env => exact execBenchTaskActivate_keeps
  | layoutChainStart r env => exact execLayoutChainStart_keeps
  | maintTaskStart i env => exact execMaintTaskStart_keeps
  | taskComplete k env =>
    exact .next fun h => settleWork_kept (settleWork_kept (applyEnv_kept h) fun _ => freeUnit_kept) fun _ => completeTask_kept
  | taskTimeLimit k => exact execTaskTimeLimit_keeps
  | waitLimit k => exact execWaitLimit_keeps
  | hostFlushReadComplete p => exact .next fun h => .ite (endFlush_kept h) h
  | bundleExecute cl j env => exact .next fun h => runJig_kept (applyEnv_kept h)
  | jigHaltReq p cl j => exact .next fun h => clusterWrite_kept h fun _ => stopJig_kept
  | jigResume p cl j => exact .next fun h => clusterWrite_kept h fun _ => resumeJig_kept
  | jigStep p cl j env =>
    exact .next fun h => clusterWrite_kept (applyEnv_kept h) fun _ hu => .ite (runJig_kept (resumeJig_kept hu)) hu
  | jigDbgDataWrite p cl j v => exact .next fun h => clusterWrite_kept h fun _ hu => .ite (modJig_kept hu) hu
  | pressOpStart cl press env => exact execPressOpStart_keeps
  | pressOpRetire cl press => exact execPressOpRetire_keeps
  | notePush cl press => exact execNotePush_keeps
  | shimLoadStop cl press => exact .next fun h => .ite (modClu_kept h) h
  | benchOperationStart i env => exact execBenchOperationStart_keeps
  | benchOperationEnd i env => exact execBenchOperationEnd_keeps
  | layoutCallEnd r env => exact execLayoutCallEnd_keeps
  | stackModeWrite p i sharded => exact .next fun h => viseWrite_kept h fun _ => writeStkConfig_kept
  | stackConfigLock p i => exact .next fun h => viseWrite_kept h fun _ => writeStkConfig_kept
  | stackFillEnd i => exact .next fun h => .ite (flushStaged_kept (modStk_kept h)) h
  | retrain p i v => exact .next fun h => viseWrite_kept h fun _ => writeRetrain_kept
  | retrainEnd i repaired =>
    exact .next fun h => .ite (flushStaged_kept (.ite (modStk_kept h) (spareAsk_kept (modStk_kept h)))) h
  | maintTaskEnd i => exact execMaintTaskEnd_keeps
  | conversionResume i env => exact execConversionResume_keeps
  | correctedWriteback i sec => exact .next fun h => .ite (clearBad_kept h) h
  | mirrorReadReturn i sec env => exact .next fun h => .ite (repairSector_kept (applyEnv_kept h)) (applyEnv_kept h)
  | scrubTick i env => exact execScrubTick_keeps
  | spareCopyEnd i unreadable => exact execSpareCopyEnd_keeps
  | refreshCommand i => exact .next fun h => .ite (refreshStep_kept h) h
  | forcedRefresh i => exact .next fun h => .ite (forceRefresh_kept h) h
  | linkTrainEnd i r => exact .next fun h => .ite (endTraining_kept h) h
  | linkTrainRetry i => exact .next fun h => .ite (beginTraining_kept h) h
  | nodeEnable p v => exact .next fun h => viseWrite_kept h fun _ => writeFstNode_kept
  | syncEnable p v => exact .next fun h => viseWrite_kept h fun _ => writeFstTime_kept
  | recal p i => exact .next flkWrite_kept
  | disable p i => exact .next flkWrite_kept
  | enable p i => exact .next flkWrite_kept
  | linkDrainEnd i => exact execLinkDrainEnd_keeps
  | dataFlit i hd seq payload => exact .next fun h => onFlit_kept h fun _ => takeData_kept
  | idleFlit i hd => exact .next fun h => onFlit_kept h fun _ hu => hu
  | replayFlit i hd seq => exact .next fun h => onFlit_kept h fun _ => answerReplay_kept
  | timeFlit i hd root ts locked => exact .next fun h => onFlit_kept h fun _ => takeTime_kept
  | replayTimeout i => exact .next fun h => .ite (replayOldest_kept h) h
  | linkDownTimeout loss => exact execLinkDownTimeout_keeps
  | packetSend i vc => exact execPacketSend_keeps
  | packetRoute d => exact execPacketRoute_keeps
  | putPacket d env => exact .next fun h => serveFirst_kept (applyEnv_kept h) fun _ _ => servePut_kept
  | getPacket d env => exact .next fun h => serveFirst_kept (applyEnv_kept h) fun _ _ => serveGet_kept
  | addPacket d env => exact .next fun h => serveFirst_kept (applyEnv_kept h) fun _ _ => serveAdd_kept
  | pegPacket d => exact .next fun h => serveFirst_kept h fun _ _ => servePeg_kept
  | ack d k => exact .next absorb_kept
  | dataResponse d k => exact .next absorb_kept
  | resultResponse d k => exact .next absorb_kept
  | nak d k => exact .next absorb_kept
  | remoteRequestTimeout d tag => exact execRemoteRequestTimeout_keeps
  | ingressAgeDrop d => exact execIngressAgeDrop_keeps
  | timeExchange => exact execTimeExchange_keeps
  | holdoverEntry => exact .next fun h => .ite (.upd h) h
  | holdoverLimit => exact .next fun h => .ite (.upd h) h
  | dieEdgeFailure edge => exact .next fun h => .ite (.ite (goFatal_kept (.upd h)) (.upd h)) h
  | dieEdgeRetrainEnd edge => exact execDieEdgeRetrainEnd_keeps
  | clusterReset p i => exact .next ctrlWrite_kept
  | regionReset p i => exact .next ctrlWrite_kept
  | computeDieReset p i => exact .next ctrlWrite_kept
  | stackLogicReset p i => exact .next ctrlWrite_kept
  | linkReset p i => exact .next ctrlWrite_kept
  | packageWarmReset p => exact .next ctrlWrite_kept
  | resetDrainEnd d i => exact execResetDrainEnd_keeps
  | domainServeAgain d i => exact execDomainServeAgain_keeps
  | resetEscalation d i => exact execResetEscalation_keeps
  | clusterWatchdog cl => exact .next fun h => .ite (beginReset_kept h) h
  | layoutWatchdog r => exact .next fun h => .ite (beginReset_kept h) h
  | benchWatchdog i => exact .next fun h => .ite (beginReset_kept h) h
  | walkerWatchdog d => exact .next fun h => .ite (beginReset_kept h) h
  | hubWatchdog => exact .next fun h => .ite h (beginReset_kept h)
  | activationReady => exact execActivationReady_keeps
  | activationTimeout => exact execActivationTimeout_keeps
  | thermalModelUpdate mw =>
    exact .next fun h => .ite (shimUpdate_kept (judgeAll_kept (.foldl (fun _ _ => modelStep_kept) h))) h
  | sensorRead readings => exact execSensorRead_keeps
  | noSourceTimeout n => exact .next fun h => .ite (shutDown_kept h) h
  | powerWindow avgW shimW energyMj shimMj unpreventable => exact execPowerWindow_keeps
  | restore p n => exact .next fun h => viseWrite_kept h fun _ => writePwrCtrl_kept
  | setEndpointId b eid => exact .served fun h => .ite (reply_kept (.upd h)) (reply_kept h)
  | getEndpointId b => exact .served reply_kept
  | getEndpointUuid b => exact .served reply_kept
  | getMctpVersionSupport b typ => exact .served fun h => .ite (reply_kept h) (reply_kept h)
  | getMessageTypeSupport b => exact .served reply_kept
  | getVendorDefinedMsgSupport b => exact .served reply_kept
  | mctpUnsupported b typ cmd => exact .served fun h => .ite (reply_kept h) h
  | setTid b tid => exact .served fun h => .ite (pldm_kept (.upd h)) (pldm_kept h)
  | getTid b => exact .served pldm_kept
  | getPldmVersion b typ => exact .served fun h => .ite (pldm_kept h) (pldm_kept h)
  | getPldmTypes b => exact .served pldm_kept
  | getPldmCommands b typ => exact .served fun h => .ite (pldm_kept h) (pldm_kept h)
  | getPdrRepositoryInfo b => exact .servedByFirmware pldm_kept
  | getPdr b record => exact execGetPdr_keeps
  | getSensorReading b id => exact .servedByFirmware fun h => .ite (pldm_kept h) (pldm_kept h)
  | getStateSensorReadings b id => exact .servedByFirmware fun h => .ite (pldm_kept h) (pldm_kept h)
  | getNumericEffecterValue b id => exact .servedByFirmware fun h => .ite (pldm_kept h) (pldm_kept h)
  | setNumericEffecterValue b id v =>
    exact .servedByFirmware fun h => .ite (pldm_kept h) (.ite (pldm_kept (setEffecter_kept h)) (pldm_kept h))
  | setEventReceiver b receiver => exact .servedByFirmware fun h => pldm_kept (.upd h)
  | platformEventMessage => exact execPlatformEventMessage_keeps
  | platformEventRetry => exact execPlatformEventRetry_keeps
  | queryDeviceIdentifiers b => exact .served fwReply_kept
  | getFirmwareParameters b => exact .served fwReply_kept
  | requestUpdate b => exact .served fun h => .ite (fwReply_kept h) (fwReply_kept (setUpdate_kept (.upd h)))
  | passComponentTable b cls k =>
    exact .served fun h => inSession_kept h fun _ hu => .ite (fwReply_kept (.upd hu)) (fwReply_kept hu)
  | updateComponent b k size =>
    exact .served fun h => inSession_kept h fun _ hu => .ite (fwReply_kept (beginComponent_kept hu)) (fwReply_kept hu)
  | requestFirmwareData b n => exact .served fun h => .ite (askFlash_kept (.upd h)) h
  | transferComplete b => exact .served fun h => .ite (reply_kept (setUpdate_kept h)) h
  | verifyComplete b version svn sigOk => exact .served fun h => .ite (reply_kept (verifySlot_kept h)) h
  | applyComplete b => exact .served fun h => .ite (reply_kept (askFlash_kept h)) h
  | activateFirmware b selfContained => exact execActivateFirmware_keeps
  | getStatus b => exact .served fwReply_kept
  | cancelUpdateComponent b => exact .served fun h => sessionCmd_kept h fun _ hu => fwReply_kept (dropComponent_kept hu)
  | cancelUpdate b => exact .served fun h => sessionCmd_kept h fun _ hu => fwReply_kept (cancelAll_kept hu)
  | getVersion b => exact .served spdm_kept
  | getCapabilities b => exact .served spdm_kept
  | negotiateAlgorithms b => exact .served spdm_kept
  | getDigests b => exact .served spdm_kept
  | getCertificate b slot off n => exact .served fun h => .ite (spdm_kept h) (spdmError_kept h)
  | challenge b slot nonce => exact .served fun h => .ite (spdm_kept (signature_kept h)) (spdmError_kept h)
  | getMeasurements b k signed nonce => exact execGetMeasurements_keeps nonce
  | viseClaim b => exact .servedByFirmware fun h => vendor_kept (mgmtClaim_kept h)
  | viseRelease b => exact .servedByFirmware fun h => vendor_kept (mgmtRelease_kept h)
  | regRead b off => exact .servedByFirmware fun h => .ite (vendor_kept (absentBy_kept h)) (vendor_kept h)
  | regWrite b off v => exact .servedByFirmware fun h => vendor_kept (mgmtWrite_kept h)
  | resetRequest b d i => exact .servedByFirmware fun h => vendor_kept (mgmtReset_kept h)
  | getFuseMap b => exact .servedByFirmware vendor_kept
  | getCalibration b => exact .servedByFirmware vendor_kept
  | idcode => exact execIdcode_keeps
  | bypass => exact .loadTap fun h => giveBypass_kept (letGo_kept h)
  | samplePreload pins => exact execSamplePreload_keeps
  | extest => exact loadDriving_keeps
  | clamp => exact loadDriving_keeps
  | highz => exact loadDriving_keeps
  | platformEventMessageResponse ok => exact .next fun h => .ite (endEvent_kept h) h
  | flashOperationEnd ok address => exact execFlashOperationEnd_keeps
  | maintGranuleDone i env => exact execMaintGranuleDone_keeps
  | routerAgeDrop d i => exact execRouterAgeDrop_keeps
  | resizableBarWrite p n => exact .next fun h => .ite (modPort_kept (fun _ hx => hx) h) h
  | portReturnToD0 p => exact .next fun h => .ite (modPort_kept (fun _ hx => hx) h) h
  | trstDeassert => exact .next fun h => .upd h
  | bar0Read p off size => exact execBar0Read_keeps

end Sys2Proof.Laws
end

section
/-! The statements about memory and its addresses: the canonical form under every step, bytes written and read back, and the
rows of the local address map. -/

namespace Sys2Proof.Laws
open Sys2Proof Sys2Proof.Machine Sys2Proof.Claims

variable {s u : State}

/-! ## The canonical form -/

theorem kept_of_canonical (h : Canonical s) : Kept s.pending s.time s := by
  obtain ⟨hd, hs, hb, ha, hb'⟩ := h
  exact ⟨rfl, rfl, hd, hs, hb, ha, hb'⟩

theorem Kept.canonical {q : List Instr} {t : BitVec 64} (h : Kept q t s) : Canonical s :=
  ⟨h.dram, h.spad, h.bbuf, h.memA, h.memB⟩

/-- The rail's commands set device time, so that only their memories are kept (R22). -/
theorem exec_canonical {c : Instr} (hs : Canonical s) (hu : exec c s = .next u) : Canonical u := by
  by_cases hl : c = .auxPowerLoss
  · subst hl
    cases hu
    split
    · exact (coldState_kept (kept_of_canonical hs)).canonical
    · exact hs
  by_cases ha : ∃ a, c = .auxPowerUp a
  · obtain ⟨a, rfl⟩ := ha
    cases hu
    split
    · exact hs
    · exact hs
  exact (exec_keeps c hl (fun a h => ha ⟨a, h⟩) _ _ _ _ (kept_of_canonical hs) hu).canonical

/-! ## Bytes written are read back -/

theorem mbytes_mwrite_same (bs : List Byte) :
    ∀ {m : Memory} (a : Nat), Memory.wf m = true → mbytes (mwrite m a bs) a bs.length = bs := by
  induction bs with
  | nil => intro m a _; rfl
  | cons b bs ih =>
    intro m a h
    have hm := memory_wf_mset h a b
    have hb : mget (mwrite (mset m a b) (a + 1) bs) a = b :=
      (mget_mwrite_other bs (a + 1) hm (by omega)).trans (mget_mset_same h a b)
    exact congrArg₂ List.cons hb (ih (a + 1) hm)

/-! ## The rows of Table 3-2 -/

theorem placeOf_stack {a : Nat} (h : a < 24 * 2 ^ 36) : placeOf a = .stack (a / 2 ^ 36) (a % 2 ^ 36) :=
  if_pos h

theorem placeOf_spad {a : Nat} (hlo : 0x100000000000 ≤ a) (hhi : a < 0x100000000000 + 256 * 2 ^ 22) :
    placeOf a = .spad ((a - 0x100000000000) / 2 ^ 22) ((a - 0x100000000000) % 2 ^ 22) := by
  rw [placeOf, if_neg (by omega), if_pos (by omega)]; rfl

theorem placeOf_peg {a : Nat} (hlo : 0x200000000000 ≤ a) (hhi : a < 0x200000000000 + 4 * 65536) :
    placeOf a = .peg ((a - 0x200000000000) / 4) ((a - 0x200000000000) % 4) := by
  rw [placeOf, if_neg (by omega), if_neg (by omega), if_pos (by omega)]

theorem placeOf_hostA {a : Nat} (hlo : 0x300000000000 ≤ a) (hhi : a < 0x380000000000) :
    placeOf a = .host .a (a - 0x300000000000) := by
  rw [placeOf, if_neg (by omega), if_neg (by omega), if_neg (by omega), if_pos (by omega)]

theorem placeOf_hostB {a : Nat} (hlo : 0x380000000000 ≤ a) (hhi : a < 0x400000000000) :
    placeOf a = .host .b (a - 0x380000000000) := by
  rw [placeOf, if_neg (by omega), if_neg (by omega), if_neg (by omega), if_neg (by omega), if_pos (by omega)]

theorem placeOf_outside {a : Nat} (h : 0x400000000000 ≤ a) : placeOf a = .outside := by
  rw [placeOf, if_neg (by omega), if_neg (by omega), if_neg (by omega), if_neg (by omega), if_neg (by omega)]

end Sys2Proof.Laws

namespace Sys2Proof.Claims
open Sys2Proof Sys2Proof.Machine Sys2Proof.Laws

/-- Settles O2: a command keeps the canonical form, by the lemma of each command; the idle step changes no memory. -/
theorem stepKeepsMemoryCanonical : Obligations.StepKeepsMemoryCanonical := by
  intro s t hs ht
  unfold step at ht
  split at ht
  · cases ht; exact hs
  · next c rest _ => exact exec_canonical (s := { s with pending := rest }) hs ht

/-- Settles O5: bytes by induction on what is written, the map row by row of Table 3-2. -/
theorem addressesAndMemory : Obligations.AddressesAndMemory :=
  ⟨fun _ a bs h =>
      ⟨mbytes_mwrite_same bs a h, fun _ => mget_mwrite_other bs a h, memory_wf_mwrite bs a h⟩,
    fun _ => ⟨placeOf_stack, placeOf_spad, placeOf_peg, placeOf_hostA, placeOf_hostB, placeOf_outside⟩⟩

end Sys2Proof.Claims
end

section
/-! Reads of BAR0: the three answers of a read through a port that talks, and the words of the `HUB` registers. -/

namespace Sys2Proof.Laws
open Sys2Proof Sys2Proof.Machine

variable {s : State} {p : PortId}

/-! ## The block of an offset -/

theorem clusterOf_ite_none {c : Prop} [Decidable c] {b b' : Block} (h : clusterOf b = none) (h' : clusterOf b' = none) :
    clusterOf (if c then b else b') = none := by
  split <;> assumption

/-- A cluster's own page lies at 0x400, and those of its two jigs at 0x800 (Table 15-2). -/
theorem clusterOf_blockOf (a : Nat) : clusterOf (blockOf a) =
    if 0x400 ≤ a / 0x1000 ∧ a / 0x1000 < 0x500 then some (a / 0x1000 - 0x400)
    else if 0x800 ≤ a / 0x1000 ∧ a / 0x1000 < 0xA00 then some ((a / 0x1000 - 0x800) / 2) else none := by
  unfold blockOf
  generalize a / 0x1000 = page
  by_cases hc : 0x400 ≤ page ∧ page < 0x500
  · rw [if_pos hc]
    repeat rw [if_neg (by omega)]
    rw [if_pos hc]; rfl
  by_cases hj : 0x800 ≤ page ∧ page < 0xA00
  · rw [if_neg hc, if_pos hj]
    repeat rw [if_neg (by omega)]
    rw [if_pos hj]; rfl
  simp only [if_neg hc, if_neg hj]
  repeat refine clusterOf_ite_none rfl ?_
  rfl

/-- Both halves of an aligned word lie in the same page, so in the same cluster's blocks or in none's. -/
theorem fusedBlock_upperHalf {off : Nat} (h : off % 8 = 0) : fusedBlock s (blockOf (off + 4)) = fusedBlock s (blockOf off) := by
  have hp : (off + 4) / 0x1000 = off / 0x1000 := by omega
  unfold fusedBlock
  rw [clusterOf_blockOf, clusterOf_blockOf, hp]

/-- The map ends below BAR2. -/
theorem blockOf_bar2 {off : Nat} (h : bar2Base ≤ off) : blockOf off = .none := by
  have hp : 0x4000 ≤ off / 0x1000 := Nat.div_le_div_right (c := 0x1000) h
  unfold blockOf
  generalize off / 0x1000 = page at hp ⊢
  repeat rw [if_neg (by omega)]

theorem blockOf_hub {o : Nat} (h : o < 0x1000) : blockOf o = .hub o := by
  have hp : o / 0x1000 = 0 := Nat.div_eq_of_lt h
  simp only [blockOf, hp, if_true, Nat.mod_eq_of_lt h]

theorem inMsix_hub {o : Nat} (h : o < 0x1000) : inMsix o = false := by
  have hm : ¬ msixBase ≤ o := by unfold msixBase; omega
  have hp : ¬ pbaBase ≤ o := by unfold pbaBase; omega
  simp [inMsix, hm, hp]

/-! ## Words -/

@[simp] theorem cutWord_whole (w off : Nat) : cutWord w off 8 = BitVec.ofNat 64 w := rfl

theorem cutWord_lower {off : Nat} (w : Nat) (h : off % 8 = 0) : cutWord w off 4 = BitVec.ofNat 64 (w % 2 ^ 32) := by
  simp [cutWord, h]

theorem cutWord_upper {off : Nat} (w : Nat) (h : off % 8 = 4) : cutWord w off 4 = BitVec.ofNat 64 (w / 2 ^ 32 % 2 ^ 32) := by
  simp [cutWord, h]

theorem cutWord_ones {off : Nat} (h : off % 4 = 0) : cutWord (2 ^ 64 - 1) off 4 = 0xFFFFFFFF := by
  have h8 : off % 8 = 0 ∨ off % 8 = 4 := by omega
  rcases h8 with h8 | h8
  · rw [cutWord_lower _ h8]; rfl
  · rw [cutWord_upper _ h8]; rfl

theorem ofNat_ident : BitVec.ofNat 64 (hubWord s 0x00) = s.hub.ident :=
  (BitVec.ofNat_toNat ..).trans (BitVec.setWidth_eq _)

theorem ofNat_fuseStacks : BitVec.ofNat 64 (hubWord s 0x08) = s.hub.fuseStacks.setWidth 64 := BitVec.ofNat_toNat ..

theorem ofNat_fuseClusters {d : Nat} (hd : d < 4) :
    BitVec.ofNat 64 (hubWord s (0x10 + 8 * d)) = ~~~(tget 0 s.hub.fusedOff d) := by
  have hw : hubWord s (0x10 + 8 * d) = fuseWord s d := by interval_cases d <;> rfl
  rw [hw, fuseWord, BitVec.ofNat_toNat, BitVec.setWidth_eq]

theorem b2n_mul (b : Bool) (n : Nat) : b2n b * n = if b then n else 0 := by cases b <;> simp [b2n]

theorem lockWord_eq (h : Hub) : lockWord h = (if h.lockReset then 8 else 0) + (if h.lockFabric then 4 else 0) +
    (if h.lockRings then 2 else 0) + (if h.lockHost then 1 else 0) := by
  simp only [lockWord, b2n_mul]; rfl

theorem bootWord_eq (h : Hub) : bootWord h =
    h.bootErr.toNat * 2 ^ 8 + (if h.fwImageB then 2 ^ 5 else 0) + (if h.mainPg then 2 ^ 4 else 0) + stageCode h.stage := by
  simp only [bootWord, b2n_mul, Nat.reducePow]

theorem stageCode_eq {g : Stage} {n : Nat} (h : (g = .mainReady ∧ n = 2) ∨ (g = .fault ∧ n = 3)) : stageCode g = n := by
  rcases h with ⟨rfl, rfl⟩ | ⟨rfl, rfl⟩ <;> rfl

theorem fuseBit_iff_clusterPresent (n : Nat) :
    clusterPresent s n = true ↔ (~~~(tget 0 s.hub.fusedOff (n / 64))).toNat.testBit (n % 64) = true := by
  have hn : n % 64 < 64 := Nat.mod_lt _ (by omega)
  rw [BitVec.testBit_toNat, BitVec.getLsbD_not, clusterPresent, bit, BitVec.testBit_toNat]
  simp [hn]

/-! ## Reads through a port that talks (R387, R390) -/

theorem exec_bar0Read_dark (ht : portTalks s p = true) (hd : portsDark s = true) (off size : Nat) :
    exec (.bar0Read p off size) s = .next (bar0Give s p (cutWord (2 ^ 64 - 1) off size)) := by
  simp [exec, execBar0Read, ht, hd]

theorem exec_bar0Read_bar2 (ht : portTalks s p = true) (hd : portsDark s = false) {off : Nat} (ho : bar2Base ≤ off)
    (size : Nat) :
    exec (.bar0Read p off size) s = .next (bar0Give s p 0) := by
  simp [exec, execBar0Read, ht, hd, ho]

theorem exec_bar0Read_register (ht : portTalks s p = true) (hd : portsDark s = false) {off : Nat} (ho : off < bar2Base)
    (hm : inMsix off = false) (hf : fusedBlock s (blockOf off) = false) (size : Nat) :
    exec (.bar0Read p off size) s =
      .next (bar0Give s p (cutWord (blockWord s (blockOf (off / 8 * 8))) off size)) := by
  simp [exec, execBar0Read, ht, hd, ho, hm, hf]

/-- An aligned read of 8 bytes gives the register's word, on either side of the map's end. -/
theorem exec_bar0Read_word (ht : portTalks s p = true) (hd : portsDark s = false) {off : Nat} (hm : inMsix off = false)
    (ha : off % 8 = 0) (hf : fusedBlock s (blockOf off) = false) :
    exec (.bar0Read p off 8) s = .next (bar0Give s p (BitVec.ofNat 64 (blockWord s (blockOf off)))) := by
  rcases Nat.lt_or_ge off bar2Base with ho | ho
  · rw [exec_bar0Read_register ht hd ho hm hf, cutWord_whole, Nat.div_mul_cancel (Nat.dvd_of_mod_eq_zero ha)]
  · rw [exec_bar0Read_bar2 ht hd ho, blockOf_bar2 ho]; rfl

theorem exec_bar0Read_hub (ht : portTalks s p = true) (hd : portsDark s = false) {o : Nat} (ho : o < 0x1000) (ha : o % 8 = 0) :
    exec (.bar0Read p o 8) s = .next (bar0Give s p (BitVec.ofNat 64 (hubWord s o))) := by
  have hb := blockOf_hub ho
  rw [exec_bar0Read_word ht hd (inMsix_hub ho) ha (by rw [hb]; rfl), hb]; rfl

/-- The two halves of an aligned word (log entry 73). -/
theorem exec_bar0Read_halves (ht : portTalks s p = true) (hd : portsDark s = false) {off : Nat} (hm : inMsix off = false)
    (hm4 : inMsix (off + 4) = false) (ha : off % 8 = 0) (ho : off < bar2Base) (hf : fusedBlock s (blockOf off) = false) :
    exec (.bar0Read p off 4) s = .next (bar0Give s p (BitVec.ofNat 64 (blockWord s (blockOf off) % 2 ^ 32))) ∧
    exec (.bar0Read p (off + 4) 4) s = .next (bar0Give s p (BitVec.ofNat 64 (blockWord s (blockOf off) / 2 ^ 32 % 2 ^ 32))) := by
  have hlo : off / 8 * 8 = off := by omega
  have hhi : (off + 4) / 8 * 8 = off := by omega
  have ho4 : off + 4 < bar2Base := by unfold bar2Base at ho ⊢; omega
  constructor
  · rw [exec_bar0Read_register ht hd ho hm hf, hlo, cutWord_lower _ ha]
  · rw [exec_bar0Read_register ht hd ho4 hm4 (by rw [fusedBlock_upperHalf ha, hf]), hhi, cutWord_upper _ (by omega)]

end Sys2Proof.Laws

namespace Sys2Proof.Claims
open Sys2Proof Sys2Proof.Machine Sys2Proof.Laws

/-- Settles O12: each register's word is the word of its block's offset. -/
theorem bar0ReadsRegisters : Obligations.Bar0ReadsRegisters := by
  intro p s hl hd3
  have ht : portTalks s p = true := by simp [portTalks, hl, hd3]
  constructor
  · intro hd
    have hub {o : Nat} := exec_bar0Read_hub (o := o) ht hd
    refine ⟨?ident, ?fuseStacks, hub (by omega) rfl, fun d h4 => ?fuseClusters, fun n _ => fuseBit_iff_clusterPresent n,
      ?lock, fun stage hst => ?boot, fun off => exec_bar0Read_word ht hd, fun off w hm hm4 ha ho hf hw => ?halves,
      fun off n ho => exec_bar0Read_bar2 ht hd ho n⟩
    case ident => rw [hub (by omega) rfl, ofNat_ident]; rfl
    case fuseStacks => rw [hub (by omega) rfl, ofNat_fuseStacks]; rfl
    case fuseClusters => rw [hub (by omega) (by omega), ofNat_fuseClusters h4]; rfl
    case lock => rw [← lockWord_eq, hub (by omega) rfl]; rfl
    case boot => rw [← stageCode_eq hst, ← bootWord_eq, hub (by omega) rfl]; rfl
    case halves => subst hw; exact exec_bar0Read_halves ht hd hm hm4 ha ho hf
  · intro hd off
    exact ⟨exec_bar0Read_dark ht hd off 8, fun ha => by rw [exec_bar0Read_dark ht hd, cutWord_ones ha]; rfl⟩

end Sys2Proof.Claims
end

section
/-! The step itself, the block as it stands cold, and what every command leaves alone: the queue always, device time but for the
two commands of the auxiliary rail. -/

namespace Sys2Proof.Laws
open Sys2Proof Sys2Proof.Machine Sys2Proof.Claims

variable {s u : State}

/-! ## The idle step (R22, R338) -/

theorem step_idle (h : s.pending = []) : step s = .next (tickClock s) := by
  unfold step; rw [h]

/-- The correction `e` of one tick, in whole nanoseconds, is fixed by where the sum of the rate lies. -/
theorem tickClock_eq {e : Int}
    (h : (1000000 ≤ s.fst.rateSum + s.fst.rate ∧ e = 1) ∨ (s.fst.rateSum + s.fst.rate ≤ -1000000 ∧ e = -1) ∨
      (-1000000 < s.fst.rateSum + s.fst.rate ∧ s.fst.rateSum + s.fst.rate < 1000000 ∧ e = 0)) :
    tickClock s = { s with
      time := s.time + BitVec.ofInt 64 (1 + e),
      fst := { s.fst with rateSum := s.fst.rateSum + s.fst.rate - e * 1000000 } } := by
  unfold tickClock
  rcases h with ⟨hup, rfl⟩ | ⟨hdown, rfl⟩ | ⟨hlo, hhi, rfl⟩
  · simp only [if_pos hup]
  · simp only [if_neg (show ¬ 1000000 ≤ s.fst.rateSum + s.fst.rate by omega), if_pos hdown]
  · simp only [if_neg (Int.not_le.2 hhi), if_neg (Int.not_le.2 hlo)]

theorem tickClock_rate_zero (hr : s.fst.rate = 0) (hsum : s.fst.rateSum.natAbs < 1000000) :
    tickClock s = { s with time := s.time + 1 } := by
  have hf : { s.fst with rateSum := s.fst.rateSum + s.fst.rate - 0 * 1000000 } = s.fst := by
    rw [hr, Int.add_zero, Int.zero_mul, Int.sub_zero]
  rw [tickClock_eq (e := 0) (.inr (.inr ⟨by omega, by omega, rfl⟩)), hf]
  rfl

/-! ## The queue -/

theorem exec_auxPowerLoss_pending (h : exec .auxPowerLoss s = .next u) : u.pending = s.pending := by
  cases h
  split <;> rfl

theorem exec_auxPowerUp_pending {a : BitVec 2} (h : exec (.auxPowerUp a) s = .next u) : u.pending = s.pending := by
  cases h
  split <;> rfl

end Sys2Proof.Laws

namespace Sys2Proof.Claims
open Sys2Proof Sys2Proof.Machine Sys2Proof.Laws

/-- Settles O1: the idle step is a tick of the clock, whose correction has three cases. -/
theorem stepTakesTheFrontCommand : Obligations.StepTakesTheFrontCommand := by
  refine ⟨fun _ _ _ => rfl, fun s hp hr hsum => ?_, fun s e hp he => ?_⟩
  · rw [step_idle hp, tickClock_rate_zero hr hsum]
  · rw [step_idle hp, tickClock_eq he]

/-- Settles O3: the lemma of each command, and the rail's two commands apart, which keep the queue alone. -/
theorem commandsKeepQueueAndTime : Obligations.CommandsKeepQueueAndTime := by
  intro c s t hs ht
  by_cases hl : c = .auxPowerLoss
  · subst hl
    exact ⟨exec_auxPowerLoss_pending ht, fun h => absurd rfl h⟩
  by_cases ha : ∃ a, c = .auxPowerUp a
  · obtain ⟨a, rfl⟩ := ha
    exact ⟨exec_auxPowerUp_pending ht, fun _ h => absurd rfl (h a)⟩
  have hk : Kept s.pending s.time t := exec_keeps c hl (fun a h => ha ⟨a, h⟩) _ _ _ _ (kept_of_canonical hs) ht
  exact ⟨hk.pending, fun _ _ => hk.time⟩

/-- Settles O4: every table of the cold state is empty, so each entry of it reads as its default. -/
theorem resetState : Obligations.ResetState :=
  ⟨⟨rfl, rfl, rfl, rfl, rfl⟩, rfl, rfl, rfl, rfl, rfl, rfl, rfl, rfl, rfl, rfl, fun _ => rfl, fun _ => rfl, fun _ _ => rfl,
    fun _ => rfl⟩

end Sys2Proof.Claims
end

section
/-! Accesses through BAR4 (R399): the one answer of a read and of a write through a port that talks and holds no write, and the two
homes that a served access can have, memory and pegs. -/

namespace Sys2Proof.Laws
open Sys2Proof Sys2Proof.Machine

/-! ## A peg that is set (R237, R238) -/

section
variable (s : State)

@[simp] theorem raiseMsix_pegs (p : PortId) (v : Nat) : (raiseMsix s p v).pegs = s.pegs := by
  unfold raiseMsix
  dsimp only
  split
  · exact modPort_pegs ..
  · split <;> rfl

@[simp] theorem logEvent_pegs (cls : BitVec 8) (sev : BitVec 2) (st : Status) (kind index d0 d1 : Nat) :
    (logEvent s cls sev st kind index d0 d1).pegs = s.pegs := by
  unfold logEvent
  dsimp only
  split
  · split
    · exact raiseMsix_pegs ..
    · rfl
  · rfl

@[simp] theorem enterReady_pegs (k : Nat) : (enterReady s k).pegs = s.pegs := by
  unfold enterReady
  split
  · rfl
  · dsimp only
    split <;> simp

@[simp] theorem tryReady_pegs (k : Nat) : (tryReady s k).pegs = s.pegs := by
  unfold tryReady
  split
  · rfl
  · split
    · exact enterReady_pegs ..
    · rfl

theorem foldl_tryReady_pegs (l : List Nat) : (l.foldl tryReady s).pegs = s.pegs :=
  List.foldlRecOn (motive := fun u => u.pegs = s.pegs) l _ rfl fun u hu k _ => (tryReady_pegs u k).trans hu

@[simp] theorem meetAll_pegs (m : Nat) (v : BitVec 32) : (meetAll s m v).pegs = s.pegs := foldl_tryReady_pegs _ _

@[simp] theorem setPeg_pegs (m : Nat) (v : BitVec 32) : (setPeg s m v).pegs = tset 0 s.pegs m v := meetAll_pegs ..

end

/-! ## Whose peg it is (R236) -/

theorem mem_of_tget_ne {α : Type} {d : α} {i : Nat} : ∀ {t : Tab α}, tget d t i ≠ d → ∃ v, (i, v) ∈ t
  | [], h => absurd rfl h
  | (k, v) :: t, h => by
    by_cases hk : i = k
    · exact ⟨v, hk ▸ .head t⟩
    by_cases hlt : i < k
    · exact absurd (by simp [tget, hk, hlt]) h
    · obtain ⟨w, hw⟩ := mem_of_tget_ne (t := t) (by simpa [tget, hk, hlt] using h)
      exact ⟨w, .tail _ hw⟩

variable {s : State} {p : PortId}

/-- A partition at its reset value has no pegs. -/
theorem prt_ne_default_of_ownsPeg {q m : Nat} (h : ownsPeg s q m = true) : prt s q ≠ {} := by
  intro he
  simp only [ownsPeg, he, Bool.and_eq_true, decide_eq_true_eq] at h
  exact absurd h.2 (Nat.not_lt.2 h.1)

theorem pegOwned_iff {m : Nat} : pegOwned s m = true ↔ ∃ q, ownsPeg s q m = true := by
  rw [pegOwned, List.any_eq_true]
  constructor
  · rintro ⟨e, -, he⟩
    exact ⟨e.1, he⟩
  · rintro ⟨q, hq⟩
    obtain ⟨v, hv⟩ := mem_of_tget_ne (prt_ne_default_of_ownsPeg hq)
    exact ⟨(q, v), hv, hq⟩

theorem bar4Serves_peg {a m l : Nat} (ha : placeOf a = .peg m l) (w : Bool) (n : Nat) :
    bar4Serves s p w a n = true ↔ (port s p).bar4En = true ∧ l = 0 ∧ n = 4 ∧
      (bar4Checked s p = true → ownsPeg s (port s p).bar4Part.toNat m = true) ∧
      (bar4Checked s p = false → ∃ q, ownsPeg s q m = true) := by
  rw [← pegOwned_iff]
  unfold bar4Serves
  simp only [ha, Bool.and_eq_true, decide_eq_true_eq, and_assoc]
  cases bar4Checked s p <;> simp

/-! ## Memory and pegs as homes -/

theorem bar4Fetch_home {a n : Nat} {bs : List Byte} {u : State} (ha : ∀ m l, placeOf a ≠ .peg m l)
    (h : runAct (loadFrom 4 a n) s = (.ok bs, u)) : bar4Fetch s p a n = bar4Give u p bs false := by
  unfold bar4Fetch
  split
  · next hp => exact absurd hp (ha _ _)
  · rw [settle_ok h]

theorem bar4Fetch_peg {a m l n : Nat} (ha : placeOf a = .peg m l) (hb : bothWays s 4 (m / 16384) = true)
    (hd : dieDown s (m / 16384) = false) :
    bar4Fetch s p a n = bar4Give s p (leBytes 4 (pegValue s m).toNat) false := by
  simp [bar4Fetch, ha, hb, hd]

theorem makeWrite_home {a : Nat} {bs : List Byte} {u : State} (ha : ∀ m l, placeOf a ≠ .peg m l)
    (h : runAct (storeFrom 4 none a bs) s = (.ok (), u)) : makeWrite s a bs = some u := by
  unfold makeWrite
  split
  · next hp => exact absurd hp (ha _ _)
  · rw [h]

theorem makeWrite_peg {a m l : Nat} {bs : List Byte} (ha : placeOf a = .peg m l) (hp : pathUp s 4 (m / 16384) = true)
    (hd : dieDown s (m / 16384) = false) : makeWrite s a bs = some (setPeg s m (BitVec.ofNat 32 (leNat bs))) := by
  simp [makeWrite, ha, hp, hd]

/-! ## A port that holds no write (R87, R259) -/

theorem drainPort_nothing_held (hh : (port s p).held = []) : drainPort s p = s := by
  unfold drainPort; rw [hh]; rfl

theorem queueWrite_made {a : Nat} {bs : List Byte} {u : State} (hh : (port s p).held = []) (h : makeWrite s a bs = some u) :
    queueWrite s p a bs = u := by
  simp [queueWrite, hh, h]

section
variable {s₀ : State} {e : Env} (hs : s = applyEnv e s₀) (ht : portTalks s p = true) (hm : s.hub.stage = .mainReady)
  (hh : (port s p).held = []) (off : Nat)
include hs ht hm hh

theorem exec_bar4Read (n : Nat) : exec (.bar4Read p off n e) s₀ = .next
    (if bar4Serves s p false (bar4Addr s p off) n then bar4Fetch s p (bar4Addr s p off) n
      else bar4Give (absentAccess s p (bar4Addr s p off)) p (zeros n) false) := by
  have hd : portsDark s = false := by simp [portsDark, hm]
  simp [exec, execBar4Read, ← hs, ht, hd, drainPort_nothing_held hh, hh]

theorem exec_bar4Write (bs : List Byte) : exec (.bar4Write p off bs e) s₀ = .next
    (if bar4Serves s p true (bar4Addr s p off) bs.length then queueWrite s p (bar4Addr s p off) bs
      else absentAccess s p (bar4Addr s p off)) := by
  simp [exec, execBar4Write, ← hs, ht, hm, drainPort_nothing_held hh]

/-- A write that is served and meets nothing held is made at its home. -/
theorem exec_bar4Write_made {bs : List Byte} {u : State} (hv : bar4Serves s p true (bar4Addr s p off) bs.length = true)
    (hw : makeWrite s (bar4Addr s p off) bs = some u) : exec (.bar4Write p off bs e) s₀ = .next u := by
  rw [exec_bar4Write hs ht hm hh, if_pos hv, queueWrite_made hh hw]

end

end Sys2Proof.Laws

namespace Sys2Proof.Claims
open Sys2Proof Sys2Proof.Machine Sys2Proof.Laws

/-- Settles O16: an access is refused, or served at its home, which is memory or a peg. -/
theorem bar4ReachesMemory : Obligations.Bar4ReachesMemory := by
  intro p off e s₀ s hs hl hd3 hm hh
  have ht : portTalks s p = true := by simp [portTalks, hl, hd3]
  have read := exec_bar4Read hs ht hm hh off
  have write := exec_bar4Write hs ht hm hh off
  refine ⟨fun n bs u _ hv ha hr => ?readHome, fun bs u hv ha hw => exec_bar4Write_made hs ht hm hh off hv (makeWrite_home ha hw),
    fun bs hv => ?writeRefused, fun n t hv ht' => ?readRefused, fun m l ha => ⟨bar4Serves_peg ha, fun hv hd hb => ?readPeg,
      fun bs hv hd hp => ⟨exec_bar4Write_made hs ht hm hh off hv (makeWrite_peg ha hp hd), setPeg_pegs ..⟩⟩⟩
  case readHome => rw [read, if_pos hv, bar4Fetch_home ha hr]; rfl
  case writeRefused => rw [write, hv]; rfl
  case readRefused => rw [read, hv, ht']; rfl
  case readPeg => rw [read, if_pos hv, bar4Fetch_peg ha hb hd]; rfl

end Sys2Proof.Claims
end

section
/-! Numbers: integer codes as bit vectors, the finite values of float codes, and narrowing where nothing is lost to rounding. -/

namespace Sys2Proof.Laws
open Sys2Proof Sys2Proof.Machine

/-! ## Two's complement (R30) -/

theorem decodeInt_eq_toInt (w c : Nat) : Scalar.decodeInt w c = (BitVec.ofNat w c).toInt := by
  rw [BitVec.toInt_eq_msb_cond, BitVec.msb_eq_getLsbD_last, ← BitVec.testBit_toNat, BitVec.toNat_ofNat]
  simp [Scalar.decodeInt, bit]

theorem wrapInt_eq_toNat (w : Nat) (i : Int) : wrapInt w i = (BitVec.ofInt w i).toNat :=
  (BitVec.toNat_ofInt i).symm

theorem wrapInt_decodeInt {w c : Nat} (hc : c < 2 ^ w) : wrapInt w (Scalar.decodeInt w c) = c := by
  rw [decodeInt_eq_toInt, wrapInt_eq_toNat, BitVec.ofInt_toInt, BitVec.toNat_ofNat, Nat.mod_eq_of_lt hc]

theorem decodeInt_wrapInt {w : Nat} (hw : 0 < w) {i : Int} (hlo : -2 ^ (w - 1) ≤ i) (hhi : i ≤ 2 ^ (w - 1) - 1) :
    Scalar.decodeInt w (wrapInt w i) = i := by
  rw [decodeInt_eq_toInt, wrapInt_eq_toNat, BitVec.ofNat_toNat, BitVec.setWidth_eq,
    BitVec.toInt_ofInt_eq_self hw hlo (Int.lt_of_le_sub_one hhi)]

theorem le_decodeInt (w c : Nat) : -2 ^ (w - 1) ≤ Scalar.decodeInt w c :=
  decodeInt_eq_toInt w c ▸ BitVec.le_toInt _

theorem decodeInt_le (w c : Nat) : Scalar.decodeInt w c ≤ 2 ^ (w - 1) - 1 :=
  decodeInt_eq_toInt w c ▸ BitVec.toInt_le

theorem wrapInt_lt (w : Nat) (i : Int) : wrapInt w i < 2 ^ w :=
  wrapInt_eq_toNat w i ▸ BitVec.isLt _

theorem decodeInt_emod {w c : Nat} (hc : c < 2 ^ w) : Scalar.decodeInt w c % 2 ^ w = c := by
  have hpos : (0 : Int) < 2 ^ w := by positivity
  have h := wrapInt_decodeInt hc
  rw [wrapInt, Nat.cast_pow, Nat.cast_ofNat] at h
  rw [← Int.toNat_of_nonneg (Int.emod_nonneg (Scalar.decodeInt w c) hpos.ne'), h]

theorem wrapInt_natCast {w n : Nat} (h : n < 2 ^ w) : wrapInt w n = n := by
  rw [wrapInt, ← Int.natCast_emod, Int.toNat_natCast, Nat.mod_eq_of_lt h]

theorem wrapInt_neg {w n : Nat} (h : n ≤ 2 ^ w) : wrapInt w (-n) = (2 ^ w - n) % 2 ^ w := by
  rw [wrapInt, ← Int.add_emod_left, ← sub_eq_add_neg, ← Nat.cast_sub h, ← Int.natCast_emod, Int.toNat_natCast]

/-! ## Rounding a whole number, which is exact (R40) -/

@[simp] theorem rne_one (n : Nat) : rne n 1 = n := by
  simp [rne, Nat.mod_one]

@[simp] theorem fraction_zero (n d : Nat) : fraction n d 0 = (n, d) := rfl

theorem log2Ratio_one {n : Nat} (hn : n ≠ 0) : log2Ratio n 1 = Nat.log2 n := by
  have h1 : Nat.log2 1 = 0 := rfl
  simp [log2Ratio, h1, Nat.shiftLeft_eq, Nat.log2_self_le hn]

/-- A whole number at the exponent of its own code, `k` binades above the lowest one, is not rounded. -/
theorem roundMag_exact {t : Scalar} {m k : Nat} {e : Int} (hm : m ≠ 0) (hk : max (Nat.log2 m + e) (1 - t.bias) = 1 - t.bias + k)
    (he : e = 1 - t.bias + k - t.manBits) : roundMag t m 1 e = k * 2 ^ t.manBits + m := by
  have hlo : (if Nat.log2 m + e < 1 - t.bias then 1 - (t.bias : Int) else Nat.log2 m + e) = 1 - t.bias + k := by omega
  have hz : e - (1 - t.bias + k - t.manBits) = 0 := by omega
  have hd : (1 - (t.bias : Int) + k - (1 - t.bias)).toNat = k := by omega
  simp only [roundMag, log2Ratio_one hm, hlo, hz, hd, fraction_zero, rne_one]

/-! ## Narrowing to an integer format (R41) -/

theorem width_pos (t : Scalar) : 0 < t.width := by
  cases t <;> decide

section
variable {t : Scalar} (ht : t.isInt = true)
include ht

/-- Table 2-7's limits are those of two's complement. -/
theorem maxCode_int : t.maxCode + 1 = 2 ^ (t.width - 1) := by
  revert ht
  cases t <;> decide

theorem maxCode_lt : t.maxCode + 1 < 2 ^ t.width := by
  rw [maxCode_int ht]
  exact Nat.pow_lt_pow_right (by decide) (Nat.sub_one_lt (width_pos t).ne')

theorem narrow_ofInt_neg {i : Int} (hi : i < 0) :
    narrow t (Machine.Num.ofInt i) = wrapInt t.width (-(min i.natAbs (t.maxCode + 1) : Nat)) := by
  have hr : min i.natAbs (t.maxCode + 1) ≤ 2 ^ t.width := (Nat.min_le_right ..).trans (maxCode_lt ht).le
  rw [wrapInt_neg hr]
  simp [narrow, Num.ofInt, narrowRat, ht, hi]

theorem narrow_ofInt_nonneg {i : Int} (hi : 0 ≤ i) :
    narrow t (Machine.Num.ofInt i) = wrapInt t.width (min i.natAbs t.maxCode : Nat) := by
  have hr : min i.natAbs t.maxCode < 2 ^ t.width := (Nat.min_le_right ..).trans_lt (Nat.lt_of_succ_lt (maxCode_lt ht))
  rw [wrapInt_natCast hr]
  simp [narrow, Num.ofInt, narrowRat, ht, Int.not_lt.2 hi]

/-- Narrowing an integer saturates at the ends of the format's range. -/
theorem narrow_ofInt (i : Int) :
    narrow t (Machine.Num.ofInt i) = wrapInt t.width (max (-2 ^ (t.width - 1)) (min i (2 ^ (t.width - 1) - 1))) := by
  have hm : (2 : Int) ^ (t.width - 1) = t.maxCode + 1 := by exact_mod_cast (maxCode_int ht).symm
  rw [hm]
  rcases Int.lt_or_le i 0 with hi | hi
  · rw [narrow_ofInt_neg ht hi]; congr 1; omega
  · rw [narrow_ofInt_nonneg ht hi]; congr 1; omega

theorem decode_int (c : Nat) : t.decode c = Machine.Num.ofInt (Scalar.decodeInt t.width c) := if_pos ht

theorem narrow_decodeInt {c : Nat} (hc : c < 2 ^ t.width) :
    narrow t (Machine.Num.ofInt (Scalar.decodeInt t.width c)) = c := by
  rw [narrow_ofInt ht, min_eq_left (decodeInt_le ..), max_eq_right (le_decodeInt ..), wrapInt_decodeInt hc]

/-- What a saturating narrowing reads back as. -/
theorem decodeInt_narrow (i : Int) : Scalar.decodeInt t.width (narrow t (Machine.Num.ofInt i)) =
    if i < -2 ^ (t.width - 1) then -2 ^ (t.width - 1) else if 2 ^ (t.width - 1) - 1 < i then 2 ^ (t.width - 1) - 1 else i := by
  have hpos : (0 : Int) < 2 ^ (t.width - 1) := by positivity
  rw [narrow_ofInt ht, decodeInt_wrapInt (width_pos t) (le_max_left ..) (by omega)]
  split_ifs <;> omega

end

/-! ## The finite values of a float format (R29, Table 2-2) -/

/-- The finite value of a float code with sign `s` and magnitude bits `mag`: a subnormal where the exponent bits are zero. -/
def floatValue (t : Scalar) (s : Bool) (mag : Nat) : Machine.Num :=
  if mag / 2 ^ t.manBits = 0 then .fin s (mag % 2 ^ t.manBits) (1 - (t.bias : Int) - t.manBits)
  else .fin s (mag % 2 ^ t.manBits + 2 ^ t.manBits) ((mag / 2 ^ t.manBits : Nat) - (t.bias : Int) - t.manBits)

/-- The sign bit of a code, in place. -/
def signCode (t : Scalar) (s : Bool) : Nat := if s then 2 ^ (t.width - 1) else 0

theorem signCode_add_magnitude {t : Scalar} {c : Nat} (hc : c < 2 ^ t.width) :
    signCode t (bit c (t.width - 1)) + c % 2 ^ (t.width - 1) = c := by
  have hw : 2 ^ t.width = 2 ^ (t.width - 1) * 2 := by rw [← pow_succ, Nat.sub_add_cancel (width_pos t)]
  have hq : c / 2 ^ (t.width - 1) < 2 := Nat.div_lt_of_lt_mul (hw ▸ hc)
  have hs : signCode t (bit c (t.width - 1)) = 2 ^ (t.width - 1) * (c / 2 ^ (t.width - 1)) := by
    rw [signCode, bit, Nat.testBit_eq_decide_div_mod_eq, Nat.mod_eq_of_lt hq]
    interval_cases c / 2 ^ (t.width - 1) <;> simp
  rw [hs, Nat.div_add_mod]

/-- Whether the codes whose exponent bits are all ones are infinities and NaNs. -/
def reservesTopExponent (t : Scalar) : Bool := decide (t ∈ [.fp32, .bf16, .fp16, .e5m2])

theorem decodeFloat_eq {t : Scalar} {c : Nat} (hc : c < 2 ^ t.width) : t.decodeFloat c =
    if reservesTopExponent t && decide (c % 2 ^ (t.width - 1) / 2 ^ t.manBits = 2 ^ (t.width - 1 - t.manBits) - 1) then
      if c % 2 ^ (t.width - 1) % 2 ^ t.manBits = 0 then .inf (bit c (t.width - 1)) else .nan
    else if decide (t = .e4m3) && decide (c % 2 ^ (t.width - 1) = 0x7F) then .nan
    else floatValue t (bit c (t.width - 1)) (c % 2 ^ (t.width - 1)) := by
  dsimp only [Scalar.decodeFloat]
  rw [Nat.mod_eq_of_lt hc]
  cases t <;> rfl

section
variable {t : Scalar} (ht : t.isInt = false)
include ht

theorem decode_float (c : Nat) : t.decode c = t.decodeFloat c := if_neg (by simp [ht])

/-- What the reserved codes leave ends at Table 2-2's largest finite one. -/
theorem magnitude_le_maxCode {mag : Nat} (hmag : mag < 2 ^ (t.width - 1))
    (htop : reservesTopExponent t = true → mag / 2 ^ t.manBits ≠ 2 ^ (t.width - 1 - t.manBits) - 1)
    (hnan : t = .e4m3 → mag ≠ 0x7F) : mag ≤ t.maxCode := by
  cases t
  all_goals simp [reservesTopExponent, Scalar.width, Scalar.manBits, Scalar.maxCode, Scalar.isInt] at *
  all_goals omega

theorem decodeFloat_finite {c : Nat} (hc : c < 2 ^ t.width) (hn : (t.decodeFloat c).isNan = false)
    (hi : (t.decodeFloat c).isInf = false) :
    c % 2 ^ (t.width - 1) ≤ t.maxCode ∧ t.decodeFloat c = floatValue t (bit c (t.width - 1)) (c % 2 ^ (t.width - 1)) := by
  have hmag : c % 2 ^ (t.width - 1) < 2 ^ (t.width - 1) := Nat.mod_lt _ (by positivity)
  rw [decodeFloat_eq hc] at hn hi ⊢
  split_ifs at hn hi ⊢ with htop h0 hnan
  · cases hi
  · cases hn
  · cases hn
  · exact ⟨magnitude_le_maxCode ht hmag (by simpa using htop) (by simpa using hnan), rfl⟩

theorem narrow_exact {s : Bool} {m mag : Nat} {e : Int} (h0 : m = 0 → mag = 0) (hm : m ≠ 0 → roundMag t m 1 e = mag)
    (hmax : mag ≤ t.maxCode) : narrow t (.fin s m e) = signCode t s + mag := by
  rcases eq_or_ne m 0 with rfl | h
  · simp [narrow, narrowRat, ht, signCode, h0]
  · simp [narrow, narrowRat, ht, signCode, h, hm, hmax]

theorem narrow_floatValue {s : Bool} {mag : Nat} (hmax : mag ≤ t.maxCode) :
    narrow t (floatValue t s mag) = signCode t s + mag := by
  have hsplit := Nat.div_add_mod' mag (2 ^ t.manBits)
  have hm : mag % 2 ^ t.manBits < 2 ^ t.manBits := Nat.mod_lt _ (by positivity)
  unfold floatValue
  split
  case isTrue hsub =>
    have hmag : mag % 2 ^ t.manBits = mag := by rw [hsub] at hsplit; omega
    rw [hmag] at hm ⊢
    refine narrow_exact ht id (fun h => ?_) hmax
    have hlog : Nat.log2 mag < t.manBits := (Nat.log2_lt h).2 hm
    rw [roundMag_exact h (k := 0) (by omega) (by omega)]
    omega
  case isFalse hnorm =>
    obtain ⟨k, hk⟩ := Nat.exists_eq_succ_of_ne_zero hnorm
    refine narrow_exact ht (by omega) (fun h => ?_) hmax
    have hlog : Nat.log2 (mag % 2 ^ t.manBits + 2 ^ t.manBits) = t.manBits := by
      rw [Nat.log2_eq_iff h]; omega
    calc
      _ = k * 2 ^ t.manBits + (mag % 2 ^ t.manBits + 2 ^ t.manBits) := roundMag_exact h (by omega) (by omega)
      _ = mag / 2 ^ t.manBits * 2 ^ t.manBits + mag % 2 ^ t.manBits := by rw [hk, Nat.succ_eq_add_one]; ring
      _ = mag := hsplit

end

theorem narrow_decode (t : Scalar) {c : Nat} (hc : c < 2 ^ t.width) (hn : (t.decode c).isNan = false)
    (hi : (t.decode c).isInf = false) : narrow t (t.decode c) = c := by
  cases ht : t.isInt
  case true => rw [decode_int ht, narrow_decodeInt ht hc]
  case false =>
    rw [decode_float ht] at hn hi ⊢
    obtain ⟨hmax, hval⟩ := decodeFloat_finite ht hc hn hi
    rw [hval, narrow_floatValue ht hmax, signCode_add_magnitude hc]

theorem isInt_of_mem_ranges {t : Scalar} {w : Nat}
    (h : (t, w) ∈ [(Scalar.int32, 32), (.int16, 16), (.int8, 8), (.int6, 6), (.int4, 4), (.int3, 3)]) :
    t.isInt = true ∧ t.width = w := by
  fin_cases h <;> exact ⟨rfl, rfl⟩

/-! ## The S slot's arithmetic (R160) -/

theorem toInt_mulHigh (x y : Word) : (BitVec.ofInt 64 (x.toInt * y.toInt / 2 ^ 64)).toInt = x.toInt * y.toInt / 2 ^ 64 := by
  have hlo : -2 ^ 126 ≤ x.toInt * y.toInt := BitVec.le_toInt_mul_toInt
  have hhi : x.toInt * y.toInt ≤ 2 ^ 126 := BitVec.toInt_mul_toInt_le
  exact BitVec.toInt_ofInt_eq_self (by decide) (by omega) (by omega)

theorem toNat_ofNat_of_le {n : Nat} (x : Word) (h : n ≤ x.toNat) : (BitVec.ofNat 64 n).toNat = n :=
  Nat.mod_eq_of_lt (h.trans_lt x.isLt)

theorem toNat_mulHigh (x y : Word) : (BitVec.ofNat 64 (x.toNat * y.toNat / 2 ^ 64)).toNat = x.toNat * y.toNat / 2 ^ 64 :=
  toNat_ofNat_of_le x (Nat.div_le_of_le_mul (by rw [mul_comm]; exact Nat.mul_le_mul_right _ y.isLt.le))

end Sys2Proof.Laws

namespace Sys2Proof.Claims
open Sys2Proof Sys2Proof.Machine Sys2Proof.Laws

/-- Settles O23: a finite value of a format is whole at the exponent of its own code, so that nothing is rounded. -/
theorem finiteCodesNarrowBack : Obligations.FiniteCodesNarrowBack :=
  fun t _ => narrow_decode t

/-- Settles O24: the words by the library's bit vectors, the formats as bit vectors of their width, narrowing by its two ends. -/
theorem integerOperations : Obligations.IntegerOperations := by
  refine ⟨fun x y => ⟨?add, ?sub, ?shl, ?shr, ?sar, ?minS, ?maxS, ?minU, ?maxU, ?mul, toInt_mulHigh x y, toNat_mulHigh x y,
    ?byZero, ?byNonzero⟩, ?ranges, ?int8, ?int16, rfl, rfl, rfl, rfl⟩
  case add => exact BitVec.toNat_add x y
  case sub => exact (BitVec.toNat_sub x y).trans (congrArg (· % 2 ^ 64) (by have := y.isLt; omega))
  case shl => exact (BitVec.toNat_shiftLeft ..).trans (by rw [Nat.shiftLeft_eq])
  case shr => exact (BitVec.toNat_ushiftRight ..).trans (Nat.shiftRight_eq_div_pow ..)
  case sar => exact BitVec.toInt_sshiftRight.trans (Int.shiftRight_eq_div_pow ..)
  case minS => exact apply_ite ..
  case maxS => exact apply_ite ..
  case minU => exact apply_ite ..
  case maxU => exact apply_ite ..
  case mul => exact BitVec.toNat_mul x y
  case byZero => exact fun h => ⟨if_pos h, if_pos h⟩
  case byNonzero =>
    exact fun h => ⟨(congrArg _ (if_neg h)).trans (toNat_ofNat_of_le x (Nat.div_le_self ..)),
      (congrArg _ (if_neg h)).trans (toNat_ofNat_of_le x (Nat.mod_le ..))⟩
  case ranges =>
    intro t w htw
    obtain ⟨ht, rfl⟩ := isInt_of_mem_ranges htw
    refine ⟨fun c hc => ⟨decode_int ht c, le_decodeInt .., decodeInt_le .., decodeInt_emod hc⟩, fun i hlo hhi =>
      ⟨wrapInt t.width i, wrapInt_lt .., decodeInt_wrapInt (width_pos t) hlo hhi⟩⟩
  case int8 => exact decodeInt_narrow (t := .int8) rfl
  case int16 => exact decodeInt_narrow (t := .int16) rfl

end Sys2Proof.Claims
end

section
/-! Rules about the state that the commands of the stacks share: a stack after its own update, a record in the event log, a set-up
write by the vise holder, and a base die that works. -/

namespace Sys2Proof.Laws
open Sys2Proof Sys2Proof.Machine Sys2Proof.Claims

variable {s : State} {i : Nat}

theorem stk_modStk (h : twf {} s.stackTab = true) (f : Stack → Stack) : stk (modStk s i f) i = f (stk s i) := tget_tset_same h ..

theorem twf_modStk (h : twf {} s.stackTab = true) (f : Stack → Stack) : twf {} (modStk s i f).stackTab = true := twf_tset h ..

section
variable {α : Type} {f : State → α} (hport : ∀ (u : State) (p : PortId) (g : Port → Port), f (modPort u p g) = f u)
  (hemit : ∀ (u : State) (o : Output), f (emit u o) = f u)
include hport hemit

/-- A message sets a port's pending bit, leaves the block, or is lost. -/
theorem raiseMsix_keeps (s : State) (p : PortId) (v : Nat) : f (raiseMsix s p v) = f s := by
  unfold raiseMsix
  dsimp only
  split
  · exact hport ..
  · split
    · exact hemit ..
    · rfl

/-- A record is stored, and reported with a message, or counted as lost: what none of the three touches is kept. -/
theorem logEvent_keeps (hevt : ∀ (u : State) (e : Evt), f { u with evt := e } = f u) (s : State)
    (cls : BitVec 8) (sev : BitVec 2) (st : Status) (kind index d0 d1 : Nat) :
    f (logEvent s cls sev st kind index d0 d1) = f s := by
  unfold logEvent
  dsimp only
  split
  · split
    · exact (raiseMsix_keeps hport hemit ..).trans (hevt ..)
    · exact hevt ..
  · exact hevt ..

end

section
variable (s : State) (cls : BitVec 8) (sev : BitVec 2) (st : Status) (kind index d0 d1 : Nat)

@[simp] theorem logEvent_stackTab : (logEvent s cls sev st kind index d0 d1).stackTab = s.stackTab :=
  logEvent_keeps modPort_stackTab emit_stackTab (fun _ _ => rfl) ..

@[simp] theorem logEvent_dram : (logEvent s cls sev st kind index d0 d1).dram = s.dram :=
  logEvent_keeps modPort_dram emit_dram (fun _ _ => rfl) ..

@[simp] theorem logEvent_time : (logEvent s cls sev st kind index d0 d1).time = s.time :=
  logEvent_keeps modPort_time emit_time (fun _ _ => rfl) ..

end

/-- A set-up write of the vise holder is made (R393). -/
theorem viseWrite_of_maySet {p : PortId} (h : MaySet s p) (off : Nat) (v : Word) (k : State → State) :
    viseWrite s p off v k = k s := by
  obtain ⟨⟨hlink, hd3, hstage⟩, hvise⟩ := h
  have ht : portTalks s p = true := by simp [portTalks, hlink, hd3]
  have ho : bar0Open s = true := by simpa [bar0Open] using hstage
  simp [viseWrite, openWrite, ht, ho, holdsVise, hvise]

theorem dieServes_of (hp : s.hub.mainPg = true) (hr : inReset s Dom.stack i = false) : dieServes s i = true := by
  simp [dieServes, hp, hr]

end Sys2Proof.Laws
end

section
/-! The mapping mode of a stack (R59, R60): what a change of mode leaves of a memory that is not in its canonical form. -/

namespace Sys2Proof.Laws
open Sys2Proof Sys2Proof.Machine

/-- A memory whose keys do not rise: the first byte of stack 1 stands before byte 0 of stack 0, so that byte 0 reads as zero. -/
def unsortedMemory : State := {
  hub := { stage := .mainReady, vise := portCode .a }
  portA := { linkUp := true }
  dram := [(stackBase 1, 1), (0, 7)] }

theorem unsortedMemory_reads_zero : mget unsortedMemory.dram 0 = 0 := by decide

/-- The fill of stack 1 takes the entry away that has hidden byte 0. -/
theorem unsortedMemory_filled {t : State} (h : exec (.stackModeWrite .a 1 true) unsortedMemory = .next t) : mget t.dram 0 = 7 := by
  cases h
  decide

end Sys2Proof.Laws

namespace Sys2Proof.Claims
open Sys2Proof Sys2Proof.Machine Sys2Proof.Laws

/-- Refutes O32: the clause on a new mode asks for no canonical memory, and in a memory whose keys do not rise the fill of stack 1 lets
byte 0 of stack 0 read as 7 where it has read as 0. -/
theorem not_stackSetUp : ¬ Obligations.StackSetUp := by
  rintro ⟨hmode, -⟩
  have hset : MaySet unsortedMemory .a := by decide
  have hnew : (stk unsortedMemory 1).sharded ≠ true := by decide
  obtain ⟨t, ht, -, -, -, houtside, -⟩ := (hmode .a 1 true unsortedMemory hset rfl rfl).2 hnew
  have hsame : mget t.dram 0 = mget unsortedMemory.dram 0 := houtside 0 (.inl (by decide))
  rw [unsortedMemory_filled ht, unsortedMemory_reads_zero] at hsame
  exact absurd hsame (by decide)

end Sys2Proof.Claims
end

section
/-! Where the bytes of a stack lie (R61 to R63): the window and the channels of an offset in both modes, and the offset of a channel's
byte. -/

namespace Sys2Proof.Laws
open Sys2Proof Sys2Proof.Machine

variable {s : State} {i o h co : Nat}

/-! ## Channels -/

theorem channelBytes_cases (s : State) : channelBytes s = 805306368 ∨ channelBytes s = 1073741824 := by
  unfold channelBytes
  split
  · exact .inl rfl
  · exact .inr rfl

theorem channelBytes_pos (s : State) : 0 < channelBytes s := by
  rcases channelBytes_cases s with h | h <;> omega

/-- A channel holds whole pieces of 256 bytes, between which STRIPED mode changes the channel. -/
theorem channelBytes_pieces (s : State) : channelBytes s = channelBytes s / 256 * 256 := by
  rcases channelBytes_cases s with h | h <;> omega

theorem mem_activeChannels {st : Stack} : h ∈ activeChannels st ↔ h < 64 ∧ bit st.chAbsent.toNat h = false := by
  simp [activeChannels]

theorem activeChannels_nodup (st : Stack) : (activeChannels st).Nodup := List.nodup_range.filter _

theorem activeChannels_length_le (st : Stack) : (activeChannels st).length ≤ 64 :=
  (List.length_filter_le ..).trans (List.length_range ..).le

/-! ## The window -/

theorem stackPresent_of_absentOff (ha : absentOff s i o = false) : stackPresent s i = true := by
  simp only [absentOff, Bool.or_eq_false_iff, Bool.not_eq_false'] at ha
  exact ha.1

theorem absentOff_striped (hp : stackPresent s i = true) (hs : (stk s i).sharded = false) :
    absentOff s i o = false ↔ o < (activeChannels (stk s i)).length * channelBytes s := by
  simp [absentOff, hp, hs]

theorem absentOff_sharded (hp : stackPresent s i = true) (hs : (stk s i).sharded = true) :
    absentOff s i o = false ↔ o / channelBytes s ∈ activeChannels (stk s i) := by
  simp [absentOff, hp, hs, mem_activeChannels, Nat.div_lt_iff_lt_mul (channelBytes_pos s)]

/-! ## From an offset to its channel -/

theorem channelOf_sharded (hs : (stk s i).sharded = true) : channelOf s i o = (o / channelBytes s, o % channelBytes s) := by
  simp [channelOf, hs]

theorem channelOf_striped (hs : (stk s i).sharded = false) :
    channelOf s i o = ((activeChannels (stk s i)).getD (o / 256 % (activeChannels (stk s i)).length) 0,
      o / 256 / (activeChannels (stk s i)).length * 256 + o % 256) := by
  simp [channelOf, hs]

/-- Byte `b` of the piece of 256 bytes in row `r` of the channel with index `k` among `n` (R61). -/
theorem piece_parts {n k r b : Nat} (hk : k < n) (hb : b < 256) :
    ((r * n + k) * 256 + b) / 256 % n = k ∧ ((r * n + k) * 256 + b) / 256 / n = r ∧ ((r * n + k) * 256 + b) % 256 = b := by
  have hpiece : ((r * n + k) * 256 + b) / 256 = r * n + k := by omega
  refine ⟨?_, ?_, by omega⟩
  · rw [hpiece, Nat.mul_add_mod_of_lt hk]
  · rw [hpiece, Nat.add_comm, Nat.add_mul_div_right _ _ (by omega), Nat.div_eq_of_lt hk, Nat.zero_add]

/-- Among `n` numbers in a row each remainder occurs. -/
theorem exists_mod_eq {n j : Nat} (m : Nat) (hj : j < n) : ∃ k, m ≤ k ∧ k < m + n ∧ k % n = j := by
  have hm : m / n * n + m % n = m := Nat.div_add_mod' m n
  have hlt : m % n < n := Nat.mod_lt _ (by omega)
  rcases Nat.lt_or_ge j (m % n) with hjm | hjm
  · refine ⟨(m / n + 1) * n + j, ?_, ?_, Nat.mul_add_mod_of_lt hj⟩ <;> rw [Nat.add_one_mul] <;> omega
  · exact ⟨m / n * n + j, by omega, by omega, Nat.mul_add_mod_of_lt hj⟩

theorem getD_idxOf_activeChannels {st : Stack} (hh : h ∈ activeChannels st) :
    (activeChannels st).getD ((activeChannels st).idxOf h) 0 = h := by
  have hlt := List.idxOf_lt_length_iff.2 hh
  rw [List.getD_eq_getElem _ _ hlt, List.getElem_idxOf hlt]

/-- Each granule of a STRIPED window has a byte in each channel: it holds 8,192 pieces, and there are at most 64 channels. -/
theorem exists_channelOf_in_granule (hs : (stk s i).sharded = false) (g : Nat) (hh : h ∈ activeChannels (stk s i)) :
    ∃ x, granOf x = g ∧ (channelOf s i x).1 = h := by
  have hle := activeChannels_length_le (stk s i)
  obtain ⟨k, hlo, hhi, hk⟩ := exists_mod_eq (g * 8192) (List.idxOf_lt_length_iff.2 hh)
  refine ⟨k * 256, by unfold granOf; omega, ?_⟩
  rw [channelOf_striped hs, Nat.mul_div_cancel _ (by omega), hk]
  exact getD_idxOf_activeChannels hh

/-! ## Offset and channel offset (R61, R62) -/

theorem channelOf_present (ha : absentOff s i o = false) :
    (channelOf s i o).1 ∈ activeChannels (stk s i) ∧ (channelOf s i o).2 < channelBytes s ∧
      offsetOf s i (channelOf s i o).1 (channelOf s i o).2 = o := by
  have hp := stackPresent_of_absentOff ha
  cases hs : (stk s i).sharded with
  | true =>
    simp only [channelOf_sharded hs, offsetOf, hs, if_true]
    exact ⟨(absentOff_sharded hp hs).1 ha, Nat.mod_lt _ (channelBytes_pos s), Nat.div_add_mod' ..⟩
  | false =>
    have ho := (absentOff_striped hp hs).1 ha
    have hc := channelBytes_pieces s
    have hn : 0 < (activeChannels (stk s i)).length := by
      rcases Nat.eq_zero_or_pos (activeChannels (stk s i)).length with h0 | h0
      · rw [h0, Nat.zero_mul] at ho; omega
      · exact h0
    have hk := Nat.mod_lt (o / 256) hn
    have hrow : o / 256 / (activeChannels (stk s i)).length < channelBytes s / 256 := by
      refine Nat.div_lt_of_lt_mul ((Nat.div_lt_iff_lt_mul (by omega)).2 ?_)
      rwa [Nat.mul_assoc, ← hc]
    rw [channelOf_striped hs, List.getD_eq_getElem _ _ hk]
    refine ⟨List.getElem_mem hk, by omega, ?_⟩
    have hrow' : (o / 256 / (activeChannels (stk s i)).length * 256 + o % 256) / 256 =
        o / 256 / (activeChannels (stk s i)).length := by omega
    simp only [offsetOf, hs, Bool.false_eq_true, if_false, (activeChannels_nodup _).idxOf_getElem, hrow', Nat.div_add_mod']
    omega

theorem channelOf_offsetOf (hp : stackPresent s i = true) (hh : h ∈ activeChannels (stk s i)) (hco : co < channelBytes s) :
    absentOff s i (offsetOf s i h co) = false ∧ channelOf s i (offsetOf s i h co) = (h, co) := by
  cases hs : (stk s i).sharded with
  | true =>
    have hq : (h * channelBytes s + co) / channelBytes s = h := by
      rw [Nat.add_comm, Nat.add_mul_div_right _ _ (channelBytes_pos s), Nat.div_eq_of_lt hco, Nat.zero_add]
    rw [absentOff_sharded hp hs, channelOf_sharded hs]
    simp only [offsetOf, hs, if_true, hq, Nat.mul_add_mod_of_lt hco, hh, and_self]
  | false =>
    have hk := List.idxOf_lt_length_iff.2 hh
    obtain ⟨hidx, hrow, hbyte⟩ := piece_parts (r := co / 256) hk (Nat.mod_lt co (by omega))
    rw [absentOff_striped hp hs, channelOf_striped hs]
    simp only [offsetOf, hs, Bool.false_eq_true, if_false, hidx, hrow, hbyte, getD_idxOf_activeChannels hh, Nat.div_add_mod', and_true]
    have hc := channelBytes_pieces s
    have hr : co / 256 + 1 ≤ channelBytes s / 256 := by omega
    calc (co / 256 * (activeChannels (stk s i)).length + (activeChannels (stk s i)).idxOf h) * 256 + co % 256
        < (co / 256 + 1) * (activeChannels (stk s i)).length * 256 := by rw [Nat.add_one_mul]; omega
      _ ≤ channelBytes s / 256 * (activeChannels (stk s i)).length * 256 := Nat.mul_le_mul_right _ (Nat.mul_le_mul_right _ hr)
      _ = (activeChannels (stk s i)).length * channelBytes s := by
        rw [Nat.mul_comm (channelBytes s / 256), Nat.mul_assoc, ← hc]

/-- In SHARDED mode channel `h` holds the offsets from `h` times its size up. -/
theorem channelOf_sharded_range (hp : stackPresent s i = true) (hs : (stk s i).sharded = true) (hh : h ∈ activeChannels (stk s i))
    (hlo : h * channelBytes s ≤ o) (hhi : o < (h + 1) * channelBytes s) :
    absentOff s i o = false ∧ channelOf s i o = (h, o - h * channelBytes s) := by
  have hco : o - h * channelBytes s < channelBytes s := by rw [Nat.add_one_mul] at hhi; omega
  have ho : offsetOf s i h (o - h * channelBytes s) = o := by simp only [offsetOf, hs, if_true]; omega
  have hboth := channelOf_offsetOf hp hh hco
  rwa [ho] at hboth

/-! ## Row, bank, sector and byte (R63) -/

theorem bankOf_eq (hco : co < 2 ^ 30) :
    bankOf co = (co / 2 ^ 17, (co / 2 ^ 11 % 64) ^^^ (co / 2 ^ 17 % 64), co / 64 % 32, co % 64) := by
  have hrow : co / 131072 < 8192 := by omega
  simp [bankOf, fld, Nat.shiftRight_eq_div_pow, hrow]

end Sys2Proof.Laws

namespace Sys2Proof.Claims
open Sys2Proof Sys2Proof.Machine Sys2Proof.Laws

/-- Settles O33: the windows by the equation of each mode, the decode by shifts as quotients. -/
theorem stackWindows : Obligations.StackWindows := by
  refine ⟨fun s i o hp => ⟨fun hs => ⟨absentOff_striped hp hs, fun g _ h hh => exists_channelOf_in_granule hs g hh⟩,
    fun hs h h64 hbit => channelOf_sharded_range hp hs (mem_activeChannels.2 ⟨h64, hbit⟩)⟩, fun co hco => ?_⟩
  exact ⟨co / 2 ^ 17, co / 2 ^ 11 % 64, bankOf_eq hco, rfl, rfl, fun _ => by omega⟩

/-- Settles O34: each way is undone by the other, in STRIPED mode by the parts of a piece's number. -/
theorem channelsCoverTheWindow : Obligations.ChannelsCoverTheWindow :=
  ⟨fun _ _ _ => channelOf_present, fun _ _ _ _ => channelOf_offsetOf⟩

end Sys2Proof.Claims
end

section
/-! Poison (R76, R77): what becomes of the list and of a granule, and which sequences are marked (R284), with the fields that a mark
may touch. -/

namespace Sys2Proof.Laws
open Sys2Proof Sys2Proof.Machine

variable {s u v : State} {i sec : Nat} {w : Bool}

/-! ## What a mark may touch -/

/-- `u` differs from `s` in the partitions and in the memories alone. -/
def DiffersInMarks (s u : State) : Prop :=
  ∃ parts dram spad memA memB, u = { s with
    parts := parts, dram := dram, spad := spad, portA := { s.portA with mem := memA }, portB := { s.portB with mem := memB } }

theorem DiffersInMarks.refl (s : State) : DiffersInMarks s s := ⟨_, _, _, _, _, rfl⟩

theorem DiffersInMarks.trans (hu : DiffersInMarks s u) (hv : DiffersInMarks u v) : DiffersInMarks s v := by
  obtain ⟨_, _, _, _, _, rfl⟩ := hu
  obtain ⟨_, _, _, _, _, rfl⟩ := hv
  exact ⟨_, _, _, _, _, rfl⟩

theorem DiffersInMarks.eq (h : DiffersInMarks s u) : u = { s with
    parts := u.parts, dram := u.dram, spad := u.spad,
    portA := { s.portA with mem := u.portA.mem }, portB := { s.portB with mem := u.portB.mem } } := by
  obtain ⟨_, _, _, _, _, rfl⟩ := h
  rfl

/-- A report is made in the memory of its home, in a port's memory, or nowhere. -/
theorem pokeHome_differs {a : Nat} {fs : List (Nat × List Byte)} (h : pokeHome s a fs = some u) :
    DiffersInMarks s u ∧ u.parts = s.parts := by
  unfold pokeHome at h
  dsimp only at h
  split at h
  case h_1 =>
    split at h
    · cases h; exact ⟨.refl s, rfl⟩
    · split at h
      · cases h
      · cases h; exact ⟨⟨_, _, _, _, _, rfl⟩, rfl⟩
  case h_2 =>
    split at h
    · cases h; exact ⟨.refl s, rfl⟩
    · split at h
      · cases h
      · cases h; exact ⟨⟨_, _, _, _, _, rfl⟩, rfl⟩
  case h_3 q o _ =>
    cases h
    split
    · exact ⟨.refl s, rfl⟩
    · cases q
      · exact ⟨⟨_, _, _, _, _, rfl⟩, rfl⟩
      · exact ⟨⟨_, _, _, _, _, rfl⟩, rfl⟩
  case h_4 => cases h; exact ⟨.refl s, rfl⟩

theorem modPrt_differs (q : Nat) (f : Part → Part) : DiffersInMarks s (modPrt s q f) := ⟨_, _, _, _, _, rfl⟩

theorem poisonSeq_differs (e : Nat × Nat) : DiffersInMarks s (poisonSeq s e) := by
  unfold poisonSeq
  dsimp only
  split
  · next h => exact (pokeHome_differs h).1.trans (modPrt_differs ..)
  · exact modPrt_differs ..

theorem foldl_poisonSeq_differs (l : List (Nat × Nat)) : DiffersInMarks s (l.foldl poisonSeq s) :=
  List.foldlRecOn (motive := DiffersInMarks s) l _ (.refl s) fun _ hu e _ => hu.trans (poisonSeq_differs e)

/-! ## The sequences that are marked -/

theorem markSeqs_eq (o n : Nat) : markSeqs s i o n =
    (if (stk s i).sharded then unmarked s (seqHolds i (channelOf s i o).2 n) else []).foldl poisonSeq s := by
  unfold markSeqs markPoison
  split <;> rfl

theorem markSeqs_differs (o n : Nat) : DiffersInMarks s (markSeqs s i o n) := by
  rw [markSeqs_eq]
  exact foldl_poisonSeq_differs _

theorem markSeqs_none {o n : Nat} (h : (stk s i).sharded = false ∨ unmarked s (seqHolds i (channelOf s i o).2 n) = []) :
    markSeqs s i o n = s := by
  rw [markSeqs_eq]
  rcases h with h | h <;> simp [h]

theorem seqHolds_iff {co n : Nat} {k : KvSeq} : seqHolds i co n k = true ↔
    k.state = .resident ∧ k.home = i ∧ k.base < co + n ∧ co < k.base + regionBytes k := by
  simp [seqHolds, and_assoc]

/-- A sequence that gets a value other than the default's reads so, in a table of any form. -/
theorem seqAt_modPrt {q n : Nat} {f : KvSeq → KvSeq} (hf : f (seqAt s q n) ≠ {}) :
    seqAt (modPrt s q (fun x => { x with seqs := tmod {} x.seqs n f })) q n = f (seqAt s q n) := by
  have hseq : tget {} (tmod {} (prt s q).seqs n f) n = f (seqAt s q n) := tget_tset_live n _ hf _
  have hpart : { prt s q with seqs := tmod {} (prt s q).seqs n f } ≠ ({} : Part) := fun he =>
    hf (hseq.symm.trans (congrArg (fun x : Part => tget {} x.seqs n) he))
  have hread : prt (modPrt s q (fun x => { x with seqs := tmod {} x.seqs n f })) q =
      { prt s q with seqs := tmod {} (prt s q).seqs n f } := tget_tset_live q _ hpart _
  rw [seqAt, hread]
  exact hseq

theorem seqAt_markPoisoned (due : Bool) (q n : Nat) :
    seqAt (modPrt s q (fun x => { x with seqs := tmod {} x.seqs n (fun k => { k with poison := true, reportDue := due }) })) q n =
      { seqAt s q n with poison := true, reportDue := due } :=
  seqAt_modPrt (f := fun k => { k with poison := true, reportDue := due }) fun he => Bool.noConfusion (congrArg KvSeq.poison he)

theorem seqAt_poisonSeq (q n : Nat) : seqAt (poisonSeq v (q, n)) q n = { seqAt v q n with
    poison := true,
    reportDue := (pokeHome v (descAddr v q n) (reportFields { seqAt v q n with poison := true })).isNone } := by
  unfold poisonSeq
  dsimp only
  rw [show tget {} (prt v q).seqs n = seqAt v q n from rfl]
  split
  · next t h =>
    have hseq : seqAt t q n = seqAt v q n := by unfold seqAt prt; rw [(pokeHome_differs h).2]
    rw [h, seqAt_markPoisoned, hseq]
    rfl
  · next h =>
    rw [h, seqAt_markPoisoned]
    rfl

/-! ## A sector and its list -/

theorem poisonSector_poisoned (h : isPoisoned s i sec = true) : poisonSector s i sec w = s := by
  simp [poisonSector, h]

/-- With no free entry the granule is marked as a whole (R77). -/
theorem poisonSector_full (h : isPoisoned s i sec = false) (hl : 4096 ≤ (stk s i).poison.length) :
    poisonSector s i sec w = poisonGranule s i (sec / 32768) := by
  have hc : ¬ poisonCount (stk s i) < 4096 := Nat.not_lt.2 hl
  simp only [poisonSector, h, Bool.false_eq_true, if_false, if_neg hc]

/-- The sector takes the lowest free entry of the list, and the record is made (R76). -/
def listSector (s : State) (i sec : Nat) (w : Bool) : State :=
  logEvent (modStk (markSeqs s i (sec * 64) 64) i (fun st => { st with
    poison := tset none st.poison (lowestFree 0 st.poison) (some { worked := w, sector := sec }) }))
    Cls.poisonNew 2 Code.poisoned 6 (64 * i + (channelOf s i (sec * 64)).1) (b2n w) (stackBase i + sec * 64)

theorem poisonSector_listed (h : isPoisoned s i sec = false) (hl : (stk s i).poison.length < 4096) :
    poisonSector s i sec w = if (stk s i).poison.length = 3840
      then logEvent (listSector s i sec w) Cls.poisonListHigh 0 0 5 i 3841 0 else listSector s i sec w := by
  have hc : poisonCount (stk s i) < 4096 := hl
  simp only [poisonSector, h, Bool.false_eq_true, if_false, if_pos hc]
  rfl

end Sys2Proof.Laws

namespace Sys2Proof.Claims
open Sys2Proof Sys2Proof.Machine Sys2Proof.Laws

/-- Settles O35: a mark is a fold over the sequences it picks out; the list's length decides between entry and granule. -/
theorem sectorsArePoisoned : Obligations.SectorsArePoisoned := by
  rintro s u i sec w rfl
  refine ⟨(markSeqs_differs ..).eq, fun _ => seqAt_poisonSeq, markSeqs_eq, fun _ _ _ => seqHolds_iff, markSeqs_none,
    poisonSector_poisoned, poisonSector_full, fun h hl hn => ?entry, fun h hl => ?high⟩
  case entry => rw [poisonSector_listed h hl, if_neg hn]; rfl
  case high => rw [poisonSector_listed h (by omega), if_pos hl]; rfl

end Sys2Proof.Claims
end

section
/-! Sectors with errors (R65 to R68, R75, R80): what a read of one gives and notes, and the rewrites of the base die. -/

namespace Sys2Proof.Laws
open Sys2Proof Sys2Proof.Machine

variable {s u : State} {i sec : Nat}

/-! ## What asking for a spare leaves alone (R81, R82) -/

/-- `u` has the cells and the time of `s`, and in stack `i` its record of errors. -/
structure KeepsErrors (i : Nat) (s u : State) : Prop where
  dram : u.dram = s.dram
  time : u.time = s.time
  records : twf {} s.stackTab = true → twf {} u.stackTab = true ∧ (stk u i).ceEvents = (stk s i).ceEvents ∧
    (stk u i).writeback = (stk s i).writeback ∧ (stk u i).latent = (stk s i).latent

theorem KeepsErrors.refl (s : State) : KeepsErrors i s s := ⟨rfl, rfl, fun h => ⟨h, rfl, rfl, rfl⟩⟩

theorem KeepsErrors.modStk {f : Stack → Stack} (h : KeepsErrors i s u)
    (hf : ∀ st, (f st).ceEvents = st.ceEvents ∧ (f st).writeback = st.writeback ∧ (f st).latent = st.latent) :
    KeepsErrors i s (modStk u i f) := by
  refine ⟨h.dram, h.time, fun hs => ?_⟩
  obtain ⟨hu, hce, hwb, hlat⟩ := h.records hs
  obtain ⟨fce, fwb, flat⟩ := hf (stk u i)
  rw [stk_modStk hu, fce, fwb, flat]
  exact ⟨twf_modStk hu _, hce, hwb, hlat⟩

theorem KeepsErrors.logEvent {cls : BitVec 8} {sev : BitVec 2} {st : Status} {kind index d0 d1 : Nat} (h : KeepsErrors i s u) :
    KeepsErrors i s (logEvent u cls sev st kind index d0 d1) := by
  refine ⟨(logEvent_dram ..).trans h.dram, (logEvent_time ..).trans h.time, fun hs => ?_⟩
  unfold stk
  rw [logEvent_stackTab]
  exact h.records hs

theorem KeepsErrors.ite {c : Prop} [Decidable c] {v : State} (hu : KeepsErrors i s u) (hv : KeepsErrors i s v) :
    KeepsErrors i s (if c then u else v) := by
  split <;> assumption

theorem KeepsErrors.spareServe (h : KeepsErrors i s u) : KeepsErrors i s (spareServe u i) := by
  unfold Machine.spareServe
  dsimp only
  split
  · split
    · exact .logEvent (.modStk h fun _ => ⟨rfl, rfl, rfl⟩)
    · have hrest {l : List Nat} : KeepsErrors i s (Machine.modStk u i (fun st => { st with spareWanted := l })) :=
        .modStk h fun _ => ⟨rfl, rfl, rfl⟩
      exact .ite hrest (.logEvent (.modStk hrest fun _ => ⟨rfl, rfl, rfl⟩))
  · exact h

theorem KeepsErrors.spareAsk {c : Nat} {above : Bool} (h : KeepsErrors i s u) : KeepsErrors i s (spareAsk u i c above) :=
  .ite (.spareServe (.modStk h fun _ => ⟨rfl, rfl, rfl⟩)) h

theorem KeepsErrors.thresholdAsk {c : Nat} (h : KeepsErrors i s u) : KeepsErrors i s (thresholdAsk u i c) :=
  .ite (.spareAsk (.modStk h fun _ => ⟨rfl, rfl, rfl⟩)) h

/-! ## What a corrected read notes (R68) -/

/-- The channels that have asked are looked at again before an event is counted. -/
def dropAsked (s : State) (i h : Nat) : State :=
  if overThreshold s i h then s else modStk s i (fun st => { st with spareAsked := st.spareAsked.filter (· ≠ h) })

/-- An event is counted at the present time. -/
def countCorrected (s : State) (i h : Nat) : State := modStk s i (fun st => { st with ceEvents := st.ceEvents ++ [(h, now s)] })

theorem noteCorrected_eq (h : Nat) : noteCorrected s i h = thresholdAsk (countCorrected (dropAsked s i h) i h) i h := rfl

theorem dropAsked_keepsErrors (h : Nat) : KeepsErrors i s (dropAsked s i h) :=
  .ite (.refl s) (.modStk (.refl s) fun _ => ⟨rfl, rfl, rfl⟩)

theorem noteCorrected_dram (h : Nat) : (noteCorrected s i h).dram = s.dram :=
  (KeepsErrors.thresholdAsk (.refl _)).dram.trans (dropAsked_keepsErrors h).dram

theorem noteCorrected_records (hs : twf {} s.stackTab = true) (h : Nat) : twf {} (noteCorrected s i h).stackTab = true ∧
    (stk (noteCorrected s i h) i).ceEvents = (stk s i).ceEvents ++ [(h, now s)] ∧
    (stk (noteCorrected s i h) i).writeback = (stk s i).writeback ∧
    (stk (noteCorrected s i h) i).latent = (stk s i).latent := by
  have hd := dropAsked_keepsErrors (s := s) (i := i) h
  obtain ⟨hwf, hce, hwb, hlat⟩ := hd.records hs
  have hstk : stk (countCorrected (dropAsked s i h) i h) i = _ := stk_modStk hwf _
  obtain ⟨hwf', hce', hwb', hlat'⟩ := (KeepsErrors.thresholdAsk (c := h) (.refl (countCorrected (dropAsked s i h) i h))).records
    (twf_modStk hwf _)
  rw [hstk] at hce' hwb' hlat'
  have hnow : now (dropAsked s i h) = now s := congrArg BitVec.toNat hd.time
  rw [noteCorrected_eq]
  exact ⟨hwf', by rw [hce', hce, hnow], hwb'.trans hwb, hlat'.trans hlat⟩

theorem noteRepair_dram : (noteRepair s i sec).dram = s.dram := noteCorrected_dram _

theorem noteRepair_records (hs : twf {} s.stackTab = true) :
    (stk (noteRepair s i sec) i).ceEvents = (stk s i).ceEvents ++ [((channelOf s i (sec * 64)).1, now s)] ∧
    (stk (noteRepair s i sec) i).writeback = (if (stk s i).writeback.contains sec then (stk s i).writeback
      else (stk s i).writeback ++ [sec]) ∧
    (stk (noteRepair s i sec) i).latent = (stk s i).latent := by
  obtain ⟨hwf, hce, hwb, hlat⟩ := noteCorrected_records (i := i) hs (channelOf s i (sec * 64)).1
  have hstk : stk (noteRepair s i sec) i = _ := stk_modStk hwf _
  rw [hstk]
  exact ⟨hce, by simp only [hwb], hlat⟩

/-! ## What the sealed code makes of a sector (Table 3-4) -/

theorem decodeSealed_corrected (h : badBytes s i sec ≤ correctable (stk s i)) : decodeSealed s i sec = (.corrected, s) := by
  simp [decodeSealed, h]

/-- CORRECT2 surely detects three to six bad bytes. -/
theorem decodeSealed_correct2 (hm : (stk s i).correct2 = true) (hlo : 2 < badBytes s i sec) (hhi : badBytes s i sec ≤ 6) :
    decodeSealed s i sec = (.uncorrectable, s) := by
  simp [decodeSealed, correctable, hm, hhi, Nat.not_le.2 hlo]

/-- The code takes at most a free value. -/
theorem decodeSealed_frame {d : Decoded} (h : decodeSealed s i sec = (d, u)) : ∃ c, u = { s with freeCtr := c } := by
  unfold decodeSealed freeBelow at h
  dsimp only at h
  generalize (if (stk s i).correct2 then 6 else 4) = sure at h
  split at h
  · cases h; exact ⟨_, rfl⟩
  · split at h
    · cases h; exact ⟨_, rfl⟩
    · cases h; exact ⟨_, rfl⟩

theorem readSealed_corrected (h : badBytes s i sec ≤ correctable (stk s i)) : readSealed s i sec = (true, noteRepair s i sec) := by
  simp [readSealed, decodeSealed_corrected h]

theorem readSealed_uncorrectable (h : decodeSealed s i sec = (.uncorrectable, u)) :
    readSealed s i sec = (false, noteUncorrectable u i (channelOf s i (sec * 64)).1) := by
  obtain ⟨c, rfl⟩ := decodeSealed_frame h
  rw [readSealed, h]
  rfl

/-! ## Reads of one sector -/

theorem readAlone_poisoned (h : isPoisoned s i sec = true) : readAlone s i sec = (.poison, s) := by
  simp [readAlone, h]

theorem readAlone_clean (h : isPoisoned s i sec = false) (hb : badBytes s i sec = 0) : readAlone s i sec = (.data, s) := by
  simp [readAlone, h, hb]

theorem readAlone_worked (h : isPoisoned s i sec = false) (hb : 0 < badBytes s i sec)
    (hw : (gran s i (sec / 32768)).worked = true) :
    readAlone s i sec = (.poison, poisonSector (noteUncorrectable s i (channelOf s i (sec * 64)).1) i sec true) := by
  simp [readAlone, h, hw, Nat.ne_of_gt hb]

theorem readAlone_sealed (h : isPoisoned s i sec = false) (hb : 0 < badBytes s i sec)
    (hw : (gran s i (sec / 32768)).worked = false) :
    readAlone s i sec = if (readSealed s i sec).1 then (.data, (readSealed s i sec).2)
      else (.poison, poisonSector (readSealed s i sec).2 i sec false) := by
  simp [readAlone, h, hw, Nat.ne_of_gt hb]

/-- Only an error in a sealed PRIMARY sector turns a read to the COPY (R75). -/
theorem readSector_alone (h : isPoisoned s i sec = true ∨ badBytes s i sec = 0 ∨ (gran s i (sec / 32768)).worked = true ∨
    (gran s i (sec / 32768)).role ≠ 1) : readSector s i sec = readAlone s i sec := by
  unfold readSector
  exact if_pos (by simpa [or_assoc] using h)

/-- A read within what the code corrects gives the data, in a mirrored sector as in any other. -/
theorem readSector_corrected (h : isPoisoned s i sec = false) (hw : (gran s i (sec / 32768)).worked = false)
    (hb : 0 < badBytes s i sec) (hc : badBytes s i sec ≤ correctable (stk s i)) :
    readSector s i sec = (.data, noteRepair s i sec) := by
  by_cases hr : (gran s i (sec / 32768)).role = 1
  · simp [readSector, h, hw, hr, Nat.ne_of_gt hb, readSealed_corrected hc]
  · rw [readSector_alone (.inr (.inr (.inr hr))), readAlone_sealed h hb hw, readSealed_corrected hc]
    rfl

theorem copyHeld_eq_false (h : isPoisoned s i sec = true ∨ badBytes s i sec = 0 ∨ (gran s i (sec / 32768)).role ≠ 1 ∨
    badBytes s i sec ≤ correctable (stk s i)) : copyHeld s i sec = false := by
  rcases h with h | h | h | h
  · simp [copyHeld, h]
  · simp [copyHeld, h]
  · simp only [copyHeld, decide_eq_false h, Bool.false_and]
  · simp [copyHeld, readSealed_corrected h]

theorem loadSector_data (hc : copyHeld s i sec = false) (hr : readSector s i sec = (.data, u)) :
    runAct (loadSector i sec) s = (.ok (sectorBytes u i sec), u) := by
  simp only [loadSector, runAct_bind, runAct_get, runAct_needReady, hc, hr, Bool.not_false, if_true, runAct_set, runAct_pure]

theorem loadSector_poison (hc : copyHeld s i sec = false) (hr : readSector s i sec = (.poison, u)) :
    runAct (loadSector i sec) s = (.error (.fail Code.poisoned), u) := by
  simp only [loadSector, runAct_bind, runAct_get, runAct_needReady, hc, hr, Bool.not_false, if_true, runAct_set, runAct_throw]

/-! ## Rewrites by the base die -/

theorem mayRewrite_iff : mayRewrite s i sec = true ↔
    (stk s i).writeHold = false ∧ chanHeld s i (sec * 64) = false ∧ copyHeld s i sec = false := by
  simp [mayRewrite, and_assoc]

theorem repairSector_clean_copy (hrole : (gran s i (sec / 32768)).role = 1)
    (hp : isPoisoned s (gran s i (sec / 32768)).partner sec = false)
    (hb : badBytes s (gran s i (sec / 32768)).partner sec = 0) :
    repairSector s i sec = restoreSector s i (gran s i (sec / 32768)).partner sec := by
  simp [repairSector, hrole, readAlone_clean hp hb]

/-! ## The patrol (R80) -/

theorem presentFrom_present {n : Nat} (hw : sec < 64 * (channelBytes s / 64)) (ha : absentOff s i (sec * 64) = false) :
    presentFrom s i (n + 1) sec = sec := by
  simp [presentFrom, Nat.not_le.2 hw, ha]

theorem scrubRead_untouched (h : badBytes s i sec = 0 ∨ isPoisoned s i sec = true) : scrubRead s i sec = s := by
  unfold scrubRead
  exact if_pos (by simpa using h)

theorem scrubSector_untouched (h : badBytes s i sec = 0 ∨ isPoisoned s i sec = true) :
    scrubSector s i sec = (s, false, false) := by
  unfold scrubSector
  exact if_pos (by simpa using h)

section
variable (h : isPoisoned s i sec = false) (hw : (gran s i (sec / 32768)).worked = false)
  (hb : 0 < badBytes s i sec) (hc : badBytes s i sec ≤ correctable (stk s i))
include h hw hb hc

theorem scrubRead_corrected : scrubRead s i sec = noteRepair s i sec := by
  simp [scrubRead, h, Nat.ne_of_gt hb, readSector_corrected h hw hb hc]

theorem scrubSector_corrected : scrubSector s i sec = (clearBad (noteRepair s i sec) i sec, true, false) := by
  simp [scrubSector, h, Nat.ne_of_gt hb, readSector_corrected h hw hb hc]

end

end Sys2Proof.Laws

namespace Sys2Proof.Claims
open Sys2Proof Sys2Proof.Machine Sys2Proof.Laws

/-- Settles O36: a read is decided by the list, the errors and the kind of the sector; the rewrites by what keeps the base die back. -/
theorem sectorsAreCorrected : Obligations.SectorsAreCorrected := by
  intro i s
  refine ⟨fun sec h hb => ?clean, fun sec h => ?listed, fun sec h hw hb hc => ?corrected,
    fun sec hs => ?noted, fun sec h hw hb hc => ?parity, fun sec u h hw hr hb hd => ?beyond, fun _ => decodeSealed_correct2,
    fun sec hm => ?kept, fun _ => mayRewrite_iff, fun sec hwb hpg hrst hm => ?rewritten,
    fun sec env s0 hs hmp hpg hrst hm hr hp hb => ?mirror, fun env s0 hs hper hpg hrst hst hch hcp ha hpos hbusy => ?patrol⟩
  case clean =>
    exact loadSector_data (copyHeld_eq_false (.inr (.inl hb))) ((readSector_alone (.inr (.inl hb))).trans (readAlone_clean h hb))
  case listed =>
    exact loadSector_poison (copyHeld_eq_false (.inl h)) ((readSector_alone (.inl h)).trans (readAlone_poisoned h))
  case corrected =>
    rw [loadSector_data (copyHeld_eq_false (.inr (.inr (.inr hc)))) (readSector_corrected h hw hb hc), sectorBytes, noteRepair_dram]
  case noted =>
    obtain ⟨hce, hwb, hlat⟩ := noteRepair_records (i := i) (sec := sec) hs
    exact ⟨hce, hwb, noteRepair_dram, hlat⟩
  case parity => exact loadSector_poison hc ((readSector_alone (.inr (.inr (.inl hw)))).trans (readAlone_worked h hb hw))
  case beyond =>
    refine loadSector_poison (copyHeld_eq_false (.inr (.inr (.inl hr)))) ?_
    rw [readSector_alone (.inr (.inr (.inr hr))), readAlone_sealed h hb hw, readSealed_uncorrectable hd]
    rfl
  case kept => simp [exec, execCorrectedWriteback, hm]
  case rewritten =>
    simp only [exec, execCorrectedWriteback, hwb, dieServes_of hpg hrst, hm, Bool.and_self, if_true]
    rfl
  case mirror =>
    simp only [exec, execMirrorReadReturn, ← hs, hmp, dieServes_of hpg hrst, hm, Bool.and_self, if_true,
      repairSector_clean_copy hr hp hb]
    rfl
  case patrol =>
    have hexec : exec (.scrubTick i env) s0 = .next (modStk (if (stk s i).writeHold then scrubRead s i (stk s i).scrubPos
        else (scrubSector s i (stk s i).scrubPos).1) i (fun st => { st with scrubPos := (stk s i).scrubPos + 1 })) := by
      simp only [exec, execScrubTick, ← hs, presentFrom_present hpos ha, decide_eq_false hper, dieServes_of hpg hrst, hbusy, hch,
        hcp, hst, Bool.not_true, Bool.or_self, Bool.false_eq_true, if_false]
    refine ⟨fun h => ?_, fun hb h hw hc => ?_⟩
    · rw [hexec, scrubRead_untouched h, scrubSector_untouched h, ite_self]
    · rw [hexec, scrubRead_corrected h hw hb hc, scrubSector_corrected h hw hb hc]

end Sys2Proof.Claims
end

section
/-! The upkeep of channels (R81, R83, R84, R92, R361): spare copies, retraining and refresh. -/

namespace Sys2Proof.Laws
open Sys2Proof Sys2Proof.Machine Sys2Proof.Claims

variable {s : State} {i : Nat}

/-! ## Spare copies (R81) -/

/-- A copy from a stack without errors meets no sector that it has to correct. -/
theorem exec_spareCopyEnd_clean {h k : Nat} (hsp : (stk s i).sparing = some (h, k)) (hd : dieServes s i = true)
    (hwh : (stk s i).writeHold = false) (hlat : (stk s i).latent = [])
    (hrt : (stk s i).retrainBusy = false ∨ (stk s i).retrainHeld.toNat ≠ h) :
    exec (.spareCopyEnd i []) s = .next (spareServe (modStk s i (fun st => { st with sparing := none })) i) := by
  have hfree : ((stk s i).retrainBusy && decide ((stk s i).retrainHeld.toNat = h)) = false :=
    Bool.and_eq_false_iff.2 (hrt.imp_right decide_eq_false)
  simp only [exec, execSpareCopyEnd, hsp, hd, hwh, hfree, hlat, Bool.not_false, Bool.and_self, if_true]
  rfl

/-! ## Retraining (R92, R361) -/

/-- The state in which `STK.RETRAIN` has taken the channel that is written to it. -/
def takeChannel (s : State) (i : Nat) (v : Word) : State :=
  modStk s i (fun st => { st with retrainChannel := BitVec.ofNat 6 v.toNat })

/-- A write with START set is answered by what the stack does at that moment; the channel it names changes none of this. -/
theorem writeRetrain_start {v : Word} (hs : twf {} s.stackTab = true) (hv : v.toNat.testBit 63 = true) :
    writeRetrain i v s =
      if (stk s i).sparing.isSome || (stk s i).retrainBusy then
        modStk (takeChannel s i v) i (fun st => { st with retrainStatus := Code.stateConflict })
      else if (stk s i).chAbsent.toNat.testBit (BitVec.ofNat 6 v.toNat).toNat then
        modStk (takeChannel s i v) i (fun st => { st with retrainStatus := Code.unitAbsent })
      else modStk (takeChannel s i v) i (fun st => { st with retrainBusy := true, retrainHeld := BitVec.ofNat 6 v.toNat }) := by
  simp only [writeRetrain, bit, hv, if_true, stk_modStk hs]
  rfl

theorem exec_retrain {p : PortId} (hm : MaySet s p) (v : Word) : exec (.retrain p i v) s = .next (writeRetrain i v s) :=
  congrArg _ (viseWrite_of_maySet hm ..)

/-! ## Refresh (R83, R84) -/

theorem exec_refreshCommand (hd : dieServes s i = true) : exec (.refreshCommand i) s = .next (refreshStep s i) := by
  simp only [exec, execRefreshCommand, hd, if_true]

theorem holdsBanks_idle {st : Stack} (h : st.running = none) : holdsBanks st = false := by
  simp [holdsBanks, h]

theorem holdsBanks_running {st : Stack} {r : BenchRun} (h : st.running = some r) :
    holdsBanks st = r.banks.contains st.nextBank.toNat := by
  simp [holdsBanks, h]

/-- A bank that no open row can lie in is refreshed. -/
theorem refreshStep_free (h : holdsBanks (stk s i) = false) :
    refreshStep s i = modStk s i (fun st => { st with refreshed := st.refreshed + 1, nextBank := st.nextBank + 1 }) := by
  simp [refreshStep, h]

/-- A bank that an open row may lie in is refreshed, or its refresh is owed. -/
theorem refreshStep_postponed (h : holdsBanks (stk s i) = true) (ho : (stk s i).owed < 4) :
    refreshStep s i = if Config.freeNat s.freeCtr % 2 = 0
      then modStk { s with freeCtr := s.freeCtr + 1 } i (fun st => { st with
        refreshed := st.refreshed + 1, nextBank := st.nextBank + 1 })
      else modStk { s with freeCtr := s.freeCtr + 1 } i (fun st => { st with
        owed := st.owed + 1, nextBank := st.nextBank + 1 }) := by
  simp only [refreshStep, freeBelow, h, if_true]
  exact if_congr Iff.rfl rfl (if_pos ho)

end Sys2Proof.Laws

namespace Sys2Proof.Claims
open Sys2Proof Sys2Proof.Machine Sys2Proof.Laws

/-- Settles O37: each command's guard holds under the stated conditions, and what it then does is one update of the stack. -/
theorem channelsAreKeptUp : Obligations.ChannelsAreKeptUp := by
  refine ⟨⟨fun i h k s hsp hpg hrst hwh hlat hrt => exec_spareCopyEnd_clean hsp (dieServes_of hpg hrst) hwh hlat hrt,
    fun p i v s hm hv hs => ?retrain, fun i s hb hpg hrst htab => ?retrainEnd⟩, fun i s hpg hrst => ?refresh⟩
  case retrain =>
    rw [exec_retrain hm, writeRetrain_start hs hv]
    refine ⟨fun hsp hb hch => ?_, fun hbusy => ?_, fun hsp hb hch => ?_⟩
    · simp only [hsp, hb, hch, Option.isSome_none, Bool.or_self, Bool.false_eq_true, if_false]
      rfl
    · rw [if_pos (by simpa [Option.isSome_iff_ne_none, or_comm] using hbusy)]
      rfl
    · simp only [hsp, hb, hch, Option.isSome_none, Bool.or_self, Bool.false_eq_true, if_false, if_true]
      rfl
  case retrainEnd =>
    simp only [exec, execRetrainEnd, hb, dieServes_of hpg hrst, htab, Bool.and_self, if_true, Bool.false_eq_true, if_false]
  case refresh =>
    have hd := dieServes_of hpg hrst
    rw [exec_refreshCommand hd]
    refine ⟨fun hr => ?idle, fun r hr hn => ?other, fun r hr hn ho => ?owed, fun r hr hn ho => ?forced⟩
    case idle => rw [refreshStep_free (holdsBanks_idle hr)]
    case other => rw [refreshStep_free ((holdsBanks_running hr).trans (by simpa using hn))]
    case owed => rw [refreshStep_postponed ((holdsBanks_running hr).trans (by simpa using hn)) ho]
    case forced =>
      have hbank : holdsBanks (stk s i) = true := (holdsBanks_running hr).trans (by simpa using hn)
      simp only [exec, execForcedRefresh, hd, hbank, ho, decide_true, Bool.and_self, if_true]
      rfl

end Sys2Proof.Claims
end

section
/-! Maintenance tasks of a stack (R70 to R73): their start, the granule that is cleared, their end, and the conversions that a reset
has cut short. -/

namespace Sys2Proof.Laws
open Sys2Proof Sys2Proof.Machine

variable {s s0 u : State} {env : Env} {i t : Nat} {x : Task} {m : Maint}

/-! ## Start (R70) -/

/-- A placed task that reads its operand block goes on as the block's contents say. -/
theorem exec_maintTaskStart_placed {b : Option Maint} (hs : s = applyEnv env s0) (hd : dieServes s i = true)
    (hm : (stk s i).maint = none) (hp : (stk s i).maintPlaced = some t) (hx : taskAt s t = some x) (hw : x.workDone = false)
    (hb : runAct (maintBegin i t x) s = (.ok b, u)) :
    exec (.maintTaskStart i env) s0 = .next (match b with
      | none => maintRefused u i t Code.descriptorInvalid
      | some m => maintCheck u i x m) := by
  simp only [exec, execMaintTaskStart, ← hs, hd, hm, hp, hx, hw, settle_ok hb, Bool.not_true, Bool.false_eq_true, if_false]
  cases b <;> rfl

theorem maintCheck_passed (ho : m.op ≠ Mop.mapOut) (hc : maintStatus s x m i = 0) :
    maintCheck s i x m = beginGranule (modStk (modTask s m.task (fun x => { x with mirrors := partnersOf s i m })) i
      (fun st => { st with maintPlaced := none })) i m := by
  simp [maintCheck, ho, hc]

/-! ## A granule that is cleared (R71, R79) -/

theorem exec_maintGranuleDone (hs : s = applyEnv env s0) (hd : dieServes s i = true) (hm : (stk s i).maint = some m) :
    exec (.maintGranuleDone i env) s0 = .next (if m.active && !maintHeld s i m then granuleDone s i m else s) := by
  simp only [exec, execMaintGranuleDone, ← hs, hm, hd, Bool.and_true]

theorem doGranule_clearPoison (ho : m.op = Mop.clearPoison) (hr : (gran s i m.next).role ≠ 1) : doGranule s i m =
    (modGran (zeroGranule s i m.next) i m.next (fun g => { g with poisonAll := false, state := 0 }), 1, 0) := by
  have ha : alreadyThere s m i = false := by simp [alreadyThere, ho, Mop.clearPoison, Mop.resealOp, Mop.unsealOp]
  simp only [doGranule, ha, ho, if_neg hr]
  rfl

/-- The last granule of the range ends the task's work. -/
theorem granuleDone_last {c b : Nat} (hg : doGranule s i m = (u, c, b)) (ho : m.op ≠ Mop.mapOut) (hl : m.last ≤ m.next + 1) :
    granuleDone s i m = flushStaged (modStk u i (fun st => { st with
      maint := some { m with next := m.next + 1, active := false, changed := m.changed + c, poisoned := m.poisoned + b },
      maintDone := true })) i := by
  simp [granuleDone, hg, ho, Nat.not_lt.2 hl]

/-! ## End (R72) -/

theorem exec_maintTaskEnd_done (hm : (stk s i).maint = some m) (hx : taskAt s m.task = some x) (hdone : (stk s i).maintDone = true)
    (ho : m.op ≠ Mop.mapOut) : exec (.maintTaskEnd i) s = .next (maintFinish s i m x) := by
  simp [exec, execMaintTaskEnd, hm, hx, hdone, ho]

theorem maintFinish_ok (hs : x.stopped = false) (hl : x.limitHit = false) :
    maintFinish s i m x = endWork (freeFuse (modStk s i (fun y => { y with maint := none, maintDone := false })) (4 + i))
      m.task Code.ok (BitVec.ofNat 64 (m.changed * 2 ^ 32 + m.poisoned)) := by
  simp [maintFinish, hs, hl]

/-! ## Conversions (R73) -/

theorem convertGranule_clean {g : Nat} {w : Bool} (h : badSectors s i g = []) :
    convertGranule s i g w = (modGran s i g (fun e => { e with worked := w, state := 0 }), 0) := by
  simp [convertGranule, h, scrubAll]

end Sys2Proof.Laws

namespace Sys2Proof.Claims
open Sys2Proof Sys2Proof.Machine Sys2Proof.Laws

/-- Settles O38: the operand block, the granule, the end and the oldest conversion, each by its own lemma. -/
theorem maintenanceTasksRun : Obligations.MaintenanceTasksRun := by
  intro i env s0 s hs hpg hrst
  have hd := dieServes_of hpg hrst
  refine ⟨fun t x m u hm hp hx hw hb ho hc => ?start, fun t x u hm hp hx hw hb => exec_maintTaskStart_placed hs hd hm hp hx hw hb,
    fun m hm ha ho hh hr hl => ?granule, fun m hm hh => ?held, fun m x hm hx hdone ho hst hli => ?taskEnd,
    fun g w rest hc hwh hrt hb => ?conversion⟩
  case start => rw [exec_maintTaskStart_placed hs hd hm hp hx hw hb, ← maintCheck_passed ho hc]
  case granule =>
    have ho' : m.op ≠ Mop.mapOut := by rw [ho]; decide
    rw [exec_maintGranuleDone hs hd hm, if_pos (by simp [ha, hh]), granuleDone_last (doGranule_clearPoison ho hr) ho' hl]
    rfl
  case held => rw [exec_maintGranuleDone hs hd hm, if_neg (by simp [hh])]
  case taskEnd => rw [exec_maintTaskEnd_done hm hx hdone ho, maintFinish_ok hst hli]
  case conversion =>
    simp only [exec, execConversionResume, ← hs, hc, hd, hwh, hrt, Bool.not_false, Bool.and_self, if_true, convertGranule_clean hb]

end Sys2Proof.Claims
end

section
/-! Bench tasks (R104 to R108): what activation, the start of an operation and its end do where each may go on, and when the array
stands still. -/

namespace Sys2Proof.Laws
open Sys2Proof Sys2Proof.Machine

variable {s s0 u : State} {env : Env} {i k t : Nat} {b : BenchTask} {x : Task} {r : BenchRun}

/-! ## Activation (R104 to R106) -/

/-- The head of the queue is looked at where a slot is free, the stack works and its granules are idle. -/
theorem exec_benchTaskActivate {rest : List Nat} (hs : s = applyEnv env s0) (hr : inReset s Dom.stack i = false)
    (hq : (stk s i).benchQueue = t :: rest) (hk : freeSlot (stk s i) = some k) (hx : taskAt s t = some x)
    (hw : x.workDone = false) (hb : rangesBusy s (declared s x) = false) :
    exec (.benchTaskActivate i env) s0 = .next (settle (activate i k t x) s (fun _ u => u)) := by
  simp only [exec, execBenchTaskActivate, ← hs, hr, hq, hk, hx, hw, hb, Bool.or_self, Bool.false_eq_true, if_false]

/-- A program that has been read and whose registers fit ends its task with the first check that fails, or takes the slot. -/
theorem runAct_activate_fits {p : List Byte} (hp : runAct (fetchProgram x) s = (.ok p, u))
    (hheld : regsHeld (stk u i) + Prog.regs p ≤ 32) :
    runAct (activate i k t x) s = (.ok (), modStk (if progStatus u x i p ≠ 0 then endWork (startTask u t) t (progStatus u x i p) 0
      else modStk (startTask u t) i (fun y => { y with slots := tset none y.slots k (some { task := t, prog := p }) })) i
      (fun y => { y with benchQueue := y.benchQueue.drop 1 })) := by
  have hready : runAct (needReady (decide (32 < Prog.regs p) || decide (regsHeld (stk u i) + Prog.regs p ≤ 32))) u = (.ok (), u) := by
    simp [runAct_needReady, hheld]
  rw [activate, runAct_bind_ok (runAct_attempt_ok hp), runAct_bind_ok runAct_get]
  dsimp only
  rw [runAct_bind_ok hready]
  split <;> rfl

/-! ## The start of an operation (R99, R107, R361, R380) -/

/-- What an operation of a slot's task sees. -/
def benchContext (s : State) (i : Nat) (b : BenchTask) (x : Task) : BCtx := {
  i := i, part := x.part, base := Prog.base b.prog, mask := Prog.mask b.prog, regs := b.regs, ins := localRanges s x.desc.ins }

/-- The state in which the array runs `r` for the task `b` of slot `k`. -/
def operationStarted (s : State) (i k : Nat) (r : BenchRun) (b : BenchTask) : State :=
  modStk s i (fun y => { y with
    running := some r, rotation := (k + 1) % 4, opStart := now s, slots := tset none y.slots k (some b) })

theorem arrayFree_of (hr : inReset s Dom.stack i = false) (hp : benchPaused s i = false) (ht : (stk s i).retrainBusy = false)
    (hrest : (stk s i).restUntil ≤ now s) : arrayFree s i = true := by
  simp [arrayFree, hr, hp, ht, hrest]

theorem arrayFree_retrain (h : (stk s i).retrainBusy = true) : arrayFree s i = false := by
  simp [arrayFree, h]

theorem arrayFree_resting (h : now s < (stk s i).restUntil) : arrayFree s i = false := by
  simp [arrayFree, Nat.not_le.2 h]

/-- The operation whose turn it is starts on a free array. -/
theorem exec_benchOperationStart (hs : s = applyEnv env s0) (hrun : (stk s i).running = none)
    (hk : nextSlot s (stk s i) = some k) (hb : tget none (stk s i).slots k = some b) (hx : taskAt s b.task = some x)
    (hf : arrayFree s i = true) :
    exec (.benchOperationStart i env) s0 = .next (settle (startOperation i k b x) s (fun _ u => u)) := by
  simp only [exec, execBenchOperationStart, ← hs, hrun, hk, hb, hx, hf, if_true]

theorem exec_benchOperationStart_kept (hs : s = applyEnv env s0) (hf : arrayFree s i = false) :
    exec (.benchOperationStart i env) s0 = .next s := by
  simp only [exec, execBenchOperationStart, ← hs, hf, Bool.false_eq_true, if_false]
  split
  · split
    · split <;> rfl
    · rfl
  · rfl

theorem runAct_startOperation_ok {o : BOut}
    (h : runAct (runOperation (benchContext s i b x) (Prog.record b.prog b.next) (extensionAt b.prog b.next)) s = (.ok o, u)) :
    runAct (startOperation i k b x) s = (.ok (), operationStarted u i k {
        slot := k, stores := o.stores,
        banks := banksRead s (benchContext s i b x) (Prog.record b.prog b.next) (extensionAt b.prog b.next) }
      { b with clamped := b.clamped || o.clamped, nan := b.nan || o.nan }) := by
  rw [startOperation, runAct_bind_ok runAct_get]
  exact runAct_bind_ok (runAct_attempt_ok h)

/-- An operation that fails takes its turn all the same, and keeps its status for its end. -/
theorem runAct_startOperation_fail {st : Status}
    (h : runAct (runOperation (benchContext s i b x) (Prog.record b.prog b.next) (extensionAt b.prog b.next)) s =
      (.error (.fail st), u)) :
    runAct (startOperation i k b x) s = (.ok (), operationStarted u i k {
        slot := k, status := st,
        banks := banksRead s (benchContext s i b x) (Prog.record b.prog b.next) (extensionAt b.prog b.next) } b) := by
  have hmarks : { b with clamped := b.clamped || false, nan := b.nan || false } = b := by simp
  rw [startOperation, runAct_bind_ok runAct_get]
  refine (runAct_bind_ok (runAct_attempt_fail h)).trans ?_
  exact congrArg (fun b => (Except.ok (), operationStarted u i k _ b)) hmarks

/-! ## The end of an operation (R108, R120, R123) -/

/-- The state in which the operation `r` has ended: the array rests, owed refreshes are issued, the task goes on past the record,
and `staged` are the writes that are held back. -/
def operationEnded (s : State) (i : Nat) (r : BenchRun) (staged : List Store) : State :=
  issueOwed (modStk s i (fun y => { y with
    running := none, restUntil := now s + restNs s i (now s - (stk s i).opStart),
    slots := tmod none y.slots r.slot (fun b => b.map (fun b => { b with
      next := b.next + (if Bop.opcode (Prog.record b.prog b.next) = Bo.attn then 2 else 1), staged := staged,
      failed := if b.failed = 0 then r.status else b.failed })) })) i

theorem exec_benchOperationEnd (hs : s = applyEnv env s0) (hr : inReset s Dom.stack i = false) (hrun : (stk s i).running = some r)
    (ht : (stk s i).retrainBusy = false) :
    exec (.benchOperationEnd i env) s0 = .next (settle (endOperation i r) s (fun _ u => u)) := by
  simp only [exec, execBenchOperationEnd, ← hs, hrun, hr, ht, Bool.or_self, Bool.false_eq_true, if_false]

theorem exec_benchOperationEnd_retrain (hs : s = applyEnv env s0) (ht : (stk s i).retrainBusy = true) :
    exec (.benchOperationEnd i env) s0 = .next s := by
  simp only [exec, execBenchOperationEnd, ← hs, ht, Bool.or_true, if_true]
  split <;> rfl

/-- Without writes to hold back, the operation's end makes all its writes. -/
theorem runAct_endOperation_written (hh : ((stk s i).writeHold && r.stores.any isDram) = false) :
    runAct (endOperation i r) s = runAct (writeOut i r.slot r.stores) (operationEnded s i r []) := by
  rw [endOperation, runAct_bind_ok runAct_get]
  simp only [hh, Bool.false_eq_true, if_false]
  exact runAct_bind_ok (runAct_edit _)

/-- In a write hold-off an operation with writes to DRAM makes none. -/
theorem runAct_endOperation_held (hh : ((stk s i).writeHold && r.stores.any isDram) = true) :
    runAct (endOperation i r) s = (.ok (), operationEnded s i r r.stores) := by
  rw [endOperation, runAct_bind_ok runAct_get]
  simp only [hh, if_true]
  exact runAct_bind_ok (runAct_edit _)

end Sys2Proof.Laws

namespace Sys2Proof.Claims
open Sys2Proof Sys2Proof.Machine Sys2Proof.Laws

/-- Settles O30: each command's guard holds under the stated conditions, and the action behind it runs to its end. -/
theorem benchTasksRun : Obligations.BenchTasksRun := by
  intro i env s0 s hs hr
  refine ⟨fun t k rest x p u hq hk hx hw hb hp _ hheld => ?activate, fun k b x o u hrun hk hb hx hp ht hrest c hc h => ?started,
    fun k b x st u hrun hk hb hx hp ht hrest c hc h => ?failed, fun r u hrun hh ht h => ?written, fun ht => ?retrain,
    fun hrest => exec_benchOperationStart_kept hs (arrayFree_resting hrest), fun r hrun hwh hd ht => ?held⟩
  case activate =>
    rw [exec_benchTaskActivate hs hr hq hk hx hw hb, settle_ok (runAct_activate_fits hp hheld)]
    exact ⟨fun hok => by rw [if_neg (not_not.2 hok)], fun hfail => by rw [if_pos hfail]⟩
  case started =>
    subst hc
    rw [exec_benchOperationStart hs hrun hk hb hx (arrayFree_of hr hp ht hrest), settle_ok (runAct_startOperation_ok h)]
    rfl
  case failed =>
    subst hc
    rw [exec_benchOperationStart hs hrun hk hb hx (arrayFree_of hr hp ht hrest), settle_ok (runAct_startOperation_fail h)]
    rfl
  case written => rw [exec_benchOperationEnd hs hr hrun ht, settle_ok ((runAct_endOperation_written hh).trans h)]
  case retrain =>
    exact ⟨exec_benchOperationStart_kept hs (arrayFree_retrain ht), exec_benchOperationEnd_retrain hs ht⟩
  case held =>
    rw [exec_benchOperationEnd hs hr hrun ht, settle_ok (runAct_endOperation_held (by rw [hwh, hd]; rfl))]
    rfl

end Sys2Proof.Claims
end

section
/-! Press operations (R131, R140, R142, R149): when the first one of a press starts, what its retirement and its note do, and the end of
shim load. -/

namespace Sys2Proof.Laws
open Sys2Proof Sys2Proof.Machine

variable {s s0 u : State} {env : Env} {cl press : Nat} {o : PressOp} {before : List PressOp}

/-! ## The scoreboard (R142) -/

theorem meets_iff {x y : Nat × Nat} : meets x y = true ↔ x.1 < y.2 ∧ y.1 < x.2 := by simp [meets]

theorem anyMeet_iff {xs ys : List (Nat × Nat)} : anyMeet xs ys = true ↔ ∃ x ∈ xs, ∃ y ∈ ys, x.1 < y.2 ∧ y.1 < x.2 := by
  simp only [anyMeet, List.any_eq_true, meets_iff]

theorem opWaits_iff : opWaits o before = true ↔
    ∃ e ∈ before, (∃ x ∈ e.writes, ∃ y ∈ o.reads ++ o.writes, x.1 < y.2 ∧ y.1 < x.2) ∨
      (∃ x ∈ e.reads, ∃ y ∈ o.writes, x.1 < y.2 ∧ y.1 < x.2) := by
  simp only [opWaits, List.any_eq_true, Bool.or_eq_true, anyMeet_iff]

theorem mayStart_of {c : Cluster} (hrun : o.running = false) (hn : notesOf c press < 4) (hs : bit c.shim.toNat press = false)
    (hw : opWaits o before = false) : mayStart c press o before = true := by
  simp [mayStart, hrun, hn, hs, hw]

theorem mayStart_waiting {c : Cluster} (hw : opWaits o before = true) : mayStart c press o before = false := by
  simp [mayStart, hw]

/-! ## Start and retirement (R131, R140, R141) -/

theorem exec_pressOpStart (hs : s = applyEnv env s0) (hq : headOp (clu s cl).queue press = some (o, before)) :
    exec (.pressOpStart cl press env) s0 =
      .next (if mayStart (clu s cl) press o before then startOp s cl before.length o else s) := by
  simp only [exec, execPressOpStart, ← hs, hq]

theorem startOp_ok {k : Nat} {stores : List (Nat × List Byte)} {nan : Bool}
    (h : runAct (runRecord cl o.record) s = (.ok (stores, nan), u)) :
    startOp s cl k o = setOp u cl k { o with running := true, stores := stores, nan := nan } := by
  rw [startOp, settle_ok h]

theorem exec_pressOpRetire (hq : headOp (clu s cl).queue press = some (o, before)) (hrun : o.running = true) :
    exec (.pressOpRetire cl press) s = .next (retireOp s cl o) := by
  simp only [exec, execPressOpRetire, hq, hrun, if_true]

/-! ## Notes (R149) and shim load (R140) -/

theorem makeNote_room (hen : Rec.noteEn o.record = true) (hp : (drawer s cl (Rec.noteDrawer o.record)).packet = false)
    (hw : noteWaits (clu s cl) o.press (Rec.noteDrawer o.record) = false)
    (hr : (drawer s cl (Rec.noteDrawer o.record)).words.length < 1024) :
    makeNote s cl o = modDrawer s cl (Rec.noteDrawer o.record) (fun d => pushWord 2 d (noteWord o)) := by
  simp [makeNote, deliverNote, hen, hp, hw, hr]

theorem exec_notePush {n : Note} (hn : firstNote (clu s cl) press = some n) :
    exec (.notePush cl press) s = .next (deliverNote (modClu s cl (fun c => { c with notes := c.notes.erase n })) cl n) := by
  simp only [exec, execNotePush, hn]

theorem exec_shimLoadStop (h : 0 < pressLoad (clu s cl) press) :
    exec (.shimLoadStop cl press) s = .next (modClu s cl (fun c => { c with shim := c.shim &&& ~~~(1#4 <<< press) })) := by
  simp only [exec, execShimLoadStop, if_pos h]

end Sys2Proof.Laws

namespace Sys2Proof.Claims
open Sys2Proof Sys2Proof.Machine Sys2Proof.Laws

/-- Settles O28: the start turns on what keeps an operation back (`mayStart`), which an overlap on the scoreboard alone does. -/
theorem pressOperationsRunAndRetire : Obligations.PressOperationsRunAndRetire := by
  intro cl press
  refine ⟨fun env s0 s u o before stores nan hs hq hrun hn hshim hw h => ?start, fun env s0 s o before hs hq hmeet => ?waits,
    fun o before => opWaits_iff, fun s o before hq hrun => exec_pressOpRetire hq hrun, fun s o => makeNote_room,
    fun s n hn _ => exec_notePush hn, fun s => exec_shimLoadStop⟩
  case start => rw [exec_pressOpStart hs hq, if_pos (mayStart_of hrun hn hshim hw), startOp_ok h, setOp]
  case waits =>
    have hkept : mayStart (clu s cl) press o before = false := mayStart_waiting (opWaits_iff.2 hmeet)
    rw [exec_pressOpStart hs hq, hkept, if_neg Bool.false_ne_true]

end Sys2Proof.Claims
end

section
/-! Drawers (R144 to R148): the words after pushes and pops, how many a pop may have, and what DPOP hands over. -/

namespace Sys2Proof.Laws
open Sys2Proof Sys2Proof.Machine

/-! ## A change that changes nothing -/

section
variable {α : Type} [DecidableEq α] {d : α}

theorem tset_tget_from (i : Nat) : ∀ (lo : Nat) (t : Tab α), twfFrom d lo t = true → tset d t i (tget d t i) = t
  | _, [], _ => by simp [tset, tget]
  | lo, (k, w) :: t, h => by
    simp only [twfFrom, Bool.and_eq_true, decide_eq_true_eq] at h
    obtain ⟨⟨_, hw⟩, ht⟩ := h
    by_cases h1 : i = k
    · simp [tset, tget, h1, hw]
    · by_cases h2 : i < k
      · simp [tset, tget, h1, h2]
      · simp [tset, tget, h1, h2, tset_tget_from i (k + 1) t ht]

/-- Writing back what was read leaves a table in its canonical form as it is. -/
theorem tset_tget {t : Tab α} (h : twf d t = true) (i : Nat) : tset d t i (tget d t i) = t := tset_tget_from i 0 t h

end

theorem twf_modClu {s : State} {i : Nat} {f : Cluster → Cluster} (h : twf {} s.clusters = true) :
    twf {} (modClu s i f).clusters = true := twf_tset h ..

theorem modClu_of_same {s : State} {i : Nat} {f : Cluster → Cluster} (h : twf {} s.clusters = true)
    (hf : f (clu s i) = clu s i) : modClu s i f = s := by
  have hread : f (tget {} s.clusters i) = tget {} s.clusters i := hf
  rw [modClu, tmod, hread, tset_tget h]

theorem satInc_zero {w : Nat} (c : BitVec w) : satInc c 0 = c := by
  have hmin : Nat.min c.toNat (2 ^ w - 1) = c.toNat := Nat.min_eq_left (Nat.le_pred_of_lt c.isLt)
  rw [satInc, Nat.add_zero, hmin, BitVec.ofNat_toNat, BitVec.setWidth_eq]

variable {d : Drawer} {who n m : Nat}

/-! ## Pushes (R144, R146, R148) -/

@[simp] theorem pushWord_words (w : Word) : (pushWord who d w).words = d.words ++ [validWord w] := by
  unfold pushWord
  split
  · rfl
  · split <;> rfl

theorem pushWords_words (who : Nat) (ws : List Word) :
    ∀ d : Drawer, (ws.foldl (pushWord who) d).words = d.words ++ ws.map validWord := by
  induction ws with
  | nil => simp
  | cons w ws ih => simp [ih]

theorem validWord_testBit (w : Word) : (validWord w).toNat.testBit 63 = true := by
  have hbit : (1#64 <<< 63).toNat.testBit 63 = true := by decide
  rw [validWord, BitVec.toNat_or, Nat.testBit_or, hbit, Bool.or_true]

theorem pushRoom_word (hp : d.packet = false) : pushRoom d who n = true ↔ d.words.length + n ≤ 1024 := by
  simp [pushRoom, hp]

/-- While a packet is open, its producer alone may push. -/
theorem pushRoom_open (hp : d.packet = true) (ho : d.openLeft ≠ 0) (hw : d.openBy ≠ who) : pushRoom d who n = false := by
  simp [pushRoom, hp, ho, hw]

/-! ## Pops (R144, R147) -/

theorem popWord_words (d : Drawer) : (popWord d).words = d.words.drop 1 := by
  unfold popWord
  cases h : d.words with
  | nil => simp [h]
  | cons w ws => cases d.packet <;> simp

theorem popWords_words (n : Nat) : ∀ d : Drawer, (popWords n d).words = d.words.drop n := by
  induction n with
  | zero => exact fun d => rfl
  | succ n ih => exact fun d => by rw [popWords, ih, popWord_words, List.drop_drop, Nat.add_comm]

theorem poppedWords_unmarked (h : d.marks = []) : poppedWords n d = d.words.take n := by
  simp [poppedWords, h]

theorem markedWords_unmarked {hard : Bool} (h : d.marks = []) : markedWords n hard d = 0 := by
  simp [markedWords, h]

/-! ## Words available (R147, R148) -/

/-- Packets whole or in part, what a pop may have is among the words held. -/
theorem packetAvail_le (T fuel : Nat) : ∀ (left : Nat) (ws : List Word), packetAvail T fuel left ws ≤ ws.length := by
  induction fuel with
  | zero => intro left ws; cases ws <;> simp [packetAvail]
  | succ fuel ih =>
    intro left ws
    cases ws with
    | nil => simp [packetAvail]
    | cons h ws =>
      cases left with
      | zero =>
        have hrest := ih 0 ((h :: ws).drop (headerLen h + 1))
        have hpushed : Nat.min (headerLen h + 1) (ws.length + 1) ≤ ws.length + 1 := Nat.min_le_right ..
        simp only [List.length_drop, List.length_cons] at hrest
        simp only [packetAvail, List.length_cons]
        generalize Nat.min (headerLen h + 1) (ws.length + 1) = pushed at hpushed ⊢
        split_ifs <;> omega
      | succ left =>
        have hrest := ih 0 ((h :: ws).drop (left + 1))
        simp only [List.length_drop] at hrest
        simp only [packetAvail]
        split <;> omega

theorem available_word (hp : d.packet = false) : available d = d.words.length := by simp [available, hp]

theorem available_le (d : Drawer) : available d ≤ d.words.length := by
  cases hp : d.packet with
  | false => exact (available_word hp).le
  | true => simpa [available, hp] using packetAvail_le ..

/-! ## DPOP (R171) -/

/-- Of a drawer without a storage error DPOP takes the words that it hands over and counts nothing. -/
theorem runAct_runDpop {s : State} {c : Ctx} {w : Nat} (hd : d = drawer s c.cl (Slot.e w)) (hk : d.marks = [])
    (hs : twf {} s.clusters = true) (hn : n = if bit (Slot.fn w) 0 then 8 else 1) (hm : m = Nat.min n (available d)) :
    runAct (runDpop c w) s = (.ok { writes := if n = 8
        then [.v (Slot.d w) (packLanes 64 ((d.words.take m ++ List.replicate (n - m) 0).map BitVec.toNat))]
        else [.s (Slot.d w) ((d.words.take m ++ List.replicate (n - m) 0).headD 0)] },
      modDrawer s c.cl (Slot.e w) (popWords m)) := by
  have hcount : modClu (modDrawer s c.cl (Slot.e w) (popWords m)) c.cl
      (fun x => { x with dwCe := satInc x.dwCe 0, dwUe := satInc x.dwUe 0 }) = modDrawer s c.cl (Slot.e w) (popWords m) :=
    modClu_of_same (twf_modClu hs) (by simp only [satInc_zero])
  subst hd hm hn
  rw [runDpop, runAct_bind_ok runAct_get]
  simp only [markedWords_unmarked hk, poppedWords_unmarked hk]
  rw [runAct_bind_ok (runAct_edit _), hcount]
  rfl

end Sys2Proof.Laws

namespace Sys2Proof.Claims
open Sys2Proof Sys2Proof.Machine Sys2Proof.Laws

/-- Settles O29: pushes append and pops drop, whatever the mode, and no pop may have more than the words held. -/
theorem drawersKeepOrder : Obligations.DrawersKeepOrder := by
  intro d who n ws
  exact ⟨pushWords_words who ws d, validWord_testBit, popWords_words n d, poppedWords_unmarked,
    fun c w m s hd hk hs hn hm => ⟨_, runAct_runDpop hd hk hs hn hm, rfl⟩,
    fun hp => ⟨available_word hp, pushRoom_word hp⟩, pushRoom_open, available_le d⟩

end Sys2Proof.Claims
end

section
/-! Resets in progress (R351, R353, R354, R365): the end of the drain, service again, and escalation. -/

namespace Sys2Proof.Laws
open Sys2Proof Sys2Proof.Machine

variable {s : State} {d i : Nat} {r : Resetting}

/-! ## The end of the drain (R129, R236, R354) -/

/-- The entry of the reset `r` says that it has drained. -/
def markDrained (s : State) (r : Resetting) : State :=
  { s with rst := { s.rst with resetting := s.rst.resetting.map (fun q => if q = r then { q with drained := true } else q) } }

theorem foldl_zeroSpad_pwr (l : List Nat) : (l.foldl zeroSpad s).pwr = s.pwr :=
  List.foldlRecOn (motive := fun u : State => u.pwr = s.pwr) l _ rfl fun _ hu _ _ => hu

@[simp] theorem wipeDomain_pwr (s : State) (d i : Nat) : (wipeDomain s d i).pwr = s.pwr := by
  unfold wipeDomain
  split
  · rfl
  · exact foldl_zeroSpad_pwr _
  · exact foldl_zeroSpad_pwr _
  · rfl

/-- What is lost holds no domain in its reset, and frees none. -/
theorem heldDown_wipeDomain (s : State) (d i : Nat) : heldDown (wipeDomain s d i) d i = heldDown s d i := by
  simp only [heldDown, dieDown, stackDown, dom, wipeDomain_pwr]

theorem exec_resetDrainEnd (hr : resettingOf s d i = some r) (hd : r.drained = false) (hh : heldDown s d i = false) :
    exec (.resetDrainEnd d i) s = .next (markDrained (logReset (wipeDomain s d i) d i r.cause r.ended.length) r) := by
  have hw : heldDown (wipeDomain s d i) d i = false := by rw [heldDown_wipeDomain, hh]
  simp only [exec, execResetDrainEnd, hr, hd, hw, Bool.false_eq_true, if_false, markDrained]

theorem exec_resetDrainEnd_drained (hr : resettingOf s d i = some r) (hd : r.drained = true) :
    exec (.resetDrainEnd d i) s = .next s := by
  simp only [exec, execResetDrainEnd, hr, hd, if_true]

/-! ## Service again (R351, R365, R373) -/

theorem exec_domainServeAgain (hr : resettingOf s d i = some r) (hd : r.drained = true) (hh : heldDown s d i = false)
    (hw : d ≠ Dom.warm) : exec (.domainServeAgain d i) s =
      .next (resumeActivation { s with rst := { s.rst with resetting := s.rst.resetting.filter (fun q => q ≠ r) } } d i) := by
  simp only [exec, execDomainServeAgain, hr, hd, hh, Bool.not_false, Bool.and_self, if_true, if_neg hw]

theorem exec_domainServeAgain_held (hh : heldDown s d i = true) : exec (.domainServeAgain d i) s = .next s := by
  simp only [exec, execDomainServeAgain, hh, Bool.not_true, Bool.and_false, Bool.false_eq_true, if_false]
  split <;> rfl

theorem resumeActivation_none (h : s.mgt.activating = []) : resumeActivation s d i = s := by
  simp [resumeActivation, activationDomain, h]

/-! ## Escalation (R353) -/

section
variable (hr : resettingOf s d i = some r) (ht : r.started + escalationNs d ≤ now s) (hh : heldDown s d i = false)
include hr ht hh

theorem exec_resetEscalation_outward {e : Nat × Nat} (he : escalatesTo d i = some e) :
    exec (.resetEscalation d i) s = .next (beginReset s e.1 e.2 Cause.escalation) := by
  simp only [exec, execResetEscalation, hr, ht, hh, Bool.not_false, and_self, if_true, he]

theorem exec_resetEscalation_outermost (he : escalatesTo d i = none) :
    exec (.resetEscalation d i) s = .next (if d = Dom.warm then goFatal s else s) := by
  simp only [exec, execResetEscalation, hr, ht, hh, Bool.not_false, and_self, if_true, he]

end

end Sys2Proof.Laws

namespace Sys2Proof.Claims
open Sys2Proof Sys2Proof.Machine Sys2Proof.Laws

/-- Settles O50: the drain, service again and escalation of the reset in progress; `escalatesTo` gives the outer domain, and none for a
link and for the package. -/
theorem resetsEndOrEscalate : Obligations.ResetsEndOrEscalate := by
  intro s d i r hr
  refine ⟨fun hd hh => ⟨_, rfl, exec_resetDrainEnd hr hd hh⟩, exec_resetDrainEnd_drained hr, exec_domainServeAgain hr,
    fun h u hu => resumeActivation_none (by rw [hu, h]), exec_domainServeAgain_held, fun ht hh => ⟨?cluster, ?region, ?dieOrStack,
    ?link, ?package⟩⟩
  case cluster => rintro rfl; exact exec_resetEscalation_outward hr ht hh rfl
  case region => rintro rfl; exact exec_resetEscalation_outward hr ht hh rfl
  case dieOrStack => rintro (rfl | rfl) <;> exact exec_resetEscalation_outward hr ht hh rfl
  case link => rintro rfl; exact exec_resetEscalation_outermost hr ht hh rfl
  case package => rintro rfl; exact exec_resetEscalation_outermost hr ht hh rfl

end Sys2Proof.Claims
end

section
/-! Tasks in the walker (R229 to R231, R244): what placement makes of a task that is ready, RELEASE_ALL, and the start of a JIG task
(R153 to R155). -/

namespace Sys2Proof.Laws
open Sys2Proof Sys2Proof.Machine Sys2Proof.Claims

variable {s s0 u : State} {t n cl d : Nat} {x : Task} {env : Env} {st : Status}

/-! ## Placement (R229 to R231) -/

section
variable (hx : taskAt s t = some x) (hr : isReady x = true) (hw : walkerServes s x.die = true)
include hx hr hw

theorem exec_taskPlace_unit (hs : spotOf s x = .unit n) (hb : heldBack s t x n = false) :
    exec (.taskPlace t) s = .next (placeOn s t x n) := by
  simp only [exec, execTaskPlace, hx, hr, hw, hs, hb, Bool.and_self, if_true, Bool.false_eq_true, if_false]

theorem exec_taskPlace_atOnce (hs : spotOf s x = .atOnce st) : exec (.taskPlace t) s = .next (endAtOnce s t x st) := by
  simp only [exec, execTaskPlace, hx, hr, hw, hs, Bool.and_self, if_true]

end

/-- A NOP competes for no unit. -/
theorem spotOf_nop (hk : x.desc.kind = Kind.nop) : spotOf s x = .atOnce Code.ok := by
  simp only [spotOf, unitSpot, if_pos hk]

theorem endAtOnce_nop (hk : x.desc.kind = Kind.nop) : endAtOnce s t x st = endWork (startTask s t) t Code.ok 0 := if_pos hk

theorem placeOn_bench (hk : x.desc.kind = Kind.bench) :
    placeOn s t x n = modStk (modTask s t (fun x => { x with state := .placed, unit := some n })) n
      (fun y => { y with benchQueue := y.benchQueue ++ [t] }) := by
  have hjig : Kind.bench ≠ Kind.jig := by decide
  rw [placeOn, hk, if_neg hjig, if_pos rfl]

/-! ## RELEASE_ALL (R244) -/

theorem releaseAll_held (h : heldTasks s d ≠ []) :
    releaseAll s d = modWlk ((heldTasks s d).foldl (fun s t => modTask s t (fun x => { x with state := .ready })) s) d
      (fun w => { w with lastCmd := Code.ok }) :=
  if_neg (mt List.isEmpty_iff.1 h)

theorem releaseAll_none (h : heldTasks s d = []) :
    releaseAll s d = modWlk s d (fun w => { w with lastCmd := Code.stateConflict }) :=
  if_pos (List.isEmpty_iff.2 h)

theorem exec_releaseAll {p : PortId} (hm : MaySet s p) (hd : d < 4) : exec (.releaseAll p d) s = .next (releaseAll s d) := by
  have hcode : (1 : Word).toNat % 4 = 1 := by decide
  simp only [exec, execReleaseAll, if_pos hd, viseWrite_of_maySet hm, writeWlkCtrl, if_pos hcode]

/-! ## The start of a JIG task (R153 to R155) -/

theorem exec_jigTaskStart (hs : s = applyEnv env s0) (ht : (clu s cl).task = some t) (hx : taskAt s t = some x)
    (hb : (clu s cl).begun = false) (he : (clu s cl).ended = 0) (hwork : x.workDone = false)
    (hr : inReset s Dom.cluster cl = false) : exec (.jigTaskStart cl env) s0 = .next (startJigTask s cl t x) := by
  simp [exec, execJigTaskStart, ← hs, ht, hx, hb, he, hwork, hr]

theorem startJigTask_ok {h : List Byte} (hrun : runAct (jigBegin cl x) (startOnce s t) = (.ok h, u)) :
    startJigTask s cl t x = startCluster u cl x h := settle_ok hrun

theorem startJigTask_fail (hrun : runAct (jigBegin cl x) (startOnce s t) = (.error (.fail st), u)) :
    startJigTask s cl t x = modClu u cl (fun c => { c with begun := true, ended := st }) := settle_fail hrun

end Sys2Proof.Laws

namespace Sys2Proof.Claims
open Sys2Proof Sys2Proof.Machine Sys2Proof.Laws

/-- Settles O21: what placement, RELEASE_ALL and the start of a JIG task do turns on the spot, the list of the held and the header. -/
theorem tasksArePlaced : Obligations.TasksArePlaced := by
  refine ⟨fun t u x s => exec_taskPlace_unit, fun t x s hx hr hw hk => ?nop, fun t u x s _ => placeOn_bench,
    fun p d s hm hd h => ?released, fun p d s hm hd h => ?nothingHeld,
    fun cl t x env s0 s u h hs ht hx hb he hwork hr hrun => ?started,
    fun cl t x env s0 s u st hs ht hx hb he hwork hr hrun => ?refused⟩
  case nop => rw [exec_taskPlace_atOnce hx hr hw (spotOf_nop hk), endAtOnce_nop hk]
  case released => rw [exec_releaseAll hm hd, releaseAll_held h]
  case nothingHeld => rw [exec_releaseAll hm hd, releaseAll_none h]
  case started => rw [exec_jigTaskStart hs ht hx hb he hwork hr, startJigTask_ok hrun]
  case refused => rw [exec_jigTaskStart hs ht hx hb he hwork hr, startJigTask_fail hrun]

end Sys2Proof.Claims
end

section
/-! The bundles of a jig (R158, R160, R176, R178): what becomes of the next bundle of a jig that runs, the registers after a write, and
a bundle of one S slot. -/

namespace Sys2Proof.Laws
open Sys2Proof Sys2Proof.Machine

variable {s s0 u w : State} {cl j t : Nat} {c : Ctx} {x : Task} {b : Bundle} {env : Env} {st : Status} {ce : CEffect}

/-! ## The next bundle (R158, R176) -/

theorem tryBundle_ok {pc : Nat} (h : runAct (runBundle c x pc b) s = (.ok ce, w)) : tryBundle s c x pc b = afterBundle w c ce := by
  rw [tryBundle, h]

theorem tryBundle_fail {pc : Nat} (h : runAct (runBundle c x pc b) s = (.error (.fail st), w)) :
    tryBundle s c x pc b = endJigTask w c.cl st := by
  rw [tryBundle, h]

theorem oneBundle_illegal (h : runAct (fetchBundle c (jig s c.cl c.j).pc.toNat) s = (.ok (b, true), u)) :
    oneBundle s c x = afterBundle (havoc u c x) c {} := by
  rw [oneBundle, settle_ok h]
  rfl

section
variable (h : runAct (fetchBundle c (jig s c.cl c.j).pc.toNat) s = (.ok (b, false), u))
include h

theorem oneBundle_skipped (hg : guardOf (jig u c.cl c.j) b = false) :
    oneBundle s c x = afterBundle (skipBundle u c (jig s c.cl c.j).pc.toNat b) c {} := by
  rw [oneBundle, settle_ok h]
  simp only [hg, Bool.false_eq_true, if_false, Bool.not_false, if_true]

theorem oneBundle_tried (hg : guardOf (jig u c.cl c.j) b = true) :
    oneBundle s c x = tryBundle u c x (jig s c.cl c.j).pc.toNat b := by
  rw [oneBundle, settle_ok h]
  simp only [hg, Bool.false_eq_true, if_false, Bool.not_true]

end

/-! ## A jig that runs (R178) -/

section
variable (hs : s = applyEnv env s0) (ht : (clu s cl).task = some t) (hx : taskAt s t = some x)
  (ha : jigActive s cl j = true) (hstop : (jig s cl j).stopped = false)
include hs ht hx ha hstop

theorem exec_bundleExecute_break {cause : BitVec 3} (hb : breakCause (jig s cl j) x.desc.tag.toNat = some cause) :
    exec (.bundleExecute cl j env) s0 = .next (stopJig s cl j cause) := by
  simp [exec, execBundleExecute, runJig, ctxOf, ← hs, ht, hx, ha, hstop, hb]

theorem exec_bundleExecute_bundle (hb : breakCause (jig s cl j) x.desc.tag.toNat = none) :
    exec (.bundleExecute cl j env) s0 = .next (oneBundle s (ctxOf s cl j t x) x) := by
  simp [exec, execBundleExecute, runJig, ctxOf, ← hs, ht, hx, ha, hstop, hb]

end

/-! ## Registers after a write (Table 6-1) -/

section
variable {g : Jig} {n m : Nat}

@[simp] theorem sreg_zero (g : Jig) : sreg g 0 = 0 := rfl

@[simp] theorem preg_zero (g : Jig) : preg g 0 = true := rfl

theorem sreg_putReg_same (h : twf 0 g.s = true) (hn : n ≠ 0) (v : Word) : sreg (putReg g (.s n v)) n = v := by
  rw [putReg, if_neg hn, sreg, if_neg hn, tget_tset_same h]

theorem sreg_putReg_other (h : twf 0 g.s = true) (hm : m ≠ n) (v : Word) : sreg (putReg g (.s n v)) m = sreg g m := by
  by_cases hn : n = 0
  · rw [putReg, if_pos hn]
  · simp only [putReg, if_neg hn, sreg, tget_tset_other h hm]

theorem vreg_putReg_same (h : twf 0 g.v = true) (v : BitVec 512) : vreg (putReg g (.v n v)) n = v := tget_tset_same h ..

theorem vreg_putReg_other (h : twf 0 g.v = true) (hm : m ≠ n) (v : BitVec 512) : vreg (putReg g (.v n v)) m = vreg g m :=
  tget_tset_other h hm ..

/-- The predicates after bit `n` of them is written: the bit is `b`, the others are as they were. -/
theorem getLsbD_writeBit (p : BitVec 8) (b : Bool) (n : Nat) {m : Nat} (hm : m < 8) :
    (if b then p ||| (1#8 <<< n) else p &&& ~~~(1#8 <<< n)).getLsbD m = if m = n then b else p.getLsbD m := by
  have hone : (1#8 <<< n).getLsbD m = decide (m = n) := by
    rw [← BitVec.twoPow_eq, BitVec.getLsbD_twoPow]
    by_cases h : m = n
    · simp [h, h ▸ hm]
    · simp [h, Ne.symm h]
  cases b with
  | true =>
    rw [if_pos rfl, BitVec.getLsbD_or, hone]
    by_cases h : m = n <;> simp [h]
  | false =>
    rw [if_neg Bool.false_ne_true, BitVec.getLsbD_and, BitVec.getLsbD_not, hone]
    by_cases h : m = n <;> simp [h, hm]

theorem preg_putReg {b : Bool} (hn : n ≠ 0) (hm : m < 8) :
    preg (putReg g (.p n b)) m = (decide (m = 0) || if m = n then b else preg g m) := by
  rw [putReg, if_neg hn, preg, preg, bit, bit, BitVec.testBit_toNat, BitVec.testBit_toNat, getLsbD_writeBit _ _ _ hm]
  by_cases h : m = 0 <;> simp [h]

theorem preg_putReg_same {b : Bool} (hn : n ≠ 0) (h8 : n < 8) : preg (putReg g (.p n b)) n = b := by
  simp [preg_putReg hn h8, hn]

theorem preg_putReg_other {b : Bool} (hn : n ≠ 0) (hmn : m ≠ n) (hm : m < 8) : preg (putReg g (.p n b)) m = preg g m := by
  by_cases h : m = 0
  · simp [h]
  · simp [preg_putReg hn hm, h, hmn]

end

/-! ## A bundle of one S slot (R157, R160) -/

theorem runAct_runBundle_scalar (c : Ctx) (x : Task) (pc k : Nat) (s : State) :
    runAct (runBundle c x pc { head := 0x8000, s := some k }) s = (.ok {}, modJig (modJig { s with freeCtr := s.freeCtr + 1 } c.cl c.j
      (fun g => putReg g (runS (jig s c.cl c.j) (sysValue s c (jig s c.cl c.j).bundles.toNat
        (freeBelow s (dieCeiling s (c.cl / 64) - 599)).1) k))) c.cl c.j (fun g => goOn g ((pc + 6) % 2 ^ 46))) := by
  have hlen : bundleLen 0x8000 = 6 := by decide
  simp only [runBundle, hlen]
  rfl

end Sys2Proof.Laws

namespace Sys2Proof.Claims
open Sys2Proof Sys2Proof.Machine Sys2Proof.Laws

/-- Settles O25: a break, an illegal bundle and a guard that fails come before the bundle is tried, which retires or ends the task. -/
theorem bundlesExecute : Obligations.BundlesExecute := by
  intro cl j t x env s0 s hs ht hx ha hstop
  refine ⟨fun cause => exec_bundleExecute_break hs ht hx ha hstop, fun u b hb hf => ?illegal, fun u b hb hf =>
    ⟨fun hg => ?skipped, fun w ce hg hrun => ?retired, fun w st hg hrun => ?fault⟩⟩
  all_goals rw [exec_bundleExecute_bundle hs ht hx ha hstop hb]
  case illegal => rw [oneBundle_illegal hf]
  case skipped => rw [oneBundle_skipped hf hg]; rfl
  case retired => rw [oneBundle_tried hf hg]; exact congrArg _ (tryBundle_ok hrun)
  case fault => rw [oneBundle_tried hf hg]; exact congrArg _ (tryBundle_fail hrun)

/-- Settles O26: the one slot reads before anything is written, and a register write reaches its own register alone. -/
theorem scalarBundles : Obligations.ScalarBundles := by
  refine ⟨fun c x pc w s => ⟨_, runAct_runBundle_scalar c x pc w s⟩, fun g a => ⟨rfl, rfl, rfl, rfl, rfl⟩, fun g r hgs hgv =>
    ⟨sreg_zero _, preg_zero _, ?scalar, ?vector, ?predicate⟩⟩
  case scalar => rintro n v rfl hn; exact ⟨sreg_putReg_same hgs hn v, fun m hm => sreg_putReg_other hgs hm v⟩
  case vector => rintro n v rfl; exact ⟨vreg_putReg_same hgv v, fun m hm => vreg_putReg_other hgv hm v⟩
  case predicate => rintro n b rfl hn h8; exact ⟨preg_putReg_same hn h8, fun m => preg_putReg_other hn⟩

end Sys2Proof.Claims
end

section
/-! Debug of a jig (R178, R179): the commands of the vise holder, what DBG_DATA writes, and a jig that stops alone. -/

namespace Sys2Proof.Laws
open Sys2Proof Sys2Proof.Machine Sys2Proof.Claims

variable {s s0 : State} {p : PortId} {cl j : Nat} {env : Env}

/-! ## The commands (R179) -/

/-- A set-up write of the vise holder to a block of a cluster that is present is made (R390, R393). -/
theorem clusterWrite_of_maySet (hm : MaySet s p) (hc : clusterPresent s cl = true) (off : Nat) (v : Word) (k : State → State) :
    clusterWrite s p cl off v k = k s := by
  rw [clusterWrite, viseWrite_of_maySet hm, if_pos hc]

theorem resumeJig_stopped (h : (jig s cl j).stopped = true) (stepping : Bool) :
    resumeJig s cl j stepping = refreshHold (modJig s cl j (fun g => { g with
      stopped := false, cause := 0, skipBreak := true, stepping := stepping })) cl := if_pos h

theorem resumeJig_running (h : (jig s cl j).stopped = false) (stepping : Bool) : resumeJig s cl j stepping = s :=
  if_neg (ne_true_of_eq_false h)

section
variable (hm : MaySet s p) (hc : clusterPresent s cl = true)
include hm hc

theorem exec_jigHaltReq : exec (.jigHaltReq p cl j) s = .next (stopJig s cl j 4) := by
  rw [exec, execJigHaltReq, clusterWrite_of_maySet hm hc]

theorem exec_jigResume : exec (.jigResume p cl j) s = .next (resumeJig s cl j false) := by
  rw [exec, execJigResume, clusterWrite_of_maySet hm hc]

theorem exec_jigStep (hs : s = applyEnv env s0) (h : (jig s cl j).stopped = true) :
    exec (.jigStep p cl j env) s0 = .next (runJig (resumeJig s cl j true) cl j) := by
  rw [exec, execJigStep, ← hs, clusterWrite_of_maySet hm hc, if_pos h]

theorem exec_jigDbgDataWrite (v : Word) : exec (.jigDbgDataWrite p cl j v) s =
    .next (if (jig s cl j).stopped then modJig s cl j (fun g => dbgWrite (jig s cl (1 - j)) g v) else s) := by
  rw [exec, execJigDbgDataWrite, clusterWrite_of_maySet hm hc]

end

/-! ## DBG_DATA (Table 6-15) -/

theorem dbgWrite_scalar {o g : Jig} (h : fld g.dbgSel.toNat 10 8 = 0) (v : Word) :
    dbgWrite o g v = putReg g (.s (fld g.dbgSel.toNat 7 3) v) := by
  simp only [dbgWrite, h]

/-- The program counter that is written is even, and astray where neither jig's control flow has reached it. -/
theorem dbgWrite_pc {o g : Jig} (h : fld g.dbgSel.toNat 10 8 = 3) (v : Word) :
    dbgWrite o g v = { g with
      pc := BitVec.ofNat 46 (v.toNat % 2 ^ 46 / 2 * 2)
      astray := !(g.starts.contains (v.toNat % 2 ^ 46 / 2 * 2) || o.starts.contains (v.toNat % 2 ^ 46 / 2 * 2)) } := by
  simp only [dbgWrite, h]

/-! ## A stop (R178) -/

theorem stopOne_active (ha : jigActive s cl j = true) (hstop : (jig s cl j).stopped = false) (cause : BitVec 3) {u : State}
    (hu : u = unstall (modJig s cl j (fun g => { g with stopped := true, cause := cause, stepping := false })) cl
      (fun b => decide (b = .jig j))) :
    stopOne s cl j cause = logEvent u Cls.jigStop 0 0 4 (2 * cl + j) (clusterTag u cl % 2 ^ 32)
      (cause.toNat * 2 ^ 61 + (jig u cl j).pc.toNat) := by
  simp only [stopOne, ha, hstop, Bool.not_false, Bool.and_self, if_true, hu]

end Sys2Proof.Laws

namespace Sys2Proof.Claims
open Sys2Proof Sys2Proof.Machine Sys2Proof.Laws

/-- Settles O27: the vise holder's write reaches the debug block of a cluster that is present, and what it does turns on STOPPED. -/
theorem jigDebugCommands : Obligations.JigDebugCommands := by
  refine ⟨fun p cl j s hm hc => ⟨fun _ _ => exec_jigHaltReq hm hc, fun h => ?resume, fun h => ?running, fun env s0 hs h => ?step,
    fun v h => ?write, fun v h => ?ignored, fun o g v => ⟨fun h => dbgWrite_scalar h v, fun h => ?pc⟩⟩,
    fun s u cl j cause ha hstop => stopOne_active ha hstop cause⟩
  case resume => rw [exec_jigResume hm hc, resumeJig_stopped h]
  case running => rw [exec_jigResume hm hc, resumeJig_running h]
  case step => rw [exec_jigStep hm hc hs h, resumeJig_stopped h]
  case write => rw [exec_jigDbgDataWrite hm hc, if_pos h]
  case ignored => rw [exec_jigDbgDataWrite hm hc, h, if_neg Bool.false_ne_true]
  case pc => rw [dbgWrite_pc h]; exact ⟨rfl, rfl⟩

end Sys2Proof.Claims
end

section
/-! Chains of layout calls (R183, R184, R192): what the start of a call answers, what watching an engine's writes leaves on the chain,
and how a call's end goes on. -/

namespace Sys2Proof.Laws
open Sys2Proof Sys2Proof.Machine

variable {s s0 u w : State} {env : Env} {r t : Nat} {c e : Chain} {rest : List Chain} {st : Status}

/-! ## The start of a call (R183, R192) -/

/-- The chain `c` while its call runs: what the call's reads have answered, and the writes that wait for its end. -/
def callBegun (c : Chain) (res : CallResult) (call : Call) : Chain := { c with
  busy := true, started := true, calls := c.calls + 1, next := call.next, transposing := decide (call.op = Lop.transpose),
  hint := call.dst.hint, stores := res.stores, passes := res.passes, status := res.status, clamps := c.clamps + res.clamps,
  nans := c.nans + res.nans, pow2 := c.pow2 + res.pow2 }

theorem runAct_startCall {res : CallResult} {call : Call} (ho : ∀ q n, c.owner ≠ .swap q n)
    (h : runAct (beginCall r c) (modReg u r (fun x => { x with mitreFail := none, mitreAgain := [] })) = (.ok (res, call), w)) :
    runAct (startCall r c) u = (.ok (), setHead (noteDest w c call) r (callBegun c res call)) := by
  rw [startCall, runAct_bind_ok (runAct_edit _)]
  split
  · next q n hq => exact absurd hq (ho q n)
  · exact runAct_bind_ok h

/-- An idle chain at the head of an engine that works tries its acquire and its first call. -/
theorem exec_layoutChainStart (hs : s = applyEnv env s0) (hc : (reg s r).chains = c :: rest) (hb : c.busy = false)
    (hr : inReset s Dom.region r = false) :
    exec (.layoutChainStart r env) s0 =
      .next (settleChain r c (chainAcquire r c >>= fun _ => startCall r c) (startOwner s r c)) := by
  simp only [exec, execLayoutChainStart, ← hs, hc, hb, hr, Bool.or_self, Bool.false_eq_true, if_false]

/-! ## Watched writes (R249, R252) -/

theorem mem_addPort {p q : PortId} {l : List PortId} (h : p ∈ l) : p ∈ addPort l q := by
  unfold addPort
  split
  · exact h
  · exact List.mem_append_left _ h

theorem mem_foldl_addPort {p : PortId} (qs : List PortId) : ∀ {l : List PortId}, p ∈ l → p ∈ qs.foldl addPort l := by
  induction qs with
  | nil => exact fun h => h
  | cons q qs ih => exact fun h => ih (mem_addPort h)

/-- A watched action that succeeds has succeeded with the task's own notes set aside; what came of it is on the chain too. -/
theorem runAct_watched_inv {α : Type} {a : Act α} {y : α} (h : runAct (watched c a) s = (.ok (y, e), u)) :
    ∃ v, runAct a (watchTask s c.task) = (.ok y, v) ∧ u = (watchEnd s v c.task).1 ∧ e = { c with
      hostPorts := (watchEnd s v c.task).2.1.foldl addPort c.hostPorts
      relFail := firstFail c.relFail (watchEnd s v c.task).2.2 } := by
  rw [watched, runAct_bind_ok runAct_get, runAct_bind_ok (runAct_edit _), runAct_bind] at h
  split at h
  · next x v ha =>
    cases h
    exact ⟨v, ha, rfl, rfl⟩
  · cases h

/-- Watching adds to the ports of the chain and to its failures, and to nothing else of it. -/
theorem watched_chain {α : Type} {a : Act α} {y : α} (h : runAct (watched c a) s = (.ok (y, e), u)) :
    e = { c with hostPorts := e.hostPorts, relFail := e.relFail } ∧ ∀ p, p ∈ c.hostPorts → p ∈ e.hostPorts := by
  obtain ⟨v, -, -, rfl⟩ := runAct_watched_inv h
  exact ⟨rfl, fun p => mem_foldl_addPort _⟩

theorem watched_owner {α : Type} {a : Act α} {y : α} (h : runAct (watched c a) s = (.ok (y, e), u)) : e.owner = c.owner := by
  rw [(watched_chain h).1]

/-! ## The end of a call (R184) -/

/-- The chain once its call has ended with `st`, on its way to the call at `next`. -/
def callEnded (e : Chain) (st : Status) (next : Nat) : Chain :=
  { e with busy := false, stores := [], passes := [], status := st, addr := next }

/-- One more call counted by the engine (log entry 38). -/
def callCounted (s : State) (r : Nat) : State := modReg s r (fun x => { x with calls := x.calls + 1 })

/-- Whether a call that has ended with `st` would be followed by a 65th one. -/
def tooMany (c : Chain) (st : Status) : Bool := decide (st = 0 ∧ c.next ≠ 0 ∧ 64 ≤ c.calls)

/-- The status of a chain after a call that has ended with `st`: a 65th call is refused. -/
def endStatus (c : Chain) (st : Status) : Status := if tooMany c st then Code.descriptorInvalid else st

theorem endStatus_last (h : st ≠ 0 ∨ c.next = 0) : endStatus c st = st :=
  if_neg (by simpa [tooMany] using fun h0 hn => (h.elim (· h0) hn).elim)

theorem endStatus_early (h : c.calls < 64) : endStatus c st = st := if_neg (by simp [tooMany, h])

theorem endStatus_refused (hn : c.next ≠ 0) (hc : 64 ≤ c.calls) : endStatus c 0 = Code.descriptorInvalid :=
  if_pos (by simp [tooMany, hn, hc])

theorem exec_layoutCallEnd (hs : s = applyEnv env s0) (hc : (reg s r).chains = c :: rest) (hb : c.busy = true) :
    exec (.layoutCallEnd r env) s0 = .next (settleChain r c (finishCall r c) s) := by
  simp only [exec, execLayoutCallEnd, ← hs, hc, hb, if_true]

theorem runAct_releaseChain (ho : ∀ cl j t, c.owner ≠ .ticket cl j t) : runAct (releaseChain r c) s = (.ok c, s) := by
  unfold releaseChain
  split
  · next cl j t hq => exact absurd hq (ho cl j t)
  · rfl

section
variable (h : runAct (watched c (finishStores r c)) s = (.ok (st, e), u))
include h

/-- Once the writes are made, the chain's status and its next call decide between its end and that call. -/
theorem runAct_finishCall : runAct (finishCall r c) s =
    runAct (if endStatus c st ≠ 0 || c.next = 0
      then releaseChain r (callEnded e (endStatus c st) c.next) >>= fun d => edit (fun s => endChain s r d)
      else startCall r (callEnded e (endStatus c st) c.next)) (callCounted u r) := by
  rw [finishCall, runAct_bind_ok h]
  obtain ⟨v, -, -, rfl⟩ := runAct_watched_inv h
  exact runAct_bind_ok (runAct_edit _)

/-- A chain that is not an LCALL's ends where its status says so or no call follows. -/
theorem runAct_finishCall_ends (ho : ∀ cl j t, c.owner ≠ .ticket cl j t) (hend : endStatus c st ≠ 0 ∨ c.next = 0) :
    runAct (finishCall r c) s = (.ok (), endChain (callCounted u r) r (callEnded e (endStatus c st) c.next)) := by
  have hne : ∀ cl j t, (callEnded e (endStatus c st) c.next).owner ≠ .ticket cl j t := fun cl j t =>
    (watched_owner h).trans_ne (ho cl j t)
  rw [runAct_finishCall h, if_pos (by simpa using hend)]
  exact runAct_bind_ok (runAct_releaseChain hne)

end

theorem runAct_finishCall_goesOn (h : runAct (watched c (finishStores r c)) s = (.ok (0, e), u)) (hn : c.next ≠ 0) (hc : c.calls < 64) :
    runAct (finishCall r c) s = runAct (startCall r (callEnded e 0 c.next)) (callCounted u r) := by
  rw [runAct_finishCall h, endStatus_early hc, if_neg (by simp [hn])]

/-! ## The end of a chain (R184) -/

theorem reg_modReg (h : twf {} s.regions = true) (f : Region → Region) : reg (modReg s r f) r = f (reg s r) := tget_tset_same h ..

theorem admitChains_none (n : Nat) (h : (reg s r).waiting = []) : admitChains n s r = s := by
  cases n with
  | zero => rfl
  | succ n => simp only [admitChains, h]

/-- A layout task's chain ends the task's work; no chain that waits outside takes its place. -/
theorem endChain_task (ho : c.owner = .task t) (hw : (reg u r).waiting = []) (hf : twf {} u.regions = true) :
    endChain u r c = endWork (modReg u r (fun x => { x with chains := x.chains.drop 1 })) t (chainStatus c) (chainWord c) := by
  have hwait : (reg (modReg u r (fun x => { x with chains := x.chains.drop 1 })) r).waiting = [] := by rw [reg_modReg hf, hw]
  simp only [endChain, admitChains_none 64 hwait, ho]

end Sys2Proof.Laws

namespace Sys2Proof.Claims
open Sys2Proof Sys2Proof.Machine Sys2Proof.Laws

/-- Settles O31: the start is tried and succeeds; at a call's end the chain's status and its next call decide how it goes on. -/
theorem layoutChainsRun : Obligations.LayoutChainsRun := by
  intro r env s0 s c rest hs hc
  refine ⟨fun u v w res call hb hr ho ha hv hcall => ?start, fun u st e hb ho h hend => ?last, fun u e hb ho h hn h64 => ?refused,
    fun st e u => watched_chain, fun u w e hb h hn hlt hw => ?next, fun u t => endChain_task⟩
  case start =>
    subst hv
    rw [exec_layoutChainStart hs hc hb hr, settleChain_ok ((runAct_bind_ok ha).trans (runAct_startCall ho hcall))]
    rfl
  all_goals rw [exec_layoutCallEnd hs hc hb]
  case last =>
    have hst := endStatus_last hend
    rw [settleChain_ok (runAct_finishCall_ends h ho (hst.symm ▸ hend)), hst]
    rfl
  case refused =>
    have hst := endStatus_refused hn h64
    rw [settleChain_ok (runAct_finishCall_ends h ho (.inl (hst.symm ▸ by decide))), hst]
    rfl
  case next => rw [settleChain_ok ((runAct_finishCall_goesOn h hn hlt).trans hw)]

end Sys2Proof.Claims
end

section
/-! Rings (R210, R211, R215, R217, R360, R396): the commands of the vise holder, the configuration of a stopped ring, and doorbells. -/

namespace Sys2Proof.Laws
open Sys2Proof Sys2Proof.Machine Sys2Proof.Claims

variable {s : State} {p : PortId} {r t : Nat} {x : Ring} {v : Word}

/-! ## A ring after its own update -/

theorem ring_modRing (h : twf {} s.rings = true) (f : Ring → Ring) : ring (modRing s r f) r = f (ring s r) := tget_tset_same h ..

theorem ring_modRing_other (h : twf {} s.rings = true) {q : Nat} (hq : q ≠ r) (f : Ring → Ring) : ring (modRing s r f) q = ring s q :=
  tget_tset_other h hq _

theorem twf_modRing (h : twf {} s.rings = true) (f : Ring → Ring) : twf {} (modRing s r f).rings = true := twf_tset h ..

theorem modRing_of_same (h : twf {} s.rings = true) {f : Ring → Ring} (hf : f (ring s r) = ring s r) : modRing s r f = s := by
  have hread : f (tget {} s.rings r) = tget {} s.rings r := hf
  rw [modRing, tmod, hread, tset_tget h]

/-! ## The commands (R217, Table 8-4) -/

section
variable (hm : MaySet s p) (hr : r < 64)
include hm hr

/-- A write of the vise holder reaches the block of a ring. -/
theorem ringWrite_of_maySet (off : Nat) (v : Word) (k : State → State) : ringWrite s p r off v k = k s := by
  rw [ringWrite, if_pos hr, viseWrite_of_maySet hm]

theorem exec_start : exec (.start p r) s = .next (startRing s r) := congrArg _ (ringWrite_of_maySet hm hr ..)
theorem exec_stop : exec (.stop p r) s = .next (stopCommand s r) := congrArg _ (ringWrite_of_maySet hm hr ..)
theorem exec_abort : exec (.abort p r) s = .next (abortCommand s r) := congrArg _ (ringWrite_of_maySet hm hr ..)
theorem exec_ringConfigWrite (v : Word) : exec (.ringConfigWrite p r v) s = .next (writeRingConfig r v s) :=
  congrArg _ (ringWrite_of_maySet hm hr ..)

end

theorem startRing_refused (h : (ring s r).state ≠ .stopped ∨ (ring s r).assigned = false) :
    startRing s r = ringStatus s r Code.stateConflict := by
  rw [startRing, if_pos (by simpa using h)]

/-- A stopped, assigned ring starts where its set-up is sound. -/
theorem startRing_stopped (hst : (ring s r).state = .stopped) (ha : (ring s r).assigned = true) :
    startRing s r = if ringSetUp s (ring s r) then ringStatus (modRing s r (fun x => { x with
      state := .running, sqHead := 0, sqTail := 0, cqHead := 0, cqTail := 0 })) r Code.ok
    else ringStatus s r Code.descriptorInvalid := by
  rw [startRing, if_neg (by simp [hst, ha])]
  cases ringSetUp s (ring s r) <;> rfl

theorem ringMemory_iff {write : Bool} {a n : Nat} : ringMemory s x write a n = true ↔
    hostBaseOf (ringPort x) ≤ a ∧ a + n ≤ hostBaseOf (ringPort x) + 2 ^ 43 ∧ inWindows s x.part.toNat write a n = true := by
  simp only [ringMemory, Bool.and_eq_true, decide_eq_true_eq, and_assoc]

theorem ringSetUp_iff : ringSetUp s x = true ↔
    (4 ≤ x.sqLog2.toNat ∧ x.sqLog2.toNat ≤ 16 ∧ 4 ≤ x.cqLog2.toNat ∧ x.cqLog2.toNat ≤ 16) ∧
      ringMemory s x false (x.sqBase.toNat * 64) (64 * 2 ^ x.sqLog2.toNat) = true ∧
      ringMemory s x true (x.cqBase.toNat * 64) (32 * 2 ^ x.cqLog2.toNat) = true := by
  simp only [ringSetUp, Bool.and_eq_true, decide_eq_true_eq, and_assoc]

/-! ## ABORT and a task (R18) -/

theorem endUnstarted_begun {y : Task} {st : Status} (hy : taskAt s t = some y) (h : y.started = true ∨ y.workDone = true) :
    endUnstarted s t st = s := by
  simp only [endUnstarted, hy]
  rw [if_pos (by simpa using h)]

theorem endUnstarted_waiting {y : Task} {st : Status} (hy : taskAt s t = some y) (hs : y.started = false) (hw : y.workDone = false) :
    endUnstarted s t st = endWork (unplace s t y) t st 0 := by
  simp only [endUnstarted, hy, hs, hw, Bool.or_self, Bool.false_eq_true, if_false]

theorem abortTask_eq {y : Task} (hy : taskAt s t = some y) : abortTask s t =
    if pathUp s 4 y.die then endUnstarted s t Code.skipped
    else { s with hub := { s.hub with abortsHeld := s.hub.abortsHeld ++ [t] } } := by
  simp only [abortTask, hy, Option.map_some, Option.getD_some]

/-! ## The configuration (R396, Table 8-17) -/

/-- The fields of `RING.CONFIG` that the lock of the rings does not hold. -/
def withSizes (v : Word) (x : Ring) : Ring := { x with
  irqEn := v.toNat.testBit 43, vector := BitVec.ofNat 11 (v.toNat >>> 32), cqLog2 := BitVec.ofNat 5 (v.toNat >>> 8),
  sqLog2 := BitVec.ofNat 5 v.toNat }

section
variable (hst : (ring s r).state = .stopped) (hl : s.hub.lockRings = false)
include hst hl

/-- A value that assigns the ring to no partition, or to a locked one, is written whole. -/
theorem writeRingConfig_named (h : v.toNat.testBit 31 = false ∨ (prt s (fld v.toNat 27 24)).locked = true) :
    writeRingConfig r v s = modRing s r (fun x => { withSizes v x with
      assigned := v.toNat.testBit 31, part := BitVec.ofNat 4 (v.toNat >>> 24), portB := v.toNat.testBit 16 }) := by
  have hnamed : (!v.toNat.testBit 31 || (prt s (fld v.toNat 27 24)).locked) = true := by simpa using h
  have hrest : decide ((ring s r).state = .stopped) = true := decide_eq_true hst
  simp only [writeRingConfig, bit, hrest, hl, hnamed, if_true, Bool.not_false, Bool.not_true, Bool.and_self, Bool.and_false, ne_eq,
    not_true, or_self, decide_false, Bool.or_self, Bool.false_eq_true, if_false]
  rfl

/-- Assignment to a partition that is not locked is left out, and logged. -/
theorem writeRingConfig_unlocked (h : v.toNat.testBit 31 = true) (hp : (prt s (fld v.toNat 27 24)).locked = false) :
    writeRingConfig r v s = setupIgnored (modRing s r (withSizes v)) (Base.ring r + 0x10) v := by
  have hrest : decide ((ring s r).state = .stopped) = true := decide_eq_true hst
  simp only [writeRingConfig, bit, hrest, hl, h, hp, modRing_hub, if_true, Bool.not_false, Bool.not_true, Bool.and_false, Bool.and_self,
    Bool.or_false, Bool.or_true, Bool.false_eq_true, if_false]
  rfl

end

/-! ## Doorbells (R210, R211, R215, R360) -/

theorem doorbell_taken {off : Nat} {ok : Ring → Bool} {k : State → State} (hr : r < 64) (ha : (ring s r).assigned = true)
    (hp : ringPort (ring s r) = p) (hok : ok (ring s r) = true) : doorbell s p r off v ok k = k s := by
  rw [doorbell, if_neg (Nat.not_le.2 hr)]
  simp [ha, hp, hok]

theorem doorbell_ignored {off : Nat} {ok : Ring → Bool} {k : State → State} (hr : r < 64)
    (h : ((ring s r).assigned = false ∨ ringPort (ring s r) ≠ p) ∨ ok (ring s r) = false) : doorbell s p r off v ok k =
      logEvent s Cls.doorbellIgnored 0 0 8 (portIdx p) (0x1000 * r + off) v.toNat := by
  have hno : ((ring s r).assigned && decide (ringPort (ring s r) = p) && ok (ring s r)) = false := by
    rcases h with (h | h) | h <;> simp [h]
  rw [doorbell, if_neg (Nat.not_le.2 hr)]
  simp only [hno, Bool.false_eq_true, if_false]

/-- A running ring takes a tail that its length lets it. -/
theorem tailOk_running {n : BitVec 32} (hx : x.state = .running) (hh : (n - x.sqHead).toNat ≤ 2 ^ x.sqLog2.toNat)
    (ht : (n - x.sqTail).toNat ≤ 2 ^ x.sqLog2.toNat) : tailOk x n = true := by
  simp only [tailOk, hx, hh, ht, decide_true, Bool.and_self, Bool.or_true]

theorem tailOk_far {n : BitVec 32} (hn : n ≠ x.sqTail) (hh : 2 ^ x.sqLog2.toNat < (n - x.sqHead).toNat) : tailOk x n = false := by
  simp only [tailOk, hn, Nat.not_le.2 hh, decide_false, Bool.and_false, Bool.false_and, Bool.or_self]

theorem headOk_eq_false {n : BitVec 32} (h : (x.cqTail - x.cqHead).toNat < (n - x.cqHead).toNat) : headOk x n = false :=
  decide_eq_false (Nat.not_le.2 h)

/-- A running ring that holds no completion is drained. -/
theorem drainRing_idle (hf : twf {} s.rings = true) (hh : (ring s r).held = []) (hs : (ring s r).state = .running) :
    drainRing s r = s := by
  rw [drainRing, hh]
  exact modRing_of_same hf (if_neg (by simp [hs]))

section
variable (hl : (port s p).linkUp = true) (hd : (port s p).d3hot = false) (hm : s.hub.stage = .mainReady) (hh : (port s p).held = [])
include hl hd hm hh

/-- A doorbell meets nothing held on a port that talks. -/
theorem ringBell_taken (off : Nat) : ringBell s p r off v = takeBell s p r off v := by
  simp [ringBell, portTalks, hl, hd, hm, drainPort_nothing_held hh, hh]

theorem exec_sqTail : exec (.sqTail p r v) s = .next (takeBell s p r 0 v) := congrArg _ (ringBell_taken hl hd hm hh 0)
theorem exec_cqHead : exec (.cqHead p r v) s = .next (takeBell s p r 8 v) := congrArg _ (ringBell_taken hl hd hm hh 8)

end

theorem takeBell_latched {off : Nat} (h : firmwarePaused s = true) :
    takeBell s p r off v = modPort s p (fun q => { q with latched := q.latched ++ [(r, off, v)] }) := if_pos h

theorem takeBell_now {off : Nat} (h : firmwarePaused s = false) : takeBell s p r off v = actOnBell s p (r, off, v) :=
  if_neg (by simp [h])

theorem takeBell_tail (h : firmwarePaused s = false) : takeBell s p r 0 v = takeSqTail s p r v := takeBell_now h
theorem takeBell_head (h : firmwarePaused s = false) : takeBell s p r 8 v = takeCqHead s p r v := takeBell_now h

end Sys2Proof.Laws

namespace Sys2Proof.Claims
open Sys2Proof Sys2Proof.Machine Sys2Proof.Laws

/-- Settles O17: each command is what its ring's state decides, and the configuration is what the named partition's lock decides. -/
theorem ringCommands : Obligations.RingCommands := by
  intro p r s hm hr
  refine ⟨fun hst ha hx => ?started, fun h => ?startRefused, fun hst ha hx => ?unsound, fun x => ?setUp, fun hst => ?stopped,
    fun hst => ?stopRefused, fun hst => ?aborted, fun k x u hx => ⟨fun hp => ⟨?abortedTask, fun h => ?begun, fun hs hw => ?ended⟩,
      fun hp => ?late⟩, fun hst => ?abortRefused, fun v hst hl h31 => ?unassigned, fun v hst hl h31 => ⟨fun hlock => ?assigned,
      fun hlock => ?unlocked⟩⟩
  case started => rw [exec_start hm hr, startRing_stopped hst ha, if_pos hx]
  case startRefused => rw [exec_start hm hr, startRing_refused h]
  case unsound => rw [exec_start hm hr, startRing_stopped hst ha, hx]; rfl
  case setUp =>
    rw [ringSetUp_iff, ringMemory_iff, ringMemory_iff]
    simp [and_assoc]
  case stopped => rw [exec_stop hm hr, stopCommand, if_pos hst, stopRing]
  case stopRefused => rw [exec_stop hm hr, stopCommand, if_neg hst]
  case aborted => rw [exec_abort hm hr, abortCommand, if_neg hst]
  case abortRefused => rw [exec_abort hm hr, abortCommand, if_pos hst]
  case abortedTask => rw [abortTask_eq hx, if_pos hp]
  case begun => rw [abortTask_eq hx, if_pos hp, endUnstarted_begun hx h]
  case ended => rw [abortTask_eq hx, if_pos hp, endUnstarted_waiting hx hs hw]
  case late => rw [abortTask_eq hx, hp]; rfl
  case unassigned => rw [exec_ringConfigWrite hm hr, writeRingConfig_named hst hl (.inl h31), h31]; rfl
  case assigned => rw [exec_ringConfigWrite hm hr, writeRingConfig_named hst hl (.inr hlock), h31]; rfl
  case unlocked => rw [exec_ringConfigWrite hm hr, writeRingConfig_unlocked hst hl h31 hlock]; rfl

/-- Settles O18: a doorbell is latched or acted on, and then its ring takes it or logs it. -/
theorem doorbellsMoveTheCounts : Obligations.DoorbellsMoveTheCounts := by
  intro p r v s hl hd hm hh hr
  have tail {t : State} (h : takeBell s p r 0 v = t) : exec (.sqTail p r v) s = .next t := by rw [exec_sqTail hl hd hm hh, h]
  have head {t : State} (h : takeBell s p r 8 v = t) : exec (.cqHead p r v) s = .next t := by rw [exec_cqHead hl hd hm hh, h]
  refine ⟨fun hp => ⟨tail (takeBell_latched hp), head (takeBell_latched hp)⟩, fun h => ?latched,
    fun hp => ⟨tail (takeBell_now hp), head (takeBell_now hp)⟩, fun hp ha hport hst h1 h2 => tail ?tail,
    fun hp h => ⟨tail ?deafTail, head ?deafHead⟩, fun hp hn hfar => tail ?farTail, fun hp ha hport hin hheld hst hf => head ?head,
    fun hp hpast => head ?farHead⟩
  case latched => rw [ringLatched, h]; rfl
  case tail => rw [takeBell_tail hp, takeSqTail, doorbell_taken hr ha hport (tailOk_running hst h1 h2)]
  case deafTail => rw [takeBell_tail hp, takeSqTail, doorbell_ignored hr (.inl h)]
  case deafHead => rw [takeBell_head hp, takeCqHead, doorbell_ignored hr (.inl h)]
  case farTail => rw [takeBell_tail hp, takeSqTail, doorbell_ignored hr (.inr (tailOk_far hn hfar))]
  case farHead => rw [takeBell_head hp, takeCqHead, doorbell_ignored hr (.inr (headOk_eq_false hpast))]
  case head =>
    have hring := ring_modRing (r := r) hf (fun x => { x with cqHead := v.setWidth 32 })
    rw [takeBell_head hp, takeCqHead, doorbell_taken hr ha hport (decide_eq_true hin)]
    exact drainRing_idle (twf_modRing hf _) (by rw [hring, hheld]) (by rw [hring, hst])

end Sys2Proof.Claims
end

section
/-! Graphs (R213, R223 to R226): what the front end makes of the next entry of a ring, and the entry of a graph into the walkers. -/

namespace Sys2Proof.Laws
open Sys2Proof Sys2Proof.Machine

/-! ## Fetching (R213, R223, R224) -/

section
variable {s s0 u w : State} {env : Env} {r : Nat} {e h : List Byte} {ds : List TaskDesc} {st : Status} {first : Option Nat}

/-- The turn has passed to the ring behind `r`. -/
def turnTaken (s : State) (r : Nat) : State := { s with hub := { s.hub with rotation := (r + 1) % 64 } }

/-- The ring whose turn it is has one entry fetched, where nothing pauses the front end and a graph has room. -/
theorem exec_graphFetch (hs : s = applyEnv env s0) (hp : frontPaused s = false) (hn : s.graphs.length < 1024)
    (ht : fetchTurn s = some r) : exec (.graphFetch r env) s0 = .next (settle (fetchGraph r) s (fun _ t => t)) := by
  simp [exec, execGraphFetch, ← hs, hp, ht, hn]

/-- What a turn makes of the graph that the entry `e` names. -/
def takeGraph (r : Nat) (e : List Byte) : Except (Status × Option Nat) (List Byte × List TaskDesc) → Act Unit
  | .error (st, first) => edit (fun s => rejectEntry s r (BitVec.ofNat 64 (at_ e 16 8)) st first)
  | .ok (h, ds) => edit (fun s => holdGraph s r e h ds)

/-- What follows the read of an entry: FENCE, and then the graph that it names. -/
theorem runAct_fetchGraph_read (hr : runAct (loadFrom 4 (sqSlot (ring s r)) 64) (turnTaken s r) = (.ok e, u)) :
    runAct (fetchGraph r) s = runAct (if bit (at_ e 24 1) 0 && decide ((ring s r).graphs ≠ 0) then pure ()
      else readGraph (ring s r).part.toNat e >>= takeGraph r e) u := by
  rw [fetchGraph, runAct_bind_ok (runAct_edit _), runAct_bind_ok runAct_get]
  exact runAct_bind_ok (runAct_attempt_ok hr)

theorem runAct_fetchGraph_unread (hr : runAct (loadFrom 4 (sqSlot (ring s r)) 64) (turnTaken s r) = (.error (.fail st), u)) :
    runAct (fetchGraph r) s = (.ok (), rejectEntry { u with freeCtr := u.freeCtr + 1 } r
      (BitVec.ofNat 64 (Config.freeNat u.freeCtr % 2 ^ 64)) st none) := by
  rw [fetchGraph, runAct_bind_ok (runAct_edit _), runAct_bind_ok runAct_get]
  exact runAct_bind_ok (runAct_attempt_fail hr)

section
variable (hr : runAct (loadFrom 4 (sqSlot (ring s r)) 64) (turnTaken s r) = (.ok e, u))
include hr

theorem runAct_fetchGraph_fenced (hf : bit (at_ e 24 1) 0 = true) (hg : (ring s r).graphs ≠ 0) :
    runAct (fetchGraph r) s = (.ok (), u) := by
  rw [runAct_fetchGraph_read hr, if_pos (by simp [hf, hg])]
  rfl

section
variable (hf : bit (at_ e 24 1) 0 = false ∨ (ring s r).graphs = 0)
include hf

theorem runAct_fetchGraph_passed (hg : runAct (readGraph (ring s r).part.toNat e) u = (.ok (.ok (h, ds)), w)) :
    runAct (fetchGraph r) s = (.ok (), holdGraph w r e h ds) := by
  rw [runAct_fetchGraph_read hr, if_neg (by rcases hf with hf | hf <;> simp [hf])]
  exact runAct_bind_ok hg

theorem runAct_fetchGraph_rejected (hg : runAct (readGraph (ring s r).part.toNat e) u = (.ok (.error (st, first)), w)) :
    runAct (fetchGraph r) s = (.ok (), rejectEntry w r (BitVec.ofNat 64 (at_ e 16 8)) st first) := by
  rw [runAct_fetchGraph_read hr, if_neg (by rcases hf with hf | hf <;> simp [hf])]
  exact runAct_bind_ok hg

end

end

end

/-! ## Tasks in the tables -/

section
variable {s : State} {t k : Nat} {x : Task} {f : Task → Task}

/-- A write of a value that is not the default leaves every other key of any table alone. -/
theorem tget_tset_other_live {α : Type} [DecidableEq α] {d v : α} (hv : v ≠ d) {i j : Nat} (hij : j ≠ i) :
    ∀ t : Tab α, tget d (tset d t i v) j = tget d t j
  | [] => by simp [tset, hv, tget, hij]
  | (k, w) :: t => by
    by_cases h1 : i = k
    · subst h1
      simp [tset, hv, tget, hij]
    · by_cases h2 : i < k
      · have hbelow : j < i → j ≠ k ∧ j < k := fun h => ⟨by omega, by omega⟩
        by_cases h3 : j < i <;> simp [tset, hv, tget, hij, h1, h2, h3, hbelow]
      · simp [tset, h1, h2, tget, tget_tset_other_live hv hij t]

theorem modTask_of_some (h : taskAt s t = some x) (f : Task → Task) :
    modTask s t f = { s with tasks := tset none s.tasks t (some (f x)) } := by
  simp only [modTask, h]

theorem taskAt_modTask (h : taskAt s t = some x) (f : Task → Task) : taskAt (modTask s t f) t = some (f x) := by
  rw [modTask_of_some h]
  exact tget_tset_live t _ (Option.some_ne_none _) _

theorem taskAt_modTask_other (hk : k ≠ t) (f : Task → Task) : taskAt (modTask s t f) k = taskAt s k := by
  cases h : taskAt s t with
  | none => simp only [modTask, h]
  | some x =>
    rw [modTask_of_some h]
    exact tget_tset_other_live (Option.some_ne_none _) hk _

theorem taskKey_inj {g i j : Nat} (h : taskKey g i = taskKey g j) : i = j := Nat.add_left_cancel h

end

/-! ## What opening a task leaves alone (R226, R227) -/

/-- A task without what its opening may change: its state and the time of its wait, and what an end at once gives it. -/
def fixedPart (x : Task) : Task := { x with state := .pending, waitSince := 0, workDone := false, status := 0, result := 0 }

/-- From `s` to `u` the tasks of the keys `K` may have been opened; other tasks, graphs, rings and domains are as they were. -/
structure Opens (K : Nat → Prop) (s u : State) : Prop where
  others : ∀ k, ¬ K k → taskAt u k = taskAt s k
  fixed : ∀ k, (taskAt u k).map fixedPart = (taskAt s k).map fixedPart
  nextGraph : u.nextGraph = s.nextGraph
  graphs : u.graphs = s.graphs
  admitQueue : u.admitQueue = s.admitQueue
  rings : u.rings = s.rings
  pwr : u.pwr = s.pwr

section
variable {K L : Nat → Prop} {s u w : State} {t g : Nat} {x : Task} {e : Nat × TaskDesc × Nat} {l : List (Nat × TaskDesc × Nat)}

theorem Opens.refl : Opens K s s := ⟨fun _ _ => rfl, fun _ => rfl, rfl, rfl, rfl, rfl, rfl⟩

theorem Opens.trans (h : Opens K s u) (h' : Opens K u w) : Opens K s w :=
  ⟨fun k hk => (h'.others k hk).trans (h.others k hk), fun k => (h'.fixed k).trans (h.fixed k), h'.nextGraph.trans h.nextGraph,
    h'.graphs.trans h.graphs, h'.admitQueue.trans h.admitQueue, h'.rings.trans h.rings, h'.pwr.trans h.pwr⟩

theorem Opens.mono (h : Opens K s u) (hKL : ∀ k, K k → L k) : Opens L s u :=
  { h with others := fun k hk => h.others k (mt (hKL k) hk) }

theorem modTask_opens {f : Task → Task} (ht : K t) (hf : ∀ x, fixedPart (f x) = fixedPart x) : Opens K s (modTask s t f) := by
  refine ⟨fun k hk => taskAt_modTask_other (by rintro rfl; exact hk ht) f, fun k => ?_, by simp, by simp, by simp, by simp, by simp⟩
  by_cases hk : k = t
  · subst hk
    cases hx : taskAt s k with
    | none => simp only [modTask, hx]
    | some x => rw [taskAt_modTask hx, Option.map_some, Option.map_some, hf]
  · rw [taskAt_modTask_other hk]

theorem logEvent_opens {cls : BitVec 8} {sev : BitVec 2} {st : Status} {kind index d0 d1 : Nat} (h : Opens K s u) :
    Opens K s (logEvent u cls sev st kind index d0 d1) := by
  have htasks : (logEvent u cls sev st kind index d0 d1).tasks = u.tasks :=
    logEvent_keeps modPort_tasks emit_tasks (fun _ _ => rfl) ..
  refine h.trans ⟨fun k _ => congrArg (tget none · k) htasks, fun k => congrArg (fun a => (tget none a k).map fixedPart) htasks,
    logEvent_keeps modPort_nextGraph emit_nextGraph (fun _ _ => rfl) .., logEvent_keeps modPort_graphs emit_graphs (fun _ _ => rfl) ..,
    logEvent_keeps modPort_admitQueue emit_admitQueue (fun _ _ => rfl) .., logEvent_keeps modPort_rings emit_rings (fun _ _ => rfl) ..,
    logEvent_keeps modPort_pwr emit_pwr (fun _ _ => rfl) ..⟩

theorem enterReady_opens (ht : K t) : Opens K s (enterReady s t) := by
  unfold enterReady
  split
  · exact .refl
  · dsimp only
    split
    · exact logEvent_opens (modTask_opens ht fun _ => rfl)
    · exact modTask_opens ht fun _ => rfl

theorem tryReady_opens (ht : K t) : Opens K s (tryReady s t) := by
  unfold tryReady
  split
  · exact .refl
  · split
    · exact enterReady_opens ht
    · exact .refl

theorem startWaiting_opens (ht : K t) : Opens K s (startWaiting s t) :=
  .trans (modTask_opens (f := fun x => { x with state := .waiting, waitSince := now s }) ht fun _ => rfl) (tryReady_opens ht)

/-- A task that is on no unit has no place to leave. -/
theorem endUnstarted_opens {st : Status} (ht : K t) (hu : ∀ x, taskAt s t = some x → x.unit = none) :
    Opens K s (endUnstarted s t st) := by
  unfold endUnstarted
  split
  · exact .refl
  · next x hx =>
    split
    · exact .refl
    · rw [show unplace s t x = s by simp only [unplace, hu x hx]]
      exact modTask_opens ht fun x => by split <;> rfl

/-- Whether a task ends or begins to wait as soon as it enters (R227, R373). -/
def OpensAtOnce (s : State) (e : Nat × TaskDesc × Nat) : Prop := offline s e.2.2 e.2.1 = true ∨ e.2.1.predCount = 0

theorem OpensAtOnce.of_pwr (h : OpensAtOnce u e) (hp : u.pwr = s.pwr) : OpensAtOnce s e := by
  simpa only [OpensAtOnce, offline, dieDown, stackDown, dom, hp] using h

theorem openTask_opens (hu : ∀ x, taskAt s (taskKey g e.1) = some x → x.unit = none) :
    Opens (fun k => k = taskKey g e.1 ∧ OpensAtOnce s e) s (openTask g s e) := by
  unfold openTask
  split
  · next h => exact endUnstarted_opens ⟨rfl, .inl h⟩ hu
  · split
    · next h => exact startWaiting_opens ⟨rfl, .inr h⟩
    · exact .refl

theorem foldl_openTask_opens (hu : ∀ e ∈ l, ∀ x, taskAt s (taskKey g e.1) = some x → x.unit = none) :
    Opens (fun k => ∃ e ∈ l, k = taskKey g e.1 ∧ OpensAtOnce s e) s (l.foldl (openTask g) s) := by
  refine List.foldlRecOn (motive := Opens _ s) l _ .refl fun u h e he => h.trans ?_
  refine (openTask_opens fun y hy => ?_).mono fun k ⟨hk, ho⟩ => ⟨e, he, hk, ho.of_pwr h.pwr⟩
  have hfix := h.fixed (taskKey g e.1)
  rw [hy, Option.map_some] at hfix
  obtain ⟨x, hx, hxy⟩ := Option.map_eq_some_iff.1 hfix.symm
  exact (congrArg Task.unit hxy).symm.trans (hu e he x hx)

end

/-! ## Entry (R225, R226, R228) -/

/-- A task as it enters: its waits have seen the pegs, and nothing else has happened to it. -/
def JustEntered (g q : Nat) (e : Nat × TaskDesc × Nat) (x : Task) : Prop := ∃ waits news, x = {
  graph := g, index := e.1, die := e.2.2, part := q, desc := { e.2.1 with waits := waits }, preds := e.2.1.predCount, pegNews := news }

/-- The tasks of a graph with their indices and the dies of their walkers. -/
def entriesOf (x : Graph) : List (Nat × TaskDesc × Nat) := (List.range x.tasks.length).zip (x.tasks.zip x.dies)

section
variable {s : State} {r g q i n die : Nat} {x : Graph} {d : TaskDesc} {e : Nat × TaskDesc × Nat} {l : List (Nat × TaskDesc × Nat)}

theorem lookWaits_eq (y : Task) : ∃ waits news, lookWaits s y = { y with desc := { y.desc with waits := waits }, pegNews := news } := by
  refine List.foldlRecOn (motive := fun z : Task => ∃ waits news, z = { y with desc := { y.desc with waits := waits }, pegNews := news })
    y.desc.waits _ ⟨_, _, rfl⟩ ?_
  rintro _ ⟨waits, news, rfl⟩ w -
  unfold tellTask
  split
  · exact ⟨_, _, rfl⟩
  · split <;> exact ⟨_, _, rfl⟩

theorem taskAt_enterTask : ∃ x, taskAt (enterTask g q s e) (taskKey g e.1) = some x ∧ JustEntered g q e x := by
  obtain ⟨waits, news, h⟩ := lookWaits_eq (s := s) {
    graph := g, index := e.1, die := e.2.2, part := q, desc := e.2.1, preds := e.2.1.predCount }
  exact ⟨_, tget_tset_live _ _ (Option.some_ne_none _) _, waits, news, h⟩

theorem taskAt_enterTask_other {k : Nat} (hk : k ≠ taskKey g e.1) : taskAt (enterTask g q s e) k = taskAt s k :=
  tget_tset_other_live (Option.some_ne_none _) hk _

theorem foldl_enterTask_keeps {α : Type} (f : State → α) (hf : ∀ u t, f { u with tasks := t } = f u) :
    f (l.foldl (enterTask g q) s) = f s :=
  List.foldlRecOn (motive := fun u => f u = f s) l _ rfl fun u hu _ _ => (hf u _).trans hu

theorem taskAt_foldl_enterTask_other {k : Nat} (hk : ∀ e ∈ l, k ≠ taskKey g e.1) :
    taskAt (l.foldl (enterTask g q) s) k = taskAt s k :=
  List.foldlRecOn (motive := fun u => taskAt u k = taskAt s k) l _ rfl fun _ hu e he => (taskAt_enterTask_other (hk e he)).trans hu

/-- Tasks of different indices enter beside each other. -/
theorem taskAt_foldl_enterTask (hl : l.Pairwise (fun a b => a.1 ≠ b.1)) :
    ∀ s, ∀ e ∈ l, ∃ x, taskAt (l.foldl (enterTask g q) s) (taskKey g e.1) = some x ∧ JustEntered g q e x := by
  induction l with
  | nil => simp
  | cons a l ih =>
    obtain ⟨ha, hl⟩ := List.pairwise_cons.1 hl
    intro s e he
    rcases List.mem_cons.1 he with rfl | he
    · rw [List.foldl_cons, taskAt_foldl_enterTask_other fun b hb h => ha b hb (taskKey_inj h)]
      exact taskAt_enterTask
    · exact ih hl _ e he

theorem index_of_entriesOf (h : (entriesOf x)[i]? = some e) : e.1 = i := by
  obtain ⟨hrange, -⟩ := List.getElem?_zip_eq_some.1 h
  obtain ⟨hlt, hi⟩ := List.getElem?_eq_some_iff.1 hrange
  exact hi.symm.trans (List.getElem_range hlt)

theorem entriesOf_pairwise : (entriesOf x).Pairwise (fun a b => a.1 ≠ b.1) := by
  refine List.pairwise_iff_getElem.2 fun i j hi hj hij => ?_
  rw [index_of_entriesOf (List.getElem?_eq_getElem hi), index_of_entriesOf (List.getElem?_eq_getElem hj)]
  exact Nat.ne_of_lt hij

theorem entriesOf_getElem? (hi : x.tasks[i]? = some d) (hd : x.dies[i]? = some die) : (entriesOf x)[i]? = some (i, d, die) := by
  have hlt : i < x.tasks.length := (List.getElem?_eq_some_iff.1 hi).1
  exact List.getElem?_zip_eq_some.2 ⟨List.getElem?_range hlt, List.getElem?_zip_eq_some.2 ⟨hi, hd⟩⟩

/-- An index names one entry of a graph. -/
theorem entriesOf_unique {e' : Nat × TaskDesc × Nat} (he : e ∈ entriesOf x) (he' : e' ∈ entriesOf x) (h : e.1 = e'.1) : e = e' := by
  obtain ⟨i, hi⟩ := List.mem_iff_getElem?.1 he
  obtain ⟨j, hj⟩ := List.mem_iff_getElem?.1 he'
  have hij : i = j := by rw [← index_of_entriesOf hi, ← index_of_entriesOf hj, h]
  exact Option.some.inj (hi.symm.trans (hij ▸ hj))

/-- The graph has been handed over, and none of its tasks has entered yet. -/
def handedOver (s : State) (r : Nat) (x : Graph) : State :=
  { modRing s r (fun y => { y with sqHead := y.sqHead + 1, waiting := none, graphs := y.graphs + 1 }) with
    nextGraph := s.nextGraph + 1, graphs := tset none s.graphs s.nextGraph (some x),
    admitQueue := if x.admitted then s.admitQueue else s.admitQueue ++ [s.nextGraph] }

/-- All tasks of the graph have entered, and none has been opened yet. -/
def allEntered (s : State) (r : Nat) (x : Graph) : State := (entriesOf x).foldl (enterTask s.nextGraph x.part) (handedOver s r x)

theorem enterGraph_eq : enterGraph s r x = (entriesOf x).foldl (openTask s.nextGraph) (allEntered s r x) := rfl

theorem enterGraph_no_tasks (h : x.tasks = []) : enterGraph s r x = handedOver s r x := by
  have : entriesOf x = [] := by rw [entriesOf, h]; rfl
  rw [enterGraph_eq, allEntered, this]
  rfl

theorem taskAt_allEntered (he : e ∈ entriesOf x) :
    ∃ y, taskAt (allEntered s r x) (taskKey s.nextGraph e.1) = some y ∧ JustEntered s.nextGraph x.part e y :=
  taskAt_foldl_enterTask entriesOf_pairwise _ e he

theorem enterGraph_opens : Opens (fun k => ∃ e ∈ entriesOf x, k = taskKey s.nextGraph e.1 ∧ OpensAtOnce (allEntered s r x) e)
    (allEntered s r x) (enterGraph s r x) := by
  refine foldl_openTask_opens fun e he y hy => ?_
  obtain ⟨z, hz, waits, news, rfl⟩ := taskAt_allEntered (s := s) (r := r) he
  rw [Option.some.inj (hy.symm.trans hz)]

theorem allEntered_keeps {α : Type} (f : State → α) (hf : ∀ u t, f { u with tasks := t } = f u) :
    f (allEntered s r x) = f (handedOver s r x) := foldl_enterTask_keeps f hf

theorem enterGraph_nextGraph : (enterGraph s r x).nextGraph = s.nextGraph + 1 :=
  enterGraph_opens.nextGraph.trans (allEntered_keeps State.nextGraph fun _ _ => rfl)

theorem enterGraph_graphAt : graphAt (enterGraph s r x) s.nextGraph = some x := by
  rw [graphAt, enterGraph_opens.graphs, allEntered_keeps State.graphs fun _ _ => rfl]
  exact tget_tset_live _ _ (Option.some_ne_none _) _

theorem enterGraph_admitQueue :
    (enterGraph s r x).admitQueue = if x.admitted then s.admitQueue else s.admitQueue ++ [s.nextGraph] :=
  enterGraph_opens.admitQueue.trans (allEntered_keeps State.admitQueue fun _ _ => rfl)

theorem enterGraph_ring (k : Nat) : ring (enterGraph s r x) k =
    ring (modRing s r (fun y => { y with sqHead := y.sqHead + 1, waiting := none, graphs := y.graphs + 1 })) k := by
  rw [ring, enterGraph_opens.rings, allEntered_keeps State.rings fun _ _ => rfl]
  rfl

theorem allEntered_pwr : (allEntered s r x).pwr = s.pwr := allEntered_keeps State.pwr fun _ _ => rfl

/-- A task of a graph that has entered is what its descriptor says, and waits for its predecessors where it has any. -/
theorem enterGraph_taskAt (he : (i, d, die) ∈ entriesOf x) : ∃ y, taskAt (enterGraph s r x) (taskKey s.nextGraph i) = some y ∧
    (∃ z, JustEntered s.nextGraph x.part (i, d, die) z ∧ fixedPart y = fixedPart z ∧
      (0 < d.predCount → offline s die d = false → y = z)) := by
  obtain ⟨z, hz, hze⟩ := taskAt_allEntered (s := s) (r := r) he
  have hfix := enterGraph_opens (s := s) (r := r) (x := x).fixed (taskKey s.nextGraph i)
  rw [hz, Option.map_some] at hfix
  obtain ⟨y, hy, hyz⟩ := Option.map_eq_some_iff.1 hfix
  refine ⟨y, hy, z, hze, hyz, fun hp ho => ?_⟩
  have hstays : ¬ ∃ e ∈ entriesOf x, taskKey s.nextGraph i = taskKey s.nextGraph e.1 ∧ OpensAtOnce (allEntered s r x) e := by
    rintro ⟨e, he', hk, hopen⟩
    obtain rfl := entriesOf_unique he he' (taskKey_inj hk)
    rcases hopen.of_pwr allEntered_pwr with h | h
    · exact Bool.false_ne_true (ho.symm.trans h)
    · exact Nat.ne_of_gt hp h
  exact Option.some.inj (hy.symm.trans ((enterGraph_opens.others _ hstays).trans hz))

theorem exec_graphEnter (hw : (ring s r).waiting = some x) (hp : frontPaused s = false) (hc : canEnter s (ring s r).waitSeq x = true) :
    exec (.graphEnter r) s = .next (enterGraph s r x) := by
  simp only [exec, execGraphEnter, hw, hp, hc, Bool.not_false, Bool.and_self, if_true]

end

end Sys2Proof.Laws

namespace Sys2Proof.Claims
open Sys2Proof Sys2Proof.Machine Sys2Proof.Laws

/-- Settles O19: the read of the entry and the checks decide what a turn does; entry hands the graph over, enters its tasks and then
opens those that need not wait for others. -/
theorem graphsAreFetchedAndEnter : Obligations.GraphsAreFetchedAndEnter := by
  refine ⟨fun r env s0 s u w e h ds hs hp hn ht hr => ⟨fun hf hg => ?fenced, fun hf hg => ?passed⟩,
    fun r env s0 s u w e st first hs hp hn ht hf hr hg => ?rejected, fun r s g hw hp hc ht ha => ?noTasks,
    fun r env s0 s u st hs hp hn ht hr => ?unread, fun r s g hw hp hc => ⟨_, rfl, exec_graphEnter hw hp hc, enterGraph_nextGraph,
      enterGraph_graphAt, enterGraph_admitQueue, fun hf => ?ring, fun _ hlen _ i d hd => ?tasks⟩⟩
  case fenced => rw [exec_graphFetch hs hp hn ht, settle_ok (runAct_fetchGraph_fenced hr hf hg)]
  case passed => rw [exec_graphFetch hs hp hn ht, settle_ok (runAct_fetchGraph_passed hr hf hg)]
  case rejected => rw [exec_graphFetch hs hp hn ht, settle_ok (runAct_fetchGraph_rejected hr hf hg)]
  case unread => rw [exec_graphFetch hs hp hn ht, settle_ok (runAct_fetchGraph_unread hr)]
  case noTasks => rw [exec_graphEnter hw hp hc, enterGraph_no_tasks ht, handedOver, if_pos ha]; rfl
  case ring =>
    simp only [enterGraph_ring]
    refine ⟨?_, ?_, ?_, fun q hq => ring_modRing_other hf hq _⟩ <;> rw [ring_modRing hf]
  case tasks =>
    have hi : i < g.dies.length := hlen ▸ (List.getElem?_eq_some_iff.1 hd).1
    have hdie : g.dies[i]? = some g.dies[i] := List.getElem?_eq_getElem hi
    obtain ⟨y, hy, z, ⟨waits, news, rfl⟩, hyz, hstays⟩ :=
      enterGraph_taskAt (s := s) (r := r) (List.mem_of_getElem? (entriesOf_getElem? hd hdie))
    have hdieOf : y.die = g.dies[i] := congrArg Task.die hyz
    refine ⟨y, hy, congrArg Task.graph hyz, congrArg Task.index hyz, congrArg Task.part hyz, hdieOf ▸ hdie,
      congrArg (fun x => x.desc.kind) hyz, congrArg (fun x => x.desc.tag) hyz, congrArg Task.preds hyz, fun h0 ho => ?_⟩
    rw [hstays h0 (hdieOf ▸ ho)]

end Sys2Proof.Claims
end

section
/-! The end of tasks (R232 to R242, R249, R252, R253): what TASK_COMPLETE does where nothing has to wait, records and counts, time limits and
peg-wait limits, and the flushing reads of tasks, jigs and LCALL tickets. -/

namespace Sys2Proof.Laws
open Sys2Proof Sys2Proof.Machine

/-! ## Statuses (R252, R253) -/

theorem demote_ok (st : Status) : demote st Code.ok = st := by simp [demote]

/-- A limit that has passed leaves no success for a later failure to replace. -/
theorem demote_runTimeout (st bad : Status) : demote (demote st Code.runTimeout) bad = demote st Code.runTimeout := by
  have hfail : isSuccess Code.runTimeout = false := by decide
  have hbad : Code.runTimeout ≠ Code.ok := by decide
  cases hs : isSuccess st <;> simp [demote, hs, hfail, hbad]

theorem firstFail_zero (st : Status) : firstFail st 0 = st := by
  unfold firstFail
  split
  · next h => exact h.symm
  · rfl

section
variable {s u v w : State} {t cl j : Nat} {x y z : Task} {p : PortId} {st : Status} {g : Graph} {c : Chain} {env : Env} {s0 : State}

theorem stampFail_of_eq (h : y.relFail = x.relFail) : stampFail s x y = y := if_neg fun hn => hn.2 (h.trans hn.1)

theorem releasedStatus_within (h : limitReached s x = false) : releasedStatus s x = demote x.status x.relFail := by
  simp [releasedStatus, h, demote_ok]

theorem releasedStatus_failed_before (hr : x.relFail ≠ 0) (hlt : x.relFailAt < limitEnd s x) :
    releasedStatus s x = demote x.status x.relFail := by
  rw [releasedStatus, if_pos ⟨hr, .inl hlt⟩]

theorem releasedStatus_late (hl : limitReached s x = true) (h : x.relFail = 0 ∨ limitEnd s x ≤ x.relFailAt) :
    releasedStatus s x = demote x.status Code.runTimeout := by
  have hne : Code.runTimeout ≠ Code.ok := by decide
  have hno : ¬ (x.relFail ≠ 0 ∧ (x.relFailAt < limitEnd s x ∨ Code.runTimeout = Code.ok)) := by
    rintro ⟨hr, hlt | he⟩
    · exact h.elim hr (Nat.not_le.2 hlt)
    · exact hne he
  simp only [releasedStatus, hl, if_true, if_neg hno, demote_runTimeout]

/-! ## Flushing reads that go out (R249) -/

theorem sendFlushes_ports (ps : List PortId) : ∀ s, (sendFlushes s ps).1.map Prod.fst = ps := by
  induction ps with
  | nil => exact fun _ => rfl
  | cons p ps ih => exact fun _ => congrArg (p :: ·) (ih _)

theorem sendFlushes_out (ps : List PortId) : ∀ s, (sendFlushes s ps).2.out = s.out ++ ps.map Output.flushRead := by
  induction ps with
  | nil => exact fun s => (List.append_nil _).symm
  | cons p ps ih => exact fun s => (ih _).trans (by simp)

/-- A flushing read changes its port's count and leaves the block, and nothing else. -/
theorem sendFlushes_keeps {α : Type} {f : State → α} (hport : ∀ (u : State) (p : PortId) (g : Port → Port), f (modPort u p g) = f u)
    (hemit : ∀ (u : State) (o : Output), f (emit u o) = f u) (ps : List PortId) : ∀ s, f (sendFlushes s ps).2 = f s := by
  induction ps with
  | nil => exact fun _ => rfl
  | cons p ps ih => exact fun s => (ih _).trans ((hemit ..).trans (hport ..))

section
variable {ps : List PortId} (h : ∀ p, p ∈ ps → portLost (port s p) = false)
include h

theorem askHome_up : askHome s ps = sendFlushes s ps := by
  rw [askHome, List.filter_eq_self.2 fun p hp => by rw [h p hp]; rfl]

theorem lostHome_up : lostHome s ps = 0 := if_neg (by simpa using h)

theorem askHome_ports : (askHome s ps).1.map Prod.fst = ps := by rw [askHome_up h, sendFlushes_ports]
theorem askHome_out : (askHome s ps).2.out = s.out ++ ps.map Output.flushRead := by rw [askHome_up h, sendFlushes_out]

end

theorem askHome_tasks (ps : List PortId) : (askHome s ps).2.tasks = s.tasks := sendFlushes_keeps modPort_tasks emit_tasks _ s
theorem askHome_clusters (ps : List PortId) : (askHome s ps).2.clusters = s.clusters := sendFlushes_keeps modPort_clusters emit_clusters _ s

theorem flushTask_eq (hx : taskAt s t = some x) : flushTask s t = modTask (askHome s x.hostPorts).2 t
    (fun y => stampFail (askHome s x.hostPorts).2 y { y with
      hostPorts := [], flushOut := y.flushOut ++ (askHome s x.hostPorts).1,
      relFail := firstFail y.relFail (lostHome s x.hostPorts) }) := by
  simp only [flushTask, hx]

theorem modTask_of_same (hf : twf none s.tasks = true) (hx : taskAt s t = some x) {f : Task → Task} (h : f x = x) : modTask s t f = s := by
  have hback : tset none s.tasks t (taskAt s t) = s.tasks := tset_tget hf t
  rw [modTask_of_some hx, h, ← hx, hback]

/-- A task that has written to no host since its last flush has nothing to flush. -/
theorem flushTask_none (hf : twf none s.tasks = true) (hx : taskAt s t = some x) (hp : x.hostPorts = []) : flushTask s t = s := by
  rw [flushTask_eq hx, hp]
  refine modTask_of_same hf hx ?_
  have hsame : { x with hostPorts := [], flushOut := x.flushOut ++ [], relFail := firstFail x.relFail 0 } = x := by
    rw [List.append_nil, firstFail_zero, ← hp]
  exact (stampFail_of_eq (firstFail_zero _)).trans hsame

theorem taskAt_flushTask (hx : taskAt s t = some x) (hup : ∀ p, p ∈ x.hostPorts → portLost (port s p) = false) :
    taskAt (flushTask s t) t = some { x with hostPorts := [], flushOut := x.flushOut ++ (askHome s x.hostPorts).1 } := by
  have hsent : taskAt (askHome s x.hostPorts).2 t = some x := (congrArg (tget none · t) (askHome_tasks _)).trans hx
  rw [flushTask_eq hx, taskAt_modTask hsent, lostHome_up hup, stampFail_of_eq (firstFail_zero _), firstFail_zero]

theorem flushTask_out (hx : taskAt s t = some x) (hup : ∀ p, p ∈ x.hostPorts → portLost (port s p) = false) :
    (flushTask s t).out = s.out ++ x.hostPorts.map Output.flushRead := by
  rw [flushTask_eq hx, modTask_out, askHome_out hup]

/-! ## Flushing reads of jigs and tickets (R172, R182) -/

theorem clu_modClu (h : twf {} s.clusters = true) (f : Cluster → Cluster) : clu (modClu s cl f) cl = f (clu s cl) := tget_tset_same h ..

/-- A cluster that differs from the reset value is read back from any table. -/
theorem clu_modClu_live {f : Cluster → Cluster} (h : f (clu s cl) ≠ {}) : clu (modClu s cl f) cl = f (clu s cl) :=
  tget_tset_live _ _ h _

theorem jig_of_clu_modJig {f : Jig → Jig} (h : clu (modJig s cl j f) cl =
    if j = 0 then { clu s cl with jig0 := f (clu s cl).jig0 } else { clu s cl with jig1 := f (clu s cl).jig1 }) :
    jig (modJig s cl j f) cl j = f (jig s cl j) := by
  unfold jig
  rw [h]
  split <;> rfl

theorem jig_modJig (h : twf {} s.clusters = true) (f : Jig → Jig) : jig (modJig s cl j f) cl j = f (jig s cl j) :=
  jig_of_clu_modJig (clu_modClu h _)

theorem ticketAt_setTicket {n : Nat} (y : Ticket) : ticketAt (setTicket s cl j n (some y)) cl j n = some y := by
  have hread (g : Jig) : tget none (tset none g.tickets n (some y)) n = some y := tget_tset_live _ _ (Option.some_ne_none _) _
  rw [ticketAt, setTicket, jig_of_clu_modJig (clu_modClu_live fun hc => ?_)]
  · exact hread _
  · split at hc
    · exact Option.some_ne_none _ ((hread _).symm.trans (congrArg (fun c : Cluster => tget none c.jig0.tickets n) hc))
    · exact Option.some_ne_none _ ((hread _).symm.trans (congrArg (fun c : Cluster => tget none c.jig1.tickets n) hc))

theorem jig_askHome (ps : List PortId) (cl j : Nat) : jig (askHome s ps).2 cl j = jig s cl j := by
  simp only [jig, clu, askHome_clusters]

theorem flushJig_eq : flushJig s cl j = modJig (askHome s (jig s cl j).hostPorts).2 cl j (fun g => { g with
    hostPorts := [], flushOut := g.flushOut ++ (askHome s (jig s cl j).hostPorts).1,
    relFail := firstFail g.relFail (lostHome s (jig s cl j).hostPorts) }) := rfl

theorem jig_flushJig (h : twf {} s.clusters = true) : jig (flushJig s cl j) cl j = { jig s cl j with
    hostPorts := [], flushOut := (jig s cl j).flushOut ++ (askHome s (jig s cl j).hostPorts).1,
    relFail := firstFail (jig s cl j).relFail (lostHome s (jig s cl j).hostPorts) } := by
  rw [flushJig_eq, jig_modJig (by rwa [askHome_clusters]), jig_askHome]

theorem endTicket_eq {n : Nat} {y : Ticket} (hy : ticketAt s cl j n = some y) : endTicket s c cl j n =
    setTicket (askHome s c.hostPorts).2 cl j n (some { y with
      finished := (askHome s c.hostPorts).1.isEmpty, status := demote (chainStatus c) (firstFail c.relFail (lostHome s c.hostPorts)),
      result := chainWord c, flush := (askHome s c.hostPorts).1 }) := by
  have hsent : ticketAt (askHome s c.hostPorts).2 cl j n = some y := by rw [ticketAt, jig_askHome]; exact hy
  simp only [endTicket, hsent]

/-! ## Flushing reads that come back (R249) -/

theorem tget_map {α : Type} (f : α → α) (k : Nat) :
    ∀ l : Tab (Option α), tget none (l.map (fun e => (e.1, e.2.map f))) k = (tget none l k).map f
  | [] => rfl
  | (i, v) :: l => by
    simp only [List.map_cons, tget, tget_map f k l]
    split
    · rfl
    · split <;> rfl

theorem taskFlushed_ok (n : Nat) (x : Task) : taskFlushed p n true x = { x with flushOut := stillOut p n x.flushOut } := rfl

theorem endFlush_tasks (n : Nat) : (endFlush s p n true).tasks =
    s.tasks.map (fun e => (e.1, e.2.map (fun x => { x with flushOut := stillOut p n x.flushOut }))) := by
  simp only [endFlush, modPort_tasks, taskFlushed_ok, stampFail_of_eq]

theorem taskAt_endFlush (n k : Nat) : taskAt (endFlush s p n true) k =
    (taskAt s k).map (fun x => { x with flushOut := stillOut p n x.flushOut }) := by
  rw [taskAt, endFlush_tasks, tget_map]
  rfl

theorem port_endFlush (n : Nat) : port (endFlush s p n true) p = { port s p with flushDone := n } := by
  cases p <;> rfl

theorem endFlush_only (n : Nat) (ok : Bool) : endFlush s p n ok = { modPort s p (fun q => { q with flushDone := n }) with
    tasks := (endFlush s p n ok).tasks, clusters := (endFlush s p n ok).clusters, parts := (endFlush s p n ok).parts } := by
  cases p <;> rfl

/-! ## Records and counts (R232 steps 3 and 4, R242) -/

theorem runAct_tryNow_ok {a : Act Unit} (h : runAct a s = (.ok (), u)) : runAct (tryNow a) s = (.ok (), u) := by
  rw [tryNow, runAct_bind_ok runAct_get, h]
  rfl

/-- What must wait is left for later. -/
theorem runAct_tryNow_wait {a : Act Unit} (h : runAct a s = (.error .wait, u)) : runAct (tryNow a) s = (.ok (), s) := by
  rw [tryNow, runAct_bind_ok runAct_get, h]
  rfl

/-- The task `x` has concluded with `st`, and its record is still to be made. -/
def concluded (s : State) (t : Nat) (x : Task) (st : Status) : State :=
  fixStep (countIn (modTask
    ((x.desc.succs.map (taskKey x.graph)).foldl (tellSuccessor (!isSuccess st && !x.desc.onFail)) (localOps s x st)) t
    (fun x => { x with state := .completed, status := st })) x st) x.graph

theorem runAct_concludeTask_unreached (h : opsReach s x (lateStatus s x x.status) = false) :
    (runAct (concludeTask t x) s).1 = .error .wait := by
  rw [concludeTask, runAct_bind_ok runAct_get, runAct_bind_error (u := s) (by rw [h]; rfl)]

/-- A change of the state is followed by the next step. -/
theorem runAct_edit_bind {β : Type} (f : State → State) (k : Unit → Act β) : runAct (edit f >>= k) s = runAct (k ()) (f s) :=
  runAct_bind_ok (runAct_edit f)

theorem runAct_concludeTask (h : opsReach s x (lateStatus s x x.status) = true) :
    runAct (concludeTask t x) s = runAct (tryNow (recordTask t)) (concluded s t x (lateStatus s x x.status)) := by
  rw [concludeTask, runAct_bind_ok runAct_get, runAct_bind_ok (u := s) (x := ()) (by rw [h]; rfl)]
  simp only [runAct_edit_bind]
  rfl

theorem runAct_recordTask_recorded (hx : taskAt s t = some x) (h : x.recorded = true) :
    runAct (recordTask t) s = runAct (endGraph x.graph) s := by
  rw [recordTask, runAct_bind_ok runAct_get, hx]
  simp only [h, Bool.not_true, Bool.false_eq_true, if_false]

theorem runAct_recordTask_written (hx : taskAt s t = some x) (h : x.recorded = false)
    (hw : runAct (writeRecord x x.status) s = (.ok (), u)) : runAct (recordTask t) s =
      runAct (endGraph x.graph) (modTask u t (fun x => { x with recorded := true, entry := false })) := by
  rw [recordTask, runAct_bind_ok runAct_get, hx]
  simp only [h, Bool.not_false, if_true]
  exact runAct_bind_ok hw |>.trans (runAct_bind_ok (runAct_edit _))

theorem graphAt_modGraph {k : Nat} (h : graphAt s k = some g) (f : Graph → Graph) : graphAt (modGraph s k f) k = some (f g) := by
  simp only [modGraph, h]
  exact tget_tset_live _ _ (Option.some_ne_none _) _

theorem graphAt_noteStepFailure (h : graphAt s x.graph = some g) : graphAt (noteStepFailure s x st) x.graph = some { g with
    stepFail := if isSuccess st || x.desc.onFail then g.stepFail else earlier g.stepFail (now s, x.index, st) } := by
  unfold noteStepFailure
  split
  · exact h
  · exact graphAt_modGraph h _

theorem graphAt_countIn (h : graphAt s x.graph = some g) : graphAt (countIn s x st) x.graph = some { countTask g (now s) x.index st with
    stepFail := if isSuccess st || x.desc.onFail then g.stepFail else earlier g.stepFail (now s, x.index, st) } := by
  rw [countIn, graphAt_modGraph (graphAt_noteStepFailure h)]
  rfl

/-! ## TASK_COMPLETE (R232, R240, R252) -/

section
variable (hx : taskAt s t = some x) (hw : x.workDone = true)
include hx hw

/-- A task whose work has ended holds no cluster. -/
theorem runAct_freeUnit_done : runAct (freeUnit t) s = (.ok (), s) := by
  rw [freeUnit, runAct_bind_ok runAct_get, hx]
  cases hu : x.unit with
  | none => simp [hu]
  | some cl => simp [hu, hw]

theorem exec_taskComplete (hs : s = applyEnv env s0) :
    exec (.taskComplete t env) s0 = .next (settleWork t .release (completeTask t) s) := by
  simp only [exec, execTaskComplete, ← hs, settleWork_ok (runAct_freeUnit_done hx hw)]

theorem runAct_completeTask_completed (hc : x.state = .completed) : runAct (completeTask t) s = runAct (recordTask t) s := by
  rw [completeTask, runAct_bind_ok runAct_get, hx]
  exact (runAct_bind_ok (u := s) (x := ()) (by rw [hw]; rfl)).trans (by rw [if_pos hc])

/-- Once its dirty bytes are written back, a task whose host writes are home goes on to its remote operations. -/
theorem runAct_completeTask_released (hc : x.state ≠ .completed) (hr : runAct (releaseRegions t) s = (.ok (), u))
    (hf : twf none u.tasks = true) (hy : taskAt u t = some y) (hp : y.hostPorts = []) (ho : y.flushOut = []) :
    runAct (completeTask t) s = runAct (afterRelease t) u := by
  rw [completeTask, runAct_bind_ok runAct_get, hx]
  refine (runAct_bind_ok (u := s) (x := ()) (by rw [hw]; rfl)).trans ?_
  rw [if_neg hc, runAct_bind_ok hr, runAct_bind_ok (runAct_edit _), flushTask_none hf hy hp, runAct_bind_ok runAct_get]
  have hhome : ((taskAt u t).map writesHome).getD false = true := by rw [hy, Option.map_some, Option.getD_some, writesHome, hp, ho]; rfl
  rw [if_pos hhome]

end

/-- The run of a task ends with its writes (R240); its remote operations are sent, and where none is out it concludes. -/
theorem runAct_afterRelease (hy : taskAt s t = some y) (hs : y.remoteSent = false)
    (hv : v = sendRemoteOps (modTask s t (fun x => { x with endTime := now s, status := releasedStatus s y })) t)
    (hz : taskAt v t = some z) (hl : z.remoteLeft = 0) : runAct (afterRelease t) s = runAct (tryNow (concludeTask t z)) v := by
  have hsent : sendRemoteOps (modTask s t (fun x => { x with endTime := now s, status := releasedStatus s x })) t = v := by
    rw [hv, modTask_of_some hy, modTask_of_some hy]
  rw [afterRelease, runAct_bind_ok runAct_get, hy]
  simp only [hs, Bool.not_false, if_true]
  refine (runAct_bind_ok (runAct_edit _)).trans ?_
  rw [hsent, runAct_bind_ok runAct_get, hz]
  simp only [hl, if_true]

/-! ## Limits (R235, R239) -/

theorem exec_taskTimeLimit (hx : taskAt s t = some x) (hl : limitReached s x = true) :
    exec (.taskTimeLimit t) s = .next (limitTask s t x) := by
  simp only [exec, execTaskTimeLimit, hx, hl, if_true]

theorem limitTask_done (hw : x.workDone = true) :
    limitTask s t x = if x.remoteSent then s else modTask s t (fun x => { x with status := releasedStatus s x }) := if_pos hw

theorem limitTask_jig (hw : x.workDone = false) (hk : x.desc.kind = Kind.jig) (hu : x.unit = some cl) : limitTask s t x =
    if clusterQuiet (clu s cl) then s else limitChains (cutRunning (endJigTask s cl Code.runTimeout) cl) t := by
  rw [limitTask, if_neg (by simp [hw]), if_pos hk, hu]

theorem limitTask_maint (hw : x.workDone = false) (hk : x.desc.kind = Kind.maint) :
    limitTask s t x = modTask s t (fun x => { x with limitHit := true }) := by
  have hne : Kind.maint ≠ Kind.jig ∧ Kind.maint ≠ Kind.bench ∧ Kind.maint ≠ Kind.layout := by decide
  rw [limitTask, if_neg (by simp [hw]), hk, if_neg hne.1, if_neg hne.2.1, if_neg hne.2.2]

theorem exec_waitLimit (hx : taskAt s t = some x) (hs : x.state = .waiting) (hw : x.workDone = false) (hm : waitsMet x = false) :
    exec (.waitLimit t) s = .next (if x.waitSince + waitLimitNs s x < now s then endUnstarted s t Code.waitTimeout else s) := by
  simp [exec, execWaitLimit, hx, waitPassed, hs, hw, hm]

end

end Sys2Proof.Laws

namespace Sys2Proof.Claims
open Sys2Proof Sys2Proof.Machine Sys2Proof.Laws

/-- Settles O22: a task concludes where nothing has to wait, what is left of its record is made later, its limits act by its kind, and
flushing reads go out and come back. -/
theorem tasksCompleteOrRunOut : Obligations.TasksCompleteOrRunOut := by
  refine ⟨fun t env s0 s u v w x y z hs hx _ hw hc hr hf hy hp ho hsent hv hz hl => ?released,
    fun t env s0 s w x hs hx _ hw hc hr => ?completed, fun t x s u w st hst hu => ?concluded,
    fun t x s u hx => ⟨runAct_recordTask_recorded hx, runAct_recordTask_written hx⟩, fun s x g st => graphAt_countIn,
    fun t s x => exec_taskTimeLimit, fun t cl s x => limitTask_jig, fun t s x hw => ⟨fun h => ?sent, fun h => ?unsent,
      releasedStatus_within, fun hl => ⟨releasedStatus_failed_before, releasedStatus_late hl⟩⟩,
    fun t s x => limitTask_maint, fun t s x hx hs hw hm => ⟨fun h => ?passed, fun h => ?notYet⟩, fun p s h => ?read, fun p s h => ?noRead,
    fun p n s => ⟨_, rfl, port_endFlush n, taskAt_endFlush n, endFlush_only n true⟩,
    fun t s x hx ho hup => ⟨_, taskAt_flushTask hx hup, rfl, ?taskReads, flushTask_out hx hup⟩, fun cl j s _ hf hup => ?jig,
    fun cl j t s c x hx _ hup => ?ticket⟩
  case released =>
    have hrun := (runAct_completeTask_released hx hw hc hr hf hy hp ho).trans (runAct_afterRelease hy hsent hv hz hl)
    rw [exec_taskComplete hx hw hs]
    exact ⟨fun h => by rw [settleWork_ok (hrun.trans (runAct_tryNow_ok h))],
      fun h => by rw [settleWork_ok (hrun.trans (runAct_tryNow_wait h))]⟩
  case completed => rw [exec_taskComplete hx hw hs, settleWork_ok ((runAct_completeTask_completed hx hw hc).trans hr)]
  case concluded =>
    subst hst
    have hconcluded : concluded s t x (lateStatus s x x.status) = u := hu.symm
    refine ⟨runAct_concludeTask_unreached, fun h => ?_⟩
    rw [runAct_concludeTask h, hconcluded]
    exact ⟨runAct_tryNow_ok, runAct_tryNow_wait⟩
  case sent => rw [limitTask_done hw, if_pos h]
  case unsent => rw [limitTask_done hw, if_neg (by simp [h])]
  case passed => rw [exec_waitLimit hx hs hw hm, if_pos h]
  case notYet => rw [exec_waitLimit hx hs hw hm, if_neg (Nat.not_lt.2 h)]
  case read => simp only [exec, execHostFlushReadComplete, if_pos h]
  case noRead => simp only [exec, execHostFlushReadComplete, if_neg (Nat.not_lt.2 h)]
  case taskReads => rw [ho, List.nil_append, askHome_ports hup]
  case jig => rw [jig_flushJig hf]; exact ⟨rfl, by rw [List.map_append, askHome_ports hup], askHome_out hup⟩
  case ticket =>
    rw [endTicket_eq hx]
    refine ⟨_, ticketAt_setTicket _, askHome_ports hup, ?_, rfl, ?_, askHome_out hup⟩
    · rw [lostHome_up hup, firstFail_zero]
    · rw [List.isEmpty_iff, ← List.map_eq_nil_iff (f := Prod.fst), askHome_ports hup]

end Sys2Proof.Claims
end

section
/-! Partitions (R271, R307, R395, R400 to R402): writes to a `PART` block, the lock write, the checks of Table 15-9, and what a lock latches. -/

namespace Sys2Proof.Laws
open Sys2Proof Sys2Proof.Machine Sys2Proof.Claims

variable {s u w : State} {p : PortId} {q off src i : Nat} {v : Word} {st : Status} {h : List Byte} {kv ven : Option (List Byte)}

/-! ## Writes to a `PART` block (R390, R393, Table 15-2) -/

theorem partHas_lt (ho : partHas off = true) : off < 0x1000 := by
  simp only [partHas, Bool.or_eq_true, Bool.and_eq_true, decide_eq_true_eq] at ho
  omega

theorem blockOf_part (hq : q < 16) (ho : off < 0x1000) : blockOf (Base.part q + off) = .part q off := by
  have hpage : (Base.part q + off) / 0x1000 = 0x60 + q := by unfold Base.part; omega
  have hoff : (Base.part q + off) % 0x1000 = off := by unfold Base.part; omega
  unfold blockOf
  simp only [hpage, hoff]
  repeat rw [if_neg (by omega)]
  rw [if_pos (by omega), Nat.add_sub_cancel_left]

/-- A register of a partition lies below the MSI-X structures and BAR2, and is none of the three that need no vise. -/
theorem part_offset_ordinary (hq : q < 16) (ho : off < 0x1000) : ¬ bar2Base ≤ Base.part q + off ∧ inMsix (Base.part q + off) = false ∧
    Base.part q + off ≠ 0x30 ∧ Base.part q + off ≠ Base.evt + 8 ∧ Base.part q + off ≠ Base.rst + 0x30 := by
  have hlo : 0x60000 ≤ Base.part q + off := by unfold Base.part; omega
  have hhi : Base.part q + off < 0x70000 := by unfold Base.part; omega
  generalize Base.part q + off = a at hlo hhi
  have hmsix : ¬ msixBase ≤ a ∧ ¬ pbaBase ≤ a := by unfold msixBase pbaBase; omega
  refine ⟨by unfold bar2Base; omega, by simp [inMsix, hmsix], by omega, ?_, ?_⟩
  · unfold Base.evt; omega
  · unfold Base.rst; omega

theorem exec_registerWrite_part (hm : MaySet s p) (hq : q < 16) (ho : partHas off = true) (ha : off % 8 = 0) (v : Word) :
    exec (.registerWrite p (Base.part q + off) 8 v) s = .next (writePart q off (portIdx p) v s) := by
  obtain ⟨hbar2, hmsix, hvise, hevt, hbeat⟩ := part_offset_ordinary hq (partHas_lt ho)
  have halign : (Base.part q + off) % 8 = 0 := by unfold Base.part; omega
  have hblock := blockOf_part hq (partHas_lt ho)
  have hfused : fusedBlock s (.part q off) = false := rfl
  have hreg : assignedReg (.part q off) = true := ho
  simp [exec, execRegisterWrite, writeBar0, setRegister, viseWrite_of_maySet hm, hbar2, hmsix, hvise, hevt, hbeat, halign, hblock,
    hfused, hreg, writeBlock]

theorem fusedBits_eq_zero (ha : off % 8 = 0) (hf : ∀ k, off = 0x10 + 8 * k → k < 4 → v &&& tget 0 s.hub.fusedOff k = 0) :
    fusedBits s off v = 0 := by
  unfold fusedBits
  split
  · next hr => exact hf ((off - 0x10) / 8) (by omega) (by omega)
  · rfl

section
variable (h8 : off ≠ 8) (h0 : off = 0 → v.toNat.testBit 63 = false) (hf : fusedBits s off v = 0)
include h8 h0 hf

/-- A write of fields takes effect on a partition that is neither locked nor busy, and else is logged where it would change one. -/
theorem writePart_fields : writePart q off src v s =
    if (prt s q).locked || (prt s q).busy then
      (if putPart (prt s q) off v.toNat = prt s q then s else setupIgnored s (Base.part q + off) v)
    else modPrt s q (fun _ => putPart (prt s q) off v.toNat) := by
  have hlock : ¬ (off = 0 ∧ bit v.toNat 63 = true) := fun ⟨hz, hb⟩ => Bool.false_ne_true ((h0 hz).symm.trans hb)
  have hf' : fusedBits (modPrt s q (fun _ => putPart (prt s q) off v.toNat)) off v = 0 := hf
  have hmask : v &&& ~~~(0 : Word) = v := BitVec.and_allOnes
  have hnone : (List.range 64).filter (bit (0 : Word).toNat) = [] := List.filter_eq_nil_iff.2 fun k _ => by simp [bit]
  simp only [writePart, if_neg h8, if_neg hlock, hf, hmask, hf', hnone, List.foldl_nil]

theorem writePart_open (hl : (prt s q).locked = false) (hb : (prt s q).busy = false) :
    writePart q off src v s = modPrt s q (fun _ => putPart (prt s q) off v.toNat) := by
  rw [writePart_fields h8 h0 hf, if_neg (by simp [hl, hb])]

theorem writePart_frozen (hb : (prt s q).locked = true ∨ (prt s q).busy = true) : writePart q off src v s =
    if putPart (prt s q) off v.toNat = prt s q then s else setupIgnored s (Base.part q + off) v := by
  rw [writePart_fields h8 h0 hf, if_pos (by simpa using hb)]

end

/-! ## The lock write (R401) -/

theorem writePart_lock (hv : bit v.toNat 63 = true) : writePart q 0 src v s = startLock s q v := if_pos ⟨rfl, hv⟩

/-- The command carries its configuration with LOCK set. -/
theorem exec_partitionLock (hm : MaySet s p) (hq : q < 16) (v : Word) :
    exec (.partitionLock p q v) s = .next (startLock s q (v ||| (1#64 <<< 63))) := by
  have hlock : bit (v ||| (1#64 <<< 63)).toNat 63 = true := by
    rw [bit, BitVec.testBit_toNat, BitVec.getLsbD_or, show (1#64 <<< 63).getLsbD 63 = true by decide, Bool.or_true]
  simp only [exec, execPartitionLock, if_pos hq, viseWrite_of_maySet hm, writePart_lock hlock]

theorem bit_valid_of_lock (v : Word) : bit (v ||| (1#64 <<< 63)).toNat 62 = v.toNat.testBit 62 := by
  rw [bit, BitVec.testBit_toNat, BitVec.testBit_toNat, BitVec.getLsbD_or, show (1#64 <<< 63).getLsbD 62 = false by decide, Bool.or_false]

theorem startLock_starts (hv : bit v.toNat 62 = true) (hl : (prt s q).locked = false) (hb : (prt s q).busy = false) :
    startLock s q v = modPrt s q (fun x => { putPart x 0 v.toNat with busy := true, lockAge := nextLock s }) := by
  simp [startLock, hv, hl, hb]

theorem startLock_refused (hr : (prt s q).locked = true ∨ (prt s q).busy = true ∨ bit v.toNat 62 = false) :
    startLock s q v = modPrt s q (fun x => { x with lastCmd := Code.stateConflict, failedCheck := 0 }) := by
  rw [startLock, if_pos (by simpa [or_assoc] using hr)]

/-! ## The checks (Table 15-9) -/

theorem runAct_readHeader_none (n : Nat) : runAct (readHeader 0 n) s = (.ok none, s) := rfl

theorem runAct_readHeader_some {table : BitVec 40} {n : Nat} (ht : table ≠ 0)
    (hl : runAct (loadFrom 4 (table.toNat * 64) n) s = (.ok h, u)) : runAct (readHeader table n) s = (.ok (some h), u) := by
  rw [readHeader, if_neg ht, runAct_bind_ok hl, runAct_pure]

theorem runAct_lockChecks_shapeFails (h1 : lockShape s q = false) :
    runAct (lockChecks q) s = (.ok (.error (Code.descriptorInvalid, 1)), s) := by
  rw [lockChecks, runAct_bind_ok runAct_get, h1]; rfl

section
variable (h1 : lockShape s q = true)
include h1

theorem runAct_lockChecks_ownedFails (h2 : lockOwned s q = false) :
    runAct (lockChecks q) s = (.ok (.error (Code.windowFault, 2)), s) := by
  rw [lockChecks, runAct_bind_ok runAct_get, h1, h2]; rfl

variable (h2 : lockOwned s q = true)
include h2

theorem runAct_lockChecks_stacksFails (h3 : lockStacks s q = false) :
    runAct (lockChecks q) s = (.ok (.error (Code.stateConflict, 3)), s) := by
  rw [lockChecks, runAct_bind_ok runAct_get, h1, h2, h3]; rfl

variable (h3 : lockStacks s q = true)
include h3

theorem runAct_lockChecks_aloneFails (h4 : lockAlone s q = false) :
    runAct (lockChecks q) s = (.ok (.error (Code.stateConflict, 4)), s) := by
  rw [lockChecks, runAct_bind_ok runAct_get, h1, h2, h3, h4]; rfl

end

/-- The two headers of a partition, read one after the other. -/
def readHeaders (x : Part) : Act (Option (List Byte) × Option (List Byte)) := do
  let kv ← readHeader x.kvTable 256
  let ven ← readHeader x.venTable 64
  pure (kv, ven)

/-- Whether the headers that a partition has are sound (check 6). -/
def headersOk (s : State) (q : Nat) (kv ven : Option (List Byte)) : Bool :=
  (kv.map (kvHeaderOk s q)).getD true && (ven.map venHeaderOk).getD true

theorem map_getD_true {f : List Byte → Bool} {o : Option (List Byte)} : (o.map f).getD true = true ↔ ∀ h, o = some h → f h = true := by
  cases o <;> simp

theorem headersOk_of_all (hk : ∀ h, kv = some h → kvHeaderOk s q h = true) (hv : ∀ h, ven = some h → venHeaderOk h = true) :
    headersOk s q kv ven = true := by
  rw [headersOk, map_getD_true.2 hk, map_getD_true.2 hv, Bool.and_self]

theorem headersOk_eq_false (hbad : (∃ h, kv = some h ∧ kvHeaderOk s q h = false) ∨ (∃ h, ven = some h ∧ venHeaderOk h = false)) :
    headersOk s q kv ven = false := by
  obtain ⟨h, rfl, hb⟩ | ⟨h, rfl, hb⟩ := hbad <;> simp [headersOk, hb]

section
variable (h1 : lockShape s q = true) (h2 : lockOwned s q = true) (h3 : lockStacks s q = true) (h4 : lockAlone s q = true)
include h1 h2 h3 h4

theorem runAct_lockChecks_unread (hr : runAct (readHeaders (prt s q)) s = (.error (.fail st), u)) :
    runAct (lockChecks q) s = (.ok (.error (st, 5)), u) := by
  rw [lockChecks, runAct_bind_ok runAct_get, h1, h2, h3, h4]
  exact runAct_bind_ok (runAct_attempt_fail hr)

theorem runAct_lockChecks_read (hr : runAct (readHeaders (prt s q)) s = (.ok (kv, ven), u)) : runAct (lockChecks q) s =
    (.ok (if headersOk u q kv ven then .ok (kv, ven) else .error (Code.descriptorInvalid, 6)), u) := by
  rw [lockChecks, runAct_bind_ok runAct_get, h1, h2, h3, h4]
  refine (runAct_bind_ok (runAct_attempt_ok hr)).trans ?_
  rw [runAct_bind_ok runAct_get]
  change runAct (if headersOk u q kv ven then pure (Except.ok (kv, ven)) else pure (Except.error (Code.descriptorInvalid, 6))) u = _
  split <;> rfl

end

theorem runAct_readHeaders_kvFails {x : Part} (hk : runAct (readHeader x.kvTable 256) s = (.error (.fail st), u)) :
    runAct (readHeaders x) s = (.error (.fail st), u) := runAct_bind_error hk

section
variable {x : Part} (hk : runAct (readHeader x.kvTable 256) s = (.ok kv, u))
include hk

theorem runAct_readHeaders_venFails (hv : runAct (readHeader x.venTable 64) u = (.error (.fail st), w)) :
    runAct (readHeaders x) s = (.error (.fail st), w) := (runAct_bind_ok hk).trans (runAct_bind_error hv)

theorem runAct_readHeaders_ok (hv : runAct (readHeader x.venTable 64) u = (.ok ven, w)) :
    runAct (readHeaders x) s = (.ok (kv, ven), w) := (runAct_bind_ok hk).trans (runAct_bind_ok hv)

end

/-! ## The end of a lock (R402) -/

theorem exec_partitionLockDone {e : Env} (ht : lockTurn (applyEnv e s) q = true) :
    exec (.partitionLockDone q e) s = .next (settle (finishLock q) (applyEnv e s) (fun _ t => t)) := by
  simp only [exec, execPartitionLockDone, ht, if_true]

theorem runAct_finishLock_failed {k : Nat} (hc : runAct (lockChecks q) s = (.ok (.error (st, k)), u)) :
    runAct (finishLock q) s = (.ok (), modPrt u q (fun x => { x with
      busy := false, lockAge := 0, lastCmd := st, failedCheck := BitVec.ofNat 8 k })) := runAct_bind_ok hc

theorem runAct_finishLock_locked (hc : runAct (lockChecks q) s = (.ok (.ok (kv, ven)), u))
    (hl : runAct (latchHeaders q kv ven) u = (.ok (), w)) :
    runAct (finishLock q) s = (.ok (), modPrt (zeroPads w q) q (fun x => { x with
      busy := false, lockAge := 0, locked := true, lastCmd := Code.ok, failedCheck := 0 })) :=
  (runAct_bind_ok hc).trans (runAct_bind_ok hl)

/-! ## What the lock latches (R271, R307) -/

theorem runAct_latchHeaders_kv : runAct (latchHeaders q (some h) none) s = runAct (eachAct (rebuildSeq q) (List.range (at_ h 0 4)))
    ((List.range 24).foldl (latchPool q h) (modPrt s q (fun x => { x with seqCount := at_ h 0 4 }))) := by
  rw [latchHeaders, runAct_bind_ok (runAct_edit _)]
  exact congrArg (runAct · _) (bind_pure_unit ..)

theorem runAct_latchHeaders_ven : runAct (latchHeaders q none (some h)) s = runAct (eachAct (rebuildSlot q) (List.range (at_ h 0 2)))
    (modPrt s q (fun x => { x with
      venSlots := at_ h 0 2, venLayers := at_ h 2 1, venBytes := at_ h 4 4, venFirst := at_ h 8 1, venCount := at_ h 9 1 })) := rfl

theorem latchPool_refused (hr : poolRefused s q h i = true) : latchPool q h s i = logEvent s Cls.kvPoolDisabled 0 0 9 q i 0 := if_pos hr

theorem latchPool_taken (hr : poolRefused s q h i = false) (hn : (poolField h i).2 ≠ 0) :
    latchPool q h s i = modPrt s q (fun x => { x with pools := tset none x.pools i (some (poolField h i)) }) := by
  rw [latchPool, if_neg (by simp [hr]), if_neg hn]

/-- A pool without slabs is no pool, and is not refused. -/
theorem latchPool_empty (hz : (poolField h i).2 = 0) : latchPool q h s i = s := by
  have hr : poolRefused s q h i = false := by simp [poolRefused, hz]
  rw [latchPool, if_neg (by simp [hr]), if_pos hz]

end Sys2Proof.Laws

namespace Sys2Proof.Claims
open Sys2Proof Sys2Proof.Machine Sys2Proof.Laws

/-- Settles O15: writes to the block and the lock write by what the lock has frozen, the checks in their order, and the end of the attempt by
what the checks and the latching answer. -/
theorem partitionsLockOnce : Obligations.PartitionsLockOnce := by
  refine ⟨fun p q v s hm hq hv hl hb => ?starts, fun p q v s hm hq hr => ?refused,
    fun p q off v s x hm hq ho ha h8 h0 hf hx => ⟨fun hl hb => ?written, fun hb => ?frozen⟩,
    fun q s => ⟨runAct_lockChecks_shapeFails, runAct_lockChecks_ownedFails, runAct_lockChecks_stacksFails, runAct_lockChecks_aloneFails,
      fun h1 h2 h3 h4 kv u => ⟨fun st hk => ?kvUnread, fun hk ven w => ⟨fun st hv => ?venUnread, fun hv =>
        ⟨fun hkv hven => ?sound, fun hbad => ?unsound⟩⟩⟩,
      runAct_readHeader_none 256, runAct_readHeader_none 64, fun table n h u => runAct_readHeader_some⟩,
    fun q e s u ht => ⟨fun st k hc => ?failed, fun kv ven w hc hl => ?locked⟩,
    fun q h s => ⟨rfl, runAct_latchHeaders_kv, runAct_latchHeaders_ven, fun i => latchPool_refused, fun i => latchPool_taken,
      fun i => latchPool_empty⟩⟩
  case starts => rw [exec_partitionLock hm hq, startLock_starts ((bit_valid_of_lock v).trans hv) hl hb]
  case refused => rw [exec_partitionLock hm hq, startLock_refused (by rwa [bit_valid_of_lock])]
  case written =>
    subst hx
    exact (exec_registerWrite_part hm hq ho ha v).trans (congrArg _ (writePart_open h8 h0 (fusedBits_eq_zero ha hf) hl hb))
  case frozen =>
    subst hx
    exact (exec_registerWrite_part hm hq ho ha v).trans (congrArg _ (writePart_frozen h8 h0 (fusedBits_eq_zero ha hf) hb))
  case kvUnread => exact runAct_lockChecks_unread h1 h2 h3 h4 (runAct_readHeaders_kvFails hk)
  case venUnread => exact runAct_lockChecks_unread h1 h2 h3 h4 (runAct_readHeaders_venFails hk hv)
  case sound => rw [runAct_lockChecks_read h1 h2 h3 h4 (runAct_readHeaders_ok hk hv), if_pos (headersOk_of_all hkv hven)]
  case unsound => rw [runAct_lockChecks_read h1 h2 h3 h4 (runAct_readHeaders_ok hk hv), if_neg (by simp [headersOk_eq_false hbad])]
  case failed => rw [exec_partitionLockDone ht, settle_ok (runAct_finishLock_failed hc)]
  case locked => rw [exec_partitionLockDone ht, settle_ok (runAct_finishLock_locked hc hl)]

end Sys2Proof.Claims
end

section
/-! Serving steps and KV copies (R277, R278, R294, R298): what admission makes of the step in front, and the end of a copy. -/

namespace Sys2Proof.Laws
open Sys2Proof Sys2Proof.Machine

variable {s s0 u w z : State} {env : Env} {g q n : Nat} {x : Graph} {st : Status} {h : List Byte} {es cs : List (List Byte)} {k : KvSeq}

/-! ## Admission (R294, R298) -/

theorem completing_iff : completing s q = true ↔ ∃ g y, (g, some y) ∈ s.steps ∧ y.part = q ∧ y.finals.isSome = true := by
  have hstep (o : Option Step) : (o.map (fun y => decide (y.part = q) && y.finals.isSome)).getD false = true ↔
      ∃ y, o = some y ∧ y.part = q ∧ y.finals.isSome = true := by
    cases o <;> simp
  simp only [completing, List.any_eq_true, hstep, Prod.exists]
  exact exists_congr fun g => ⟨fun ⟨_, hmem, y, ho, hy⟩ => ⟨y, ho ▸ hmem, hy⟩, fun ⟨y, hmem, hy⟩ => ⟨_, hmem, y, rfl, hy⟩⟩

section
variable (hs : s = applyEnv env s0) (hp : frontPaused s = false) (hf : s.admitQueue.head? = some g) (hx : graphAt s g = some x)
include hs hp hf hx

theorem exec_stepAdmission_waits (hc : completing s x.part = true) : exec (.stepAdmission g env) s0 = .next s := by
  simp [exec, execStepAdmission, ← hs, hp, hf, hx, hc]

/-- A graph whose admission waited keeps the time at which it began. -/
theorem exec_stepAdmission_begins {b : State} {y : Graph} (hc : completing s x.part = false)
    (hy : y = { x with admitStart := some (x.admitStart.getD s.time) }) (hb : b = modGraph s g (fun _ => y)) :
    exec (.stepAdmission g env) s0 = .next (settle (admitGraph g y) b (fun _ t => t)) := by
  have hstart : (x.admitStart <|> some s.time) = some (x.admitStart.getD s.time) := by cases x.admitStart <;> rfl
  simp [exec, execStepAdmission, ← hs, hp, hf, hx, hc, hstart, hy, hb]

end

theorem runAct_admitGraph_rejected (hr : runAct (readStep x.part x.stepAddr) s = (.error (.fail st), u)) :
    runAct (admitGraph g x) s = (.ok (), rejectGraph u g st) := runAct_bind_ok (runAct_attempt_fail hr)

section
variable (hr : runAct (readStep x.part x.stepAddr) s = (.ok (h, es, cs), u))
include hr

theorem runAct_admitGraph_read : runAct (admitGraph g x) s = runAct (admitStep g x h es cs >>= fun _ => endGraph g) u :=
  runAct_bind_ok (runAct_attempt_ok hr)

theorem runAct_admitGraph_admitted (ha : runAct (admitStep g x h es cs) u = (.ok (), w)) (he : runAct (endGraph g) w = (.ok (), z)) :
    runAct (admitGraph g x) s = (.ok (), z) := by
  rw [runAct_admitGraph_read hr, runAct_bind_ok ha, he]

theorem runAct_admitGraph_waits (ha : runAct (admitStep g x h es cs) u = (.error .wait, w)) :
    runAct (admitGraph g x) s = (.error .wait, w) := by
  rw [runAct_admitGraph_read hr, runAct_bind_error ha]

end

/-! ## The end of a copy (R277, R278) -/

theorem exec_swapCopyEnd (hs : s = applyEnv env s0) (hp : frontPaused s = false)
    (hst : (seqAt s q n).state = .swappingOut ∨ (seqAt s q n).state = .swappingIn) (hl : (seqAt s q n).swapLeft = 0)
    (hf : (seqAt s q n).swapFlush = []) : exec (.swapCopyEnd q n env) s0 = .next (settle (endSwap q n) s (fun _ t => t)) := by
  simp only [exec, execSwapCopyEnd, ← hs]
  rw [if_pos (by simpa [hp, hl, hf] using hst)]

/-- A copy that no step asked for leaves only its sequence to report. -/
theorem runAct_endSwap_alone (hg : (seqAt s q n).swapGraph = none) :
    runAct (endSwap q n) s = runAct (reportSeq q n) (modSeq s q n (fun k => afterCopy k k.swapStatus)) := by
  rw [endSwap, runAct_bind_ok runAct_get, runAct_bind_ok (runAct_edit _), hg]
  exact congrArg (runAct · _) (bind_pure_unit ..)

theorem afterCopy_out (hk : k.state = .swappingOut) : (afterCopy k st).state = if st = 0 then .swapped else .resident := by
  rw [afterCopy, if_pos hk]
  split <;> rfl

theorem afterCopy_in (hk : k.state = .swappingIn) : (afterCopy k st).state = if st = 0 then .resident else .swapped := by
  rw [afterCopy, if_neg (by simp [hk])]
  split <;> rfl

end Sys2Proof.Laws

namespace Sys2Proof.Claims
open Sys2Proof Sys2Proof.Machine Sys2Proof.Laws

/-- Settles O20: the read of the descriptor and the admission of its requests decide what becomes of the step in front, and the end of a copy
is its sequence's report. -/
theorem stepsAndCopiesEnd : Obligations.StepsAndCopiesEnd := by
  refine ⟨fun g env s0 s b x y hs hp hf hx => ⟨exec_stepAdmission_waits hs hp hf hx, fun hc hy hb =>
      ⟨fun u st hr => ?rejected, fun u h es cs hr => ⟨fun w z ha he => ?admitted, fun w ha => ?waits⟩⟩⟩,
    fun s q => completing_iff, fun q n env s0 s u hs hp hst hl hf hg hr => ?copyEnds, fun k st => ⟨afterCopy_out, afterCopy_in⟩⟩
  case copyEnds => rw [exec_swapCopyEnd hs hp hst hl hf, settle_ok ((runAct_endSwap_alone hg).trans hr)]
  case rejected => rw [exec_stepAdmission_begins hs hp hf hx hc hy hb, settle_ok (runAct_admitGraph_rejected hr)]
  case admitted => rw [exec_stepAdmission_begins hs hp hf hx hc hy hb, settle_ok (runAct_admitGraph_admitted hr ha he)]
  case waits => rw [exec_stepAdmission_begins hs hp hf hx hc hy hb, settle_wait (runAct_admitGraph_waits hr ha)]

end Sys2Proof.Claims
end

section
/-! Forset links (R315, R319, R320, R338, R339, R341): training, the commands of the vise holder, the end of a drain, and the set-up of the
fabric. -/

namespace Sys2Proof.Laws
open Sys2Proof Sys2Proof.Machine Sys2Proof.Claims

variable {s : State} {i : Nat} {p : PortId} {r : TrainResult}

theorem linkUsable_iff {l : Link} : linkUsable l = true ↔ l.state = .up ∨ l.state = .degraded := by simp [linkUsable]

/-! ## Lanes and peers (R315, R319, R320) -/

theorem usableLanes_eq_full_iff {m : BitVec 8} : usableLanes m = 0xFF ↔ m = 0xFF := by
  unfold usableLanes
  split_ifs with hfull
  · exact iff_of_true rfl hfull
  all_goals exact iff_of_false (by decide) hfull

theorem usableLanes_eq_none_iff {m : BitVec 8} : usableLanes m = 0 ↔ m &&& 0x0F ≠ 0x0F ∧ m &&& 0xF0 ≠ 0xF0 := by
  unfold usableLanes
  split_ifs with hfull hlow hhigh
  · subst hfull; decide
  · exact iff_of_false (by decide) (fun h => h.1 hlow)
  · exact iff_of_false (by decide) (fun h => h.2 hhigh)
  · exact iff_of_true rfl ⟨hlow, hhigh⟩

/-- A link comes up on good lanes alone. -/
theorem usableLanes_good {m : BitVec 8} : usableLanes m &&& m = usableLanes m := by
  unfold usableLanes
  split_ifs with hfull hlow hhigh
  · simp [hfull]
  · rw [BitVec.and_comm, hlow]
  · rw [BitVec.and_comm, hhigh]
  · exact BitVec.zero_and

theorem rightPeer_iff : rightPeer s i r = true ↔ r.peerDie.toNat = i / 6 ∧
    r.peerNode.toNat = neighbour s.fst s.fst.node.toNat (linkDir i) ∧ r.peerDir.toNat = opposite (linkDir i) := by
  simp only [rightPeer, Bool.and_eq_true, decide_eq_true_eq, and_assoc]

/-! ## Training (R315, Table 12-1) -/

/-- What the far end has sent is noted before it is judged. -/
def peerNoted (s : State) (i : Nat) (r : TrainResult) : State :=
  modLnk s i (fun l => { l with peer := r.peerNode, peerDie := r.peerDie, delayNs := r.delayNs })

theorem exec_linkTrainEnd (hi : i < 24) (ht : (lnk s i).state = .training) : exec (.linkTrainEnd i r) s = .next (endTraining s i r) :=
  congrArg _ (if_pos ⟨hi, ht⟩)

theorem trainFailed_eq : trainFailed s i = if (lnk s i).failures + 1 = 8
    then logEvent (modLnk s i (fun l => { l with state := .down, laneMask := 0, failures := (lnk s i).failures + 1 }))
      Cls.linkTrainFail 2 0 7 i 8 0
    else modLnk s i (fun l => { l with state := .down, laneMask := 0, failures := (lnk s i).failures + 1 }) := by
  unfold trainFailed
  by_cases h : (lnk s i).failures + 1 = 8
  · simp only [h, if_true]
  · simp only [h, if_false]

theorem endTraining_noLanes (hm : usableLanes r.lanes = 0) : endTraining s i r = trainFailed s i := if_pos hm

theorem endTraining_rightPeer (hm : usableLanes r.lanes ≠ 0) (hr : rightPeer (peerNoted s i r) i r = true) :
    endTraining s i r = modLnk (clearLink (peerNoted s i r) i (if usableLanes r.lanes = 0xFF then .up else .degraded)) i (fun l =>
      { l with laneMask := usableLanes r.lanes, peer := r.peerNode, failures := 0 }) :=
  (if_neg hm).trans (if_pos hr)

theorem endTraining_miswired (hm : usableLanes r.lanes ≠ 0) (hr : rightPeer (peerNoted s i r) i r = false) : endTraining s i r =
    trainFailed (logEvent (peerNoted s i r) Cls.linkMiswired 2 0 7 i r.peerDie.toNat r.peerNode.toNat) i :=
  (if_neg hm).trans (if_neg (ne_true_of_eq_false hr))

theorem exec_linkTrainRetry (hi : i < 24) (hd : (lnk s i).state = .down) (hf : (lnk s i).failures < 8) (hm : mayTrain s i = true) :
    exec (.linkTrainRetry i) s = .next (beginTraining s i) := congrArg _ (if_pos ⟨hi, hd, hf, hm⟩)

theorem mayTrain_iff : mayTrain s i = true ↔
    s.fst.en = true ∧ (lnk s i).disabled = false ∧ (lnk s i).cableHigh = false ∧ 1 < extentOf s.fst (linkDir i / 2) := by
  simp only [mayTrain, Bool.and_eq_true, Bool.not_eq_true', decide_eq_true_eq, and_assoc]

/-! ## Link commands (R341) -/

section
variable (hm : MaySet s p) (hi : i < 24)
include hm hi

theorem flkWrite_of_maySet (v : Word) : flkWrite s p i v = writeFlkCtrl i v s := by
  rw [flkWrite, if_pos hi, viseWrite_of_maySet hm]

theorem exec_recal : exec (.recal p i) s = .next (writeFlkCtrl i 1 s) := congrArg _ (flkWrite_of_maySet hm hi 1)
theorem exec_disable : exec (.disable p i) s = .next (writeFlkCtrl i 2 s) := congrArg _ (flkWrite_of_maySet hm hi 2)
theorem exec_enable : exec (.enable p i) s = .next (writeFlkCtrl i 3 s) := congrArg _ (flkWrite_of_maySet hm hi 3)

end

theorem writeFlkCtrl_recal : writeFlkCtrl i 1 s =
    if linkUsable (lnk s i) then linkStatus (drainLink s i false) i Code.ok else linkStatus s i Code.stateConflict := rfl

theorem writeFlkCtrl_disable : writeFlkCtrl i 2 s =
    if (lnk s i).state = .down ∧ (lnk s i).disabled then linkStatus s i Code.stateConflict
    else if linkUsable (lnk s i) then linkStatus (drainLink s i true) i Code.ok
    else linkStatus (modLnk s i (fun l => { l with state := .down, laneMask := 0, disabled := true })) i Code.ok := rfl

/-- A disabled link is freed. -/
def freed (s : State) (i : Nat) : State := linkStatus (modLnk s i (fun l => { l with disabled := false, failures := 0 })) i Code.ok

theorem writeFlkCtrl_enable : writeFlkCtrl i 3 s =
    if (lnk s i).disabled then if mayTrain (freed s i) i then beginTraining (freed s i) i else freed s i
    else linkStatus s i Code.stateConflict := rfl

theorem linkUsable_eq_false {l : Link} (h : l.state = .down ∨ l.state = .training) : linkUsable l = false := by
  rcases h with h | h <;> simp [linkUsable, h]

theorem writeFlkCtrl_disable_usable (hu : linkUsable (lnk s i) = true) :
    writeFlkCtrl i 2 s = linkStatus (drainLink s i true) i Code.ok := by
  have hdown : (lnk s i).state ≠ .down := by
    intro h
    simp [linkUsable, h] at hu
  rw [writeFlkCtrl_disable, if_neg (fun h => hdown h.1), if_pos hu]

theorem writeFlkCtrl_disable_unusable (hu : linkUsable (lnk s i) = false)
    (hd : ¬ ((lnk s i).state = .down ∧ (lnk s i).disabled = true)) : writeFlkCtrl i 2 s =
      linkStatus (modLnk s i (fun l => { l with state := .down, laneMask := 0, disabled := true })) i Code.ok := by
  rw [writeFlkCtrl_disable, if_neg hd, if_neg (ne_true_of_eq_false hu)]

/-! ## The end of a drain (R341) -/

theorem exec_linkDrainEnd_disabled (hi : i < 24) (hb : (lnk s i).replayBuf = []) (hd : (lnk s i).draining = some true) :
    exec (.linkDrainEnd i) s = .next (clearLink s i .down) := by
  simp only [exec, execLinkDrainEnd, hi, hb, hd, and_self, if_true]

theorem exec_linkDrainEnd_recalled (hi : i < 24) (hb : (lnk s i).replayBuf = []) (hd : (lnk s i).draining = some false) :
    exec (.linkDrainEnd i) s =
      .next (if mayTrain s i then beginTraining (clearLink s i .down) i else clearLink s i .down) := by
  simp only [exec, execLinkDrainEnd, hi, hb, hd, and_self, if_true]

theorem lnk_modLnk_live {f : Link → Link} (h : f (lnk s i) ≠ {}) : lnk (modLnk s i f) i = f (lnk s i) := tget_tset_live i _ h _

theorem foldl_pushRouter_links (d : Nat) (q : List Packet) : ∀ s : State,
    (q.foldl (fun s p => pushRouter s d { pkt := p }) s).links = s.links := by
  induction q with
  | nil => intro s; rfl
  | cons p q ih => intro s; exact ih (pushRouter s d { pkt := p })

/-- A link without its link-layer state (R317, R340, R341). -/
def cleared (state : LinkState) (l : Link) : Link := { l with
  state := state, disabled := l.disabled || decide (l.draining = some true), draining := none, txSeq := 0, rxSeq := 0,
  replayBuf := [], futileAsked := 0, futileAnswered := 0, futileTimed := 0, errorSince := none, credits := [], rxBytes := [],
  txq := [], t1 := none, laneMask := 0, peer := 0, stream := 0, streamLen := 0, blocks := 0 }

theorem clearLink_links (state : LinkState) : (clearLink s i state).links = (modLnk s i (cleared state)).links :=
  foldl_pushRouter_links ..

/-- A DISABLE that waited for the drain holds the link. -/
theorem clearLink_disabled (hd : (lnk s i).draining = some true) (state : LinkState) :
    (lnk (clearLink s i state) i).disabled = true := by
  have hheld : (cleared state (lnk s i)).disabled = true := by simp [cleared, hd]
  have hlive : cleared state (lnk s i) ≠ {} := fun h => Bool.noConfusion (hheld.symm.trans (congrArg Link.disabled h))
  have hlnk : lnk (clearLink s i state) i = lnk (modLnk s i (cleared state)) i := congrArg (tget ({} : Link) · i) (clearLink_links state)
  rw [hlnk, lnk_modLnk_live hlive, hheld]

/-! ## Set-up of the fabric (R319, R338, R339) -/

theorem fabricWrite_open (hl : s.hub.lockFabric = false) (off : Nat) (v : Word) (f : Fst) :
    fabricWrite s off v true f = { s with fst := f } := by
  simp [fabricWrite, hl]

theorem fabricWrite_locked (hl : s.hub.lockFabric = true) {f : Fst} (hf : f ≠ s.fst) (off : Nat) (v : Word) (ok : Bool) :
    fabricWrite s off v ok f = setupIgnored s off v := by
  simp [fabricWrite, hl, hf]

@[simp] theorem setupIgnored_fst (off : Nat) (v : Word) : (setupIgnored s off v).fst = s.fst :=
  logEvent_keeps modPort_fst emit_fst (fun _ _ => rfl) ..

theorem rootState_elsewhere (h : s.fst.node ≠ s.fst.root) : rootState s = s := by
  simp [rootState, isRoot, h]

theorem rootState_unsynced (hs : s.fst.syncEn = false) (ht : s.fst.timeState ≠ .locked) : rootState s = s := by
  simp [rootState, hs, ht]

theorem rootState_synced (h : s.fst.node = s.fst.root) (hs : s.fst.syncEn = true) : rootState s =
    { s with fst := { s.fst with timeState := .locked, everLocked := true, carryLocked := true, holdExpired := false } } := by
  simp [rootState, isRoot, h, hs]

/-- `FST.NODE` as a write leaves it. -/
def withNode (v : Word) (s : State) : State :=
  { s with fst := { s.fst with en := bit v.toNat 63, node := BitVec.ofNat 18 v.toNat } }

theorem withNode_off {v : Word} (h : v.toNat.testBit 63 = false) :
    withNode v s = { s with fst := { s.fst with en := false, node := BitVec.ofNat 18 v.toNat } } := by
  simp only [withNode, bit, h]

theorem withNode_on {v : Word} (h : v.toNat.testBit 63 = true) :
    withNode v s = { s with fst := { s.fst with en := true, node := BitVec.ofNat 18 v.toNat } } := by
  simp only [withNode, bit, h]

theorem withNode_same {v : Word} (h : v.toNat.testBit 63 = s.fst.en) :
    withNode v s = { s with fst := { s.fst with node := BitVec.ofNat 18 v.toNat } } := by
  simp only [withNode, bit, h]

/-- A package whose node has changed may be the root of the time tree. -/
def nodeNamed (s t : State) : State := if t.fst.node = s.fst.node then t else rootState t

theorem exec_nodeEnable (hm : MaySet s p) (v : Word) : exec (.nodeEnable p v) s = .next (writeFstNode v s) :=
  congrArg _ (viseWrite_of_maySet hm ..)

theorem exec_syncEnable (hm : MaySet s p) (v : Word) : exec (.syncEnable p v) s = .next (writeFstTime v s) :=
  congrArg _ (viseWrite_of_maySet hm ..)

/-- A write of `FST.NODE` by what the fabric makes of it. -/
theorem writeFstNode_writes {v : Word} {t : State} (ht : fabricWrite s (Base.fst + 0) v
    (torusOk (BitVec.ofNat 18 v.toNat) s.fst.nx s.fst.ny s.fst.nz) (withNode v s).fst = t) : writeFstNode v s =
      if (nodeNamed s t).fst.en && !s.fst.en then trainAll (nodeNamed s t) else nodeNamed s t := by
  subst ht
  rfl

theorem writeFstNode_open {v : Word} (hl : s.hub.lockFabric = false)
    (hok : torusOk (BitVec.ofNat 18 v.toNat) s.fst.nx s.fst.ny s.fst.nz = true) : writeFstNode v s =
      if (nodeNamed s (withNode v s)).fst.en && !s.fst.en then trainAll (nodeNamed s (withNode v s)) else nodeNamed s (withNode v s) :=
  writeFstNode_writes (by rw [hok, fabricWrite_open hl]; rfl)

theorem writeFstNode_locked {v : Word} (hl : s.hub.lockFabric = true) (hn : BitVec.ofNat 18 v.toNat ≠ s.fst.node) :
    writeFstNode v s = setupIgnored s (Base.fst + 0) v := by
  have hf : (withNode v s).fst ≠ s.fst := fun h => hn (congrArg Fst.node h)
  rw [writeFstNode_writes (fabricWrite_locked hl hf ..), nodeNamed, setupIgnored_fst, if_pos rfl, setupIgnored_fst]
  simp

/-- A node that the time tree does not hear of (R338): not the root, no other than before, or no root of a tree that synchronises. -/
theorem nodeNamed_quiet {v : Word} (h : s.fst.root ≠ BitVec.ofNat 18 v.toNat ∨ s.fst.node = BitVec.ofNat 18 v.toNat ∨
    (s.fst.syncEn = false ∧ s.fst.timeState ≠ .locked)) : nodeNamed s (withNode v s) = withNode v s := by
  rw [nodeNamed]
  rcases h with hroot | hsame | ⟨hs, ht⟩
  · rw [rootState_elsewhere (s := withNode v s) (Ne.symm hroot), ite_self]
  · exact if_pos hsame.symm
  · rw [rootState_unsynced (s := withNode v s) hs ht, ite_self]

/-- A node that becomes the root of a tree that synchronises is LOCKED at once (R338). -/
theorem nodeNamed_root {v : Word} (hr : s.fst.root = BitVec.ofNat 18 v.toNat) (hn : s.fst.node ≠ BitVec.ofNat 18 v.toNat)
    (hs : s.fst.syncEn = true) : nodeNamed s (withNode v s) = { withNode v s with fst := { (withNode v s).fst with
      timeState := .locked, everLocked := true, carryLocked := true, holdExpired := false } } :=
  (if_neg (Ne.symm hn)).trans (rootState_synced (s := withNode v s) hr.symm hs)

theorem writeFstTime_open {v : Word} (hl : s.hub.lockFabric = false) : writeFstTime v s = rootState { s with
    fst := { s.fst with syncEn := bit v.toNat 31, root := BitVec.ofNat 18 v.toNat } } :=
  congrArg rootState (fabricWrite_open hl ..)

end Sys2Proof.Laws

namespace Sys2Proof.Claims
open Sys2Proof Sys2Proof.Machine Sys2Proof.Laws

/-- Settles O39: a training ends by its lanes and then by its peer. -/
theorem linksTrain : Obligations.LinksTrain := by
  intro i s hi
  refine ⟨fun r ht hm hr => ?up, fun r u v w ht hm hu hr hv hw => ?miswired, fun r u => rightPeer_iff, fun r ht hm => ?noLanes,
    exec_linkTrainRetry hi, rfl, fun m => ⟨usableLanes_eq_full_iff, usableLanes_eq_none_iff, fun _ => usableLanes_good⟩⟩
  case up => rw [exec_linkTrainEnd hi ht, endTraining_rightPeer hm hr]; rfl
  case miswired =>
    subst hu hv hw
    rw [exec_linkTrainEnd hi ht, endTraining_miswired hm hr, trainFailed_eq]
    rfl
  case noLanes => rw [exec_linkTrainEnd hi ht, endTraining_noLanes hm, trainFailed_eq]

/-- Settles O40: each command by the state of its link, and the end of a drain by what was asked for. -/
theorem linkCommands : Obligations.LinkCommands := by
  intro i s hi
  refine ⟨fun p hm => ⟨fun hu => ⟨?recal, ?disableUsable⟩, fun hu => ?recalRefused, fun hd hx => ?disableRefused,
    fun ht => ?disableTraining, fun hd hx => ?disableDown, fun u hx hu => ⟨fun hn => ?freed, fun hy => ?trains⟩,
    fun u => mayTrain_iff, fun hx => ?enableRefused⟩,
    exec_linkDrainEnd_disabled hi, fun state hd => clearLink_disabled hd state, exec_linkDrainEnd_recalled hi⟩
  case recal => rw [exec_recal hm hi, writeFlkCtrl_recal, if_pos (linkUsable_iff.2 hu)]
  case disableUsable => rw [exec_disable hm hi, writeFlkCtrl_disable_usable (linkUsable_iff.2 hu)]
  case recalRefused => rw [exec_recal hm hi, writeFlkCtrl_recal, linkUsable_eq_false hu]; rfl
  case disableRefused => rw [exec_disable hm hi, writeFlkCtrl_disable, if_pos ⟨hd, hx⟩]
  case disableTraining =>
    rw [exec_disable hm hi, writeFlkCtrl_disable_unusable (linkUsable_eq_false (.inr ht)) (by simp [ht])]
  case disableDown => rw [exec_disable hm hi, writeFlkCtrl_disable_unusable (linkUsable_eq_false (.inl hd)) (by simp [hx])]
  case freed =>
    obtain rfl : u = freed s i := hu
    rw [exec_enable hm hi, writeFlkCtrl_enable, if_pos hx, if_neg (ne_true_of_eq_false hn)]
  case trains =>
    obtain rfl : u = freed s i := hu
    rw [exec_enable hm hi, writeFlkCtrl_enable, if_pos hx, if_pos hy]
  case enableRefused => rw [exec_enable hm hi, writeFlkCtrl_enable, hx]; rfl

/-- Settles O41: a write of NODE or TIME is taken or ignored by the lock, and names the root or does not. -/
theorem fabricSetUp : Obligations.FabricSetUp := by
  intro p v s hm
  refine ⟨fun hl hok => ⟨fun hq => ⟨fun h63 => ?off, fun h63 hen => ?on, fun h63 hen => ?stays⟩, fun hr hn hs h63 => ?root⟩,
    fun hl hn => ?locked, fun hl hn => ?time, fun hl hn h31 => ?timeRoot⟩
  case off => rw [exec_nodeEnable hm, writeFstNode_open hl hok, nodeNamed_quiet hq, withNode_off h63]; rfl
  case on => rw [exec_nodeEnable hm, writeFstNode_open hl hok, nodeNamed_quiet hq, withNode_on h63, hen]; rfl
  case stays =>
    rw [exec_nodeEnable hm, writeFstNode_open hl hok, nodeNamed_quiet hq, withNode_same (h63.trans hen.symm), if_neg (by simp)]
  case root => rw [exec_nodeEnable hm, writeFstNode_open hl hok, nodeNamed_root hr hn hs, withNode_off h63]; rfl
  case locked => rw [exec_nodeEnable hm, writeFstNode_locked hl hn]
  case time => rw [exec_syncEnable hm, writeFstTime_open hl, rootState_elsewhere (by exact hn)]; rfl
  case timeRoot =>
    rw [exec_syncEnable hm, writeFstTime_open hl, rootState_synced (by exact hn) (by exact h31)]
    simp [bit, h31]

end Sys2Proof.Claims
end

section
/-! Flits of a usable link (R314, R316 to R318): what a received flit is by its codewords, its check value and its epoch, DATA by its SEQ,
replays, and a link that makes no progress. -/

namespace Sys2Proof.Laws
open Sys2Proof Sys2Proof.Machine

variable {s : State} {i : Nat} {h : FlitHead}

/-! ## A good flit (R314, R316) -/

theorem lostCodewords_eq_zero_iff {errors : List Nat} : lostCodewords errors = 0 ↔ ∀ n ∈ errors, n ≤ 15 := by
  simp [lostCodewords, List.filter_eq_nil_iff]

theorem flitGood_iff {kind : BitVec 2} {seq : BitVec 12} {payload : List Byte} : flitGood h kind seq payload = true ↔
    h.tainted = false ∧ (∀ n ∈ h.errors, n ≤ 15) ∧ h.crc = crc64 (flitBody kind seq h.ack h.cvc h.credits h.epoch payload) := by
  simp only [flitGood, Bool.and_eq_true, Bool.not_eq_true', decide_eq_true_eq, lostCodewords_eq_zero_iff, and_assoc]

section
variable {kind : BitVec 2} {seq : BitVec 12} {payload : List Byte} (k : State → State) (hi : i < 24) (hu : linkUsable (lnk s i) = true)
include hi hu

theorem onFlit_usable : onFlit s i h kind seq payload k = if flitGood h kind seq payload = false then sendReplay (countFec s i h) i
    else if h.epoch ≠ (lnk (countFec s i h) i).epoch then countFec s i h else k (takeHead (countFec s i h) i h) := by
  rw [onFlit, if_neg (by simp [hi, hu])]
  simp only [Bool.not_eq_true']

theorem onFlit_bad (hg : flitGood h kind seq payload = false) : onFlit s i h kind seq payload k = sendReplay (countFec s i h) i := by
  rw [onFlit_usable k hi hu, if_pos hg]

theorem onFlit_stale (hg : flitGood h kind seq payload = true) (he : h.epoch ≠ (lnk (countFec s i h) i).epoch) :
    onFlit s i h kind seq payload k = countFec s i h := by
  rw [onFlit_usable k hi hu, if_neg (by simp [hg]), if_pos he]

theorem onFlit_good (hg : flitGood h kind seq payload = true) (he : h.epoch = (lnk (countFec s i h) i).epoch) :
    onFlit s i h kind seq payload k = k (takeHead (countFec s i h) i h) := by
  rw [onFlit_usable k hi hu, if_neg (by simp [hg]), if_neg (not_not.2 he)]

end

theorem exec_idleFlit : exec (.idleFlit i h) s = .next (onFlit s i h FlitKind.idle 0 [] (fun s => s)) := rfl

theorem exec_dataFlit (seq : BitVec 12) (d : List Byte) :
    exec (.dataFlit i h seq d) s = .next (onFlit s i h FlitKind.data seq d (fun s => takeData s i seq d)) := rfl

theorem exec_replayFlit (seq : BitVec 12) :
    exec (.replayFlit i h seq) s = .next (onFlit s i h FlitKind.replay seq [] (fun s => answerReplay s i seq)) := rfl

/-! ## DATA by its SEQ (R317) -/

section
variable {seq : BitVec 12} {d : List Byte}

theorem takeData_inOrder {c : State} (hseq : seq = (lnk s i).rxSeq) (hc : c = modLnk s i (fun l => { l with
    rxSeq := l.rxSeq + 1, futileAsked := 0, errorSince := none, rxBytes := l.rxBytes ++ d })) :
    takeData s i seq d = sendIdle (takePackets i ((lnk c i).rxBytes.length / 16 + 1) c) i 0 0 := by
  subst hc
  exact if_pos hseq

theorem takeData_duplicate (hseq : seq ≠ (lnk s i).rxSeq) (hold : 2048 ≤ (seq - (lnk s i).rxSeq).toNat) : takeData s i seq d = s :=
  (if_neg hseq).trans (if_neg fun hgap => Nat.not_lt.2 hold hgap.1)

/-- A gap is answered once: not again while a flit that was asked for is on its way. -/
theorem takeData_gap (hseq : seq ≠ (lnk s i).rxSeq) (hgap : (seq - (lnk s i).rxSeq).toNat < 2048) :
    takeData s i seq d = if (lnk s i).errorSince = none then sendReplay s i else s := by
  refine (if_neg hseq).trans ?_
  by_cases he : (lnk s i).errorSince = none
  · rw [if_pos ⟨hgap, he⟩, if_pos he]
  · rw [if_neg (fun h => he h.2), if_neg he]

end

/-! ## Replays and progress (R317) -/

theorem exec_replayTimeout_due (hi : i < 24) (hu : linkUsable (lnk s i) = true) (hb : (lnk s i).replayBuf ≠ [])
    (hd : (lnk s i).ackAt + 2000 ≤ now s) : exec (.replayTimeout i) s = .next (replayOldest s i) :=
  congrArg _ (if_pos ⟨hi, hu, hb, hd⟩)

theorem exec_replayTimeout_early (hd : now s < (lnk s i).ackAt + 2000) : exec (.replayTimeout i) s = .next s :=
  congrArg _ (if_neg fun h => Nat.not_le.2 hd h.2.2.2)

theorem linkStuck_of_replays {l : Link} (h : 32 ≤ l.futileAsked ∨ 32 ≤ l.futileAnswered ∨ 32 ≤ l.futileTimed) :
    linkStuck s l = true := by
  rcases h with h | h | h <;> simp [linkStuck, h]

theorem linkStuck_of_error {l : Link} {t : Nat} (he : l.errorSince = some t) (ht : t + 20000 ≤ now s) : linkStuck s l = true := by
  simp [linkStuck, he, ht]

theorem linkStuck_eq_false {l : Link} (he : l.errorSince = none) (h1 : l.futileAsked < 32) (h2 : l.futileAnswered < 32)
    (h3 : l.futileTimed < 32) : linkStuck s l = false := by
  simp [linkStuck, he, Nat.not_le.2 h1, Nat.not_le.2 h2, Nat.not_le.2 h3]

theorem exec_noProgress (hi : i < 24) (hu : linkUsable (lnk s i) = true) (hs : linkStuck s (lnk s i) = true) :
    exec (.linkDownTimeout (.noProgress i)) s = .next (linkDown s i) := congrArg _ (if_pos ⟨hi, hu, hs⟩)

theorem exec_noProgress_moving (hs : linkStuck s (lnk s i) = false) : exec (.linkDownTimeout (.noProgress i)) s = .next s :=
  congrArg _ (if_neg fun h => ne_true_of_eq_false hs h.2.2)

theorem exec_stopped (hi : i < 24) (hu : linkUsable (lnk s i) = true) :
    exec (.linkDownTimeout (.stopped i)) s = .next (linkDown s i) := congrArg _ (if_pos ⟨hi, hu⟩)

end Sys2Proof.Laws

namespace Sys2Proof.Claims
open Sys2Proof Sys2Proof.Machine Sys2Proof.Laws

/-- Settles O42: a flit is bad, of another epoch, or good; a good DATA flit is in order, old, or past a gap. -/
theorem flitsAreReplayed : Obligations.FlitsAreReplayed := by
  intro i h s a b hi hstate ha hb
  subst ha hb
  have hu := linkUsable_iff.2 hstate
  refine ⟨fun kind seq payload => flitGood_iff, fun hg => ?idleBad, fun hg he => ?idleStale, fun hg he => ?idleGood,
    fun seq d hg => ?dataBad, fun seq d hg he => ?dataStale, fun seq d c hg he hseq hc => ?dataInOrder,
    fun seq d hg he hseq hold => ?dataDuplicate, fun seq d hg he hseq hgap => ?dataGap, fun seq hg => ?replayBad,
    fun seq hg he => ?replayGood, exec_replayTimeout_due hi hu, exec_replayTimeout_early,
    fun hn => exec_noProgress hi hu (linkStuck_of_replays hn), fun t he ht => exec_noProgress hi hu (linkStuck_of_error he ht),
    exec_stopped hi hu, fun he h1 h2 h3 => exec_noProgress_moving (linkStuck_eq_false he h1 h2 h3)⟩
  case idleBad => rw [exec_idleFlit, onFlit_bad _ hi hu hg]
  case idleStale => rw [exec_idleFlit, onFlit_stale _ hi hu hg he]
  case idleGood => rw [exec_idleFlit, onFlit_good _ hi hu hg he]
  case dataBad => rw [exec_dataFlit, onFlit_bad _ hi hu hg]
  case dataStale => rw [exec_dataFlit, onFlit_stale _ hi hu hg he]
  case dataInOrder => rw [exec_dataFlit, onFlit_good _ hi hu hg he, takeData_inOrder hseq hc]
  case dataDuplicate => rw [exec_dataFlit, onFlit_good _ hi hu hg he, takeData_duplicate hseq hold]
  case dataGap => rw [exec_dataFlit, onFlit_good _ hi hu hg he, takeData_gap hseq hgap]
  case replayBad => rw [exec_replayFlit, onFlit_bad _ hi hu hg]
  case replayGood => rw [exec_replayFlit, onFlit_good _ hi hu hg he]; rfl

end Sys2Proof.Claims
end

section
/-! The layout of a packet (R325, Table 12-4): numbers in bytes, the words of the header, and what is read back from them. -/

namespace Sys2Proof.Laws
open Sys2Proof Sys2Proof.Machine

/-! ## Numbers in bytes (R10) -/

@[simp] theorem length_leBytes (n v : Nat) : (leBytes n v).length = n := by
  induction n generalizing v with
  | zero => rfl
  | succ n ih => simp [leBytes, ih]

@[simp] theorem length_zeros (n : Nat) : (zeros n).length = n := List.length_replicate

theorem leNat_leBytes (n v : Nat) : leNat (leBytes n v) = v % 256 ^ n := by
  induction n generalizing v with
  | zero => simp [leBytes, leNat, Nat.mod_one]
  | succ n ih =>
    rw [leBytes, leNat, ih, BitVec.toNat_ofNat]
    exact (Nat.mod_mul (a := 256)).symm.trans (by rw [← Nat.pow_succ'])

/-- A number at the front of a byte string. -/
theorem at_leBytes (n v : Nat) (bs : List Byte) : at_ (leBytes n v ++ bs) 0 n = v % 256 ^ n := by
  rw [at_, List.drop_zero, List.take_left' (length_leBytes n v), leNat_leBytes]

/-- A field that lies behind the bytes in front. -/
theorem at_append {m off : Nat} (v : Nat) (bs : List Byte) (n : Nat) (h : m ≤ off) :
    at_ (leBytes m v ++ bs) off n = at_ bs (off - m) n := by
  rw [at_, List.drop_append, List.drop_eq_nil_of_le (by simpa using h), length_leBytes, List.nil_append, at_]

/-! ## The header (Table 12-4) -/

variable (p : Packet) (rest : List Byte)

/-- The header that a byte string starts with: a packet without its data. -/
def headerOf (bs : List Byte) : Packet := {
  typ := BitVec.ofNat 4 (at_ bs 0 1 / 16), locked := bit (at_ bs 0 1) 3, detoured := bit (at_ bs 0 1) 2,
  plane := BitVec.ofNat 2 (at_ bs 0 1), epoch := BitVec.ofNat 8 (at_ bs 1 1), tag := BitVec.ofNat 16 (at_ bs 2 2),
  reqDie := BitVec.ofNat 2 (fld (at_ bs 4 4) 31 30), detours := BitVec.ofNat 2 (fld (at_ bs 4 4) 29 28),
  dst := BitVec.ofNat 18 (at_ bs 4 4), length := BitVec.ofNat 11 (fld (at_ bs 8 4) 31 21),
  hops := BitVec.ofNat 3 (fld (at_ bs 8 4) 20 18), src := BitVec.ofNat 18 (at_ bs 8 4),
  fkey := BitVec.ofNat 16 (fld (at_ bs 12 4) 31 16), route := BitVec.ofNat 12 (at_ bs 12 4),
  pegOp := BitVec.ofNat 2 (fld (at_ bs 16 8) 63 62), addr := BitVec.ofNat 46 (at_ bs 16 8),
  dropBy := BitVec.ofNat 64 (at_ bs 24 8), data := [] }

theorem parsePacket_eq (bs : List Byte) :
    parsePacket bs = { headerOf bs with data := (bs.drop 32).take (dataLen (headerOf bs)) } := rfl

/-- The 32 bytes of a packet's header. -/
def headerBytes : List Byte :=
  leBytes 1 (p.typ.toNat * 16 + b2n p.locked * 8 + b2n p.detoured * 4 + p.plane.toNat) ++ leBytes 1 p.epoch.toNat
    ++ leBytes 2 p.tag.toNat
    ++ leBytes 4 (p.reqDie.toNat * 2 ^ 30 + p.detours.toNat * 2 ^ 28 + p.dst.toNat)
    ++ leBytes 4 (p.length.toNat * 2 ^ 21 + p.hops.toNat * 2 ^ 18 + p.src.toNat)
    ++ leBytes 4 (p.fkey.toNat * 65536 + p.route.toNat)
    ++ leBytes 8 (p.pegOp.toNat * 2 ^ 62 + p.addr.toNat) ++ leBytes 8 p.dropBy.toNat

theorem packetBytes_eq : packetBytes p =
    headerBytes p ++ (p.data ++ zeros (16 * ((dataLen p + 15) / 16) - p.data.length)) := rfl

@[simp] theorem length_headerBytes : (headerBytes p).length = 32 := by simp [headerBytes]

/-- A flag is read back from its bit. -/
theorem bit_of_div {b : Bool} {v k : Nat} (h : v / 2 ^ k % 2 = b2n b) : bit v k = b := by
  rw [bit, Nat.testBit_eq_decide_div_mod_eq, h]
  cases b <;> rfl

theorem b2n_lt (b : Bool) : b2n b < 2 := by cases b <;> decide

/-- A field of `w` bits is read back from the word that it lies in. -/
theorem ofNat_eq_of_mod {w v : Nat} {x : BitVec w} (h : v % 2 ^ w = x.toNat) : BitVec.ofNat w v = x :=
  BitVec.eq_of_toNat_eq (by rw [BitVec.toNat_ofNat, h])

theorem at_headerBytes_kind : at_ (headerBytes p ++ rest) 0 1 =
    p.typ.toNat * 16 + b2n p.locked * 8 + b2n p.detoured * 4 + p.plane.toNat := by
  have ht := p.typ.isLt
  have hl := b2n_lt p.locked
  have hd := b2n_lt p.detoured
  have hp := p.plane.isLt
  simp only [headerBytes, List.append_assoc, at_leBytes]
  omega

theorem at_headerBytes_epoch : at_ (headerBytes p ++ rest) 1 1 = p.epoch.toNat := by
  simpa [headerBytes, at_append, at_leBytes] using p.epoch.isLt

theorem at_headerBytes_tag : at_ (headerBytes p ++ rest) 2 2 = p.tag.toNat := by
  simpa [headerBytes, at_append, at_leBytes] using p.tag.isLt

theorem at_headerBytes_target : at_ (headerBytes p ++ rest) 4 4 =
    p.reqDie.toNat * 2 ^ 30 + p.detours.toNat * 2 ^ 28 + p.dst.toNat := by
  have hr := p.reqDie.isLt
  have hd := p.detours.isLt
  have ht := p.dst.isLt
  simp [headerBytes, at_append, at_leBytes]
  omega

theorem at_headerBytes_source : at_ (headerBytes p ++ rest) 8 4 =
    p.length.toNat * 2 ^ 21 + p.hops.toNat * 2 ^ 18 + p.src.toNat := by
  have hl := p.length.isLt
  have hh := p.hops.isLt
  have hs := p.src.isLt
  simp [headerBytes, at_append, at_leBytes]
  omega

theorem at_headerBytes_key : at_ (headerBytes p ++ rest) 12 4 = p.fkey.toNat * 65536 + p.route.toNat := by
  have hk := p.fkey.isLt
  have hr := p.route.isLt
  simp [headerBytes, at_append, at_leBytes]
  omega

theorem at_headerBytes_address : at_ (headerBytes p ++ rest) 16 8 = p.pegOp.toNat * 2 ^ 62 + p.addr.toNat := by
  have ho := p.pegOp.isLt
  have ha := p.addr.isLt
  simp [headerBytes, at_append, at_leBytes]
  omega

theorem at_headerBytes_dropBy : at_ (headerBytes p ++ rest) 24 8 = p.dropBy.toNat := by
  simpa [headerBytes, at_append, at_leBytes] using p.dropBy.isLt

/-- Every field of the header is read back. -/
theorem headerOf_headerBytes : headerOf (headerBytes p ++ rest) = { p with data := [] } := by
  have hplane := p.plane.isLt
  have hl := b2n_lt p.locked
  have hd := b2n_lt p.detoured
  have hdst := p.dst.isLt
  have hdetours := p.detours.isLt
  have hsrc := p.src.isLt
  have hhops := p.hops.isLt
  have hroute := p.route.isLt
  have haddr := p.addr.isLt
  have htyp := p.typ.isLt
  have hreq := p.reqDie.isLt
  have hlen := p.length.isLt
  have hkey := p.fkey.isLt
  have hop := p.pegOp.isLt
  simp only [headerOf, at_headerBytes_kind, at_headerBytes_epoch, at_headerBytes_tag, at_headerBytes_target, at_headerBytes_source,
    at_headerBytes_key, at_headerBytes_address, at_headerBytes_dropBy, BitVec.ofNat_toNat, BitVec.setWidth_eq, fld,
    Nat.shiftRight_eq_div_pow, Packet.mk.injEq, true_and, and_true]
  refine ⟨?typ, ?locked, ?detoured, ?plane, ?reqDie, ?detours, ?dst, ?length, ?hops, ?src, ?fkey, ?route, ?pegOp, ?addr⟩
  case locked => exact bit_of_div (by omega)
  case detoured => exact bit_of_div (by omega)
  all_goals exact ofNat_eq_of_mod (by omega)

/-! ## The data (R325) -/

theorem parsePacket_packetBytes (h : p.data.length = dataLen p) : parsePacket (packetBytes p ++ rest) = p := by
  rw [parsePacket_eq, packetBytes_eq, List.append_assoc, headerOf_headerBytes, List.drop_left' (length_headerBytes p), List.append_assoc]
  have hdata : dataLen { p with data := [] } = p.data.length := h.symm
  rw [hdata, List.take_left]

theorem length_packetBytes (h : p.data.length = dataLen p) : (packetBytes p).length = 16 * packetUnits p := by
  simp only [packetBytes_eq, List.length_append, length_headerBytes, length_zeros, packetUnits, h]
  omega

end Sys2Proof.Laws

namespace Sys2Proof.Claims
open Sys2Proof Sys2Proof.Machine Sys2Proof.Laws

/-- Settles O43: the header word by word, then the data behind it. -/
theorem packetsReadBack : Obligations.PacketsReadBack :=
  fun p rest h => ⟨parsePacket_packetBytes p rest h, length_packetBytes p h⟩

end Sys2Proof.Claims
end

section
/-! Packets on their way (R318, R321, R322, R324, R333): what leaves a link's queue, what the router makes of a packet, the drops of old
ones, and dimension order in the torus. -/

namespace Sys2Proof.Laws
open Sys2Proof Sys2Proof.Machine Sys2Proof.Claims

variable {s : State} {i vc d : Nat} {p : Packet} {x : Transit}

/-! ## Leaving a package (R318, R323) -/

theorem leaving_straight (h : p.detoured = false ∨ p.hops = 0) : leaving p = p :=
  if_neg (by rcases h with h | h <;> simp [h])

theorem leaving_detoured (hd : p.detoured = true) (hh : p.hops ≠ 0) :
    leaving p = { p with route := p.route >>> 3, hops := p.hops - 1 } := 
  if_pos (by rw [hd, decide_eq_true hh]; rfl)

section
variable {rest : List Packet} (hi : i < 24) (hq : tget [] (lnk s i).txq vc = p :: rest)
include hi hq

theorem exec_packetSend_sent (ha : tooOld s p 2000 = false) (hu : linkUsable (lnk s i) = true) (hm : maySend (lnk s i) vc p = true) :
    exec (.packetSend i vc) s = .next (sendPacket s i vc p) := by
  simp [exec, execPacketSend, hq, Nat.not_le.2 hi, ha, hu, hm]

theorem exec_packetSend_aged (ha : tooOld s p 2000 = true) : exec (.packetSend i vc) s = .next (countAged (takeQueued s i vc)) := by
  simp [exec, execPacketSend, hq, Nat.not_le.2 hi, ha]

end

theorem maySend_iff {l : Link} : maySend l vc p = true ↔
    tget 0 l.credits vc + packetUnits p ≤ 1024 ∧ l.replayBuf.length + (payloadsOf (packetBytes p)).length ≤ 512 := by
  simp only [maySend, Bool.and_eq_true, decide_eq_true_eq]

/-! ## The router (R321, R322, R324) -/

theorem exec_packetRoute (hr : routable s d = some x) : exec (.packetRoute d) s = .next (routeOne s d x) := by
  simp only [exec, execPacketRoute, hr]

theorem routeOne_aged (ha : tooOld s x.pkt 2000 = true) : routeOne s d x = dropAged (takeOut s d x) x := if_pos ha

section
variable (ha : tooOld s x.pkt 2000 = false)
include ha

theorem routeOne_home {e : Nat} (hh : x.pkt.dst = s.fst.node) (he : e = if s.rst.fatal then d else servingDie d x.pkt)
    (hp : pathUp s d e = true) : routeOne s d x = pushIngress (takeOut s d x) e x := by
  subst he
  simp [routeOne, ha, atHome, hh, hp]

theorem routeOne_link {q : Packet} (hh : x.pkt.dst ≠ s.fst.node) (hw : wayOf s d x.pkt = .link i q) (hp : pathUp s d (i / 6) = true) :
    routeOne s d x = toLink (releaseHeld (takeOut s d x) x) i q := by
  simp [routeOne, ha, atHome, hh, hw, hp]

theorem routeOne_unroutable (hh : x.pkt.dst ≠ s.fst.node) (hw : wayOf s d x.pkt = .unroutable) :
    routeOne s d x = dropUnroutable (releaseHeld (takeOut s d x) x) d x.pkt := by
  simp [routeOne, ha, atHome, hh, hw]

end

/-! ## Drops for age (R333) -/

theorem exec_routerAgeDrop_router {k : Nat} (hx : (tget [] s.fst.routers d)[k]? = some x) (ha : tooOld s x.pkt 2000 = true) :
    exec (.routerAgeDrop d k) s = .next (dropAged (takeOut s d x) x) := by
  simp only [exec, execRouterAgeDrop, hx, ha, if_true]

theorem exec_routerAgeDrop_queue {k : Nat} {u : State} (hx : (tget [] s.fst.routers d)[k]? = none) (hu : dropQueued s d = some u) :
    exec (.routerAgeDrop d k) s = .next u := by
  simp only [exec, execRouterAgeDrop, hx, hu, Option.getD_some]

theorem exec_ingressAgeDrop (hx : (tget [] s.fst.ingress d).find? (fun x => tooOld s x.pkt 0) = some x) :
    exec (.ingressAgeDrop d) s = .next (dropAged (leaveIngress s d x) x) := by
  simp only [exec, execIngressAgeDrop, hx]

/-! ## The torus (R312, R321) -/

variable {f : Fst} {node dst dim : Nat}

/-- One coordinate is replaced, and the others stay. -/
theorem coord_withCoord {c k : Nat} (hdim : dim < 3) (hk : k < 3) (hc : c < 64) :
    coord (withCoord node dim c) k = if k = dim then c else coord node k := by
  unfold coord withCoord coord
  interval_cases dim <;> interval_cases k <;> norm_num <;> omega

/-- The way up a ring of `n` places from `a` to `b`. -/
def upWay (n a b : Nat) : Nat := (b + n - a) % n

theorem upWay_eq {n a b : Nat} (ha : a < n) (hb : b < n) : upWay n a b = if a ≤ b then b - a else b + n - a := by
  unfold upWay
  split
  · next h => rw [show b + n - a = b - a + n by omega, Nat.add_mod_right, Nat.mod_eq_of_lt (by omega)]
  · exact Nat.mod_eq_of_lt (by omega)

theorem succ_mod_eq {n a : Nat} (ha : a < n) : (a + 1) % n = if a + 1 = n then 0 else a + 1 := by
  split
  · next h => rw [h, Nat.mod_self]
  · exact Nat.mod_eq_of_lt (by omega)

theorem pred_mod_eq {n a : Nat} (ha : a < n) : (a + n - 1) % n = if a = 0 then n - 1 else a - 1 := by
  split
  · next h => rw [h, Nat.zero_add, Nat.mod_eq_of_lt (by omega)]
  · rw [show a + n - 1 = a - 1 + n by omega, Nat.add_mod_right, Nat.mod_eq_of_lt (by omega)]

/-- A step the short way round, up where both ways are equally long, comes one place nearer. -/
theorem ring_step_nearer {n a b : Nat} (ha : a < n) (hb : b < n) (hab : a ≠ b) {c : Nat}
    (hc : c = if upWay n a b ≤ upWay n b a then (a + 1) % n else (a + n - 1) % n) :
    c < n ∧ Nat.min (upWay n c b) (upWay n b c) + 1 = Nat.min (upWay n a b) (upWay n b a) := by
  rw [upWay_eq ha hb, upWay_eq hb ha, succ_mod_eq ha, pred_mod_eq ha] at hc
  have hcn : c < n := by
    subst hc
    split_ifs <;> omega
  refine ⟨hcn, ?_⟩
  rw [upWay_eq ha hb, upWay_eq hb ha, upWay_eq hcn hb, upWay_eq hb hcn]
  simp only [Nat.min_def]
  split_ifs at hc ⊢ <;> omega

/-- The first dimension in which two nodes differ gives the direction. -/
theorem nextDir_eq (hdim : dim < 3) (hsame : ∀ k, k < dim → coord node k = coord dst k) (hne : coord node dim ≠ coord dst dim) :
    nextDir f node dst = some (2 * dim + if upWay (extentOf f dim) (coord node dim) (coord dst dim) ≤
      upWay (extentOf f dim) (coord dst dim) (coord node dim) then 0 else 1) := by
  have hfind : [0, 1, 2].find? (fun dim => decide (coord node dim ≠ coord dst dim)) = some dim := by
    interval_cases dim
    · simp [hne]
    · simp [hne, hsame 0]
    · simp [hne, hsame 0, hsame 1]
  rw [nextDir, hfind]
  rfl

theorem hopsLeft_eq : hopsLeft f node dst dim = Nat.min (upWay (extentOf f dim) (coord node dim) (coord dst dim))
    (upWay (extentOf f dim) (coord dst dim) (coord node dim)) := rfl

/-- The neighbour in the positive or the negative direction of a dimension. -/
theorem neighbour_eq {c : Prop} [Decidable c] : neighbour f node (2 * dim + if c then 0 else 1) = withCoord node dim
    (if c then (coord node dim + 1) % extentOf f dim else (coord node dim + extentOf f dim - 1) % extentOf f dim) := by
  split_ifs
  · have hdim : (2 * dim + 0) / 2 = dim := by omega
    have hsign : (2 * dim + 0) % 2 = 0 := by omega
    rw [neighbour, hdim, hsign, if_pos rfl]
  · have hdim : (2 * dim + 1) / 2 = dim := by omega
    have hsign : (2 * dim + 1) % 2 = 1 := by omega
    rw [neighbour, hdim, hsign, if_neg (by decide)]

/-- A hop in dimension order comes nearer in its dimension, and stays where it is in the others. -/
theorem hop_nearer (hdim : dim < 3) (hsame : ∀ k, k < dim → coord node k = coord dst k) (hne : coord node dim ≠ coord dst dim)
    (hn : coord node dim < extentOf f dim) (hd : coord dst dim < extentOf f dim) (hext : extentOf f dim ≤ 64) {dir : Nat}
    (hdir : nextDir f node dst = some dir) : hopsLeft f (neighbour f node dir) dst dim + 1 = hopsLeft f node dst dim ∧
      ∀ k, k < 3 → k ≠ dim → coord (neighbour f node dir) k = coord node k := by
  obtain ⟨hlt, hnear⟩ := ring_step_nearer hn hd hne rfl
  have hcoord {k : Nat} (hk : k < 3) := coord_withCoord (node := node) hdim hk (hlt.trans_le hext)
  rw [nextDir_eq hdim hsame hne] at hdir
  rw [← Option.some.inj hdir, neighbour_eq, hopsLeft_eq, hopsLeft_eq, hcoord hdim, if_pos rfl]
  exact ⟨hnear, fun k hk hkd => (hcoord hk).trans (if_neg hkd)⟩

end Sys2Proof.Laws

namespace Sys2Proof.Claims
open Sys2Proof Sys2Proof.Machine Sys2Proof.Laws

/-- Settles O44: what leaves a queue by age and credits, what leaves a router by age, home and way, and the hop by the short way round. -/
theorem packetsMove : Obligations.PacketsMove := by
  refine ⟨⟨fun i vc p rest s hi hq ha hu hc hr => ?sent, fun p => ⟨leaving_straight, leaving_detoured⟩,
    fun i vc p rest s hi hq ha => exec_packetSend_aged hi hq ha,
    fun d x s hr ha => ⟨fun e hh he hp => ?home, fun i q hh hw hp => ?link, fun hh hw => ?unroutable⟩,
    fun d x s hr ha => ?aged, fun d k x s => exec_routerAgeDrop_router, fun d k s u => exec_routerAgeDrop_queue,
    fun d x s => exec_ingressAgeDrop⟩, fun f node dst dim hdim hsame hne hn hd => ⟨nextDir_eq hdim hsame hne, fun hext dir hdir =>
      hop_nearer hdim hsame hne hn hd hext hdir⟩⟩
  case sent => exact exec_packetSend_sent hi hq ha (linkUsable_iff.2 hu) (maySend_iff.2 ⟨hc, hr⟩)
  all_goals rw [exec_packetRoute hr]
  case home => rw [routeOne_home ha hh he hp]
  case link => rw [routeOne_link ha hh hw hp]
  case unroutable => rw [routeOne_unroutable ha hh hw]
  case aged => rw [routeOne_aged ha]

end Sys2Proof.Claims
end

section
/-! Requests of other packages at their home (R328, R329, R353, Table 12-6): the request that is tried, the checks that precede it, and what
a peg request does. -/

namespace Sys2Proof.Laws
open Sys2Proof Sys2Proof.Machine

variable {α : Type} {s s0 t : State} {d q m : Nat} {env : Env} {x : Transit} {rest : List Transit} {bs : List Byte} {st : Status}
  {p : Packet} {typ ans : BitVec 4} {serve : Packet → Act (List Byte)}

/-! ## Trying a request -/

theorem tryServe_ok (hr : runAct (serve x.pkt) s = (.ok bs, t)) :
    tryServe s d ans serve x = some (releaseHeld (answer (leaveIngress t d x) d x.pkt ans bs) x) := by
  simp only [tryServe, hr]

theorem tryServe_fail (hr : runAct (serve x.pkt) s = (.error (.fail st), t)) :
    tryServe s d ans serve x = some (releaseHeld (sendNak (leaveIngress t d x) d x.pkt st) x) := by
  simp only [tryServe, hr]

section
variable (he : engineServes s d = true) (hq : tget [] s.fst.ingress d = x :: rest) (ht : x.pkt.typ = typ)
include he hq ht

/-- A request in front that need not wait is dealt with. -/
theorem serveFirst_front {u : State} (hu : tryServe s d ans serve x = some u) : serveFirst s d typ ans serve = u := by
  rw [serveFirst, if_pos he, hq, List.filter_cons_of_pos (by simpa using ht), List.findSome?_cons_of_isSome (by simp [hu])]
  simp [hu]

theorem serveFirst_answered (hr : runAct (serve x.pkt) s = (.ok bs, t)) :
    serveFirst s d typ ans serve = releaseHeld (answer (leaveIngress t d x) d x.pkt ans bs) x :=
  serveFirst_front he hq ht (tryServe_ok hr)

theorem serveFirst_refused (hr : runAct (serve x.pkt) s = (.error (.fail st), t)) :
    serveFirst s d typ ans serve = releaseHeld (sendNak (leaveIngress t d x) d x.pkt st) x :=
  serveFirst_front he hq ht (tryServe_fail hr)

end

section
variable (hs : s = applyEnv env s0)
include hs

theorem exec_putPacket : exec (.putPacket d env) s0 = .next (serveFirst s d Pkt.put Pkt.ack servePut) := hs ▸ rfl
theorem exec_getPacket : exec (.getPacket d env) s0 = .next (serveFirst s d Pkt.get Pkt.data serveGet) := hs ▸ rfl
theorem exec_addPacket : exec (.addPacket d env) s0 = .next (serveFirst s d Pkt.add Pkt.result serveAdd) := hs ▸ rfl

end

theorem exec_pegPacket : exec (.pegPacket d) s = .next (serveFirst s d Pkt.peg Pkt.result servePeg) := rfl

/-! ## The checks (Table 12-6) -/

/-- Checks 1 and 2 refuse a request with a status: in FATAL, for its shape, or for its key. -/
def RefusedAtOnce (s : State) (p : Packet) (st : Status) : Prop :=
  (s.rst.fatal = true ∧ st = Code.unitAbsent) ∨
    (s.rst.fatal = false ∧ shapeOk p = false ∧ st = Code.descriptorInvalid) ∨
    (s.rst.fatal = false ∧ shapeOk p = true ∧ keyOwner s p.fkey = none ∧ st = Code.windowFault)

theorem runAct_mayBegin (ha : tooOld s p 0 = false) : runAct (mayBegin p) s = (.ok (), s) := by
  rw [mayBegin, runAct_bind_ok runAct_get, runAct_needReady, ha]
  rfl

theorem runAct_need_true {b : Bool} (hb : b = true) (st : Status) : runAct (need b st) s = (.ok (), s) := by
  rw [runAct_need, if_pos hb]

theorem runAct_need_false {b : Bool} (hb : b = false) (st : Status) : runAct (need b st) s = (.error (.fail st), s) := by
  rw [runAct_need, if_neg (ne_true_of_eq_false hb)]

section
variable (hf : s.rst.fatal = false) (hsh : shapeOk p = true)
include hf hsh

theorem runAct_admitRequest : runAct (admitRequest p) s =
    match keyOwner s p.fkey with
    | some q => (.ok q, s)
    | none => (.error (.fail Code.windowFault), s) := by
  rw [admitRequest, runAct_bind_ok runAct_get, runAct_bind_ok (runAct_need_true (by simp [hf]) _), runAct_bind_ok (runAct_need_true hsh _)]
  cases keyOwner s p.fkey <;> rfl

theorem runAct_admitRequest_owned (hk : keyOwner s p.fkey = some q) : runAct (admitRequest p) s = (.ok q, s) := by
  rw [runAct_admitRequest hf hsh, hk]

end

theorem runAct_admitRequest_refused (h : RefusedAtOnce s p st) : runAct (admitRequest p) s = (.error (.fail st), s) := by
  rcases h with ⟨hf, rfl⟩ | ⟨hf, hsh, rfl⟩ | ⟨hf, hsh, hk, rfl⟩
  · rw [admitRequest, runAct_bind_ok runAct_get, runAct_bind_error (runAct_need_false (by simp [hf]) _)]
  · rw [admitRequest, runAct_bind_ok runAct_get, runAct_bind_ok (runAct_need_true (by simp [hf]) _),
      runAct_bind_error (runAct_need_false hsh _)]
  · rw [runAct_admitRequest hf hsh, hk]

/-- What every kind of request does first. -/
def admitted (p : Packet) (k : Nat → Act α) : Act α := do
  mayBegin p
  let q ← admitRequest p
  k q

theorem runAct_admitted_refused {k : Nat → Act α} (ha : tooOld s p 0 = false) (h : RefusedAtOnce s p st) :
    runAct (admitted p k) s = (.error (.fail st), s) := by
  rw [admitted, runAct_bind_ok (runAct_mayBegin ha), runAct_bind_error (runAct_admitRequest_refused h)]

theorem runAct_admitted_owned {k : Nat → Act α} (ha : tooOld s p 0 = false) (hf : s.rst.fatal = false) (hsh : shapeOk p = true)
    (hk : keyOwner s p.fkey = some q) : runAct (admitted p k) s = runAct (k q) s := by
  rw [admitted, runAct_bind_ok (runAct_mayBegin ha), runAct_bind_ok (runAct_admitRequest_owned hf hsh hk)]

/-- A request outside the windows of its partition, or outside the rows of memory. -/
theorem runAct_admitted_outside {write : Bool} {a n : Nat} {k : Nat → State → Unit → Act α} (ha : tooOld s p 0 = false)
    (hf : s.rst.fatal = false) (hsh : shapeOk p = true) (hk : keyOwner s p.fkey = some q) (hout : remoteRange s q write a n = false) :
    runAct (admitted p (fun q => get >>= fun s => need (remoteRange s q write a n) Code.windowFault >>= k q s)) s =
      (.error (.fail Code.windowFault), s) := by
  rw [runAct_admitted_owned ha hf hsh hk, runAct_bind_ok runAct_get, runAct_bind_error (runAct_need_false hout _)]

/-- A request that checks 1 to 3 refuse without reading memory; a peg request has no range. -/
def RefusedUnread (s : State) (p : Packet) (st : Status) : Prop :=
  RefusedAtOnce s p st ∨ (s.rst.fatal = false ∧ shapeOk p = true ∧ st = Code.windowFault ∧ p.typ ≠ Pkt.peg ∧
    ∃ q, keyOwner s p.fkey = some q ∧ remoteRange s q (decide (p.typ ≠ Pkt.get)) p.addr.toNat
      (if p.typ = Pkt.add then 8 else p.length.toNat) = false)

section
variable (ha : tooOld s p 0 = false) (h : RefusedUnread s p st)
include ha h

theorem runAct_servePut_refused (ht : p.typ = Pkt.put) : runAct (servePut p) s = (.error (.fail st), s) := by
  rcases h with h | ⟨hf, hsh, rfl, -, q, hk, hout⟩
  · exact runAct_admitted_refused ha h
  · rw [ht] at hout
    exact runAct_admitted_outside ha hf hsh hk hout

theorem runAct_serveGet_refused (ht : p.typ = Pkt.get) : runAct (serveGet p) s = (.error (.fail st), s) := by
  rcases h with h | ⟨hf, hsh, rfl, -, q, hk, hout⟩
  · exact runAct_admitted_refused ha h
  · rw [ht] at hout
    exact runAct_admitted_outside ha hf hsh hk hout

theorem runAct_serveAdd_refused (ht : p.typ = Pkt.add) : runAct (serveAdd p) s = (.error (.fail st), s) := by
  rcases h with h | ⟨hf, hsh, rfl, -, q, hk, hout⟩
  · exact runAct_admitted_refused ha h
  · rw [ht] at hout
    exact runAct_admitted_outside ha hf hsh hk hout

theorem runAct_servePeg_refused (ht : p.typ = Pkt.peg) : runAct (servePeg p) s = (.error (.fail st), s) := by
  rcases h with h | ⟨-, -, -, hno, -⟩
  · exact runAct_admitted_refused ha h
  · exact absurd ht hno

end

/-! ## Peg requests (R329) -/

theorem shapeOk_peg (ht : p.typ = Pkt.peg) (hl : p.length = 16) (ha : p.addr.toNat % 4 = 0) (ho : p.pegOp = 1 ∨ p.pegOp = 2) :
    shapeOk p = true := by
  simpa [shapeOk, ht, Pkt.peg, hl, ha] using ho

section
variable (ha : tooOld s p 0 = false) (hf : s.rst.fatal = false) (hsh : shapeOk p = true) (hk : keyOwner s p.fkey = some q)
include ha hf hsh hk

theorem runAct_servePeg_noPeg (hm : pegAt p.addr.toNat = none) : runAct (servePeg p) s = (.error (.fail Code.windowFault), s) := by
  refine (runAct_admitted_owned ha hf hsh hk).trans ?_
  rw [runAct_bind_ok runAct_get, hm]
  rfl

theorem runAct_servePeg_notOwned (hm : pegAt p.addr.toNat = some m) (ho : ownsPeg s q m = false) :
    runAct (servePeg p) s = (.error (.fail Code.windowFault), s) := by
  refine (runAct_admitted_owned ha hf hsh hk).trans ?_
  rw [runAct_bind_ok runAct_get, hm]
  exact runAct_bind_error (runAct_need_false ho _)

theorem runAct_servePeg_owned (hm : pegAt p.addr.toNat = some m) (ho : ownsPeg s q m = true) : runAct (servePeg p) s =
    if dieDown s (m / 16384) then (.error (.fail Code.unitOffline), s)
    else (.ok (if p.pegOp = 2 then leBytes 8 (pegValue s m).toNat else zeros 8),
      if p.pegOp = 2 then addPeg s m (BitVec.ofNat 32 (leNat (p.data.take 4)))
      else setPeg s m (BitVec.ofNat 32 (leNat (p.data.take 4)))) := by
  refine (runAct_admitted_owned ha hf hsh hk).trans ?_
  rw [runAct_bind_ok runAct_get, hm]
  refine (runAct_bind_ok (runAct_need_true ho _)).trans ?_
  cases hd : dieDown s (m / 16384)
  · exact runAct_bind_ok (runAct_need_true rfl _)
  · exact runAct_bind_error (runAct_need_false rfl _)

theorem runAct_servePeg_set (hm : pegAt p.addr.toNat = some m) (ho : ownsPeg s q m = true) (hd : dieDown s (m / 16384) = false)
    (hop : p.pegOp = 1) : runAct (servePeg p) s = (.ok (zeros 8), setPeg s m (BitVec.ofNat 32 (leNat (p.data.take 4)))) := by
  rw [runAct_servePeg_owned ha hf hsh hk hm ho, hd, hop]
  rfl

theorem runAct_servePeg_add (hm : pegAt p.addr.toNat = some m) (ho : ownsPeg s q m = true) (hd : dieDown s (m / 16384) = false)
    (hop : p.pegOp = 2) : runAct (servePeg p) s =
      (.ok (leBytes 8 (pegValue s m).toNat), addPeg s m (BitVec.ofNat 32 (leNat (p.data.take 4)))) := by
  rw [runAct_servePeg_owned ha hf hsh hk hm ho, hd, hop]
  rfl

end

/-! ## Fabric keys (R328) -/

theorem keyOwner_zero : keyOwner s 0 = none := if_pos rfl

theorem keyOwner_some {k : BitVec 16} (h : keyOwner s k = some q) :
    q < 16 ∧ (prt s q).locked = true ∧ (prt s q).fkey = k ∧ k ≠ 0 := by
  unfold keyOwner at h
  split at h
  · cases h
  · next hk =>
    have howns := List.find?_some h
    have hmem := List.mem_of_find?_eq_some h
    simp only [Bool.and_eq_true, decide_eq_true_eq] at howns
    exact ⟨List.mem_range.1 hmem, howns.1, howns.2, hk⟩

end Sys2Proof.Laws

namespace Sys2Proof.Claims
open Sys2Proof Sys2Proof.Machine Sys2Proof.Laws

/-- Settles O45: the request in front is tried; the checks in their order decide how that ends. -/
theorem remoteRequestsAreServed : Obligations.RemoteRequestsAreServed := by
  refine ⟨⟨fun d env s0 s t x rest bs hs he hq => ⟨fun ht hr => ?put, fun ht hr => ?get, fun ht hr => ?add, fun st ht hr => ?putNak,
      fun st ht hr => ?getNak, fun st ht hr => ?addNak⟩,
    fun d env s0 s x rest st hs he hq ha h => ?refused,
    fun d q s x rest st he hq ht ha hf hsh hk h => congrArg _ (serveFirst_refused he hq ht ?pegRefused),
    fun d m q s x rest he hq ht ha hf hl h4 hk hm ho hd => ⟨fun hop => ?pegSet, fun hop => ?pegAdd⟩⟩,
    fun s k => ⟨keyOwner_zero, fun q => keyOwner_some⟩⟩
  case put => rw [exec_putPacket hs, serveFirst_answered he hq ht hr]; rfl
  case get => rw [exec_getPacket hs, serveFirst_answered he hq ht hr]; rfl
  case add => rw [exec_addPacket hs, serveFirst_answered he hq ht hr]; rfl
  case putNak => rw [exec_putPacket hs, serveFirst_refused he hq ht hr]
  case getNak => rw [exec_getPacket hs, serveFirst_refused he hq ht hr]
  case addNak => rw [exec_addPacket hs, serveFirst_refused he hq ht hr]
  case refused =>
    have href : RefusedUnread s x.pkt st := by
      rcases h with h | h | h | h
      · exact .inl (.inl h)
      · exact .inl (.inr (.inl h))
      · exact .inl (.inr (.inr h))
      · exact .inr h
    refine ⟨fun ht => ?_, fun ht => ?_, fun ht => ?_, fun ht => ?_⟩
    · rw [exec_putPacket hs, serveFirst_refused he hq ht (runAct_servePut_refused ha href ht)]
    · rw [exec_getPacket hs, serveFirst_refused he hq ht (runAct_serveGet_refused ha href ht)]
    · rw [exec_addPacket hs, serveFirst_refused he hq ht (runAct_serveAdd_refused ha href ht)]
    · rw [exec_pegPacket, serveFirst_refused he hq ht (runAct_servePeg_refused ha href ht)]
  case pegRefused =>
    rcases h with ⟨hm, rfl⟩ | ⟨m, hm, ho, rfl⟩ | ⟨m, hm, ho, hd, rfl⟩
    · exact runAct_servePeg_noPeg ha hf hsh hk hm
    · exact runAct_servePeg_notOwned ha hf hsh hk hm ho
    · rw [runAct_servePeg_owned ha hf hsh hk hm ho, if_pos hd]
  case pegSet =>
    have hsh := shapeOk_peg ht hl h4 (.inl hop)
    rw [exec_pegPacket, serveFirst_answered he hq ht (runAct_servePeg_set ha hf hsh hk hm ho hd hop)]
    rfl
  case pegAdd =>
    have hsh := shapeOk_peg ht hl h4 (.inr hop)
    rw [exec_pegPacket, serveFirst_answered he hq ht (runAct_servePeg_add ha hf hsh hk hm ho hd hop)]
    rfl

end Sys2Proof.Claims
end

section
/-! Answers (R330, R333 to R335, R357): a response that has arrived is absorbed, and a request whose time is over is given up. -/

namespace Sys2Proof.Laws
open Sys2Proof Sys2Proof.Machine

variable {s t : State} {d : Nat} {typ : BitVec 4} {p : Packet} {x : Transit} {o : Outstanding}

/-! ## Absorbing a response (R318, R335) -/

/-- A response at its own package crosses to its requester. -/
theorem absorb_arrived (hx : (tget [] s.fst.routers d).find? (fun x => x.pkt = p) = some x) (hh : p.dst = s.fst.node)
    (hp : pathUp s d p.reqDie.toNat = true) (ht : p.typ = typ) : absorb s d typ p = dealWith (releaseHeld (takeOut s d x) x) p := by
  simp [absorb, hx, ht, atHome, hh, hp]

theorem dealWith_ok (h : runAct (takeResponse p) s = (.ok (), t)) : dealWith s p = t := by
  simp only [dealWith, h]

/-- Data that must wait has arrived all the same (R318), and a write hold-off stalls the task that asked (R357). -/
theorem dealWith_wait (h : runAct (takeResponse p) s = (.error .wait, t)) {v : State}
    (hv : v = if heldOff (takeResponse p) s then stallAsker s p (keepers (takeResponse p) s) else s) :
    dealWith s p = { v with fst := { v.fst with arrived := v.fst.arrived ++ [p] } } := by
  subst hv
  simp only [dealWith, h]

theorem runAct_takeResponse_late (hm : matching s p = none) : runAct (takeResponse p) s = (.ok (), dropLate s) := by
  rw [takeResponse, runAct_bind_ok runAct_get, hm]
  rfl

theorem runAct_attempt_wait {α : Type} {a : Act α} (h : runAct a s = (.error .wait, t)) : runAct (attempt a) s = (.error .wait, s) := by
  rw [attempt, runAct_bind_ok runAct_get, h]
  rfl

section
variable (hm : matching s p = some o)
include hm

theorem runAct_takeResponse_ack (ht : p.typ = Pkt.ack) : runAct (takeResponse p) s = (.ok (), settleRequest s o 0 0) := by
  rw [takeResponse, runAct_bind_ok runAct_get, hm, ht]
  rfl

theorem runAct_takeResponse_result (ht : p.typ = Pkt.result) :
    runAct (takeResponse p) s = (.ok (), settleRequest s o 0 (BitVec.ofNat 64 (leNat (p.data.take 8)))) := by
  rw [takeResponse, runAct_bind_ok runAct_get, hm, ht]
  rfl

theorem runAct_takeResponse_nak (ht : p.typ = Pkt.nak) : runAct (takeResponse p) s = (.ok (), settleRequest
    { s with fst := { s.fst with naksReceived := satInc s.fst.naksReceived 1 } } o (BitVec.ofNat 8 p.addr.toNat) 0) := by
  rw [takeResponse, runAct_bind_ok runAct_get, hm, ht]
  rfl

section
variable (ht : p.typ = Pkt.data)
include ht

theorem runAct_takeResponse_stored (hr : runAct (storeAnswer o (p.data.take o.pkt.length.toNat)) s = (.ok (), t)) :
    runAct (takeResponse p) s = (.ok (), settleRequest t o 0 0) := by
  rw [takeResponse, runAct_bind_ok runAct_get, hm, ht]
  exact runAct_bind_ok (runAct_attempt_ok hr)

theorem runAct_takeResponse_unstored {st : Status}
    (hr : runAct (storeAnswer o (p.data.take o.pkt.length.toNat)) s = (.error (.fail st), t)) :
    runAct (takeResponse p) s = (.ok (), settleRequest t o st 0) := by
  rw [takeResponse, runAct_bind_ok runAct_get, hm, ht]
  exact runAct_bind_ok (runAct_attempt_fail hr)

theorem runAct_takeResponse_waits (hr : runAct (storeAnswer o (p.data.take o.pkt.length.toNat)) s = (.error .wait, t)) :
    runAct (takeResponse p) s = (.error .wait, s) := by
  rw [takeResponse, runAct_bind_ok runAct_get, hm, ht]
  exact runAct_bind_error (runAct_attempt_wait hr)

end

theorem stallAsker_ticket {cl j k n : Nat} (hw : o.who = .ticket cl j k) (ht : (clu s cl).task = some n) (on : List Nat) :
    stallAsker s p on = markStall s n .answer on := by
  simp [stallAsker, hm, hw, ht]

end

/-! ## Requests whose time is over (R333, R334) -/

theorem exec_remoteRequestTimeout {tag : BitVec 16}
    (ho : s.fst.requests.find? (fun o => decide (o.die = d) && decide (o.tag = tag)) = some o)
    (hlate : o.pkt.dropBy.toNat + 2000 ≤ (sysTime s).toNat) : exec (.remoteRequestTimeout d tag) s = .next (timeOut s o) := by
  simp only [exec, execRemoteRequestTimeout, ho, hlate, if_true]

theorem timeOut_over (h : o.pkt.typ ≠ Pkt.get ∨ s.fst.getRetry = false ∨ o.retried = true) :
    timeOut s o = settleRequest (retireTag s o.die o.tag) o Code.remoteTimeout 0 := by
  have hr : (retireTag s o.die o.tag).fst.getRetry = s.fst.getRetry := rfl
  rw [timeOut]
  exact if_neg (by rcases h with h | h | h <;> simp [hr, h])

/-- A GET may be sent once more. -/
theorem timeOut_again (ht : o.pkt.typ = Pkt.get) (hg : s.fst.getRetry = true) (hr : o.retried = false) {u : State}
    (hu : u = retireTag s o.die o.tag) :
    timeOut s o = launch { u with fst := { u.fst with requests := u.fst.requests.erase o } } { o with retried := true } := by
  subst hu
  have hretry : (retireTag s o.die o.tag).fst.getRetry = true := hg
  rw [timeOut]
  exact if_pos (by simp [ht, hretry, hr])

end Sys2Proof.Laws

namespace Sys2Proof.Claims
open Sys2Proof Sys2Proof.Machine Sys2Proof.Laws

/-- Settles O46: an absorbed response by the request that it matches and by its type, and a timeout by the request's kind. -/
theorem answersSettleRequests : Obligations.AnswersSettleRequests := by
  refine ⟨fun d p x s hx hh hp hm => ?late, fun d p x o s u hx hh hp hu hm => ?matched,
    fun d tag o s ho hlate => ⟨fun h => ?expired, fun u ht hg hr hu => ?again⟩⟩
  case late =>
    have hdeal := dealWith_ok (runAct_takeResponse_late hm)
    have habsorb {typ : BitVec 4} (ht : p.typ = typ) := (absorb_arrived hx hh hp ht).trans hdeal
    exact ⟨fun ht => congrArg _ (habsorb ht), fun ht => congrArg _ (habsorb ht), fun ht => congrArg _ (habsorb ht),
      fun ht => congrArg _ (habsorb ht)⟩
  case matched =>
    subst hu
    have habsorb {typ : BitVec 4} {v : State} (ht : p.typ = typ) (hv : dealWith (releaseHeld (takeOut s d x) x) p = v) :=
      (absorb_arrived hx hh hp ht).trans hv
    exact ⟨fun ht => congrArg _ (habsorb ht (dealWith_ok (runAct_takeResponse_ack hm ht))),
      fun ht => congrArg _ (habsorb ht (dealWith_ok (runAct_takeResponse_result hm ht))),
      fun ht => congrArg _ (habsorb ht (dealWith_ok (runAct_takeResponse_nak hm ht))),
      fun v w ht hr hv => congrArg _ (habsorb ht (dealWith_wait (runAct_takeResponse_waits hm ht hr) hv)),
      fun cl j k hw t ht on => stallAsker_ticket hm hw ht on,
      fun w ht hr => congrArg _ (habsorb ht (dealWith_ok (runAct_takeResponse_stored hm ht hr))),
      fun w st ht hr => congrArg _ (habsorb ht (dealWith_ok (runAct_takeResponse_unstored hm ht hr)))⟩
  case expired => rw [exec_remoteRequestTimeout ho hlate, timeOut_over h]
  case again => rw [exec_remoteRequestTimeout ho hlate, timeOut_again ht hg hr hu]

end Sys2Proof.Claims
end

section
/-! Time (R337, R338): the exchange with the parent, what an answer makes of the time state, HOLDOVER, and TIME flits. -/

namespace Sys2Proof.Laws
open Sys2Proof Sys2Proof.Machine

variable {s u : State} {dir i : Nat} {off : Int} {root : BitVec 18} {ts : TimeStamps} {b : Bool}

/-! ## The exchange with the parent (R337) -/

theorem exec_timeExchange_asks (h : parentLink s = some (dir, i)) : exec .timeExchange s = .next (sendTime
    { modLnk s i (fun l => { l with t1 := some (sysTime s) }) with fst := { s.fst with parentDir := BitVec.ofNat 3 dir } }
    i (sysTime s) 0 0 0) := by
  simp only [exec, execTimeExchange, h]

theorem exec_timeExchange_alone (h : parentLink s = none) : exec .timeExchange s = .next s := by
  simp only [exec, execTimeExchange, h]

theorem exchangeDone_first (h : s.fst.everLocked = false) : exchangeDone s off = { s with fst := { s.fst with
    lastExchange := now s, offsetNs := BitVec.ofNat 8 (Nat.min off.natAbs 255), everLocked := true, timeState := .acquiring,
    sysOffset := s.fst.sysOffset + BitVec.ofInt 64 off } } := by
  simp [exchangeDone, h, noteOffset, now]

/-- The rate that steers system time by an offset: of a free size, and towards the parent. -/
def steerRate (s : State) (off : Int) : Int :=
  if off = 0 then 0 else if 0 < off then ((freeBelow s 100).1 : Int) + 1 else -(((freeBelow s 100).1 : Int) + 1)

theorem steerRate_le : (steerRate s off).natAbs ≤ 100 := by
  have hfree : (freeBelow s 100).1 < 100 := Nat.mod_lt _ (by decide)
  unfold steerRate
  split_ifs <;> omega

theorem steerRate_sign : (steerRate s off).sign = off.sign := by
  unfold steerRate
  split_ifs with hz hpos
  · rw [hz]
  · rw [Int.sign_eq_one_of_pos hpos, Int.sign_eq_one_of_pos (by omega)]
  · rw [Int.sign_eq_neg_one_of_neg (by omega), Int.sign_eq_neg_one_of_neg (by omega)]

theorem exchangeDone_near (h : s.fst.everLocked = true) (hoff : off.natAbs ≤ 50) : exchangeDone s off = { s with
    freeCtr := s.freeCtr + 1, fst := { s.fst with
      lastExchange := now s, offsetNs := BitVec.ofNat 8 off.natAbs, timeState := .locked, carryLocked := true, holdExpired := false,
      rate := steerRate s off } } := by
  have hmin : Nat.min off.natAbs 255 = off.natAbs := Nat.min_eq_left (by omega)
  simp [exchangeDone, h, hoff, noteOffset, steer, steerRate, freeBelow, now, hmin]

theorem exchangeDone_far (h : s.fst.everLocked = true) (hoff : 50 < off.natAbs) : exchangeDone s off = { s with
    freeCtr := s.freeCtr + 1, fst := { s.fst with
      lastExchange := now s, offsetNs := BitVec.ofNat 8 (Nat.min off.natAbs 255), timeState := .acquiring, carryLocked := false,
      rate := steerRate s off } } := by
  simp [exchangeDone, h, Nat.not_le.2 hoff, noteOffset, steer, steerRate, freeBelow, now]

/-! ## HOLDOVER (R338) -/

theorem exec_holdoverEntry (hn : s.fst.node ≠ s.fst.root) (hst : s.fst.timeState = .locked ∨ s.fst.timeState = .acquiring)
    (hl : s.fst.lastExchange + 1000000 ≤ now s) : exec .holdoverEntry s = .next { s with fst := { s.fst with
      timeState := .holdover, holdSince := now s, carryLocked := !s.fst.holdExpired } } :=
  congrArg _ (if_pos ⟨by simp [isRoot, hn], hst, hl⟩)

theorem exec_holdoverLimit (hst : s.fst.timeState = .holdover) (hl : s.fst.holdSince + 10000000 ≤ now s) :
    exec .holdoverLimit s = .next { s with fst := { s.fst with carryLocked := false, holdExpired := true } } :=
  congrArg _ (if_pos ⟨hst, hl⟩)

theorem lockedNow_iff : lockedNow s = true ↔
    s.fst.timeState = .locked ∨ (s.fst.timeState = .holdover ∧ s.fst.carryLocked = true) := by
  simp only [lockedNow, Bool.or_eq_true, Bool.and_eq_true, decide_eq_true_eq]

/-! ## TIME flits (R337, R338) -/

/-- A good TIME flit of the link's epoch is taken. -/
theorem exec_timeFlit_good {h : FlitHead} (hi : i < 24) (hu : linkUsable (lnk s i) = true)
    (hg : flitGood h FlitKind.time 0 (timePayload root ts.t1 ts.t2 ts.t3 ts.t4) = true)
    (he : h.epoch = (lnk (countFec s i h) i).epoch) :
    exec (.timeFlit i h root ts b) s = .next (takeTime (takeHead (countFec s i h) i h) i root ts b) :=
  congrArg _ (onFlit_good _ hi hu hg he)

theorem takeTime_otherRoot (h : root ≠ s.fst.root) :
    takeTime s i root ts b = logEvent s Cls.timeRootMismatch 0 0 7 i 0 root.toNat := if_pos h

theorem takeTime_question (h : root = s.fst.root) (h2 : ts.t2 = 0) (h3 : ts.t3 = 0) :
    takeTime s i root ts b = sendTime s i ts.t1 (sysTime s) (sysTime s) 0 := by
  simp [takeTime, h, isQuestion, h2, h3]

theorem isQuestion_eq_false (h2 : ts.t2 ≠ 0) : isQuestion ts = false := decide_eq_false fun h => h2 h.1

theorem takeTime_answer (h : root = s.fst.root) (h2 : ts.t2 ≠ 0) (h1 : (lnk s i).t1 = some ts.t1) (hp : parentLink s = some (dir, i))
    (hu : u = modLnk s i (fun l => { l with t1 := none })) (hoff : off = offsetOf_ { ts with t4 := sysTime u }) :
    takeTime s i root ts b = if b then exchangeDone u off else noteOffset u off := by
  subst hoff hu
  simp [takeTime, h, isQuestion_eq_false h2, h1, hp]

end Sys2Proof.Laws

namespace Sys2Proof.Claims
open Sys2Proof Sys2Proof.Machine Sys2Proof.Laws

/-- Settles O47: the exchange by the parent, an answer by the state before it and its offset, and a TIME flit by its root and what it
carries. -/
theorem timeIsKept : Obligations.TimeIsKept := by
  intro s
  refine ⟨fun dir i => exec_timeExchange_asks, exec_timeExchange_alone, fun off => exchangeDone_first,
    fun off h => ⟨steerRate s off, steerRate_le, steerRate_sign, exchangeDone_near h, exchangeDone_far h⟩, exec_holdoverEntry,
    exec_holdoverLimit, lockedNow_iff, fun i h root ts b u hi hst hg he hu => ?flit⟩
  subst hu
  rw [exec_timeFlit_good hi (linkUsable_iff.2 hst) hg he]
  refine ⟨fun hr => ?otherRoot, fun hr h2 h3 => ?question,
    fun dir hr h2 h1 hp v off hv hoff => ⟨fun hb => ?locked, fun hb => ?unlocked⟩⟩
  case otherRoot => rw [takeTime_otherRoot hr]
  case question => rw [takeTime_question hr h2 h3]
  case locked => rw [takeTime_answer hr h2 h1 hp hv hoff, if_pos hb]
  case unlocked => rw [takeTime_answer hr h2 h1 hp hv hoff, hb]; rfl

end Sys2Proof.Claims
end

section
/-! Reset commands (R349, R363, Table 13-13): what a write of `RST.CTRL` by the vise holder answers by its status. -/

namespace Sys2Proof.Laws
open Sys2Proof Sys2Proof.Machine Sys2Proof.Claims

variable {s : State} {p : PortId} {d n : Nat}

/-! ## The word of `RST.CTRL` -/

theorem ctrlWord_toNat (hd : d < 16) (hn : n < 4096) : (BitVec.ofNat 64 (d * 65536 + n % 4096)).toNat = d * 65536 + n := by
  rw [BitVec.toNat_ofNat, Nat.mod_eq_of_lt hn, Nat.mod_eq_of_lt (by omega)]

/-- DOMAIN and INDEX of the word are those of the command. -/
theorem writeRstCtrl_command (hd : domainNamed d = true) (hn : n < 4096) :
    writeRstCtrl (BitVec.ofNat 64 (d * 65536 + n % 4096)) s = commandReset Cause.command d n s := by
  have h16 : d < 16 := by simp only [domainNamed, List.contains_eq_mem, List.mem_cons, List.not_mem_nil, or_false,
    decide_eq_true_eq] at hd; omega
  have hdom : fld (d * 65536 + n) 19 16 = d := by rw [fld, Nat.shiftRight_eq_div_pow]; omega
  have hidx : fld (d * 65536 + n) 11 0 = n := by rw [fld, Nat.shiftRight_zero]; omega
  simp only [writeRstCtrl, ctrlWord_toNat h16 hn, hdom, hidx, hd, if_true]

theorem ctrlWrite_of_maySet (hm : MaySet s p) (hd : domainNamed d = true) (hn : n < 4096) :
    ctrlWrite s p d n = commandReset Cause.command d n s := by
  rw [ctrlWrite, viseWrite_of_maySet hm, writeRstCtrl_command hd hn]

/-! ## The status (R349, Table 13-13) -/

theorem commandReset_ok {c : BitVec 8} (h : resetStatus s d n = Code.ok) :
    commandReset c d n s = beginReset (rstStatus s Code.ok) d n c := by
  simp only [commandReset, h, if_true]

theorem commandReset_refused {c : BitVec 8} {st : Status} (h : resetStatus s d n = st) (hst : st ≠ Code.ok) :
    commandReset c d n s = rstStatus s st := by
  simp only [commandReset, h, if_neg hst]

theorem resetStatus_ok (hn : n < domainCount d) (ha : unitAbsent s d n = false) (hr : inReset s d n = false) :
    resetStatus s d n = Code.ok := by
  simp [resetStatus, ha, hr, Nat.not_le.2 hn]

theorem resetStatus_outOfRange (hn : domainCount d ≤ n) : resetStatus s d n = Code.descriptorInvalid := if_pos hn

theorem resetStatus_absent (hn : n < domainCount d) (ha : unitAbsent s d n = true) : resetStatus s d n = Code.unitAbsent := by
  rw [resetStatus, if_neg (Nat.not_le.2 hn), if_pos ha]

theorem resetStatus_inReset (hn : n < domainCount d) (ha : unitAbsent s d n = false) (hr : inReset s d n = true) :
    resetStatus s d n = Code.stateConflict := by
  simp [resetStatus, ha, hr, Nat.not_le.2 hn]

theorem unitAbsent_cluster : unitAbsent s Dom.cluster n = !clusterPresent s n := by
  simp [unitAbsent, Dom.cluster, Dom.stack]

theorem unitAbsent_stack : unitAbsent s Dom.stack n = !stackPresent s n := by
  simp [unitAbsent, Dom.cluster, Dom.stack]

/-- Regions, dies, links and the package are on every module. -/
theorem unitAbsent_other (hc : d ≠ Dom.cluster) (hs : d ≠ Dom.stack) : unitAbsent s d n = false := by
  simp [unitAbsent, hc, hs]

/-! ## The commands -/

section
variable (hm : MaySet s p) (hd : domainNamed d = true) (hn : n < 4096)
include hm hd hn

theorem ctrlWrite_starts (hi : n < domainCount d) (ha : unitAbsent s d n = false) (hr : inReset s d n = false) :
    (.next (ctrlWrite s p d n) : Host.Outcome State Fault Refusal) =
      .next (beginReset (rstStatus s Code.ok) d n Cause.command) := by
  rw [ctrlWrite_of_maySet hm hd hn, commandReset_ok (resetStatus_ok hi ha hr)]

theorem ctrlWrite_refused {st : Status} (h : resetStatus s d n = st) (hst : st ≠ Code.ok) :
    (.next (ctrlWrite s p d n) : Host.Outcome State Fault Refusal) = .next (rstStatus s st) := by
  rw [ctrlWrite_of_maySet hm hd hn, commandReset_refused h hst]

theorem ctrlWrite_outOfRange (hi : domainCount d ≤ n) : (.next (ctrlWrite s p d n) : Host.Outcome State Fault Refusal) =
    .next (rstStatus s Code.descriptorInvalid) :=
  ctrlWrite_refused hm hd hn (resetStatus_outOfRange hi) (by decide)

theorem ctrlWrite_absent (hi : n < domainCount d) (ha : unitAbsent s d n = true) :
    (.next (ctrlWrite s p d n) : Host.Outcome State Fault Refusal) =
      .next (rstStatus s Code.unitAbsent) :=
  ctrlWrite_refused hm hd hn (resetStatus_absent hi ha) (by decide)

theorem ctrlWrite_inReset (hi : n < domainCount d) (ha : unitAbsent s d n = false) (hr : inReset s d n = true) :
    (.next (ctrlWrite s p d n) : Host.Outcome State Fault Refusal) =
      .next (rstStatus s Code.stateConflict) :=
  ctrlWrite_refused hm hd hn (resetStatus_inReset hi ha hr) (by decide)

end

end Sys2Proof.Laws

namespace Sys2Proof.Claims
open Sys2Proof Sys2Proof.Machine Sys2Proof.Laws

/-- Settles O48: each command is a write of `RST.CTRL` with its domain and index, which answers by `resetStatus`. -/
theorem resetCommands : Obligations.ResetCommands := by
  intro p n s hm
  have cluster (h : clusterPresent s n = true) : unitAbsent s Dom.cluster n = false := by rw [unitAbsent_cluster, h]; rfl
  have noCluster (h : clusterPresent s n = false) : unitAbsent s Dom.cluster n = true := by rw [unitAbsent_cluster, h]; rfl
  have stack (h : stackPresent s n = true) : unitAbsent s Dom.stack n = false := by rw [unitAbsent_stack, h]; rfl
  have noStack (h : stackPresent s n = false) : unitAbsent s Dom.stack n = true := by rw [unitAbsent_stack, h]; rfl
  have region : unitAbsent s Dom.region n = false := unitAbsent_other (by decide) (by decide)
  have die : unitAbsent s Dom.die n = false := unitAbsent_other (by decide) (by decide)
  have link : unitAbsent s Dom.link n = false := unitAbsent_other (by decide) (by decide)
  have warm : unitAbsent s Dom.warm 0 = false := unitAbsent_other (by decide) (by decide)
  refine ⟨fun hi hp hr => ctrlWrite_starts hm rfl (by omega) hi (cluster hp) hr,
    fun hi hr => ctrlWrite_starts hm rfl (by omega) hi region hr, fun hi hr => ctrlWrite_starts hm rfl (by omega) hi die hr,
    fun hi hp hr => ctrlWrite_starts hm rfl (by omega) hi (stack hp) hr,
    fun hi hr => ctrlWrite_starts hm rfl (by omega) hi link hr,
    fun hr => ctrlWrite_starts hm rfl (by decide) Nat.zero_lt_one warm hr, fun answer hanswer hn => ?_⟩
  obtain rfl : answer = rstStatus s := funext hanswer
  exact ⟨fun hi => ctrlWrite_outOfRange hm rfl hn hi, fun hi => ctrlWrite_outOfRange hm rfl hn hi,
    fun hi => ctrlWrite_outOfRange hm rfl hn hi,
    fun hi => ⟨ctrlWrite_outOfRange hm rfl hn hi, ctrlWrite_outOfRange hm rfl hn hi⟩,
    fun hi hp => ctrlWrite_absent hm rfl hn hi (noCluster hp), fun hi hp => ctrlWrite_absent hm rfl hn hi (noStack hp),
    fun hi hp hr => ctrlWrite_inReset hm rfl hn hi (cluster hp) hr, fun hi hr => ctrlWrite_inReset hm rfl hn hi region hr,
    fun hi hr => ctrlWrite_inReset hm rfl hn hi die hr, fun hi hp hr => ctrlWrite_inReset hm rfl hn hi (stack hp) hr,
    fun hi hr => ctrlWrite_inReset hm rfl hn hi link hr,
    fun hr => ctrlWrite_inReset hm rfl (by decide) Nat.zero_lt_one warm hr⟩

end Sys2Proof.Claims
end

section
/-! A package warm reset and the TAP controller (R352, R397, R418): a driving instruction that MAIN_READY has held back drives its pins
as the reset takes the package to AUX_READY. -/

namespace Sys2Proof.Laws
open Sys2Proof Sys2Proof.Machine

/-- A package in MAIN_READY with EXTEST loaded, which acts as BYPASS there: it drives no pin. -/
def extestRefused : State := {
  hub := { stage := .mainReady, auxOn := true, mainPg := true, trained := true }
  mgt := { tapInstr := Config.tapCode 3, tapWants := .levels, tapRefused := true } }

/-- The warm reset puts the boundary register's levels on the pins, which is something that leaves the block. -/
theorem extestRefused_drives : (beginReset extestRefused Dom.warm 0 Cause.command).out =
    [.pins (boundaryPins.zip ((boundaryBits []).map some))] := by decide +kernel

end Sys2Proof.Laws

namespace Sys2Proof.Claims
open Sys2Proof Sys2Proof.Machine Sys2Proof.Laws

/-- Refutes O49: the clause on a package warm reset says that nothing leaves the block, but the reset takes STAGE from MAIN_READY to
AUX_READY, where a loaded EXTEST may drive its pins, and does. -/
theorem not_resetsBegin : ¬ Obligations.ResetsBegin := by
  rintro ⟨-, -, -, -, -, hwarm, -⟩
  obtain ⟨-, -, -, -, -, -, -, -, -, -, -, -, -, -, -, -, -, -, -, -, -, -, -, -, -, -, -, -, -, hout⟩ :=
    hwarm extestRefused _ Cause.command (by decide) rfl
  exact absurd (extestRefused_drives.symm.trans hout) (List.cons_ne_nil _ _)

end Sys2Proof.Claims
end

section
/-! Hang detectors (R357, Table 13-9) and the die edges (R18, Table 13-1): a watchdog by the time it allows, what becomes of stalls, the
failure of an edge, and the traffic that goes on after its retraining. -/

namespace Sys2Proof.Laws
open Sys2Proof Sys2Proof.Machine

variable {s u : State} {t n us : Nat} {x : Task} {c : Chain}

/-! ## Watchdogs of clusters, engines and benches -/

theorem allowancePassed_iff (hs : x.started = true) (stalled : Nat) :
    allowancePassed s x stalled us = true ↔ limitEnd s x + stalled + 1000 * us ≤ now s := by
  simp only [allowancePassed, hs, Bool.true_and, decide_eq_true_eq]

theorem lateTask_eq (hx : taskAt s t = some x) : lateTask s (some t) us = allowancePassed s x (stalledNs s x) us := by
  simp only [lateTask, Option.bind_some, hx, Option.map_some, Option.getD_some]

/-- An engine that copies for a swap works for no task, and is not watched. -/
theorem engineChain_front {r : Nat} {rest : List Chain} (hc : (reg s r).chains = c :: rest) (ho : ∀ q n, c.owner ≠ .swap q n) :
    engineChain s r = some c := by
  simp only [engineChain, hc, List.head?_cons, Option.bind_some]

theorem lateChain_eq {r : Nat} {rest : List Chain} (hc : (reg s r).chains = c :: rest) (ho : ∀ q n, c.owner ≠ .swap q n)
    (hx : taskAt s c.task = some x) : lateChain s r us = allowancePassed s x (chainStalledNs s x c) us := by
  simp only [lateChain, engineChain_front hc ho, Option.bind_some, hx, Option.map_some, Option.getD_some]

/-- A watchdog's two answers, by the end of the allowance. -/
theorem watchdog_answers {b : Bool} {e : Nat} {o : Host.Outcome State Fault Refusal} (ho : o = .next (if b then u else s))
    (hb : b = true ↔ e ≤ now s) : (e ≤ now s → o = .next u) ∧ (now s < e → o = .next s) :=
  ⟨fun h => by rw [ho, if_pos (hb.2 h)], fun h => by rw [ho, if_neg (mt hb.1 (by omega))]⟩

theorem exec_clusterWatchdog (ht : (clu s n).task = some t) (hx : taskAt s t = some x) : exec (.clusterWatchdog n) s =
    .next (if allowancePassed s x (stalledNs s x) s.rst.jigUs.toNat then beginReset s Dom.cluster n Cause.unitWatchdog else s) := by
  simp only [exec, execClusterWatchdog, ht, lateTask_eq hx]

theorem exec_layoutWatchdog {rest : List Chain} (hc : (reg s n).chains = c :: rest) (ho : ∀ q n, c.owner ≠ .swap q n)
    (hx : taskAt s c.task = some x) : exec (.layoutWatchdog n) s = .next
      (if allowancePassed s x (chainStalledNs s x c) s.rst.layoutUs.toNat then beginReset s Dom.region n Cause.unitWatchdog else s) := by
  simp only [exec, execLayoutWatchdog, lateChain_eq hc ho hx]

theorem exec_benchWatchdog (ht : runningTask (stk s n) = some t) (hx : taskAt s t = some x) : exec (.benchWatchdog n) s =
    .next (if allowancePassed s x (stalledNs s x) s.rst.benchUs.toNat then beginReset s Dom.stack n Cause.unitWatchdog else s) := by
  simp only [exec, execBenchWatchdog, ht, lateTask_eq hx]

theorem exec_walkerWatchdog (hn : n < 4) (hs : s.hub.stage = .mainReady) :
    exec (.walkerWatchdog n) s = .next (beginReset s Dom.die n Cause.walkerWatchdog) := by
  simp only [exec, execWalkerWatchdog, hn, hs, and_self, if_true]

theorem exec_hubWatchdog (hs : s.hub.stage = .mainReady) (ha : s.mgt.activating = []) :
    exec .hubWatchdog s = .next (beginReset s Dom.warm 0 Cause.hubWatchdog) := by
  simp [exec, execHubWatchdog, hs, ha]

/-! ## Stalls -/

theorem stallTime_over (kept : Nat) : stallTime s x none kept = kept := rfl

theorem stallTime_lasting (t0 kept : Nat) : stallTime s x (some t0) kept = kept + (now s - Nat.max t0 (limitEnd s x)) := rfl

/-- Only a jig's limit can be held. -/
theorem limitEnd_notJig (hk : x.desc.kind ≠ Kind.jig) : limitEnd s x = x.startTime + taskLimitNs s x + x.pausedNs := by
  simp [limitEnd, pausedOf, hk]

theorem taskAt_endStalls (hx : taskAt s t = some x) :
    taskAt (endStalls s) t = some (keepStalls s (fun w => (stk s w.2).writeHold) x) :=
  (tget_map _ t s.tasks).trans (congrArg (Option.map _) hx)

theorem taskAt_dropStalls (hx : taskAt s t = some x) (p : Staller → Bool) :
    taskAt (dropStalls s t p) t = some (keepStalls s (fun e => !p e.1) x) := taskAt_modTask hx _

/-! ## The failure of an edge -/

/-- An edge fails that carried traffic: the failure is counted and dated, and the edge holds its traffic. -/
def edgeFails (s : State) (e : Nat) : State := { s with rst := { s.rst with
  pathUe := satInc s.rst.pathUe 1, edgeFailed := tset none s.rst.edgeFailed e (some (now s)), edgeDown := s.rst.edgeDown ++ [e] } }

theorem exec_dieEdgeFailure {e : Nat} (he : e < 6) (hp : s.hub.mainPg = true) (hd : s.rst.edgeDown.contains e = false) :
    exec (.dieEdgeFailure e) s = .next (if edgeFailedLately s e then goFatal (edgeFails s e) else edgeFails s e) := by
  simp only [exec, execDieEdgeFailure, he, hp, and_self, if_true, hd, Bool.false_eq_true, if_false, edgeFails]

theorem edgeFailedLately_never {e : Nat} (h : tget none s.rst.edgeFailed e = none) : edgeFailedLately s e = false := by
  simp only [edgeFailedLately, h, Option.map_none, Option.getD_none]

theorem edgeFailedLately_within {e : Nat} (h : tget none s.rst.edgeFailed e = some t) (ht : now s ≤ t + 1000000000) :
    edgeFailedLately s e = true := by
  simp only [edgeFailedLately, h, Option.map_some, Option.getD_some, ht, decide_true]

/-! ## News of pegs -/

section
variable {m : Nat} {v : BitVec 32}

theorem newsReach_iff {d : Nat} : newsReach s m d = true ↔ m / 16384 = d ∨ pathUp s (m / 16384) 4 = true ∧ pathUp s 4 d = true := by
  simp only [newsReach, Bool.or_eq_true, decide_eq_true_eq, Bool.and_eq_true]

theorem tellTask_reached (h : newsReach s m x.die = true) : tellTask s m v x = meetTask m v x := if_pos h

theorem tellTask_kept (h : newsReach s m x.die = false) (hw : ∃ w ∈ x.desc.waits, w.peg = m ∧ w.met = false) :
    tellTask s m v x = { x with pegNews := x.pegNews ++ [(m, v)] } := by
  have hany : x.desc.waits.any (fun w => decide (w.peg = m) && !w.met) = true := by
    simpa [List.any_eq_true] using hw
  rw [tellTask, if_neg (by simp [h]), if_pos hany]

theorem hearNews_one (hn : x.pegNews = [(m, v)]) (h : newsReach s m x.die = true) :
    hearNews s x = { meetTask m v x with pegNews := [] } := by
  simp [hearNews, hn, h]

theorem hearNews_none (hn : x.pegNews = []) : hearNews s x = x := by
  rw [hearNews, hn, List.filter_nil, List.filter_nil, List.foldl_nil, ← hn]

end

/-! ## An edge that carries traffic again, where nothing has waited for it -/

theorem mem_of_tget_some {α : Type} {i : Nat} {a : α} : ∀ {l : Tab (Option α)}, tget none l i = some a → (i, some a) ∈ l
  | (k, v) :: l, h => by
    simp only [tget] at h
    split at h
    · next hk => subst hk; exact h ▸ .head l
    · split at h
      · cases h
      · exact .tail _ (mem_of_tget_some h)

theorem map_entries_eq_self {α : Type} {f : α → α} {l : Tab (Option α)} (h : ∀ k a, (k, some a) ∈ l → f a = a) :
    l.map (fun e => (e.1, e.2.map f)) = l := by
  refine (List.map_congr_left fun e he => ?_).trans (List.map_id l)
  obtain ⟨k, _ | a⟩ := e
  · rfl
  · rw [Option.map_some, h k a he]; rfl

theorem foldl_eq_self {α β : Type} {f : β → α → β} {b : β} (l : List α) (h : ∀ a ∈ l, f b a = b) : l.foldl f b = b :=
  List.foldlRecOn (motive := fun r => r = b) l f rfl fun _ hr a ha => hr ▸ h a ha

theorem tryReady_waiting (h : ∀ x, taskAt s t = some x → x.state = .waiting → waitsMet x = false) : tryReady s t = s := by
  unfold tryReady
  split
  · rfl
  · next x hx =>
    by_cases hw : x.state = .waiting
    · simp [h x hx hw]
    · simp [hw]

theorem walkersHear_none (ht : ∀ k x, (k, some x) ∈ s.tasks → x.pegNews = [] ∧ (x.state = .waiting → waitsMet x = false))
    (hg : ∀ k g, (k, some g) ∈ s.graphs → g.heldDies = []) : walkersHear s = s := by
  have htasks : s.tasks.map (fun e => (e.1, e.2.map (hearNews s))) = s.tasks :=
    map_entries_eq_self fun k x h => hearNews_none (ht k x h).1
  have hgraphs : s.graphs.map (fun e => (e.1, e.2.map
      (fun g : Graph => { g with heldDies := g.heldDies.filter (fun d => !pathUp s 4 d) }))) = s.graphs :=
    map_entries_eq_self fun k g h => by rw [hg k g h, List.filter_nil, ← hg k g h]
  unfold walkersHear
  rw [htasks, hgraphs]
  exact foldl_eq_self _ fun k _ => tryReady_waiting fun x hx => (ht k x (mem_of_tget_some hx)).2

theorem abortsGoOn_none (h : s.hub.abortsHeld = []) : abortsGoOn s = s := by
  rw [abortsGoOn, h, List.foldl_nil, ← h]

theorem flushStaged_none {i : Nat} (h : ∀ k, ((tget none (stk s i).slots k).map BenchTask.staged).getD [] = []) : flushStaged s i = s :=
  foldl_eq_self _ fun k _ => by
    have hk := h k
    split
    · next b hb => rw [hb] at hk; simp [show b.staged = [] from hk]
    · rfl

theorem drainPorts_nothing_held (ha : s.portA.held = []) (hb : s.portB.held = []) : drainPorts s = s := by
  rw [drainPorts, drainPort_nothing_held (p := .a) ha, drainPort_nothing_held (p := .b) hb]

theorem makeReports_none (h : reportsDue s = []) : makeReports s = s := by
  rw [makeReports, h, List.foldl_nil]

/-- The edge `e` has retrained. -/
def edgeCarries (s : State) (e : Nat) : State := { s with rst := { s.rst with edgeDown := s.rst.edgeDown.filter (· ≠ e) } }

theorem exec_dieEdgeRetrainEnd (e : Nat) : exec (.dieEdgeRetrainEnd e) s = .next
    (makeReports (drainPorts ((List.range 24).foldl flushStaged (walkersHear (abortsGoOn (edgeCarries s e)))))) := rfl

theorem exec_dieEdgeRetrainEnd_quiet (e : Nat)
    (hstaged : ∀ i k, i < 24 → ((tget none (stk s i).slots k).map BenchTask.staged).getD [] = []) (haborts : s.hub.abortsHeld = [])
    (htasks : ∀ k x, (k, some x) ∈ s.tasks → x.pegNews = [] ∧ (x.state = .waiting → waitsMet x = false))
    (hgraphs : ∀ k g, (k, some g) ∈ s.graphs → g.heldDies = []) (ha : s.portA.held = []) (hb : s.portB.held = [])
    (hreports : reportsDue s = []) : exec (.dieEdgeRetrainEnd e) s = .next (edgeCarries s e) := by
  have hflush : (List.range 24).foldl flushStaged (edgeCarries s e) = edgeCarries s e :=
    foldl_eq_self _ fun i hi => flushStaged_none fun k => hstaged i k (List.mem_range.1 hi)
  rw [exec_dieEdgeRetrainEnd, abortsGoOn_none (s := edgeCarries s e) haborts,
    walkersHear_none (s := edgeCarries s e) htasks hgraphs, hflush, drainPorts_nothing_held (s := edgeCarries s e) ha hb,
    makeReports_none (s := edgeCarries s e) hreports]

end Sys2Proof.Laws

namespace Sys2Proof.Claims
open Sys2Proof Sys2Proof.Machine Sys2Proof.Laws

/-- Settles O51: each watchdog compares the end of its allowance with device time; an edge that has retrained lets its traffic go on. -/
theorem hangsAndEdgesAreHandled : Obligations.HangsAndEdgesAreHandled := by
  refine ⟨⟨fun c t x s ht hx hs => watchdog_answers (exec_clusterWatchdog ht hx) (allowancePassed_iff hs _),
    fun r c rest x s hc ho hx hs => watchdog_answers (exec_layoutWatchdog hc ho hx) (allowancePassed_iff hs _),
    fun k t x s ht hx hs => watchdog_answers (exec_benchWatchdog ht hx) (allowancePassed_iff hs _),
    fun x c s => ⟨fun h => ?stalled, fun t0 h => ?lasting, fun h => ?chainOver, fun t0 h => ?chainLasting, limitEnd_notJig⟩,
    fun t x s hx => ⟨fun h => ?holdGoesOn, fun h => ?holdEnds, fun p => ⟨fun h => ?partGoesOn, fun h => ?partStops⟩⟩,
    fun d s => exec_walkerWatchdog, fun s => exec_hubWatchdog⟩,
    fun e s he hp hd => ⟨fun h => ?first, fun t h ht => ?second, fun u => exec_dieEdgeRetrainEnd e,
      fun u m v x => ⟨newsReach_iff, tellTask_reached, tellTask_kept, hearNews_one⟩, fun u => exec_dieEdgeRetrainEnd_quiet e⟩⟩
  case stalled => rw [stalledNs, h, stallTime_over]
  case lasting => rw [stalledNs, h, stallTime_lasting]
  case chainOver => rw [chainStalledNs, h, stallTime_over]
  case chainLasting => rw [chainStalledNs, h, stallTime_lasting]
  case holdGoesOn => rw [taskAt_endStalls hx, keepStalls_waits h]
  case holdEnds => rw [taskAt_endStalls hx, keepStalls_ends h]
  case partGoesOn =>
    rw [taskAt_dropStalls hx, keepStalls_waits]
    simpa only [Bool.not_eq_true'] using h
  case partStops =>
    rw [taskAt_dropStalls hx, keepStalls_ends]
    simpa only [Bool.not_eq_false'] using h
  case first =>
    rw [exec_dieEdgeFailure he hp hd, edgeFailedLately_never h]
    rfl
  case second =>
    rw [exec_dieEdgeFailure he hp hd, edgeFailedLately_within h ht]
    rfl

end Sys2Proof.Claims
end

section
/-! Writes of a port that reach the hub (R387, R390), the vise (R394), and the set-up registers of `HUB` behind it: lock bits, mode and
host windows (R393, R395, R397). -/

namespace Sys2Proof.Laws
open Sys2Proof Sys2Proof.Machine Sys2Proof.Claims

variable {s : State} {p : PortId} {v : Word}

/-! ## A port that may write -/

theorem portTalks_of_mayWrite (h : MayWrite s p) : portTalks s p = true := by
  obtain ⟨hlink, hd3, -⟩ := h
  simp [portTalks, hlink, hd3]

theorem openWrite_of_mayWrite (h : MayWrite s p) (k : State → State) : openWrite s p k = k s := by
  have ht := portTalks_of_mayWrite h
  obtain ⟨-, -, hstage⟩ := h
  have ho : bar0Open s = true := by simpa [bar0Open] using hstage
  simp [openWrite, ht, ho]

/-- A set-up write of a port that does not hold the vise is ignored and logged (R393). -/
theorem viseWrite_without (h : MayWrite s p) (hv : s.hub.vise ≠ portCode p) (off : Nat) (v : Word) (k : State → State) :
    viseWrite s p off v k = setupIgnored s off v := by
  simp [viseWrite, openWrite_of_mayWrite h, holdsVise, hv]

/-! ## The vise (R394) -/

theorem portCode_ne_zero (p : PortId) : portCode p ≠ 0 := by cases p <;> decide

theorem setWidth_code (c : BitVec 8) : ((c.setWidth 64 : Word).setWidth 8 : BitVec 8) = c := by
  ext i hi
  simp

theorem exec_portViseClaim (h : MayWrite s p) (c : BitVec 8) :
    exec (.portViseClaim p c) s = .next (writeVise p (c.setWidth 64) s) :=
  congrArg Host.Outcome.next (openWrite_of_mayWrite h _)

theorem exec_portViseRelease (h : MayWrite s p) : exec (.portViseRelease p) s = .next (writeVise p 0 s) :=
  congrArg Host.Outcome.next (openWrite_of_mayWrite h _)

/-- A claim with the port's own code, by who holds the vise. -/
theorem writeVise_own : writeVise p ((portCode p).setWidth 64) s =
    if s.hub.vise = 0 then { s with hub := { s.hub with vise := portCode p, claims := s.hub.claims + 1 } }
    else if s.hub.vise = portCode p then s else setupIgnored s 0x30 ((portCode p).setWidth 64) := by
  simp only [writeVise, setWidth_code, if_neg (portCode_ne_zero p), ne_eq, not_true_eq_false, if_false]

theorem writeVise_other {c : BitVec 8} (h0 : c ≠ 0) (hc : c ≠ portCode p) :
    writeVise p (c.setWidth 64) s = setupIgnored s 0x30 (c.setWidth 64) := by
  simp only [writeVise, setWidth_code, if_neg h0, if_pos hc]

theorem writeVise_zero : writeVise p 0 s =
    if s.hub.vise = portCode p then { s with hub := { s.hub with vise := 0 } } else setupIgnored s 0x30 0 := by
  have hz : ((0 : Word).setWidth 8 : BitVec 8) = 0 := by decide
  simp only [writeVise, hz, if_true]

/-! ## Register writes (R390, R393) -/

/-- An aligned 8-byte write to a register that needs the vise, and is none of the MSI-X structures or of BAR2. -/
theorem exec_registerWrite_setUp {off : Nat} (hreg : assignedReg (blockOf off) = true) (hm : inMsix off = false) (ha : off % 8 = 0)
    (hvise : off ≠ 0x30) (hevt : off ≠ Base.evt + 8) (hbeat : off ≠ Base.rst + 0x30) (hb : off < bar2Base) (v : Word) :
    exec (.registerWrite p off 8 v) s = .next (viseWrite s p off v (setRegister (portIdx p) off v)) := by
  simp [exec, execRegisterWrite, writeBar0, hreg, hm, ha, hvise, hevt, hbeat, Nat.not_le.2 hb]

theorem exec_registerWrite_hub (hm : MaySet s p) {o : Nat} (ho : o ≤ 0x68) (ha : o % 8 = 0) (hvise : o ≠ 0x30) (v : Word) :
    exec (.registerWrite p o 8 v) s = .next (writeHub o v s) := by
  have hblock : blockOf o = .hub o := blockOf_hub (by omega)
  have hreg : assignedReg (blockOf o) = true := by rw [hblock]; exact decide_eq_true ho
  rw [exec_registerWrite_setUp hreg (inMsix_hub (by omega)) ha hvise (by unfold Base.evt; omega) (by unfold Base.rst; omega)
    (by unfold bar2Base; omega), viseWrite_of_maySet hm, setRegister, hblock]
  rfl

/-! ## Locks, mode and host windows (R395, R397, R398) -/

theorem exec_lockHost (hm : MaySet s p) : exec (.lockHost p) s = .next { s with hub := { s.hub with lockHost := true } } := by
  simp [exec, execLockHost, viseWrite_of_maySet hm, writeLock, bit, Nat.testBit]

theorem exec_lockRings (hm : MaySet s p) : exec (.lockRings p) s = .next { s with hub := { s.hub with lockRings := true } } := by
  simp [exec, execLockRings, viseWrite_of_maySet hm, writeLock, bit, Nat.testBit]

theorem exec_lockFabric (hm : MaySet s p) : exec (.lockFabric p) s = .next { s with hub := { s.hub with lockFabric := true } } := by
  simp [exec, execLockFabric, viseWrite_of_maySet hm, writeLock, bit, Nat.testBit]

theorem exec_lockReset (hm : MaySet s p) : exec (.lockReset p) s = .next { s with hub := { s.hub with lockReset := true } } := by
  simp [exec, execLockReset, viseWrite_of_maySet hm, writeLock, bit, Nat.testBit]

theorem exec_modeWrite (hm : MaySet s p) (m : BitVec 2) :
    exec (.modeWrite p m) s = .next (tapGate { s with hub := { s.hub with mode := m } }) := by
  have hmode : BitVec.ofNat 2 (m.setWidth 64 : Word).toNat = m := by
    rw [BitVec.ofNat_toNat]
    ext i hi
    simp
  simp only [exec, execModeWrite, viseWrite_of_maySet hm, writeMode, hmode]

theorem writeHub_win (q : PortId) : writeHub (0x50 + 8 * portIdx q) v s = writeWin q (0x50 + 8 * portIdx q) v s := by
  cases q <;> rfl

theorem exec_registerWrite_win (hm : MaySet s p) (q : PortId) (v : Word) :
    exec (.registerWrite p (0x50 + 8 * portIdx q) 8 v) s = .next (writeWin q (0x50 + 8 * portIdx q) v s) := by
  have hq : portIdx q ≤ 1 := by cases q <;> decide
  rw [exec_registerWrite_hub hm (by omega) (by omega) (by omega), writeHub_win]

/-- A window as a port holds it after a write of its register. -/
def withWin (v : Word) (x : Port) : Port := { x with hostBase := BitVec.ofNat 52 (v.toNat / 2 ^ 12), winEn := v.toNat.testBit 0 }

theorem writeWin_open {q : PortId} (h : s.hub.lockHost = false) (off : Nat) : writeWin q off v s = modPort s q (withWin v) := by
  simp only [writeWin, h, Bool.false_eq_true, if_false, Nat.shiftRight_eq_div_pow]
  cases q <;> rfl

theorem withWin_eq_self {x : Port} :
    withWin v x = x ↔ x.hostBase = BitVec.ofNat 52 (v.toNat / 2 ^ 12) ∧ x.winEn = v.toNat.testBit 0 := by
  refine ⟨fun h => ?_, fun ⟨hb, he⟩ => ?_⟩
  · rw [← h]; exact ⟨rfl, rfl⟩
  · rw [withWin, ← hb, ← he]

theorem writeWin_locked {q : PortId} (h : s.hub.lockHost = true) (off : Nat) : writeWin q off v s =
    if (port s q).hostBase = BitVec.ofNat 52 (v.toNat / 2 ^ 12) ∧ (port s q).winEn = v.toNat.testBit 0 then s
    else setupIgnored s off v := by
  have hq : ({ port s q with hostBase := BitVec.ofNat 52 (v.toNat >>> 12), winEn := bit v.toNat 0 } : Port) = withWin v (port s q) := by
    rw [withWin, Nat.shiftRight_eq_div_pow, bit]
  simp only [writeWin, h, if_true, hq, withWin_eq_self]

end Sys2Proof.Laws

namespace Sys2Proof.Claims
open Sys2Proof Sys2Proof.Machine Sys2Proof.Laws

/-- Settles O10: a claim goes by the holder and the code, a release by the holder. -/
theorem viseHasOneHolder : Obligations.ViseHasOneHolder := by
  intro p s hm
  refine ⟨fun h => ?free, fun h => ?held, fun h0 hp => ?taken, fun c h0 hc => ?otherCode, fun h => ?released, fun h => ?notHeld⟩
  case free => rw [exec_portViseClaim hm, writeVise_own, if_pos h]
  case held => rw [exec_portViseClaim hm, writeVise_own, if_neg (h ▸ portCode_ne_zero p), if_pos h]
  case taken => rw [exec_portViseClaim hm, writeVise_own, if_neg h0, if_neg hp]
  case otherCode => rw [exec_portViseClaim hm, writeVise_other h0 hc]
  case released => rw [exec_portViseRelease hm, writeVise_zero, if_pos h]
  case notHeld => rw [exec_portViseRelease hm, writeVise_zero, if_neg h]

/-- Settles O11: the holder's write reaches its register, and any other port's write of the same is ignored and logged. -/
theorem setUpNeedsTheVise : Obligations.SetUpNeedsTheVise := by
  intro p s hm
  refine ⟨fun hv => ?holder, fun hv => ?other⟩
  case holder =>
    have hset : MaySet s p := ⟨hm, hv⟩
    refine ⟨exec_lockHost hset, exec_lockRings hset, exec_lockFabric hset, exec_lockReset hset, fun v => ?lock, fun q v h => ?locked,
      fun q v h => ?unlocked, exec_modeWrite hset, fun v => ?mode⟩
    case lock => exact exec_registerWrite_hub hset (by decide) rfl (by decide) v
    case locked => rw [exec_registerWrite_win hset, writeWin_locked h]
    case unlocked => rw [exec_registerWrite_win hset, writeWin_open h]; rfl
    case mode => exact exec_registerWrite_hub hset (by decide) rfl (by decide) v
  case other =>
    have ignored (off : Nat) (v : Word) (k : State → State) := congrArg (Host.Outcome.next (φ := Fault) (ρ := Refusal))
      (viseWrite_without hm hv off v k)
    refine ⟨ignored .., ignored .., ignored .., ignored .., fun m => ignored .., fun off v hreg hx ha h1 h2 h3 hb => ?_⟩
    rw [exec_registerWrite_setUp hreg hx ha h1 h2 h3 hb, viseWrite_without hm hv]

end Sys2Proof.Claims
end

section
/-! Messages (R346, R403) and the event log (R344, R348): what unmasking sends, when a message leaves, and what a record does to the log. -/

namespace Sys2Proof.Laws
open Sys2Proof Sys2Proof.Machine Sys2Proof.Claims

variable {s : State} {p : PortId} {v : Nat}

@[simp] theorem port_emit (s : State) (o : Output) (p : PortId) : port (emit s o) p = port s p := by cases p <;> rfl

/-! ## Pending messages (R403) -/

/-- Entry `v` of a port's message table as it is written. -/
def withMsix (v : Nat) (f : MsixEntry → MsixEntry) (q : Port) : Port := { q with msix := tset {} q.msix v (f (msixAt q v)) }

/-- An entry that is not masked differs from the reset value, so a table in any form reads it back. -/
theorem msixAt_withMsix {f : MsixEntry → MsixEntry} {q : Port} (h : (f (msixAt q v)).masked = false) :
    msixAt (withMsix v f q) v = f (msixAt q v) := by
  have hne : f (msixAt q v) ≠ {} := by
    intro he
    rw [he] at h
    cases h
  exact tget_tset_live v _ hne _

theorem msixServe_nothing (h : (msixAt (port s p) v).pend = false) : msixServe s p v = s := by
  simp [msixServe, h]

theorem msixServe_sends (hp : (msixAt (port s p) v).pend = true) (hm : (msixAt (port s p) v).masked = false)
    (hf : (port s p).funcMask = false) (he : (port s p).msixEnable = true) (ht : portTalks s p = true) : msixServe s p v =
    emit (modPort s p (withMsix v (fun _ => { msixAt (port s p) v with pend := false }))) (.msix p v) := by
  have ht' (f : Port → Port) (hl : (f (port s p)).linkUp = (port s p).linkUp) (hd : (f (port s p)).d3hot = (port s p).d3hot) :
      portTalks (modPort s p f) p = true := by rw [portTalks, modPort_same, hl, hd]; exact ht
  simp only [msixServe, hp, hm, hf, he, Bool.not_false, Bool.and_self, if_true]
  rw [if_pos (ht' _ rfl rfl)]
  rfl

theorem exec_msixUnmask_vector (hm : MayWrite s p) (hv : v < 2048) : exec (.msixUnmask p (.vector v)) s =
    .next (msixServe (modPort s p (withMsix v (fun e => { e with masked := false }))) p v) := by
  simp only [exec, execMsixUnmask, openWrite_of_mayWrite hm, hv, if_true]
  rfl

theorem exec_msixUnmask_control (hl : (port s p).linkUp = true) (hs : s.hub.stage = .mainReady) (enable mask : Bool) :
    exec (.msixUnmask p (.control enable mask)) s = .next ((List.range 2048).foldl (fun s v => msixServe s p v)
      (modPort s p (fun q => { q with msixEnable := enable, funcMask := mask }))) := by
  simp only [exec, execMsixUnmask, configOpen, hl, hs, decide_true, Bool.and_self, if_true]

/-! ## Messages (R346, R387, R403) -/

theorem raiseMsix_masked (h : (port s p).msixEnable = false ∨ (port s p).funcMask = true ∨ (msixAt (port s p) v).masked = true) :
    raiseMsix s p v = modPort s p (withMsix v (fun e => { e with pend := true })) := by
  have hmask : (!(port s p).msixEnable || (port s p).funcMask || (msixAt (port s p) v).masked) = true := by
    simpa [or_assoc] using h
  simp only [raiseMsix, hmask, if_true]
  cases p <;> rfl

section
variable (he : (port s p).msixEnable = true) (hf : (port s p).funcMask = false) (hm : (msixAt (port s p) v).masked = false)
include he hf hm

theorem raiseMsix_open : raiseMsix s p v = if portTalks s p then emit s (.msix p v) else s := by
  simp only [raiseMsix, he, hf, hm, Bool.not_true, Bool.or_self, Bool.false_eq_true, if_false]

theorem raiseMsix_sent (hl : (port s p).linkUp = true) (hd : (port s p).d3hot = false) : raiseMsix s p v = emit s (.msix p v) := by
  rw [raiseMsix_open he hf hm, if_pos (by simp [portTalks, hl, hd])]

theorem raiseMsix_lost (h : (port s p).linkUp = false ∨ (port s p).d3hot = true) : raiseMsix s p v = s := by
  rw [raiseMsix_open he hf hm, if_neg (by rcases h with h | h <;> simp [portTalks, h])]

end

/-! ## The log (R344, R348, R364) -/

theorem exec_evtHeadWrite (hm : MayWrite s p) (w : Word) : exec (.evtHeadWrite p w) s = .next (writeEvtHead w s) :=
  congrArg Host.Outcome.next (openWrite_of_mayWrite hm _)

section
variable {cls : BitVec 8} {sev : BitVec 2} {st : Status} {kind index d0 d1 : Nat}

/-- The log with one more record, in the tail's place. -/
def recordStored (s : State) (cls : BitVec 8) (sev : BitVec 2) (st : Status) (kind index d0 d1 : Nat) : State := { s with
  evt := { s.evt with
  seq := s.evt.seq + 1, tail := s.evt.tail + 1, log := tset {} s.evt.log (s.evt.tail.toNat % 8192) {
    time := s.time, seq := s.evt.seq, cls := cls, sev := sev, status := st, kind := BitVec.ofNat 4 kind,
    index := BitVec.ofNat 12 index, epoch := unitEpoch s kind index, d0 := BitVec.ofNat 32 d0, d1 := BitVec.ofNat 64 d1 } } }

theorem logEvent_stored (h : evtStores s.evt cls sev = true) : logEvent s cls sev st kind index d0 d1 =
    if s.evt.irqEn && decide (s.evt.minSev.toNat ≤ sev.toNat) then
      raiseMsix (recordStored s cls sev st kind index d0 d1) (portOf s.evt.irqPortB) s.evt.irqVector.toNat
    else recordStored s cls sev st kind index d0 d1 := if_pos h

theorem logEvent_lost (h : evtStores s.evt cls sev = false) : logEvent s cls sev st kind index d0 d1 =
    { s with evt := { s.evt with seq := s.evt.seq + 1, lost := satInc s.evt.lost 1 } } := if_neg (by simp [h])

end

theorem evtStores_iff {e : Evt} {cls : BitVec 8} {sev : BitVec 2} :
    evtStores e cls sev = true ↔ evtHeld e < 8128 ∨ (evtHeld e < 8192 ∧ (cls = Cls.reset ∨ sev = 3)) := by
  simp only [evtStores, Bool.or_eq_true, Bool.and_eq_true, decide_eq_true_eq]

end Sys2Proof.Laws

namespace Sys2Proof.Claims
open Sys2Proof Sys2Proof.Machine Sys2Proof.Laws

/-- Settles O13: unmasking serves the one vector, or all of them, and only a pending message of an open vector leaves. -/
theorem interruptsAndTheEventLog : Obligations.InterruptsAndTheEventLog := by
  intro p s hm
  have hread (v : Nat) : msixAt (port (modPort s p (withMsix v (fun e => { e with masked := false }))) p) v =
      { msixAt (port s p) v with masked := false } := by
    rw [modPort_same, msixAt_withMsix rfl]
  refine ⟨fun v hv h => ?nothingPending, fun v hv hp hf he _ => ⟨_, exec_msixUnmask_vector hm hv, ?sent⟩,
    fun enable mask hs h => ?control, fun v => raiseMsix_masked, fun v h => ?freed, fun v h => ?pastTail⟩
  case nothingPending =>
    rw [exec_msixUnmask_vector hm hv, msixServe_nothing (by rw [hread]; exact h)]
    rfl
  case sent =>
    rw [msixServe_sends (by rw [hread]; exact hp) (by rw [hread]) (by rw [modPort_same]; exact hf) (by rw [modPort_same]; exact he)
      (by rw [portTalks, modPort_same]; exact portTalks_of_mayWrite hm), hread]
    refine ⟨by simp, ?_, ?_⟩
    · rw [port_emit, modPort_same, msixAt_withMsix rfl]
    · cases p <;> rfl
  case control =>
    rw [exec_msixUnmask_control hm.1 hs, foldl_eq_self _ fun v _ => msixServe_nothing (by rw [modPort_same]; exact h v)]
  case freed => rw [exec_evtHeadWrite hm, writeEvtHead, evtHeld, if_pos h]
  case pastTail => rw [exec_evtHeadWrite hm, writeEvtHead, evtHeld, if_neg (Nat.not_le.2 h)]; rfl

/-- Settles O14: a record is stored or counted as lost, and a stored one of enough severity raises the event message. -/
theorem eventRecordsKeepTheirOrder : Obligations.EventRecordsKeepTheirOrder := by
  intro s cls sev st kind index d0 d1
  refine ⟨fun t h ht => ⟨fun hq => ?quiet, fun he hs => ?reported⟩,
    fun p v he hf hm => ⟨raiseMsix_sent he hf hm, raiseMsix_lost he hf hm⟩, fun h => logEvent_lost h, evtStores_iff⟩
  case quiet =>
    have hno : (s.evt.irqEn && decide (s.evt.minSev.toNat ≤ sev.toNat)) = false := by
      rcases hq with hq | hq <;> simp [hq]
    rw [logEvent_stored h, hno, ht]
    rfl
  case reported =>
    rw [logEvent_stored h, he, decide_eq_true hs, ht]
    rfl

end Sys2Proof.Claims
end

section
/-! A flushing read that fails with its port (R249, R252, R355): the task that waits for it takes the time of the failure as well, by which
R253 decides between HOST_UNREACHABLE and RUN_TIMEOUT. -/

namespace Sys2Proof.Laws
open Sys2Proof Sys2Proof.Machine

/-- At 5 ns task 0 waits for the first flushing read of port A, and has seen no failure. -/
def flushWaiting : State := { time := 5, tasks := [(0, some { flushOut := [(.a, 1)] })] }

/-- The loss of port A is logged. -/
def flushWaitingLogged : State := logEvent flushWaiting Cls.hostLinkDown 2 0 8 0 0 0

theorem flushWaiting_task : taskAt flushWaitingLogged 0 = some { flushOut := [(.a, 1)] } := by decide

/-- The read fails: its task notes HOST_UNREACHABLE, and when it came. -/
theorem flushWaiting_fails : taskAt (endFlush flushWaitingLogged .a 1 false) 0 =
    some { taskFlushed .a 1 false { flushOut := [(.a, 1)] } with relFailAt := 5 } := by decide

end Sys2Proof.Laws

namespace Sys2Proof.Claims
open Sys2Proof Sys2Proof.Machine Sys2Proof.Laws

/-- Refutes O9: the clause on a lost port says that of a task whose flushing read fails `taskFlushed` is all that becomes of it, but the
failure, the task's first, also takes its time (`relFailAt`, R253). -/
theorem not_portsAndHeartbeats : ¬ Obligations.PortsAndHeartbeats := by
  rintro ⟨hports, -⟩
  obtain ⟨-, -, -, -, -, hlost, -⟩ := hports .a flushWaiting
  obtain ⟨-, -, htask⟩ := hlost Cls.hostLinkDown 0 flushWaitingLogged rfl rfl
  have hsame := htask 1 false 0 _ flushWaiting_task
  rw [flushWaiting_fails] at hsame
  exact absurd (congrArg Task.relFailAt (Option.some.inj hsame)) (by decide)

end Sys2Proof.Claims
end

section
/-! Requests on a binding of the management network (R406 to R408): what arrives where the binding is up, and where it is down; MCTP control
and PLDM base (Table 16-2), and attestation (R416, Table 16-7). -/

namespace Sys2Proof.Laws
open Sys2Proof Sys2Proof.Machine Sys2Proof.Claims

variable {s : State} {b : Binding}

theorem served_down (h : bindingUp s b = false) (k : State → State) : served s b k = .next s := by
  simp only [served, h, Bool.false_eq_true, if_false]

/-- A request of management is served on its binding. -/
theorem exec_of_bindingOf {c : Instr} (h : bindingOf c = some b) : ∃ k, ∀ s, exec c s = served s b k := by
  cases c <;> cases h <;> exact ⟨_, fun _ => rfl⟩

theorem assignable_of_ne {x : BitVec 8} (h0 : x ≠ 0) (hff : x ≠ 0xFF) : assignable x = true := by
  rw [assignable, decide_eq_true h0, decide_eq_true hff]
  rfl

theorem measurementBody_block {k : Nat} (h1 : 1 ≤ k) (h10 : k ≤ 10) : measurementBody s k = some (1 :: measurementBlock s k) := by
  rw [measurementBody, if_neg (by omega), if_pos h10]

end Sys2Proof.Laws

namespace Sys2Proof.Claims
open Sys2Proof Sys2Proof.Machine Sys2Proof.Laws

/-- Settles O55: each request is served where its binding is up, and arrives nowhere where it is down. -/
theorem controlRequestsAreAnswered : Obligations.ControlRequestsAreAnswered := by
  refine ⟨fun b s hup => ?up, fun c b s hc hdown => ?down⟩
  case down =>
    obtain ⟨k, hk⟩ := exec_of_bindingOf hc
    rw [hk s, served_down hdown]
  case up =>
    refine ⟨fun e h0 hff => ?setEid, congrArg _ (if_pos hup), congrArg _ (if_pos hup), fun t ht => ?version,
      fun t ht => ?noVersion, congrArg _ (if_pos hup), congrArg _ (if_pos hup), fun t c ht hc => ?unlisted,
      fun t h0 hff => ?setTid, congrArg _ (if_pos hup), fun t ht => ⟨?pldmVersion, ?pldmCommands⟩, congrArg _ (if_pos hup)⟩
    case setEid => exact congrArg _ ((if_pos hup).trans (if_pos (assignable_of_ne h0 hff)))
    case setTid => exact congrArg _ ((if_pos hup).trans (if_pos (assignable_of_ne h0 hff)))
    case version => exact congrArg _ ((if_pos hup).trans (if_pos ht))
    case noVersion => exact congrArg _ ((if_pos hup).trans (if_neg (ne_true_of_eq_false ht)))
    case unlisted => exact congrArg _ ((if_pos hup).trans (if_pos (by rw [ht, hc]; rfl)))
    case pldmVersion => exact congrArg _ ((if_pos hup).trans (if_pos ht))
    case pldmCommands => exact congrArg _ ((if_pos hup).trans (if_pos ht))

/-- Settles O59: slot 0 alone answers, and a signed answer takes the next free value for its signature. -/
theorem attestationIsAnswered : Obligations.AttestationIsAnswered := by
  intro b s hup
  refine ⟨congrArg _ (if_pos hup), congrArg _ (if_pos hup), congrArg _ (if_pos hup), congrArg _ (if_pos hup),
    fun o n ho => ?certificate, fun k o n hk => ?emptySlot, fun n => congrArg _ (if_pos hup), fun n => congrArg _ (if_pos hup),
    fun k n h1 h10 => ⟨?plain, ?signed⟩⟩
  case certificate => exact congrArg _ ((if_pos hup).trans (if_pos ⟨rfl, ho⟩))
  case emptySlot => exact congrArg _ ((if_pos hup).trans (if_neg fun h => hk h.1))
  case plain =>
    refine congrArg _ ((if_pos hup).trans ?_)
    beta_reduce
    rw [measurementBody_block h1 h10]
    rfl
  case signed =>
    refine congrArg _ ((if_pos hup).trans ?_)
    beta_reduce
    rw [measurementBody_block h1 h10]
    rfl

end Sys2Proof.Claims
end

section
/-! A firmware update (R413): the commands that a session takes, and the binding that carries it on (R421). -/

namespace Sys2Proof.Laws
open Sys2Proof Sys2Proof.Machine Sys2Proof.Claims

variable {s : State} {b : Binding} {cmd : Nat} {states : List Nat} {k : State → State}

/-! ## The session (R413, R421) -/

/-- The session as the binding that brings a command carries it on (R421). -/
def carriedOn (s : State) (b : Binding) : State := { s with mgt := { s.mgt with updateVia := b } }

theorem sessionCmd_inside (h : s.mgt.session = true) (hst : states.contains s.mgt.updateState.toNat = true) :
    sessionCmd s b cmd states k = k (carriedOn s b) := by
  rw [sessionCmd, if_neg (by simp only [h, Bool.not_true, Bool.false_eq_true, not_false_eq_true]),
    if_neg (by simp only [hst, Bool.not_true, Bool.false_eq_true, not_false_eq_true])]
  rfl

theorem inSession_served (h : s.mgt.session = true) (hst : states.contains s.mgt.updateState.toNat = true)
    (hc : componentServed s = true) : inSession s b cmd states k = k (carriedOn s b) := by
  rw [inSession, sessionCmd_inside h hst, if_pos hc]

theorem ofNat_updateComponent (s : State) : BitVec.ofNat 4 s.mgt.updateComponent.toNat = s.mgt.updateComponent := by
  simp

end Sys2Proof.Laws

namespace Sys2Proof.Claims
open Sys2Proof Sys2Proof.Machine Sys2Proof.Laws

/-- Settles O57: each command is carried out in the states of the session that take it, on the binding that brings it. -/
theorem updateSteps : Obligations.UpdateSteps := by
  intro b s hup
  refine ⟨congrArg _ (if_pos hup), congrArg _ (if_pos hup), congrArg _ (if_pos hup), fun hn => ?opens, fun hs => ?inUse,
    fun hs hc => ⟨fun c hst hcu => ?table, fun c n hst ht hcu hn => ?component, fun n hw h0 hn => ?piece,
      fun hst hop hwant hsize hdone => ?transfer, fun ver svn hst htrust => ?verify, fun hst => ?apply⟩⟩
  case opens => exact congrArg _ ((if_pos hup).trans (if_neg (ne_true_of_eq_false hn)))
  case inUse => exact congrArg _ ((if_pos hup).trans (if_pos hs))
  case table =>
    refine congrArg _ ((if_pos hup).trans ((inSession_served hs ?_ hc).trans ?_))
    · rw [hst]
      rfl
    · exact if_pos ⟨rfl, hcu⟩
  case component =>
    refine congrArg _ ((if_pos hup).trans ((inSession_served hs ?_ hc).trans ?_))
    · rcases hst with hst | hst <;> rw [hst] <;> rfl
    · exact if_pos ⟨ht, hcu, hn⟩
  case piece => exact congrArg _ ((if_pos hup).trans (if_pos ⟨hw, h0, hn⟩))
  case transfer =>
    refine congrArg _ ((if_pos hup).trans ((if_pos ⟨hs, hc, hst, hop, hwant, hsize, hdone⟩).trans ?_))
    simp only [setUpdate, ofNat_updateComponent]
    rfl
  case verify =>
    refine congrArg _ ((if_pos hup).trans ((if_pos ⟨hs, hc, hst⟩).trans ?_))
    simp only [htrust]
    rfl
  case apply => exact congrArg _ ((if_pos hup).trans (if_pos ⟨hs, hc, hst⟩))

end Sys2Proof.Claims
end

section
/-! An update that the ROM-resident services find (R411, R421): the refusal of a command that goes on with it, and the binding that
carries the session. -/

namespace Sys2Proof.Laws
open Sys2Proof Sys2Proof.Machine

/-- The boot ROM alone runs, and the session for component 2 that it finds came over port A. -/
def foundByRom : State := {
  hub := { stage := .fault, romOnly := true }
  mgt := { session := true, updateVia := .vdmA, updateState := 1, updateComponent := 2 } }

/-- The refusal of a table entry from the sideband leaves the session on the binding of its last command. -/
theorem foundByRom_refuses : exec (.passComponentTable .smbus 0xFFFF 2) foundByRom = .next (fwReply foundByRom .smbus 0x13 0x84 []) := rfl

end Sys2Proof.Laws

namespace Sys2Proof.Claims
open Sys2Proof Sys2Proof.Machine Sys2Proof.Laws

/-- Refutes O58: the clause on a component that the boot ROM alone does not serve says that the refused command takes the session to its own
binding, but the refusal answers the state as it was before: `updateVia` stays. -/
theorem not_updatesEnd : ¬ Obligations.UpdatesEnd := by
  intro h
  obtain ⟨-, -, -, hrom, -⟩ := h .smbus foundByRom rfl
  obtain ⟨htable, -⟩ := hrom rfl rfl _ rfl
  have hsame := Host.Outcome.next.inj (foundByRom_refuses.symm.trans (htable rfl 2))
  exact absurd (congrArg (fun s => s.mgt.updateVia) hsame) (by decide)

end Sys2Proof.Claims
end

section
/-! Vendor-defined commands (R394, R412, R417): the management complex and the vise, its register writes and its reset requests. -/

namespace Sys2Proof.Laws
open Sys2Proof Sys2Proof.Machine Sys2Proof.Claims

variable {s : State} {b : Binding} {off : Nat} {v : Word}

/-! ## What the hub firmware serves (R411) -/

section
variable (hup : bindingUp s b = true) (hfirm : ¬ romOnly s = true)
include hup hfirm

theorem exec_viseClaim : exec (.viseClaim b) s =
    .next (vendor (mgmtClaim s).1 b 1 ((mgmtClaim s).2 :: leBytes 8 (viseWord (mgmtClaim s).1.hub))) :=
  congrArg _ ((if_pos hup).trans (if_neg hfirm))

theorem exec_viseRelease : exec (.viseRelease b) s = .next (vendor (mgmtRelease s).1 b 2 [(mgmtRelease s).2]) :=
  congrArg _ ((if_pos hup).trans (if_neg hfirm))

theorem exec_regWrite : exec (.regWrite b off v) s = .next (vendor (mgmtWrite s off v).1 b 4 [(mgmtWrite s off v).2]) :=
  congrArg _ ((if_pos hup).trans (if_neg hfirm))

theorem exec_resetRequest {d i : Nat} : exec (.resetRequest b d i) s =
    .next (vendor (mgmtReset s d i).1 b 5 [(mgmtReset s d i).2]) :=
  congrArg _ ((if_pos hup).trans (if_neg hfirm))

end

/-! ## What a record leaves as it is -/

section
variable (s : State) (cls : BitVec 8) (sev : BitVec 2) (st : Status) (kind index d0 d1 : Nat)

@[simp] theorem logEvent_hub : (logEvent s cls sev st kind index d0 d1).hub = s.hub :=
  logEvent_keeps (fun _ p _ => by cases p <;> rfl) (fun _ _ => rfl) (fun _ _ => rfl) ..

@[simp] theorem logEvent_mgt : (logEvent s cls sev st kind index d0 d1).mgt = s.mgt :=
  logEvent_keeps (fun _ p _ => by cases p <;> rfl) (fun _ _ => rfl) (fun _ _ => rfl) ..

@[simp] theorem logEvent_parts : (logEvent s cls sev st kind index d0 d1).parts = s.parts :=
  logEvent_keeps (fun _ p _ => by cases p <;> rfl) (fun _ _ => rfl) (fun _ _ => rfl) ..

@[simp] theorem logEvent_rings : (logEvent s cls sev st kind index d0 d1).rings = s.rings :=
  logEvent_keeps (fun _ p _ => by cases p <;> rfl) (fun _ _ => rfl) (fun _ _ => rfl) ..

theorem raiseMsix_evt (p : PortId) (n : Nat) : (raiseMsix s p n).evt = s.evt :=
  raiseMsix_keeps (f := fun u => u.evt) (fun _ p _ => by cases p <;> rfl) (fun _ _ => rfl) ..

/-- Every record takes the next sequence number, stored or lost (R348). -/
theorem logEvent_seq : (logEvent s cls sev st kind index d0 d1).evt.seq = s.evt.seq + 1 := by
  unfold logEvent
  dsimp only
  split
  · split
    · rw [raiseMsix_evt]
    · rfl
  · rfl

end

/-- A write that was ignored shows in the log: no other write answers the same state. -/
theorem ne_setupIgnored {t : State} (h : t.evt = s.evt) : t ≠ setupIgnored s off v := by
  intro ht
  have hseq : s.evt.seq + 1 = s.evt.seq := (logEvent_seq ..).symm.trans (congrArg (fun u => u.evt.seq) (ht.symm)) |>.trans
    (congrArg Evt.seq h)
  simp at hseq

/-! ## The vise (R394) -/

theorem mgmtClaim_free (h : s.hub.vise = 0) : mgmtClaim s =
    (logMgmt { s with hub := { s.hub with vise := mgmtCode, claims := s.hub.claims + 1 } } 0x73 0 1 0, Code.ok) := if_pos h

theorem mgmtClaim_taken (h0 : s.hub.vise ≠ 0) (hm : s.hub.vise ≠ mgmtCode) : mgmtClaim s =
    (setupIgnored s 0x30 (mgmtCode.setWidth 64), Code.stateConflict) := by
  rw [mgmtClaim, if_neg h0, if_neg hm]

theorem mgmtRelease_held (h : s.hub.vise = mgmtCode) : mgmtRelease s =
    (logMgmt { s with hub := { s.hub with vise := 0 } } 0x73 0 0 0, Code.ok) := if_pos (decide_eq_true h)

/-! ## Register writes (R393, R412) -/

theorem mgmtWrite_without (hv : s.hub.vise ≠ mgmtCode) (hoff : off ≠ 0x30) (hfree : viseFree off = false) :
    mgmtWrite s off v = (setupIgnored s off v, Code.stateConflict) := by
  have hholds : mgmtHolds s = false := decide_eq_false hv
  rw [mgmtWrite, if_neg hoff, if_pos (by rw [hfree, hholds]; rfl)]

/-- A write that was made, and is none of `RST.CTRL`, answers OK. -/
theorem status_of_made {t : State} (ht : t.evt = s.evt) (hoff : off ≠ Base.rst) :
    (if t = setupIgnored s off v then Code.stateConflict else writeStatus t off v) = Code.ok :=
  (if_neg (ne_setupIgnored ht)).trans (if_neg fun h => hoff h.1)

theorem mgmtWrite_domSel (hv : s.hub.vise = mgmtCode) (h28 : fld v.toNat 4 0 ≤ 28) : mgmtWrite s 0x2030 v =
    ({ s with pwr := { s.pwr with domSel := BitVec.ofNat 5 v.toNat } }, Code.ok) := by
  have hholds : mgmtHolds s = true := decide_eq_true hv
  have hblock : blockOf 0x2030 = .pwr 0x30 := by decide
  have hopen : fusedBlock s (.pwr 0x30) = false := rfl
  have hset : setRegister 2 0x2030 v s = { s with pwr := { s.pwr with domSel := BitVec.ofNat 5 v.toNat } } := if_pos h28
  rw [mgmtWrite, if_neg (by decide), if_neg (by rw [hholds]; decide), hblock, hopen, if_neg (by decide),
    if_neg Bool.false_ne_true, if_neg (by decide), hset]
  exact congrArg (Prod.mk _) (status_of_made rfl (by decide))

/-! ## Reset requests (R363, R412) -/

theorem mgmtReset_warm (h : inReset s Dom.warm 0 = false) : mgmtReset s 7 0 = (beginReset s 7 0 Cause.management, Code.ok) := by
  have hst : resetStatus s 7 0 = Code.ok := by
    exact (if_neg (by decide)).trans ((if_neg Bool.false_ne_true).trans (if_neg (ne_true_of_eq_false h)))
  rw [mgmtReset, if_neg (by decide), if_neg (fun h => h.1 rfl)]
  simp only [hst, if_true]

theorem mgmtReset_without {d i : Nat} (hd : d ≠ 7) (hn : domainNamed d = true) (hv : s.hub.vise ≠ mgmtCode) :
    mgmtReset s d i = (s, Code.stateConflict) := by
  have hholds : mgmtHolds s = false := decide_eq_false hv
  rw [mgmtReset, if_neg (by rw [hn]; decide), if_pos ⟨hd, by rw [hholds]; rfl⟩]

end Sys2Proof.Laws

namespace Sys2Proof.Claims
open Sys2Proof Sys2Proof.Machine Sys2Proof.Laws

/-- Settles O60: a claim goes by the holder, a register write and a reset request by the vise, and the package warm reset needs none. -/
theorem vendorCommands : Obligations.VendorCommands := by
  intro b s hup hrom
  have hfirm : ¬ romOnly s = true := ne_true_of_eq_false hrom
  refine ⟨fun hv => ⟨_, exec_viseClaim hup hfirm, ?claims⟩, fun hv => ?taken,
    fun hv => ⟨_, exec_viseRelease hup hfirm, ?releases⟩,
    fun off hf => ?reads, fun v hv h28 => ?selects, fun off v hv hoff hfree => ?ignored, fun hr => ?warm, fun d i hd hn hv => ?conflict,
    congrArg _ ((if_pos hup).trans (if_neg hfirm)), congrArg _ ((if_pos hup).trans (if_neg hfirm))⟩
  case claims =>
    rw [mgmtClaim_free hv]
    exact ⟨logEvent_hub .., logEvent_mgt .., logEvent_parts .., logEvent_rings .., logEvent_dram ..⟩
  case taken =>
    rw [exec_viseClaim hup hfirm, mgmtClaim_taken (by rw [hv]; decide) (by rw [hv]; decide)]
    exact congrArg (fun h => Host.Outcome.next (vendor _ b 1 (_ :: leBytes 8 (viseWord h)))) (logEvent_hub ..)
  case releases =>
    rw [mgmtRelease_held hv]
    exact ⟨logEvent_hub .., logEvent_mgt ..⟩
  case reads => exact congrArg _ ((if_pos hup).trans ((if_neg hfirm).trans (if_neg (ne_true_of_eq_false hf))))
  case selects => rw [exec_regWrite hup hfirm, mgmtWrite_domSel hv h28]
  case ignored => rw [exec_regWrite hup hfirm, mgmtWrite_without hv hoff hfree]
  case warm => rw [exec_resetRequest hup hfirm, mgmtReset_warm hr]
  case conflict => rw [exec_resetRequest hup hfirm, mgmtReset_without hd hn hv]

end Sys2Proof.Claims
end

section
/-! The TAP controller (R397, R418, R433): the pins that it lets go and drives, and what each of its instructions does. -/

namespace Sys2Proof.Laws
open Sys2Proof Sys2Proof.Machine Sys2Proof.Claims

variable {s : State} {k : Nat} {d : PinDrive}

/-! ## The pins of the boundary register (R418) -/

theorem letGo_normal (h : s.mgt.tapPins = .normal) : letGo s = s := if_pos h

theorem letGo_held (h : s.mgt.tapPins ≠ .normal) :
    letGo s = { s with mgt := { s.mgt with tapPins := .normal }, out := s.out ++ [.pins []] } := if_neg h

theorem letGo_tapRefused (s : State) : (letGo s).mgt.tapRefused = s.mgt.tapRefused := by
  unfold letGo
  split <;> rfl

theorem letGo_tapInstr (s : State) : (letGo s).mgt.tapInstr = s.mgt.tapInstr := by
  unfold letGo
  split <;> rfl

theorem refuseTap_again (h : s.mgt.tapRefused = true) : refuseTap s = letGo s := by
  rw [refuseTap, if_pos (by rw [letGo_tapRefused, h])]

theorem refuseTap_first (h : s.mgt.tapRefused = false) : refuseTap s = logMgmt { letGo s with
    mgt := { (letGo s).mgt with tapRefused := true } } 0x75 0 s.mgt.tapInstr.toNat 0 := by
  rw [refuseTap, if_neg (by rw [letGo_tapRefused, h]; decide), letGo_tapInstr]
  rfl

theorem drivePins_levels (h : s.mgt.tapWants = .levels) : drivePins s = { s with
    mgt := { s.mgt with tapPins := .levels }, out := s.out ++ [.pins (boundaryPins.zip ((boundaryBits s.mgt.boundary).map some))] } := by
  simp only [drivePins, h]
  rfl

theorem drivePins_floating (h : s.mgt.tapWants = .floating) : drivePins s = { s with
    mgt := { s.mgt with tapPins := .floating }, out := s.out ++ [.pins (boundaryPins.map (fun p => (p, none)))] } := by
  simp only [drivePins, h]
  rfl

/-! ## When the mode or STAGE changes (R397) -/

theorem tapAllowed_iff : tapAllowed s = true ↔ s.hub.mode = 2 ∨ s.hub.stage ≠ .mainReady ∧ s.hub.mode ≠ 1 := by
  simp only [tapAllowed, Bool.or_eq_true, Bool.and_eq_true, decide_eq_true_eq]

theorem tapGate_normal (h : s.mgt.tapWants = .normal) : tapGate s = s := if_pos h

theorem tapGate_driving (hp : s.mgt.tapPins ≠ .normal) (ha : tapAllowed s = true) : tapGate s = s := by
  simp only [tapGate, ha, if_true, if_neg hp, ite_self]

theorem tapGate_drives (hw : s.mgt.tapWants ≠ .normal) (hp : s.mgt.tapPins = .normal) (ha : tapAllowed s = true) :
    tapGate s = drivePins s := by
  simp only [tapGate, if_neg hw, ha, if_true, hp]

theorem tapGate_bypassed (hp : s.mgt.tapPins = .normal) (ha : tapAllowed s = false) : tapGate s = s := by
  simp only [tapGate, ha, Bool.false_eq_true, if_false, if_pos hp, ite_self]

theorem tapGate_refuses (hw : s.mgt.tapWants ≠ .normal) (hp : s.mgt.tapPins ≠ .normal) (ha : tapAllowed s = false) :
    tapGate s = refuseTap s := by
  simp only [tapGate, if_neg hw, ha, Bool.false_eq_true, if_false, if_neg hp]

/-- Where a driving instruction may act, its pins are all that changes. -/
theorem tapGate_allowed (ha : tapAllowed s = true) :
    ∃ pins out, tapGate s = { s with mgt := { s.mgt with tapPins := pins }, out := out } := by
  by_cases hw : s.mgt.tapWants = .normal
  · exact ⟨_, _, tapGate_normal hw⟩
  · by_cases hp : s.mgt.tapPins = .normal
    · exact ⟨_, _, tapGate_drives hw hp ha⟩
    · exact ⟨_, _, tapGate_driving hp ha⟩

/-! ## Loading an instruction (R418) -/

/-- Instruction `k` as it enters the TAP controller, with what it wants of the pins. -/
def tapLoaded (s : State) (k : Nat) (d : PinDrive) : State :=
  { s with mgt := { s.mgt with tapInstr := Config.tapCode k, tapWants := d, tapRefused := false } }

theorem loadTap_runs (h : s.hub.auxOn = true) (hr : s.mgt.tapReset = false) (f : State → State) :
    loadTap s k f = .next (f (tapLoaded s k .normal)) := by
  rw [loadTap, if_pos (by rw [h, hr]; rfl)]
  rfl

theorem loadDriving_drives (h : s.hub.auxOn = true) (hr : s.mgt.tapReset = false) (ha : tapAllowed s = true) :
    loadDriving s k d = .next (drivePins (tapLoaded s k d)) := by
  rw [loadDriving, loadTap_runs h hr]
  exact congrArg _ (if_pos ha)

theorem loadDriving_refused (h : s.hub.auxOn = true) (hr : s.mgt.tapReset = false) (ha : tapAllowed s = false) :
    loadDriving s k d = .next (giveBypass (refuseTap (tapLoaded s k d)) k) := by
  rw [loadDriving, loadTap_runs h hr]
  exact congrArg _ (if_neg (ne_true_of_eq_false ha))

/-- The refused instruction has let the pins go and made its record. -/
theorem refuseTap_tapLoaded (s : State) (k : Nat) (d : PinDrive) : refuseTap (tapLoaded s k d) = logMgmt { letGo s with
    mgt := { (letGo s).mgt with tapInstr := Config.tapCode k, tapWants := d, tapRefused := true } } 0x75 0 (Config.tapCode k).toNat 0 := by
  rw [refuseTap_first rfl]
  by_cases hp : s.mgt.tapPins = .normal
  · rw [letGo_normal hp, letGo_normal (s := tapLoaded s k d) hp]
    rfl
  · rw [letGo_held hp, letGo_held (s := tapLoaded s k d) hp]
    rfl

end Sys2Proof.Laws

namespace Sys2Proof.Claims
open Sys2Proof Sys2Proof.Machine Sys2Proof.Laws

/-- Settles O8: a load lets the pins go, a driving instruction drives them where it may, and else is refused once. -/
theorem boundaryScanInstructions : Obligations.BoundaryScanInstructions := by
  intro s
  refine ⟨rfl, rfl, letGo_normal, letGo_held, tapGate_normal, tapAllowed_iff, fun hw ha => ?drives, fun hw ha => ?stops,
    fun haux hrst load refused hload hrefused => ?loads, fun k => rfl⟩
  case drives =>
    refine ⟨fun hp => tapGate_driving hp ha, fun hp hl => ?levels, fun hp hf => ?floating⟩
    case levels => rw [tapGate_drives hw hp ha, drivePins_levels hl]
    case floating => rw [tapGate_drives hw hp ha, drivePins_floating hf]
  case stops =>
    refine ⟨fun hp => tapGate_bypassed hp ha, fun hp hr => ?again, fun hp hr => ?first⟩
    case again => rw [tapGate_refuses hw hp ha, refuseTap_again hr]
    case first => rw [tapGate_refuses hw hp ha, refuseTap_first hr]
  case loads =>
    have hruns : (s.hub.auxOn && !s.mgt.tapReset) = true := by rw [haux, hrst]; rfl
    refine ⟨?idcode, ?bypass, fun pins => ?sample, fun h => ?driven, fun hm h => ?bypassed⟩
    case idcode =>
      rw [hload]
      exact congrArg _ (if_pos hruns)
    case bypass =>
      rw [hload]
      exact congrArg _ (if_pos hruns)
    case sample =>
      rw [hload]
      exact congrArg _ (if_pos hruns)
    case driven =>
      have ha := tapAllowed_iff.2 h
      exact ⟨(loadDriving_drives haux hrst ha).trans (congrArg _ (drivePins_levels rfl)),
        (loadDriving_drives haux hrst ha).trans (congrArg _ (drivePins_levels rfl)),
        (loadDriving_drives haux hrst ha).trans (congrArg _ (drivePins_floating rfl))⟩
    case bypassed =>
      have ha : tapAllowed s = false := by
        rw [← Bool.not_eq_true, tapAllowed_iff]
        rintro (h2 | ⟨hs, h1⟩)
        · exact hm h2
        · exact h.elim hs h1
      have hno (k : Nat) (d : PinDrive) : loadDriving s k d = .next (refused k d) := by
        rw [loadDriving_refused haux hrst ha, refuseTap_tapLoaded, hrefused]
      exact ⟨hno .., hno .., hno ..⟩

end Sys2Proof.Claims
end

section
/-! Bring-up (R404, R411, R426, R427): the boot from sound images, the end of the zero fill of every stack, and a cable that is pulled. -/

namespace Sys2Proof.Laws
open Sys2Proof Sys2Proof.Machine Sys2Proof.Claims

variable {s : State}

/-! ## The boot (R410, R411) -/

theorem bootComponent_sound {bad : List Nat} {c : Nat} (h : slotBad s bad c (runsB s c) = false) : bootComponent bad s c = s :=
  if_pos (by rw [h]; rfl)

/-- Where every slot is sound the boot selects what is active already. -/
theorem foldl_bootComponent_sound {bad : List Nat} {cs : List Nat} (h : ∀ c ∈ cs, slotBad s bad c (runsB s c) = false) :
    cs.foldl (bootComponent bad) s = s := foldl_eq_self cs fun c hc => bootComponent_sound (h c hc)

/-- Components 1 to 6 run from sound slots. -/
def SoundImages (s : State) : Prop := ∀ c, 1 ≤ c → c ≤ 6 → slotBad s [] c (runsB s c) = false

theorem startFirmware_sound (h : SoundImages s) : startFirmware s false [] =
    bootCalibration { s with hub := { s.hub with fallback := false, fwImageB := runsB s 1, mode := 0 } } false := by
  have hfell : slotBad s [] 1 (runsB s 1) = false := h 1 (by decide) (by decide)
  have hfold : (upFrom 1 6).foldl (bootComponent []) s = s := foldl_bootComponent_sound fun c hc => by
    obtain ⟨k, hk, rfl⟩ : ∃ k < 6, 1 + k = c := by simpa [upFrom] using hc
    exact h (1 + k) (by omega) (by omega)
  simp only [startFirmware, hfold, hfell, Bool.false_eq_true, if_false]

theorem slotBad_both (h : SoundImages s) : (slotBad s [] 1 false && slotBad s [] 1 true) = false := by
  have h1 : slotBad s [] 1 (runsB s 1) = false := h 1 (by decide) (by decide)
  cases hb : runsB s 1 <;> rw [hb] at h1 <;> simp [h1]

/-- The state in which the images are selected. -/
def bootStarted (s : State) : State := { s with hub := { s.hub with stage := .auxReady, bootErr := 0, romOnly := false } }

/-- A flash that is found, with a slot of the hub firmware that passes, starts the firmware. -/
theorem bootEnd_starts {bad : List Nat} {calBad : Bool} (hf : noFlash bad = false)
    (hs : (slotBad (bootStarted s) bad 1 false && slotBad (bootStarted s) bad 1 true) = false) :
    bootEnd s bad calBad = startFirmware (bootStarted s) calBad bad := by
  unfold bootEnd
  dsimp only
  rw [← bootStarted, hf, hs]
  rfl

/-- With sound images STAGE reads AUX_READY, and the calibration record passes. -/
theorem bootEnd_sound (h : SoundImages s) : bootEnd s [] false = modImage { s with
    hub := { s.hub with
      stage := .auxReady, bootErr := 0, romOnly := false, fallback := false, fwImageB := runsB s 1, mode := 0 },
    mgt := { s.mgt with calBad := false } } 0xF false (fun x => { x with valid := true }) := by
  have hs : SoundImages (bootStarted s) := h
  rw [bootEnd_starts rfl (slotBad_both hs), startFirmware_sound hs]
  rfl

/-! ## A cable (R426) -/

theorem ne_default_of_training {l : Link} (h : l.state = .training) : ({ l with cableHigh := true } : Link) ≠ {} := by
  intro he
  have hdown : ({ l with cableHigh := true } : Link).state = ({} : Link).state := by rw [he]
  exact absurd (h.symm.trans hdown) (by decide)

/-! ## The end of the zero fill (R404, Table 3-17) -/

/-- The fill of a stack has ended. -/
def filled (st : Stack) : Stack := { st with initBusy := false }

/-- A stack at its reset value is filling, so the write of a filled one is found in a table of any form. -/
theorem filled_ne_default (st : Stack) : filled st ≠ {} := fun h => absurd (congrArg Stack.initBusy h) Bool.false_ne_true

theorem stk_fill_same (i : Nat) : stk (modStk s i filled) i = filled (stk s i) := tget_tset_live i _ (filled_ne_default _) _

theorem stk_fill_other {i j : Nat} (h : j ≠ i) : stk (modStk s i filled) j = stk s j := tget_tset_other_live (filled_ne_default _) h _

/-- The first `n` stacks have been filled. -/
def fillStacks (s : State) (n : Nat) : State := (List.range n).foldl (fun s i => modStk s i filled) s

theorem fillStacks_succ (s : State) (n : Nat) : fillStacks s (n + 1) = modStk (fillStacks s n) n filled := by
  simp only [fillStacks, List.range_succ, List.foldl_append, List.foldl_cons, List.foldl_nil]

theorem fillStacks_only (s : State) (n : Nat) : fillStacks s n = { s with stackTab := (fillStacks s n).stackTab } := by
  induction n with
  | zero => rfl
  | succ n ih => rw [fillStacks_succ, modStk, ih]

theorem stk_fillStacks (s : State) (n i : Nat) : stk (fillStacks s n) i = if i < n then filled (stk s i) else stk s i := by
  induction n with
  | zero => rfl
  | succ n ih =>
    rw [fillStacks_succ]
    by_cases hi : i = n
    · subst hi
      rw [stk_fill_same, ih, if_neg (Nat.lt_irrefl _), if_pos (Nat.lt_succ_self _)]
    · rw [stk_fill_other hi, ih]
      exact if_congr (by omega) rfl rfl

theorem any_fillHeld (h : ∀ i, i < 24 → stackPresent s i = true → (stk s i).initBusy = true → (stk s i).writeHold = false) :
    (List.range 24).any (fillHeld s) = false := by
  rw [List.any_eq_false]
  intro i hi
  have hi' : i < 24 := List.mem_range.1 hi
  simp only [fillHeld, Bool.and_eq_true, not_and, Bool.not_eq_true]
  exact fun ⟨hp, hb⟩ => h i hi' hp hb

theorem execMainReady_filled (hpg : s.hub.mainPg = true) (hstage : s.hub.stage = .auxReady) (hrom : s.hub.romOnly = false)
    (hwarm : inReset s Dom.warm 0 = false) (hheld : (List.range 24).any (fillHeld s) = false) : execMainReady 0 s =
    .next (tapGate { fillStacks s 24 with hub := { (fillStacks s 24).hub with stage := .mainReady, trained := true } }) := by
  have hguard : (s.hub.mainPg && decide (s.hub.stage = .auxReady) && !s.hub.romOnly && !inReset s Dom.warm 0) = true := by
    rw [hpg, hstage, hrom, hwarm]
    rfl
  unfold execMainReady
  rw [if_pos hguard, if_pos rfl, hheld]
  rfl

/-- The last of them leaves the package in MAIN_READY. -/
theorem exec_mainReady_filled (hpg : s.hub.mainPg = true) (hstage : s.hub.stage = .auxReady) (hrom : s.hub.romOnly = false)
    (hwarm : inReset s Dom.warm 0 = false) (hheld : (List.range 24).any (fillHeld s) = false) (htap : s.mgt.tapWants = .normal) :
    ∃ tab, exec (.mainReady 0) s =
      .next { s with hub := { s.hub with stage := .mainReady, trained := true }, stackTab := tab } ∧
      ∀ i, i < 24 → tget {} tab i = filled (stk s i) := by
  refine ⟨(fillStacks s 24).stackTab, (execMainReady_filled hpg hstage hrom hwarm hheld).trans ?_,
    fun i hi => (stk_fillStacks s 24 i).trans (if_pos hi)⟩
  rw [fillStacks_only]
  exact congrArg _ (tapGate_normal htap)

end Sys2Proof.Laws

namespace Sys2Proof.Claims
open Sys2Proof Sys2Proof.Machine Sys2Proof.Laws

/-- Settles O6: each command's guard holds, and what it then writes is all that changes. -/
theorem bringUpReachesMainReady : Obligations.BringUpReachesMainReady := by
  refine ⟨fun a s h => ?aux, fun s haux hstage hsound => ?boot, fun mv s hpg haux hstage hlo hhi => ?mainOn,
    fun s hpg hstage hrom hwarm htap hheld => ?ready, fun link s hl htr => ?cable⟩
  case aux => exact congrArg _ (if_neg (ne_true_of_eq_false h))
  case boot =>
    have hboots : booting s = true := by rw [booting, haux, hstage]; rfl
    exact congrArg _ ((if_pos hboots).trans (bootEnd_sound hsound))
  case mainOn =>
    have hmay : mainMayOn (setSupply s mv true) = true := by
      simp [mainMayOn, setSupply, haux, hstage, hlo, hhi]
    exact congrArg _ ((if_neg (ne_true_of_eq_false hpg)).trans (if_pos hmay))
  case ready =>
    obtain ⟨tab, hexec, hfilled⟩ := exec_mainReady_filled hpg hstage hrom hwarm (any_fillHeld hheld) htap
    exact ⟨_, hexec, rfl, hfilled⟩
  case cable =>
    refine congrArg _ ((if_pos hl).trans ((if_pos rfl).trans (if_pos ?_)))
    rw [lnk_modLnk_live (f := fun l => { l with cableHigh := true }) (ne_default_of_training htr)]
    exact htr

end Sys2Proof.Claims
end

section
/-! Live activation (R360, R414, Table 13-11) and the end of flash operations (R375, R413). -/

namespace Sys2Proof.Laws
open Sys2Proof Sys2Proof.Machine Sys2Proof.Claims

variable {s : State} {c : Nat} {rest : List Nat}

/-! ## A unit that reports ready (R360) -/

/-- Where no channel is being retrained for new tables, none has ended. -/
theorem endChannel_idle (h : s.mgt.channelRuns = false) : endChannel s = s := by
  rw [endChannel, if_neg (by rw [h]; exact Bool.false_ne_true)]

theorem endChannel_busy (h : (stk s s.mgt.unit).retrainBusy = true) : endChannel s = s := by
  rw [endChannel, if_neg (by rw [h, Bool.not_true, Bool.and_false]; exact Bool.false_ne_true)]

/-- The state in which the running channel is done. -/
def channelEnded (s : State) : State := { s with mgt := { s.mgt with channel := s.mgt.channel + 1, channelRuns := false } }

theorem endChannel_done (hr : s.mgt.channelRuns = true) (hb : (stk s s.mgt.unit).retrainBusy = false) :
    endChannel s = channelEnded s := by
  rw [endChannel, if_pos (by rw [hr, hb]; rfl)]
  rfl

/-- What a report that the running unit is ready does, once a channel that has ended is done. -/
def reportUnit (s : State) (c : Nat) : State :=
  if c = 5 ∧ (s.mgt.channelRuns ∨ channelsLeft s s.mgt.unit ≠ []) then (if s.mgt.channelRuns then s else startChannel s)
  else if unitQuiet s c s.mgt.unit then
    if s.mgt.unit + 1 < unitsOf c then
      startUnit { s with mgt := { s.mgt with unitDone := s.mgt.unitDone ++ [s.mgt.unit] } } (s.mgt.unit + 1)
    else startComponent (finishComponent { s with mgt := { s.mgt with unitDone := s.mgt.unitDone ++ [s.mgt.unit] } } c)
  else s

theorem exec_activationReady (h : s.mgt.activating = c :: rest) : exec .activationReady s =
    .next (reportUnit (if c = 5 ∧ !unitWaits s then endChannel s else s) c) := by
  simp only [exec, execActivationReady, h]
  rfl

section
variable (hidle : c = 5 → s.mgt.channelRuns = false ∧ channelsLeft s s.mgt.unit = [])
include hidle

/-- A unit with no channel to retrain reports for itself. -/
theorem exec_activationReady_idle (h : s.mgt.activating = c :: rest) : exec .activationReady s = .next (reportUnit s c) := by
  have hs : (if c = 5 ∧ !unitWaits s then endChannel s else s) = s := by
    split
    · next hc => exact endChannel_idle (hidle hc.1).1
    · rfl
  rw [exec_activationReady h, hs]

theorem reportUnit_idle : ¬ (c = 5 ∧ (s.mgt.channelRuns ∨ channelsLeft s s.mgt.unit ≠ [])) := by
  rintro ⟨hc, h⟩
  obtain ⟨hr, hl⟩ := hidle hc
  rw [hr, hl] at h
  exact h.elim Bool.false_ne_true fun h => h rfl

end

theorem startChannel_starts {h : Nat} {l : List Nat} (hl : channelsLeft s s.mgt.unit = h :: l)
    (hb : (stk s s.mgt.unit).retrainBusy = false) (hsp : (stk s s.mgt.unit).sparing = none) (hd : dieServes s s.mgt.unit = true) :
    startChannel s = modStk { s with mgt := { s.mgt with channel := h, channelRuns := true, unitSince := now s } } s.mgt.unit
      (fun st => { st with retrainBusy := true, retrainHeld := BitVec.ofNat 6 h }) := by
  simp only [startChannel, hl, hb, hsp, hd, Option.isSome_none, Bool.or_self, Bool.not_true, Bool.false_eq_true, if_false]

/-! ## A unit that is not ready in its time (R365, R414) -/

theorem exec_activationTimeout (h : s.mgt.activating = c :: rest) : exec .activationTimeout s =
    .next (if !unitWaits s ∧ s.mgt.unitSince + readyWithin c ≤ now s then startComponent (failComponent s c) else s) := by
  simp only [exec, execActivationTimeout, h]

/-! ## The end of a flash operation (R375, R413) -/

/-- The state in which no flash operation runs. -/
def flashIdle (s : State) : State := { s with mgt := { s.mgt with flashOp := 0, flashStale := false } }

theorem exec_flashOperationEnd_done {op : Nat} (hop : s.mgt.flashOp = op) (h0 : op ≠ 0) (hst : s.mgt.flashStale = false) (a : BitVec 64) :
    exec (.flashOperationEnd true a) s = .next (flashDone (flashIdle s) op) := by
  simp only [exec, execFlashOperationEnd, hop, hst, if_neg h0, Bool.false_eq_true, if_false, if_true]
  rfl

theorem exec_flashOperationEnd_failed {op : Nat} (hop : s.mgt.flashOp = op) (h0 : op ≠ 0) (hst : s.mgt.flashStale = false)
    (a : BitVec 64) :
    exec (.flashOperationEnd false a) s = .next (dropComponent (logMgmt (flashIdle s) 0x74 2 (op - 1) a.toNat)) := by
  simp only [exec, execFlashOperationEnd, hop, hst, if_neg h0, Bool.false_eq_true, if_false]
  rfl

/-- One erase less is left. -/
def erased (s : State) : State := { s with mgt := { s.mgt with erasesLeft := s.mgt.erasesLeft - 1 } }

theorem flashDone_erase : flashDone s 1 = if !componentServed s then erased s else
    if s.mgt.erasesLeft - 1 = 0 then askPiece (erased s) else askFlash (erased s) 1 := rfl

/-- The piece under program counts. -/
def programmed (s : State) : State := { s with mgt := { s.mgt with imageDone := s.mgt.imageDone + s.mgt.piece, piece := 0 } }

theorem flashDone_program : flashDone s 2 = if componentServed s && decide (s.mgt.imageDone + s.mgt.piece < s.mgt.imageSize) then
    askPiece (programmed s) else programmed s := rfl

end Sys2Proof.Laws

namespace Sys2Proof.Claims
open Sys2Proof Sys2Proof.Machine Sys2Proof.Laws

/-- Settles O54: a report goes by the channels and the unit, a timeout by the unit's wait, and the end of a flash operation by its kind. -/
theorem flashAndActivation : Obligations.FlashAndActivation := by
  refine ⟨fun c rest s ha => ⟨fun hi hq hu => ?nextUnit, fun hi hq hu => ?lastUnit, fun hi hq => ?notQuiet, fun hc hr hb => ?retraining,
      fun e hc hw hr hb he hl => ?nextChannel, fun h l hl hb hsp hpg hres => ?channelStarts, fun hw => ?waits, fun hw ht => ?late,
      fun ht => ?inTime⟩,
    fun s a hst => ⟨fun hop hc => ?erasedUnserved, fun hop hd u hu => ?pieceDone, fun hop hc he => ?lastErase,
      fun hop hc he => ?nextErase, fun hop hd => ?imageDone, fun hop => ?failed⟩⟩
  case nextUnit =>
    rw [exec_activationReady_idle hi ha, reportUnit, if_neg (reportUnit_idle hi), if_pos hq, if_pos hu]
  case lastUnit =>
    rw [exec_activationReady_idle hi ha, reportUnit, if_neg (reportUnit_idle hi), if_pos hq, if_neg (Nat.not_lt.2 hu)]
  case notQuiet =>
    rw [exec_activationReady_idle hi ha, reportUnit, if_neg (reportUnit_idle hi), if_neg (ne_true_of_eq_false hq)]
  case retraining =>
    rw [exec_activationReady ha, endChannel_busy hb, ite_self, reportUnit, if_pos ⟨hc, .inl hr⟩, if_pos hr]
  case nextChannel =>
    have hended : e = channelEnded s := he
    rw [hended] at hl ⊢
    have hnone : ¬ (channelEnded s).mgt.channelRuns = true := Bool.false_ne_true
    rw [exec_activationReady ha, if_pos ⟨hc, by rw [hw]; rfl⟩, endChannel_done hr hb, reportUnit, if_pos ⟨hc, .inr hl⟩,
      if_neg hnone]
  case channelStarts => exact startChannel_starts hl hb hsp (dieServes_of hpg hres)
  case waits => rw [exec_activationTimeout ha, if_neg (by rw [hw]; simp)]
  case late => rw [exec_activationTimeout ha, if_pos ⟨by rw [hw]; rfl, ht⟩]
  case inTime => rw [exec_activationTimeout ha, if_neg fun h => Nat.not_le.2 ht h.2]
  case erasedUnserved =>
    have hno : (!componentServed (flashIdle s)) = true := congrArg not hc
    rw [exec_flashOperationEnd_done hop (by decide) hst, flashDone_erase, if_pos hno]
    rfl
  case pieceDone =>
    have hu' : u = programmed (flashIdle s) := hu
    have hserved : componentServed (flashIdle s) = componentServed s := rfl
    have hmore : (flashIdle s).mgt.imageDone + (flashIdle s).mgt.piece < (flashIdle s).mgt.imageSize := hd
    rw [exec_flashOperationEnd_done hop (by decide) hst, flashDone_program, decide_eq_true hmore, Bool.and_true, hserved, hu']
  case lastErase =>
    have hyes : ¬ (!componentServed (flashIdle s)) = true := by rw [show componentServed (flashIdle s) = true from hc]; decide
    have hleft : (flashIdle s).mgt.erasesLeft - 1 = 0 := by rw [show (flashIdle s).mgt.erasesLeft = 1 from he]
    rw [exec_flashOperationEnd_done hop (by decide) hst, flashDone_erase, if_neg hyes, if_pos hleft, erased, hleft]
    rfl
  case nextErase =>
    have hyes : ¬ (!componentServed (flashIdle s)) = true := by rw [show componentServed (flashIdle s) = true from hc]; decide
    have hleft : ¬ (flashIdle s).mgt.erasesLeft - 1 = 0 := Nat.sub_ne_zero_of_lt he
    rw [exec_flashOperationEnd_done hop (by decide) hst, flashDone_erase, if_neg hyes, if_neg hleft]
    rfl
  case imageDone =>
    have hall : ¬ (flashIdle s).mgt.imageDone + (flashIdle s).mgt.piece < (flashIdle s).mgt.imageSize := Nat.not_lt.2 hd
    rw [exec_flashOperationEnd_done hop (by decide) hst, flashDone_program, decide_eq_false hall, Bool.and_false,
      if_neg Bool.false_ne_true]
    rfl
  case failed => exact exec_flashOperationEnd_failed hop (by decide) hst a

end Sys2Proof.Claims
end

section
/-! Heat (R367 to R374): one period of a domain's model, a source that stays lost, RESTORE, and the most restrictive state. -/

namespace Sys2Proof.Laws
open Sys2Proof Sys2Proof.Machine Sys2Proof.Claims

variable {s : State} {p : PortId} {n : Nat}

theorem dom_modDom (h : twf {} s.pwr.domains = true) (f : Domain → Domain) : dom (modDom s n f) n = f (dom s n) := tget_tset_same h ..

/-! ## The model (R367) -/

/-- A domain after one period, by its power and the arrival of its sample. -/
def periodOf (s : State) (n mw : Nat) (sampled : Bool) (d : Domain) : Domain :=
  let a := stageStep d.th0 mw ((stages n).getD 0 (0, 0))
  let b := stageStep d.th1 mw ((stages n).getD 1 (0, 0))
  let c := stageStep d.th2 mw ((stages n).getD 2 (0, 0))
  { d with
    th0 := a, th1 := b, th2 := c, tm := (s.pwr.inlet.microC + s.pwr.outlet.microC) / 2 + (a + b + c) / 1000000,
    powers := (mw :: d.powers).take 10, telemetry := if sampled then now s else d.telemetry }

theorem dom_modelStep_sampled {l : List (Nat × Nat)} {w : Nat} (hw : l.find? (fun e => decide (e.1 = n)) = some (n, w))
    (h : twf {} s.pwr.domains = true) : dom (modelStep l s n) n = periodOf s n w true (dom s n) := by
  rw [modelStep, dom_modDom h]
  simp only [sampleOf, hw]
  rfl

theorem dom_modelStep_last {l : List (Nat × Nat)} (hw : l.find? (fun e => decide (e.1 = n)) = none)
    (h : twf {} s.pwr.domains = true) :
    dom (modelStep l s n) n = periodOf s n ((dom s n).powers.head?.getD 0) false (dom s n) := by
  rw [modelStep, dom_modDom h]
  simp only [sampleOf, hw]
  rfl

theorem exec_thermalModelUpdate (h : s.hub.auxOn = true) (l : List (Nat × Nat)) : exec (.thermalModelUpdate l) s =
    .next (shimUpdate l (judgeAll ((List.range 29).foldl (modelStep l) s))) := by
  simp only [exec, execThermalModelUpdate, h, if_true]

theorem exec_sensorRead (h : s.hub.auxOn = true) (l : List SensorReading) : exec (.sensorRead l) s =
    .next (judgeAll ((List.range 29).foldl takeRate ((List.range 29).foldl takeSource (takeCoolant (l.foldl oneReading s))))) := by
  simp only [exec, execSensorRead, h, if_true]

/-! ## A source that stays lost (R371) -/

theorem exec_noSourceTimeout_lost (hn : n ≤ 28) (hs : (dom s n).source = .none) (hd : (dom s n).down = false)
    (ht : (dom s n).noneSince + 100000000 ≤ now s) : exec (.noSourceTimeout n) s = .next (shutDown s n 0x66 0) :=
  congrArg _ (if_pos ⟨hn, hs, by rw [hd]; rfl, ht⟩)

theorem exec_noSourceTimeout_early (ht : now s < (dom s n).noneSince + 100000000) : exec (.noSourceTimeout n) s = .next s :=
  congrArg _ (if_neg fun h => Nat.not_le.2 ht h.2.2.2)

/-! ## RESTORE (R374) -/

theorem exec_restore (hm : MaySet s p) (hn : n < 32) : exec (.restore p n) s = .next (
    if restorable s n then pwrStatus (restoreDomain s n) Code.ok else pwrStatus s Code.stateConflict) := by
  have hv : (BitVec.ofNat 64 (n % 32 * 256 + 1)).toNat = n * 256 + 1 := by
    rw [BitVec.toNat_ofNat]
    omega
  have hfield : fld (n * 256 + 1) 12 8 = n := by
    rw [fld, Nat.shiftRight_eq_div_pow]
    omega
  have hcmd : (n * 256 + 1) % 4 = 1 := by omega
  simp only [exec, execRestore, viseWrite_of_maySet hm, writePwrCtrl, hv, hfield, hcmd, if_true]

theorem tempIs_of_source {t : Int} (h : sourceTemp (dom s n) = some t) (q : Int → Bool) : tempIs s n q = q t := by
  rw [tempIs, h]
  rfl

theorem tempIs_none (h : (dom s n).source = .none) (q : Int → Bool) : tempIs s n q = false := by
  have hsource : sourceTemp (dom s n) = none := by rw [sourceTemp, h]
  rw [tempIs, hsource]
  rfl

theorem restorable_iff {t : Int} (hn : n < 28) (hd : (dom s n).down = true) (h : sourceTemp (dom s n) = some t) :
    restorable s n = decide (t < 80 * degree) := by
  rw [restorable, decide_eq_true hn, hd, tempIs_of_source h]
  rfl

theorem restorable_not (h : (dom s n).down = false ∨ (dom s n).source = .none ∨ 28 ≤ n) : restorable s n = false := by
  rcases h with hd | hs | hn
  · rw [restorable, hd, Bool.and_false, Bool.false_and]
  · rw [restorable, tempIs_none hs, Bool.and_false]
  · rw [restorable, decide_eq_false (Nat.not_lt.2 hn), Bool.false_and, Bool.false_and]

/-! ## The most restrictive state (R370) -/

/-- Whether a cause of FLOOR is there. -/
def floorCalled (d : Domain) : Bool := d.floorSensor || d.floorRate || d.floorNone || d.floorPackage

theorem stateOf_down {d : Domain} (h : d.down = true) : stateOf d = .shutdown := if_pos h

theorem stateOf_floor {d : Domain} (h : d.down = false) (hf : floorCalled d = true) : stateOf d = .floor :=
  (if_neg (ne_true_of_eq_false h)).trans (if_pos hf)

theorem stateOf_other {d : Domain} (h : d.down = false) (hf : floorCalled d = false) :
    stateOf d = if d.throttled then .throttle else .normal :=
  (if_neg (ne_true_of_eq_false h)).trans (if_neg (ne_true_of_eq_false hf))

theorem floorCalled_iff {d : Domain} : floorCalled d = true ↔
    d.floorSensor = true ∨ d.floorRate = true ∨ d.floorNone = true ∨ d.floorPackage = true := by
  simp only [floorCalled, Bool.or_eq_true, or_assoc]

theorem floorCalled_not {d : Domain} : floorCalled d = false ↔
    d.floorSensor = false ∧ d.floorRate = false ∧ d.floorNone = false ∧ d.floorPackage = false := by
  simp only [floorCalled, Bool.or_eq_false_iff, and_assoc]

theorem stateOf_eq_shutdown (d : Domain) : stateOf d = .shutdown ↔ d.down = true := by
  cases hd : d.down
  case true => simp [stateOf_down hd]
  case false =>
    cases hf : floorCalled d
    case true => simp [stateOf_floor hd hf]
    case false => cases ht : d.throttled <;> simp [stateOf_other hd hf, ht]

theorem stateOf_eq_floor (d : Domain) : stateOf d = .floor ↔ d.down = false ∧ floorCalled d = true := by
  cases hd : d.down
  case true => simp [stateOf_down hd]
  case false =>
    cases hf : floorCalled d
    case true => simp [stateOf_floor hd hf]
    case false => cases ht : d.throttled <;> simp [stateOf_other hd hf, ht]

theorem stateOf_eq_normal (d : Domain) : stateOf d = .normal ↔ d.down = false ∧ floorCalled d = false ∧ d.throttled = false := by
  cases hd : d.down
  case true => simp [stateOf_down hd]
  case false =>
    cases hf : floorCalled d
    case true => simp [stateOf_floor hd hf]
    case false => cases ht : d.throttled <;> simp [stateOf_other hd hf, ht]

end Sys2Proof.Laws

namespace Sys2Proof.Claims
open Sys2Proof Sys2Proof.Machine Sys2Proof.Laws

/-- Settles O53: a period of the model goes by the sample, RESTORE by the domain's state and source, and the state by its conditions. -/
theorem heatIsControlled : Obligations.HeatIsControlled := by
  refine ⟨⟨fun l s haux => exec_thermalModelUpdate haux l, fun l s n w hn hw hd => ?sampled, fun l s n hn hw hd => ?last,
    fun l s haux => exec_sensorRead haux l, fun n s hn hs hd ht => exec_noSourceTimeout_lost hn hs hd ht,
    fun n s hs ht => exec_noSourceTimeout_early ht, fun p n s t hm hn hd ht => ⟨fun hc => ?restored, fun hc => ?hot⟩,
    fun p n s hm hn h => ?refused⟩, fun d => ⟨stateOf_eq_shutdown d, ?floor, ?normal⟩⟩
  case sampled =>
    rw [dom_modelStep_sampled hw hd]
    exact ⟨rfl, rfl, rfl, rfl, rfl⟩
  case last =>
    have hown : [(n, (dom s n).powers.head?.getD 0)].find? (fun e => decide (e.1 = n)) = some (n, (dom s n).powers.head?.getD 0) := by
      simp
    rw [dom_modelStep_last hw hd, dom_modelStep_sampled hown hd]
    rfl
  case restored => rw [exec_restore hm (by omega), restorable_iff hn hd ht, decide_eq_true hc, if_pos rfl]
  case hot =>
    rw [exec_restore hm (by omega), restorable_iff hn hd ht, decide_eq_false (Int.not_lt.2 hc), if_neg Bool.false_ne_true]
  case refused => rw [exec_restore hm hn, restorable_not h, if_neg Bool.false_ne_true]
  case floor => rw [stateOf_eq_floor, floorCalled_iff]
  case normal => simp only [stateOf_eq_normal, floorCalled_not, and_assoc]

end Sys2Proof.Claims
end

section
/-! Power windows (R376 to R381): what a window counts and enters, the budget that it sets, the knobs of the cap, and shim load on one
die. -/

namespace Sys2Proof.Laws
open Sys2Proof Sys2Proof.Machine Sys2Proof.Claims

variable {s : State} {a w e m : Nat} {tight : Bool}

/-! ## What shim load changes (R379, R380) -/

/-- A state without what the control of shim load may change: the domains, the clusters' shim bits and the free values taken. -/
def shimSide (s : State) : State := { s with pwr := { s.pwr with domains := [] }, clusters := [], freeCtr := 0 }

/-- What each step of a fold leaves as it is, the fold does. -/
theorem foldl_keeps {α β : Type} {f : State → β} {g : State → α → State} (hf : ∀ u x, f (g u x) = f u) (l : List α)
    (s : State) : f (l.foldl g s) = f s := by
  induction l generalizing s with
  | nil => rfl
  | cons x xs ih => exact (ih (g s x)).trans (hf s x)

theorem shimSide_foldl {α : Type} {g : State → α → State} (hf : ∀ u x, shimSide (g u x) = shimSide u) (l : List α) (s : State) :
    shimSide (l.foldl g s) = shimSide s := foldl_keeps hf ..

@[simp] theorem shimSide_modDom (s : State) (n : Nat) (f : Domain → Domain) : shimSide (modDom s n f) = shimSide s := rfl

@[simp] theorem shimSide_modClu (s : State) (n : Nat) (f : Cluster → Cluster) : shimSide (modClu s n f) = shimSide s := rfl

@[simp] theorem shimSide_clearShim (s : State) (d : Nat) : shimSide (clearShim s d) = shimSide s := by
  unfold clearShim
  rw [shimSide_foldl (fun u n => shimSide_modClu u n _), shimSide_modDom]

theorem shimSide_scaleShim (old total : Nat) (s : State) (d : Nat) : shimSide (scaleShim old total s d) = shimSide s := by
  unfold scaleShim
  dsimp only
  split
  · exact shimSide_clearShim ..
  · exact shimSide_modDom ..

theorem shimSide_setShim (s : State) (ds : List Nat) (total : Nat) : shimSide (setShim s ds total) = shimSide s :=
  shimSide_foldl (fun _ _ => shimSide_scaleShim ..) ..

theorem shimSide_boundShim (s : State) (ds : List Nat) (shimW : Nat) : shimSide (boundShim s ds shimW) = shimSide s :=
  (shimSide_foldl (fun _ _ => shimSide_modDom ..) ..).trans (shimSide_setShim ..)

theorem shimSide_armShim (avg : Nat) (run : List Nat) (s : State) (d : Nat) : shimSide (armShim avg run s d) = shimSide s := by
  unfold armShim
  split <;> rfl

theorem shimSide_windowShim (s : State) (avg shimW : Nat) : shimSide (windowShim s avg shimW) = shimSide s := by
  unfold windowShim
  dsimp only
  split
  · exact shimSide_foldl (fun _ _ => shimSide_clearShim ..) ..
  · exact (shimSide_foldl (fun _ _ => shimSide_modDom ..) ..).trans ((shimSide_foldl (fun _ _ => shimSide_armShim ..) ..).trans
      ((shimSide_setShim ..).trans (shimSide_boundShim ..)))

/-! ## The window (R376 to R378) -/

/-- What the window's averages and energies enter. -/
def windowEntered (s : State) (a w e m : Nat) : State := { s with
  pwr := { s.pwr with
    powerW := BitVec.ofNat 16 a, shimW := BitVec.ofNat 16 w, shimActive := decide (0 < w), meanMw := averagedMw s,
    capApproach := s.pwr.capApproach && decide (s.pwr.capW.toNat < a),
    budgetW := BitVec.ofNat 16 (budgetFor { s.pwr with capApproach := s.pwr.capApproach && decide (s.pwr.capW.toNat < a) } a),
    energyMj := s.pwr.energyMj + BitVec.ofNat 64 e, shimMj := s.pwr.shimMj + BitVec.ofNat 64 m } }

/-- The window's end once its breaks are counted, by whether it calls for lower knobs. -/
def windowEnd (s : State) (tight : Bool) (a w e m : Nat) : State :=
  noteLimits (setKnobs (windowShim (windowEntered s a w e m) a w) tight) a

theorem exec_powerWindow (h : s.hub.auxOn = true) : exec (.powerWindow a w e m false) s =
    .next (windowEnd (countBreak s a false) (overBudget (countBreak s a false).pwr a) a w e m) := by
  simp only [exec, execPowerWindow, h, if_true]
  rfl

/-- What neither the shim, nor the knobs, nor the limits are, the window's end leaves as it was entered. -/
theorem windowEnd_field {α : Type} (f : Pwr → α) (hf : ∀ (p : Pwr) (ds : Tab Domain) (c d : Nat) (x y : Bool),
      f { p with domains := ds, capCeiling := c, capDuty := d, capLimited := x, upLimited := y } = f p) :
    f (windowEnd s tight a w e m).pwr = f (windowEntered s a w e m).pwr := by
  have hside : (shimSide (windowShim (windowEntered s a w e m) a w)).pwr = (shimSide (windowEntered s a w e m)).pwr :=
    congrArg State.pwr (shimSide_windowShim ..)
  have hdom (p : Pwr) : f { p with domains := [] } = f p := hf p [] p.capCeiling p.capDuty p.capLimited p.upLimited
  calc f (windowEnd s tight a w e m).pwr
    _ = f (windowShim (windowEntered s a w e m) a w).pwr :=
      hf (windowShim (windowEntered s a w e m) a w).pwr (windowShim (windowEntered s a w e m) a w).pwr.domains _ _ _ _
    _ = f (windowEntered s a w e m).pwr := by rw [← hdom, ← hdom (windowEntered s a w e m).pwr]; exact congrArg f hside

theorem eq_of_shimSide {s u : State} (h : shimSide u = shimSide s) :
    u = { s with pwr := u.pwr, clusters := u.clusters, freeCtr := u.freeCtr } :=
  calc u
    _ = { shimSide u with pwr := u.pwr, clusters := u.clusters, freeCtr := u.freeCtr } := rfl
    _ = { s with pwr := u.pwr, clusters := u.clusters, freeCtr := u.freeCtr } := by rw [h]; rfl

/-! ## Broken limits (R378, R381) -/

/-- A window that reports nothing moves the counters alone. -/
theorem countBreak_counts (s : State) (a : Nat) : ∃ since step, countBreak s a false = { s with
    pwr := { s.pwr with
      violUp := if (rampBreaks s.pwr a).1 then satInc s.pwr.violUp 1 else s.pwr.violUp,
      violDown := if (rampBreaks s.pwr a).2 then satInc s.pwr.violDown 1 else s.pwr.violDown,
      violSince := since, violStep := step } } := by
  cases hany : !(rampBreaks s.pwr a).1 && !(rampBreaks s.pwr a).2
  case true =>
    have hnone : countBreak s a false = s := if_pos hany
    obtain ⟨hup, hdown⟩ : (rampBreaks s.pwr a).1 = false ∧ (rampBreaks s.pwr a).2 = false := by simpa using hany
    rw [hnone, hup, hdown]
    exact ⟨s.pwr.violSince, s.pwr.violStep, rfl⟩
  case false => exact ⟨_, _, (if_neg (ne_true_of_eq_false hany)).trans (if_neg Bool.false_ne_true)⟩

theorem windowEnd_violUp : (windowEnd (countBreak s a false) tight a w e m).pwr.violUp =
    if (rampBreaks s.pwr a).1 then satInc s.pwr.violUp 1 else s.pwr.violUp := by
  obtain ⟨since, step, h⟩ := countBreak_counts s a
  rw [windowEnd_field Pwr.violUp fun _ _ _ _ _ _ => rfl, h]
  rfl

theorem windowEnd_violDown : (windowEnd (countBreak s a false) tight a w e m).pwr.violDown =
    if (rampBreaks s.pwr a).2 then satInc s.pwr.violDown 1 else s.pwr.violDown := by
  obtain ⟨since, step, h⟩ := countBreak_counts s a
  rw [windowEnd_field Pwr.violDown fun _ _ _ _ _ _ => rfl, h]
  rfl

theorem rampBreaks_off (h : s.pwr.rampEn = false) : rampBreaks s.pwr a = (false, false) := by simp [rampBreaks, h]

theorem rampBreaks_up (hr : s.pwr.rampEn = true) (h : s.pwr.powerW.toNat + s.pwr.upW.toNat < a) :
    rampBreaks s.pwr a = (true, false) := by
  have hdown : ¬ a + s.pwr.downW.toNat < s.pwr.powerW.toNat := by omega
  simp [rampBreaks, hr, h, hdown]

theorem rampBreaks_down (hr : s.pwr.rampEn = true) (h : a + s.pwr.downW.toNat < s.pwr.powerW.toNat) :
    rampBreaks s.pwr a = (false, true) := by
  have hup : ¬ s.pwr.powerW.toNat + s.pwr.upW.toNat < a := by omega
  simp [rampBreaks, hr, h, hup]

theorem rampBreaks_within (hu : a ≤ s.pwr.powerW.toNat + s.pwr.upW.toNat) (hd : s.pwr.powerW.toNat ≤ a + s.pwr.downW.toNat) :
    rampBreaks s.pwr a = (false, false) := by
  simp [rampBreaks, Nat.not_lt.2 hu, Nat.not_lt.2 hd]

/-! ## The next budget (R377, R378) -/

theorem windowEnd_budgetW : (windowEnd (countBreak s a false) tight a w e m).pwr.budgetW = BitVec.ofNat 16
    (budgetFor { s.pwr with capApproach := s.pwr.capApproach && decide (s.pwr.capW.toNat < a) } a) := by
  obtain ⟨since, step, h⟩ := countBreak_counts s a
  rw [windowEnd_field Pwr.budgetW fun _ _ _ _ _ _ => rfl, h]
  rfl

theorem budgetFor_off {p : Pwr} (h : p.rampEn = false) : budgetFor p a = p.capW.toNat := by
  simp [budgetFor, capPart, h]

/-- An approach that has arrived sets the cap, as one still under way would. -/
theorem budgetFor_ramp {p : Pwr} (h : p.rampEn = true) :
    budgetFor { p with capApproach := p.capApproach && decide (p.capW.toNat < a) } a =
      Nat.min (a + p.upW.toNat) (if p.capApproach then Nat.max p.capW.toNat (a - p.downW.toNat) else p.capW.toNat) := by
  simp only [budgetFor, capPart, upPart, h, if_true, Bool.true_and]
  cases hc : p.capApproach
  case false => simp
  case true =>
    by_cases ha : p.capW.toNat < a
    · simp [ha]
    · have hmax : Nat.max p.capW.toNat (a - p.downW.toNat) = p.capW.toNat := Nat.max_eq_left (by omega)
      simp [ha, hmax]

theorem budgetFor_le (p : Pwr) (a : Nat) :
    budgetFor p a ≤ Nat.max p.capW.toNat a ∨ p.rampEn = true ∧ budgetFor p a ≤ a + p.upW.toNat := by
  cases hr : p.rampEn
  case false => exact .inl (by rw [budgetFor_off hr]; exact Nat.le_max_left ..)
  case true => exact .inr ⟨rfl, by simp only [budgetFor, hr, if_true]; exact Nat.min_le_left ..⟩

/-! ## The knobs (R377, R378) -/

/-- The clock ceiling that a window sets: free within what the window leaves it. -/
def newCeiling (k : Nat) (tight : Bool) (c : Nat) : Nat := 600 + Config.freeNat k % (if tight then Nat.max 1 (c - 600) else 1501)

/-- The duty at the floor of the clocks: free within what the window leaves it. -/
def newDuty (k : Nat) (tight : Bool) (c d : Nat) : Nat :=
  Nat.max 1 (Config.freeNat k % (if tight && decide (c = 600) then Nat.max 1 (d - 1) else 8) + 1)

/-- The knobs as they stand when a window is judged are those of the window before. -/
theorem windowShim_field {α : Type} (f : Pwr → α) (hf : ∀ (p : Pwr) (ds : Tab Domain), f { p with domains := ds } = f p) (s : State)
    (a w : Nat) : f (windowShim s a w).pwr = f s.pwr := by
  have hside : (shimSide (windowShim s a w)).pwr = (shimSide s).pwr := congrArg State.pwr (shimSide_windowShim ..)
  rw [← hf _ [], ← hf s.pwr []]
  exact congrArg f hside

theorem setKnobs_capCeiling (s : State) (tight : Bool) : (setKnobs s tight).pwr.capCeiling = newCeiling s.freeCtr tight s.pwr.capCeiling :=
  rfl

theorem setKnobs_capDuty (s : State) (tight : Bool) : (setKnobs s tight).pwr.capDuty =
    if newCeiling s.freeCtr tight s.pwr.capCeiling = 600 then newDuty (s.freeCtr + 1) tight s.pwr.capCeiling s.pwr.capDuty else 8 := rfl

theorem windowEnd_knobs : ∃ k, (windowEnd (countBreak s a false) tight a w e m).pwr.capCeiling = newCeiling k tight s.pwr.capCeiling ∧
    (windowEnd (countBreak s a false) tight a w e m).pwr.capDuty =
      if newCeiling k tight s.pwr.capCeiling = 600 then newDuty (k + 1) tight s.pwr.capCeiling s.pwr.capDuty else 8 := by
  obtain ⟨since, step, h⟩ := countBreak_counts s a
  have hc : (windowShim (windowEntered (countBreak s a false) a w e m) a w).pwr.capCeiling = s.pwr.capCeiling := by
    rw [windowShim_field Pwr.capCeiling fun _ _ => rfl, h]
    rfl
  have hd : (windowShim (windowEntered (countBreak s a false) a w e m) a w).pwr.capDuty = s.pwr.capDuty := by
    rw [windowShim_field Pwr.capDuty fun _ _ => rfl, h]
    rfl
  exact ⟨_, (setKnobs_capCeiling ..).trans (by rw [hc]), (setKnobs_capDuty ..).trans (by rw [hc, hd])⟩

theorem newCeiling_ge (k : Nat) (tight : Bool) (c : Nat) : 600 ≤ newCeiling k tight c := Nat.le_add_right ..

theorem newCeiling_lt {k c : Nat} (h : 600 < c) : newCeiling k true c < c := by
  have hmod : Config.freeNat k % Nat.max 1 (c - 600) < Nat.max 1 (c - 600) := Nat.mod_lt _ (Nat.le_max_left ..)
  have hmax : Nat.max 1 (c - 600) = c - 600 := Nat.max_eq_right (by omega)
  simp only [newCeiling, if_true]
  omega

theorem newCeiling_floor (k : Nat) : newCeiling k true 600 = 600 := by
  simp [newCeiling, Nat.mod_one]

theorem newDuty_pos (k : Nat) (tight : Bool) (c d : Nat) : 1 ≤ newDuty k tight c d := Nat.le_max_left ..

theorem newDuty_le {k c d : Nat} (h : d ≤ 8) : newDuty k tight c d ≤ 8 := by
  have hbound : (if tight && decide (c = 600) then Nat.max 1 (d - 1) else 8) ≤ 8 := by
    split
    · exact Nat.max_le.2 ⟨by decide, by omega⟩
    · exact Nat.le_refl 8
  have hpos : 0 < if tight && decide (c = 600) then Nat.max 1 (d - 1) else 8 := by
    split
    · exact Nat.le_max_left ..
    · decide
  exact Nat.max_le.2 ⟨by decide, (Nat.mod_lt _ hpos).trans_le hbound⟩

theorem newDuty_lt {k d : Nat} (h : 1 < d) : newDuty k true 600 d < d := by
  have hmod : Config.freeNat k % Nat.max 1 (d - 1) < Nat.max 1 (d - 1) := Nat.mod_lt _ (Nat.le_max_left ..)
  have hmax : Nat.max 1 (d - 1) = d - 1 := Nat.max_eq_right (by omega)
  have hnew : newDuty k true 600 d = Nat.max 1 (Config.freeNat k % Nat.max 1 (d - 1) + 1) := rfl
  rw [hnew]
  exact Nat.max_lt.2 ⟨h, by omega⟩

theorem overBudget_iff {p : Pwr} : overBudget p a = true ↔ p.capW.toNat < a ∨ p.budgetW.toNat < a ∧ 0 < p.budgetW.toNat := by
  simp only [overBudget, Bool.or_eq_true, Bool.and_eq_true, decide_eq_true_eq, and_comm]

/-! ## A window without the ramp -/

theorem freeCtr_clearShim (s : State) (d : Nat) : (clearShim s d).freeCtr = s.freeCtr := by
  unfold clearShim
  rw [foldl_keeps (f := State.freeCtr) (fun _ _ => modClu_freeCtr ..), modDom_freeCtr]

/-- Without the ramp all shim load ends, and no free value is taken for it. -/
theorem freeCtr_windowShim (h : s.pwr.rampEn = false) (a w : Nat) : (windowShim s a w).freeCtr = s.freeCtr := by
  have hends : windowShim s a w = (List.range 4).foldl clearShim s := if_pos (by rw [h]; rfl)
  rw [hends]
  exact foldl_keeps (f := State.freeCtr) freeCtr_clearShim ..

theorem windowEnd_only (h : s.pwr.rampEn = false) : windowEnd s tight a w e m = { s with
    pwr := (windowEnd s tight a w e m).pwr, clusters := (windowEnd s tight a w e m).clusters, freeCtr := s.freeCtr + 2 } := by
  have hshim := eq_of_shimSide (shimSide_windowShim (windowEntered s a w e m) a w)
  rw [freeCtr_windowShim (s := windowEntered s a w e m) h] at hshim
  unfold windowEnd
  generalize windowShim (windowEntered s a w e m) a w = u at hshim
  rw [hshim]
  rfl

theorem noteLimits_off (h : s.pwr.rampEn = false) (a : Nat) : (noteLimits s a).pwr.upLimited = false ∧
    ((noteLimits s a).pwr.capLimited = true ↔ s.pwr.capCeiling < 2100 ∨ s.pwr.capDuty < 8) := by
  simp [noteLimits, h]

theorem windowEnd_limits (h : s.pwr.rampEn = false) : (windowEnd s tight a w e m).pwr.upLimited = false ∧
    ((windowEnd s tight a w e m).pwr.capLimited = true ↔
      (windowEnd s tight a w e m).pwr.capCeiling < 2100 ∨ (windowEnd s tight a w e m).pwr.capDuty < 8) := by
  refine noteLimits_off ?_ a
  exact (windowShim_field Pwr.rampEn (fun _ _ => rfl) (windowEntered s a w e m) a w).trans h

/-! ## Shim load on one die (R379) -/

theorem steerShim_alone {d : Nat} (h : shimDies s = [d]) : steerShim s =
    if Nat.min (dom s d).shimTopW ((dom s d).shimBudgetW + shimFloor s.pwr - moduleNow s) = 0 then clearShim s d
    else modDom s d (fun x => { x with
      shimBudgetW := Nat.min (dom s d).shimTopW ((dom s d).shimBudgetW + shimFloor s.pwr - moduleNow s) }) := by
  have htotal : shimTotal s [d] = (dom s d).shimBudgetW := Nat.zero_add _
  have htop : topTotal s [d] = (dom s d).shimTopW := Nat.zero_add _
  rw [← scaleShim_alone (Nat.min_le_left ..)]
  rw [steerShim, h, setShim, htop, htotal]
  rfl

end Sys2Proof.Laws

namespace Sys2Proof.Claims
open Sys2Proof Sys2Proof.Machine Sys2Proof.Laws

/-- Settles O52: a window counts what breaks the ramp, sets its budget by the cap and the ramp, and its knobs by whether it was too high. -/
theorem powerWindows : Obligations.PowerWindows := by
  intro a w e m s haux
  refine ⟨fun hr => ⟨_, exec_powerWindow haux, ?noRamp⟩, ⟨_, exec_powerWindow haux, ?knobs⟩,
    fun hr h => ⟨_, exec_powerWindow haux, ?up⟩, fun hr h => ⟨_, exec_powerWindow haux, ?down⟩,
    fun hr hu hd => ⟨_, exec_powerWindow haux, ?within⟩, fun v c hc hne => ?cap,
    fun d w hd _ hw => ⟨fun h => ?steered, fun h => ?cleared⟩, budgetFor_le⟩
  case noRamp =>
    have hnone : countBreak s a false = s := if_pos (by rw [rampBreaks_off hr]; rfl)
    obtain ⟨hup, hcap⟩ := windowEnd_limits (tight := overBudget s.pwr a) (a := a) (w := w) (e := e) (m := m) hr
    rw [hnone]
    refine ⟨windowEnd_field Pwr.powerW fun _ _ _ _ _ _ => rfl, windowEnd_field Pwr.shimW fun _ _ _ _ _ _ => rfl,
      windowEnd_field Pwr.energyMj fun _ _ _ _ _ _ => rfl, windowEnd_field Pwr.shimMj fun _ _ _ _ _ _ => rfl,
      (windowEnd_field Pwr.budgetW fun _ _ _ _ _ _ => rfl).trans (congrArg (BitVec.ofNat 16) (budgetFor_off hr)),
      windowEnd_field Pwr.violUp fun _ _ _ _ _ _ => rfl, windowEnd_field Pwr.violDown fun _ _ _ _ _ _ => rfl, hup, hcap,
      windowEnd_only hr⟩
  case knobs =>
    obtain ⟨k, hceiling, hduty⟩ :=
      windowEnd_knobs (s := s) (tight := overBudget (countBreak s a false).pwr a) (a := a) (w := w) (e := e) (m := m)
    have hover : overBudget (countBreak s a false).pwr a = overBudget s.pwr a := by
      obtain ⟨since, step, h⟩ := countBreak_counts s a
      rw [h]
      rfl
    rw [hceiling, hduty, hover]
    refine ⟨newCeiling_ge .., ?_, fun h8 => ?_, fun hne => if_neg hne, fun ho hc => ?_, fun ho hc => ?_⟩
    · split
      · exact newDuty_pos ..
      · decide
    · split
      · exact newDuty_le h8
      · decide
    · rw [overBudget_iff.2 ho]
      exact newCeiling_lt hc
    · rw [overBudget_iff.2 ho, hc, newCeiling_floor, if_pos rfl]
      exact ⟨rfl, newDuty_lt⟩
  case up =>
    rw [windowEnd_violUp, windowEnd_violDown, windowEnd_budgetW, rampBreaks_up hr h, budgetFor_ramp hr]
    exact ⟨rfl, rfl, rfl⟩
  case down =>
    rw [windowEnd_violUp, windowEnd_violDown, windowEnd_budgetW, rampBreaks_down hr h, budgetFor_ramp hr]
    exact ⟨rfl, rfl, rfl⟩
  case within =>
    rw [windowEnd_violUp, windowEnd_violDown, rampBreaks_within hu hd]
    exact ⟨rfl, rfl⟩
  case cap => simp only [putCap, hc, Option.map_some, if_neg hne]
  case steered => rw [steerShim_alone hd, ← hw, if_neg (Nat.pos_iff_ne_zero.1 h)]
  case cleared => rw [steerShim_alone hd, ← hw, if_pos h]

end Sys2Proof.Claims
end

section
/-! The always-on part of the state: what writes to homes, and with them the loss of a host port, cannot reach (R428). -/

namespace Sys2Proof.Laws
open Sys2Proof Sys2Proof.Machine

variable {s u : State}

/-- The state without what a write to a home, a record or a lost port may change: the homes and their errors, the ports, the rings, the
partitions, the tasks, the log, and the vise. -/
def hubSide (s : State) : State := { s with
  hub := { s.hub with vise := 0 }, portA := {}, portB := {}, evt := {}, rings := [], parts := [], clusters := [], stackTab := [],
  tasks := [], dram := [], spad := [], out := [], freeCtr := 0 }

/-! ## Updates and records -/

@[simp] theorem hubSide_modStk (s : State) (i : Nat) (f : Stack → Stack) : hubSide (modStk s i f) = hubSide s := rfl
@[simp] theorem hubSide_modClu (s : State) (i : Nat) (f : Cluster → Cluster) : hubSide (modClu s i f) = hubSide s := rfl
@[simp] theorem hubSide_modRing (s : State) (i : Nat) (f : Ring → Ring) : hubSide (modRing s i f) = hubSide s := rfl
@[simp] theorem hubSide_modGran (s : State) (i g : Nat) (f : Gran → Gran) : hubSide (modGran s i g f) = hubSide s := rfl
@[simp] theorem hubSide_emit (s : State) (o : Output) : hubSide (emit s o) = hubSide s := rfl
@[simp] theorem hubSide_modPort (s : State) (p : PortId) (f : Port → Port) : hubSide (modPort s p f) = hubSide s := by cases p <;> rfl
@[simp] theorem hubSide_modTask (s : State) (t : Nat) (f : Task → Task) : hubSide (modTask s t f) = hubSide s := by
  unfold modTask; split <;> rfl
@[simp] theorem hubSide_pokeDram (s : State) (a : Nat) (bs : List Byte) : hubSide (pokeDram s a bs) = hubSide s := rfl
@[simp] theorem hubSide_pokeSpad (s : State) (a : Nat) (bs : List Byte) : hubSide (pokeSpad s a bs) = hubSide s := rfl

@[simp] theorem hubSide_raiseMsix (s : State) (p : PortId) (v : Nat) : hubSide (raiseMsix s p v) = hubSide s :=
  raiseMsix_keeps hubSide_modPort hubSide_emit s p v

@[simp] theorem hubSide_logEvent (s : State) (cls : BitVec 8) (sev : BitVec 2) (st : Status) (kind index d0 d1 : Nat) :
    hubSide (logEvent s cls sev st kind index d0 d1) = hubSide s :=
  logEvent_keeps hubSide_modPort hubSide_emit (fun _ _ => rfl) s cls sev st kind index d0 d1

theorem hubSide_foldl {α : Type} {f : State → α → State} (hf : ∀ u a, hubSide (f u a) = hubSide u) (l : List α) (s : State) :
    hubSide (l.foldl f s) = hubSide s :=
  List.foldlRecOn (motive := fun u => hubSide u = hubSide s) l f rfl fun u hu a _ => (hf u a).trans hu

theorem hubSide_ite (c : Prop) [Decidable c] (s u : State) : hubSide (if c then s else u) = if c then hubSide s else hubSide u :=
  apply_ite ..

/-! ## Errors of sectors (R65 to R82) -/

theorem hubSide_of_differsInMarks (h : DiffersInMarks s u) : hubSide u = hubSide s := by
  obtain ⟨_, _, _, _, _, rfl⟩ := h
  rfl

@[simp] theorem hubSide_poisonGranule (s : State) (i g : Nat) : hubSide (poisonGranule s i g) = hubSide s := by
  simp only [poisonGranule, hubSide_logEvent, hubSide_modGran, hubSide_of_differsInMarks (markSeqs_differs ..)]

@[simp] theorem hubSide_poisonSector (s : State) (i sec : Nat) (worked : Bool) : hubSide (poisonSector s i sec worked) = hubSide s := by
  by_cases hp : isPoisoned s i sec = true
  · rw [poisonSector_poisoned hp]
  · simp only [poisonSector, hp, if_false, Bool.false_eq_true, hubSide_ite, hubSide_logEvent, hubSide_modStk,
      hubSide_of_differsInMarks (markSeqs_differs ..), hubSide_poisonGranule, ite_self]

@[simp] theorem hubSide_spareServe (s : State) (i : Nat) : hubSide (spareServe s i) = hubSide s := by
  unfold spareServe
  dsimp only
  repeat' split
  all_goals simp

@[simp] theorem hubSide_spareAsk (s : State) (i h : Nat) (above : Bool) : hubSide (spareAsk s i h above) = hubSide s := by
  simp [spareAsk, hubSide_ite]

@[simp] theorem hubSide_thresholdAsk (s : State) (i h : Nat) : hubSide (thresholdAsk s i h) = hubSide s := by
  simp [thresholdAsk, hubSide_ite]

@[simp] theorem hubSide_noteCorrected (s : State) (i h : Nat) : hubSide (noteCorrected s i h) = hubSide s := by
  simp [noteCorrected, hubSide_ite]

@[simp] theorem hubSide_noteUncorrectable (s : State) (i h : Nat) : hubSide (noteUncorrectable s i h) = hubSide s := by
  simp [noteUncorrectable]

@[simp] theorem hubSide_clearBad (s : State) (i sec : Nat) : hubSide (clearBad s i sec) = hubSide s := rfl
@[simp] theorem hubSide_keepOthers (s : State) (i sec lo n : Nat) : hubSide (keepOthers s i sec lo n) = hubSide s := rfl
@[simp] theorem hubSide_missData (s : State) (i sec left : Nat) : hubSide (missData s i sec left) = hubSide s := by
  simp only [missData, hubSide_modStk, hubSide_pokeDram]
  rfl

@[simp] theorem hubSide_clearPoisonEntry (s : State) (i sec : Nat) : hubSide (clearPoisonEntry s i sec) = hubSide s := by
  unfold clearPoisonEntry; split <;> rfl

@[simp] theorem hubSide_writeWhole (s : State) (i sec : Nat) (bs : List Byte) : hubSide (writeWhole s i sec bs) = hubSide s := by
  simp [writeWhole]

@[simp] theorem hubSide_noteRepair (s : State) (i sec : Nat) : hubSide (noteRepair s i sec) = hubSide s := by
  simp [noteRepair]

@[simp] theorem hubSide_decodeSealed (s : State) (i sec : Nat) : hubSide (decodeSealed s i sec).2 = hubSide s := by
  obtain ⟨c, hc⟩ := decodeSealed_frame (d := (decodeSealed s i sec).1) (u := (decodeSealed s i sec).2) rfl
  rw [hc]; rfl

@[simp] theorem hubSide_readSealed (s : State) (i sec : Nat) : hubSide (readSealed s i sec).2 = hubSide s := by
  have h := hubSide_decodeSealed s i sec
  unfold readSealed
  split <;> simp_all

@[simp] theorem hubSide_readAlone (s : State) (i sec : Nat) : hubSide (readAlone s i sec).2 = hubSide s := by
  unfold readAlone
  dsimp only
  repeat' split
  all_goals simp

@[simp] theorem hubSide_readSector (s : State) (i sec : Nat) : hubSide (readSector s i sec).2 = hubSide s := by
  unfold readSector
  dsimp only
  repeat' split
  all_goals simp

/-! ## Writes of homes (R248) -/

/-- An action that leaves the always-on part alone. -/
def Aside {α : Type} (a : Act α) : Prop := ∀ s, hubSide (runAct a s).2 = hubSide s

section
variable {α β : Type} {m : Act α} {f : α → Act β}

theorem Aside.bind (hm : Aside m) (hf : ∀ x, Aside (f x)) : Aside (m >>= f) := by
  intro s
  have h := hm s
  rw [runAct_bind]
  split
  · next x u he => rw [he] at h; exact (hf x u).trans h
  · next e u he => rw [he] at h; exact h

theorem Aside.pure (x : α) : Aside (pure x : Act α) := fun _ => rfl
theorem Aside.throw (e : Stop) : Aside (throw e : Act α) := fun _ => rfl
theorem Aside.get : Aside (get : Act State) := fun _ => rfl
theorem Aside.edit {g : State → State} (h : ∀ s, hubSide (g s) = hubSide s) : Aside (edit g) := h

theorem Aside.need (b : Bool) (st : Status) : Aside (need b st) := fun s => by rw [runAct_need]; split <;> rfl
theorem Aside.needReady (b : Bool) : Aside (needReady b) := fun s => by rw [runAct_needReady]; split <;> rfl

theorem Aside.ite {c : Prop} [Decidable c] {a b : Act α} (ha : Aside a) (hb : Aside b) : Aside (if c then a else b) := by
  split <;> assumption

theorem Aside.eachAct {g : α → Act Unit} (h : ∀ x, Aside (g x)) (l : List α) : Aside (eachAct g l) := by
  induction l with
  | nil => exact .pure ()
  | cons x l ih => exact .bind (h x) fun _ => ih

theorem settle_aside {m : Act α} {k : Except Status α → State → State} (hm : Aside m)
    (hk : ∀ r u, hubSide (k r u) = hubSide u) (s : State) : hubSide (settle m s k) = hubSide s := by
  have h := hm s
  unfold settle
  split
  · next he => rw [he] at h; exact (hk ..).trans h
  · next he => rw [he] at h; exact (hk ..).trans h
  · rfl

end

theorem loadSector_aside (i sec : Nat) : Aside (loadSector i sec) := by
  intro s
  have hread := hubSide_readSector s i sec
  unfold loadSector
  rw [runAct_bind_ok runAct_get, runAct_bind, runAct_needReady]
  cases copyHeld s i sec
  · generalize readSector s i sec = r at hread
    obtain ⟨v, t⟩ := r
    cases v <;> exact hread
  · rfl

theorem storeSector_aside (i o : Nat) (bs : List Byte) : Aside (storeSector i o bs) :=
  .bind .get fun s => .ite
    (.bind (.edit fun _ => by simp) fun _ => .ite (.edit fun _ => by simp) (.pure _))
    (.ite (.edit fun _ => by simp)
      (.bind (loadSector_aside _ _) fun _ => .bind (.edit fun _ => by simp) fun _ => .ite (.edit fun _ => by simp) (.pure _)))

@[simp] theorem hubSide_correctSpad (s : State) (cl off n : Nat) : hubSide (correctSpad s cl off n) = hubSide s := by
  rw [correctSpad, hubSide_foldl fun u w => hubSide_modClu u cl _]

@[simp] theorem hubSide_noteSpadBad (s : State) (cl off n : Nat) : hubSide (noteSpadBad s cl off n) = hubSide s := by
  rw [noteSpadBad, hubSide_foldl fun u w => hubSide_modClu u cl _]

theorem storeSpadWord_aside (cl off : Nat) (bs : List Byte) : Aside (storeSpadWord cl off bs) :=
  .ite (.edit fun _ => rfl) (.bind (.edit fun _ => hubSide_correctSpad ..) fun _ => .bind .get fun _ =>
    .ite (.bind (.edit fun _ => hubSide_noteSpadBad ..) fun _ => .throw _) (.edit fun _ => rfl))

theorem storeHost_aside (q : PortId) (off : Nat) (bs : List Byte) : Aside (storeHost none q off bs) :=
  .bind .get fun s => by
    split
    · exact .throw _
    · exact .edit fun _ => hubSide_modPort ..

theorem storePiece_aside (a : Nat) (bs : List Byte) : Aside (storePiece none a bs) := by
  unfold storePiece
  split
  · exact storeSector_aside _ _ _
  · exact .eachAct (fun _ => storeSpadWord_aside _ _ _) _
  · exact storeHost_aside _ _ _
  · exact .throw _

theorem stackReady_aside (s : State) (i o : Nat) (write : Bool) : Aside (stackReady s i o write) := by
  have hserves : Aside (stackServes s i o) :=
    .bind (.need _ _) fun _ => .bind (.need _ _) fun _ => .bind (.needReady _) fun _ => .needReady _
  exact .bind hserves fun _ => .ite
    (.bind (.need _ _) fun _ => .bind (.needReady _) fun _ => .ite (.needReady _) (.pure _)) (.pure _)

/-- The checks before a write only look. -/
theorem checkStore_aside (p : Nat × Nat) : Aside (checkStore p) := by
  refine .bind .get fun s => ?_
  split
  · exact stackReady_aside _ _ _ _
  · exact .bind (.need _ _) fun _ => .need _ _
  · split
    · exact .throw _
    · exact .pure _
  · exact .throw _

theorem storeAll_aside (a : Nat) (bs : List Byte) : ∀ (ps : List (Nat × Nat)) (st : Status), Aside (storeAll none a bs ps st)
  | [], _ => .pure _
  | p :: ps, st => fun s => by
    have h := storePiece_aside p.1 ((bs.drop (p.1 - a)).take p.2) s
    unfold storeAll
    rw [runAct_bind_ok runAct_get]
    split
    · next he => rw [he] at h; exact (storeAll_aside a bs ps _ _).trans h
    · next he => rw [he] at h; exact (storeAll_aside a bs ps _ _).trans h
    · rfl

theorem storeHome_aside (a : Nat) (bs : List Byte) : Aside (storeHome none a bs) :=
  .bind (.eachAct checkStore_aside _) fun _ => .bind (storeAll_aside _ _ _ _) fun _ => .need _ _

/-! ## A lost port (R355) -/

@[simp] theorem hubSide_logDropped (s : State) (i a : Nat) : hubSide (logDropped s i a) = hubSide s := hubSide_logEvent ..

@[simp] theorem hubSide_writeCompletion (s : State) (i : Nat) (c : Completion) : hubSide (writeCompletion s i c) = hubSide s := by
  refine settle_aside (.bind (storeHome_aside _ _) fun _ => storeHome_aside _ _) (fun r u => ?_) s
  split
  · cases c.dropped <;> simp [hubSide_ite]
  · simp

@[simp] theorem hubSide_restRing (s : State) (r : Nat) : hubSide (restRing s r) = hubSide s := rfl

theorem hubSide_flushHeld (r : Nat) : ∀ (n : Nat) (s : State), hubSide (flushHeld n s r) = hubSide s
  | 0, _ => rfl
  | n + 1, s => by
    unfold flushHeld
    split
    · rw [hubSide_ite, hubSide_flushHeld r n, hubSide_writeCompletion, hubSide_modRing, ite_self]
    · rfl

@[simp] theorem hubSide_loseRing (p : PortId) (s : State) (r : Nat) : hubSide (loseRing p s r) = hubSide s := by
  simp [loseRing, drainRing, stopRing, hubSide_ite, hubSide_flushHeld]

@[simp] theorem hubSide_losePort (s : State) (p : PortId) (cls : BitVec 8) (d0 : Nat) : hubSide (losePort s p cls d0) = hubSide s := by
  have hswaps (u : State) : hubSide (loseSwaps u p) = hubSide u := rfl
  have hflush (u : State) (n : Nat) (ok : Bool) : hubSide (endFlush u p n ok) = hubSide u := hubSide_modPort ..
  have hvise (u : State) : hubSide { u with hub := { u.hub with vise := 0 } } = hubSide u := rfl
  simp only [losePort, hswaps, hflush, hubSide_foldl (hubSide_loseRing p), hubSide_logEvent, hubSide_ite, hvise, ite_self]

@[simp] theorem hubSide_dropLink (s : State) (p : PortId) : hubSide (dropLink s p) = hubSide s := by
  simp [dropLink, hubSide_ite]

end Sys2Proof.Laws
end

section
/-! The epochs that a reset advances (R351, R356), and tables whose every entry changes. -/

namespace Sys2Proof.Laws
open Sys2Proof Sys2Proof.Machine

variable {s : State}

/-! ## Tables -/

/-- Where every entry changes and the default stays, what an index reads changes likewise. -/
theorem tget_tmapAll_from {α : Type} [DecidableEq α] {d : α} {f : α → α} (hd : f d = d) (i : Nat) :
    ∀ (lo : Nat) (t : Tab α), twfFrom d lo t = true → tget d (tmapAll d f t) i = f (tget d t i)
  | _, [], _ => hd.symm
  | lo, (k, v) :: t, h => by
    simp only [twfFrom, Bool.and_eq_true, decide_eq_true_eq] at h
    obtain ⟨-, ht⟩ := h
    have ih := tget_tmapAll_from hd i (k + 1) t ht
    have hbelow (hi : i ≤ k) : tget d t i = d := tget_below ht (by omega)
    simp only [tmapAll, List.map_cons, List.filter_cons] at ih ⊢
    split
    · simp only [tget]
      split
      · rfl
      · split
        · exact hd.symm
        · exact ih
    · next hf =>
      have hf : f v = d := by simpa using hf
      rw [ih]
      simp only [tget]
      split
      · next hk => rw [hbelow (by omega), hd, hf]
      · split
        · rw [hbelow (by omega)]
        · rfl

theorem tget_tmapAll {α : Type} [DecidableEq α] {d : α} {f : α → α} (hd : f d = d) {t : Tab α} (h : twf d t = true) (i : Nat) :
    tget d (tmapAll d f t) i = f (tget d t i) := tget_tmapAll_from hd i 0 t h

/-! ## One epoch -/

/-- The tables of the links and of the other epochs have their canonical form. -/
def EpochTables (s : State) : Prop := twf {} s.links = true ∧ twf 0 s.rst.epochs = true

theorem EpochTables.advanceEpoch (h : EpochTables s) (d i : Nat) : EpochTables (advanceEpoch s d i) := by
  obtain ⟨hl, he⟩ := h
  unfold Machine.advanceEpoch
  split
  · exact ⟨twf_tset hl _ _, he⟩
  · exact ⟨hl, twf_tset he _ _⟩

theorem epochOf_advanceEpoch_same (h : EpochTables s) (d i : Nat) : epochOf (advanceEpoch s d i) d i = epochOf s d i + 1 := by
  obtain ⟨hl, he⟩ := h
  by_cases hd : d = 5
  · simp only [advanceEpoch, epochOf, hd, if_true]
    exact congrArg Link.epoch (tget_tset_same hl i _)
  · simp only [advanceEpoch, epochOf, hd, if_false]
    exact tget_tset_same he _ _

theorem epochOf_advanceEpoch_other (h : EpochTables s) {d i e j : Nat} (hi : i < 4096) (hj : j < 4096) (hne : (e, j) ≠ (d, i)) :
    epochOf (advanceEpoch s d i) e j = epochOf s e j := by
  obtain ⟨hl, he⟩ := h
  by_cases hd : d = 5
  · by_cases hed : e = 5
    · have hji : j ≠ i := fun hji => hne (by rw [hd, hed, hji])
      simp only [advanceEpoch, epochOf, hd, hed, if_true]
      exact congrArg Link.epoch (tget_tset_other hl hji _)
    · simp only [advanceEpoch, epochOf, hd, hed, if_true, if_false]
      rfl
  · by_cases hed : e = 5
    · simp only [advanceEpoch, epochOf, hd, hed, if_true, if_false]
      rfl
    · have hkey : epochKey e j ≠ epochKey d i := by
        unfold epochKey
        intro hk
        have hde : e = d := by omega
        exact hne (by rw [hde, show j = i by omega])
      simp only [advanceEpoch, epochOf, hd, hed, if_false]
      exact tget_tset_other he hkey _

/-! ## All epochs of a reset -/

theorem EpochTables.foldl (h : EpochTables s) (l : List (Nat × Nat)) :
    EpochTables (l.foldl (fun s e => Machine.advanceEpoch s e.1 e.2) s) :=
  List.foldlRecOn (motive := EpochTables) l _ h fun _ hu e _ => hu.advanceEpoch e.1 e.2

theorem EpochTables.advanceAll (h : EpochTables s) (d i : Nat) : EpochTables (advanceAll s d i) := h.foldl _

theorem epochOf_foldl_other {e j : Nat} (hj : j < 4096) (l : List (Nat × Nat)) (h : EpochTables s) (hl : ∀ x ∈ l, x.2 < 4096)
    (hn : (e, j) ∉ l) : epochOf (l.foldl (fun s e => advanceEpoch s e.1 e.2) s) e j = epochOf s e j := by
  induction l generalizing s with
  | nil => rfl
  | cons x l ih =>
    obtain ⟨hne, hnl⟩ := not_or.1 (mt List.mem_cons.2 hn)
    rw [List.foldl_cons, ih (h.advanceEpoch x.1 x.2) (fun y hy => hl y (.tail _ hy)) hnl,
      epochOf_advanceEpoch_other h (hl x (.head l)) hj hne]

/-- A list without repetition advances each of its epochs once. -/
theorem epochOf_foldl_mem {e j : Nat} (l : List (Nat × Nat)) (h : EpochTables s) (hl : ∀ x ∈ l, x.2 < 4096) (hn : l.Nodup)
    (hm : (e, j) ∈ l) : epochOf (l.foldl (fun s e => advanceEpoch s e.1 e.2) s) e j = epochOf s e j + 1 := by
  induction l generalizing s with
  | nil => cases hm
  | cons x l ih =>
    obtain ⟨hx, hn⟩ := List.nodup_cons.1 hn
    have hl' : ∀ y ∈ l, y.2 < 4096 := fun y hy => hl y (.tail _ hy)
    rw [List.foldl_cons]
    by_cases he : (e, j) = x
    · subst he
      rw [epochOf_foldl_other (hl _ (.head l)) l (h.advanceEpoch e j) hl' hx, epochOf_advanceEpoch_same h]
    · have hml : (e, j) ∈ l := (List.mem_cons.1 hm).resolve_left he
      rw [ih (h.advanceEpoch x.1 x.2) hl' hn hml, epochOf_advanceEpoch_other h (hl x (.head l)) (hl' _ hml) he]

/-- The units of one kind, as `innerDomains` lists them. -/
theorem mem_row {d e i n : Nat} : (e, i) ∈ (upFrom 0 n).map (fun k => (d, k)) ↔ e = d ∧ i < n := by
  simp only [upFrom, List.mem_map, List.mem_range, Prod.mk.injEq, Nat.zero_add]
  exact ⟨fun ⟨k, ⟨m, hm, hmk⟩, hd, hk⟩ => ⟨hd.symm, by omega⟩, fun ⟨hd, hi⟩ => ⟨i, ⟨i, hi, rfl⟩, hd.symm, rfl⟩⟩

theorem mem_innerDomains_warm {d i : Nat} : (d, i) ∈ innerDomains Dom.warm 0 ↔
    (d = 1 ∧ i < 256) ∨ (d = 2 ∧ i < 32) ∨ (d = 3 ∧ i < 4) ∨ (d = 4 ∧ i < 24) ∨ (d = 5 ∧ i < 24) ∨ (d = 8 ∧ i = 0) := by
  simp only [innerDomains, Dom.warm, List.mem_append, List.mem_cons, mem_row, Prod.mk.injEq]
  tauto

theorem nodup_innerDomains_warm : (innerDomains Dom.warm 0).Nodup := by
  have hrow (d n : Nat) : ((upFrom 0 n).map (fun i => (d, i))).Nodup :=
    (List.nodup_range.map fun i j (h : 0 + i = 0 + j) => by omega).map (Prod.mk_right_injective d)
  have happend {l : List (Nat × Nat)} {d n : Nat} (hl : l.Nodup) (hd : ∀ x ∈ l, x.1 ≠ d) :
      (l ++ (upFrom 0 n).map (fun i => (d, i))).Nodup :=
    List.nodup_append'.2 ⟨hl, hrow d n, fun x hx hr => hd x hx (mem_row.1 hr).1⟩
  have hsix : innerDomains Dom.warm 0 = [(8, 0)] ++ (upFrom 0 256).map (fun n => (1, n)) ++ (upFrom 0 32).map (fun n => (2, n)) ++
    (upFrom 0 4).map (fun n => (3, n)) ++ (upFrom 0 24).map (fun n => (4, n)) ++ (upFrom 0 24).map (fun n => (5, n)) := rfl
  rw [hsix]
  refine happend (happend (happend (happend (happend (List.nodup_singleton _) ?_) ?_) ?_) ?_) ?_
  all_goals
    rintro ⟨e, i⟩ hx
    simp only [List.mem_append, List.mem_singleton, mem_row, Prod.mk.injEq] at hx
    dsimp only
    omega

theorem epochOf_advanceAll_warm (h : EpochTables s) {d i : Nat} (hm : (d, i) ∈ innerDomains Dom.warm 0) :
    epochOf (advanceAll s Dom.warm 0) d i = epochOf s d i + 1 :=
  epochOf_foldl_mem _ h (fun ⟨_, _⟩ hx => by have := mem_innerDomains_warm.1 hx; dsimp only; omega) nodup_innerDomains_warm hm

theorem advanceEpoch_only (s : State) (d i : Nat) :
    ∃ l e, advanceEpoch s d i = { s with links := l, rst := { s.rst with epochs := e } } := by
  unfold advanceEpoch
  split
  · exact ⟨_, _, rfl⟩
  · exact ⟨_, _, rfl⟩

theorem advanceAll_only (s : State) (d i : Nat) :
    ∃ l e, advanceAll s d i = { s with links := l, rst := { s.rst with epochs := e } } :=
  List.foldlRecOn (motive := fun u => ∃ l e, u = { s with links := l, rst := { s.rst with epochs := e } }) _ _ ⟨_, _, rfl⟩
    fun u ⟨l, e, hu⟩ x _ => by
      obtain ⟨l', e', hx⟩ := advanceEpoch_only u x.1 x.2
      exact ⟨l', e', by rw [hx, hu]⟩

end Sys2Proof.Laws
end

section
/-! The loss of the rails (R428, R429): what the main-power loss keeps, and package cold. -/

namespace Sys2Proof.Laws
open Sys2Proof Sys2Proof.Machine Sys2Proof.Claims

variable {s : State}

/-! ## A main-power loss (R428) -/

/-- Both ports have gone down. -/
def portsDropped (s : State) : State := dropLink (dropLink s .a) .b

theorem hubSide_portsDropped (s : State) : hubSide (portsDropped s) = hubSide s := by simp [portsDropped]

theorem portsDropped_down (ha : s.portA.linkUp = false) (hb : s.portB.linkUp = false) : portsDropped s = s := by
  have hdrop {p : PortId} (h : (port s p).linkUp = false) : dropLink s p = s := by simp [dropLink, h]
  rw [portsDropped, hdrop (p := .a) ha, hdrop (p := .b) hb]

/-- A link after the loss: cold, but for its cable and its epoch. -/
def coldEpochLink (l : Link) : Link := { coldLink l with epoch := l.epoch }

/-- The state in which the ports have gone down and the epochs have advanced. -/
def epochsAdvanced (s : State) : State := advanceAll (portsDropped s) Dom.warm 0

/-- What is left of the hub, by whether its domain is down. -/
def lostHub (h : Hub) (down : Bool) : Hub := { h with
  vise := 0, claims := 0, lockHost := false, lockRings := false, lockFabric := false, lockReset := false,
  mode := if h.fallback then 3 else 0, mainPg := false, stage := .auxReady, auxOn := true, thermtrip := down, rotation := 0,
  trained := false, abortsHeld := [] }

theorem lostState_parts (s : State) : (lostState s).time = (epochsAdvanced s).time ∧
    (lostState s).hub = lostHub (epochsAdvanced s).hub (dom (epochsAdvanced s) 28).down ∧
    (lostState s).evt = (epochsAdvanced s).evt ∧ (lostState s).mgt = warmMgt (epochsAdvanced s).mgt ∧
    (lostState s).fst.sysOffset = (epochsAdvanced s).fst.sysOffset ∧ (lostState s).rst.epochs = (epochsAdvanced s).rst.epochs ∧
    (lostState s).links = tmapAll {} coldEpochLink (epochsAdvanced s).links := by
  generalize hu : epochsAdvanced s = u
  rw [epochsAdvanced, portsDropped] at hu
  simp only [lostState, hu]
  exact ⟨trivial, rfl, trivial, trivial, trivial, trivial, rfl⟩

theorem hubSide_field {α : Type} (f : State → α) (hf : ∀ u, f (hubSide u) = f u) {s u : State} (h : hubSide u = hubSide s) :
    f u = f s := by
  rw [← hf u, h, hf]

theorem epochsAdvanced_field {α : Type} (f : State → α) (hf : ∀ u, f (hubSide u) = f u)
    (he : ∀ u l e, f { u with links := l, rst := { u.rst with epochs := e } } = f u) (s : State) : f (epochsAdvanced s) = f s := by
  obtain ⟨l, e, h⟩ := advanceAll_only (portsDropped s) Dom.warm 0
  rw [epochsAdvanced, h, he, hubSide_field f hf (hubSide_portsDropped s)]

theorem epochsAdvanced_evt (s : State) : (epochsAdvanced s).evt = (portsDropped s).evt := by
  obtain ⟨l, e, h⟩ := advanceAll_only (portsDropped s) Dom.warm 0
  rw [epochsAdvanced, h]

/-! ## The epochs after the loss (R356) -/

theorem epochOf_congr {u t : State} (hl : t.links = u.links) (he : t.rst.epochs = u.rst.epochs) (d i : Nat) :
    epochOf t d i = epochOf u d i := by
  simp only [epochOf, lnk, hl, he]

/-- A link that is cold keeps its epoch, and the epochs of all other domains are kept as they are. -/
theorem epochOf_of_cold {u t : State} (hl : t.links = tmapAll {} coldEpochLink u.links) (he : t.rst.epochs = u.rst.epochs)
    (hu : twf {} u.links = true) (d i : Nat) : epochOf t d i = epochOf u d i := by
  have hread : tget {} t.links i = coldEpochLink (tget {} u.links i) := by rw [hl, tget_tmapAll (by decide) hu]
  have hcold : (tget {} t.links i).epoch = (tget {} u.links i).epoch := by rw [hread]; rfl
  simp only [epochOf, lnk, he, hcold]

theorem links_portsDropped (s : State) : (portsDropped s).links = s.links :=
  hubSide_field State.links (fun _ => rfl) (hubSide_portsDropped s)

theorem epochs_portsDropped (s : State) : (portsDropped s).rst.epochs = s.rst.epochs :=
  hubSide_field (fun u => u.rst.epochs) (fun _ => rfl) (hubSide_portsDropped s)

theorem epochTables_portsDropped (h : EpochTables s) : EpochTables (portsDropped s) := by
  rw [EpochTables, links_portsDropped, epochs_portsDropped]
  exact h

theorem epochTables_epochsAdvanced (h : EpochTables s) : EpochTables (epochsAdvanced s) := by
  rw [epochsAdvanced]
  exact EpochTables.advanceAll (epochTables_portsDropped h) _ _

theorem epochOf_epochsAdvanced (h : EpochTables s) {d i : Nat} (hm : (d, i) ∈ innerDomains Dom.warm 0) :
    epochOf (epochsAdvanced s) d i = epochOf s d i + 1 := by
  rw [epochsAdvanced, epochOf_advanceAll_warm (epochTables_portsDropped h) hm,
    epochOf_congr (links_portsDropped s) (epochs_portsDropped s)]

theorem epochOf_lostState (h : EpochTables s) {d i : Nat} (hm : (d, i) ∈ innerDomains Dom.warm 0) :
    epochOf (lostState s) d i = epochOf s d i + 1 := by
  obtain ⟨-, -, -, -, -, he, hl⟩ := lostState_parts s
  rw [epochOf_of_cold hl he (epochTables_epochsAdvanced h).1, epochOf_epochsAdvanced h hm]

/-- What homes, rings, tasks and ports hold is gone. -/
def Emptied (u : State) : Prop := u.dram = [] ∧ u.spad = [] ∧ u.bbuf = [] ∧ u.pegs = [] ∧ u.rings = [] ∧ u.parts = [] ∧
  u.graphs = [] ∧ u.tasks = [] ∧ u.portA.linkUp = false ∧ u.portB.linkUp = false

theorem lostState_emptied (s : State) : Emptied (lostState s) := by
  simp only [Emptied, lostState, coldPort, and_self]

theorem lostHub_vise {g h : Hub} (e : { g with vise := 0 } = { h with vise := 0 }) (down : Bool) : lostHub g down = lostHub h down :=
  calc lostHub g down
    _ = lostHub { g with vise := 0 } down := rfl
    _ = lostHub { h with vise := 0 } down := by rw [e]
    _ = lostHub h down := rfl

/-- The state `u` is what a main-power loss leaves of `s`, but for what the TAP controller does to its pins (R428). -/
structure LostFrom (s u : State) : Prop where
  time : u.time = s.time
  hub : ∃ down, u.hub = lostHub s.hub down
  mgt : u.mgt = warmMgt s.mgt
  sysOffset : u.fst.sysOffset = s.fst.sysOffset
  evt : u.evt = (dropLink (dropLink s .a) .b).evt
  epochs : EpochTables s → ∀ d i, (d, i) ∈ innerDomains Dom.warm 0 → epochOf u d i = epochOf s d i + 1
  emptied : Emptied u

theorem lostFrom_lostState (s : State) : LostFrom s (lostState s) := by
  obtain ⟨htime, hhub, hevt, hmgt, hsys, -, -⟩ := lostState_parts s
  have hvise : { (epochsAdvanced s).hub with vise := 0 } = { s.hub with vise := 0 } :=
    epochsAdvanced_field (fun u => { u.hub with vise := 0 }) (fun _ => rfl) (fun _ _ _ => rfl) s
  refine ⟨?time, ⟨_, hhub.trans (lostHub_vise hvise _)⟩, ?mgt, ?sysOffset, ?evt, fun h d i hm => epochOf_lostState h hm,
    lostState_emptied s⟩
  case time => rw [htime, epochsAdvanced_field State.time (fun _ => rfl) (fun _ _ _ => rfl)]
  case mgt => rw [hmgt, epochsAdvanced_field State.mgt (fun _ => rfl) (fun _ _ _ => rfl)]
  case sysOffset => exact hsys.trans (epochsAdvanced_field (fun u => u.fst.sysOffset) (fun _ => rfl) (fun _ _ _ => rfl) s)
  case evt => rw [hevt, epochsAdvanced_evt, portsDropped]

theorem warmMgt_eid (m : Mgt) : (warmMgt m).eid = m.eid := by
  unfold warmMgt
  split <;> rfl

theorem warmMgt_idle {m : Mgt} (h : m.activating = []) : warmMgt m = m := by simp [warmMgt, h]

section
variable {u : State} (h : LostFrom s u)
include h

/-- STAGE is AUX_READY then, and the mode START-UP or RECOVERY. -/
theorem LostFrom.tapAllowed : tapAllowed u = true := by
  obtain ⟨down, hhub⟩ := h.hub
  rw [tapAllowed_iff, hhub]
  refine .inr ⟨fun hs => Stage.noConfusion hs, ?_⟩
  show (if s.hub.fallback then 3 else 0 : BitVec 2) ≠ 1
  split <;> decide

theorem LostFrom.keeps (pins : PinDrive) (out : List Output) :
    KeptByMainPowerLoss s { u with mgt := { u.mgt with tapPins := pins }, out := out } := by
  obtain ⟨htime, ⟨down, hhub⟩, hmgt, hsys, hevt, hepoch, -⟩ := h
  refine ⟨htime, by rw [hhub, lostHub], by rw [hhub, lostHub], by rw [hhub, lostHub], hsys, ?eid, fun h => ?mgt, hevt, fun ha hb => ?evt,
    fun hl he d i hm => hepoch ⟨hl, he⟩ d i hm, @mem_innerDomains_warm⟩
  case eid => exact (congrArg Mgt.eid hmgt).trans (warmMgt_eid _)
  case mgt => rw [hmgt, warmMgt_idle h]
  case evt =>
    have hdown := portsDropped_down ha hb
    rw [portsDropped] at hdown
    rw [hevt, hdown]

end

/-- The TAP controller acts on what the loss leaves, and its pins are all that changes. -/
theorem mainLoss_eq (s : State) :
    ∃ u pins out, LostFrom s u ∧ mainLoss s = { u with mgt := { u.mgt with tapPins := pins }, out := out } := by
  have hlost := lostFrom_lostState s
  obtain ⟨pins, out, hgate⟩ := tapGate_allowed hlost.tapAllowed
  exact ⟨lostState s, pins, out, hlost, hgate⟩

theorem exec_mainPowerLoss {mv : Nat} {en : Bool} (hpg : s.hub.mainPg = true) (h : en = false ∨ mv < 38000 ∨ 61000 < mv) :
    exec (.mainPowerLoss mv en) s = .next (mainLoss (setSupply s mv en)) := by
  refine congrArg _ (if_pos ?_)
  rcases h with h | h
  · rw [hpg, h]
    rfl
  · rw [hpg, decide_eq_true h, Bool.or_true]
    rfl

theorem exec_mainInputDipTimeout {mv : Nat} (hpg : s.hub.mainPg = true) (hlo : 38000 ≤ mv) (hhi : mv < 40000) :
    exec (.mainInputDipTimeout mv) s = .next (mainLoss (setSupply s mv s.hub.pwrEn)) := by
  refine congrArg _ (if_pos ?_)
  rw [hpg, decide_eq_true ⟨hlo, hhi⟩]
  rfl

end Sys2Proof.Laws

namespace Sys2Proof.Claims
open Sys2Proof Sys2Proof.Machine Sys2Proof.Laws

/-- Settles O7: a main-power loss leaves the always-on part, whatever the TAP controller then drives, and package cold the fuses and
the flash. -/
theorem powerLossKeepsTheAlwaysOnPart : Obligations.PowerLossKeepsTheAlwaysOnPart := by
  refine ⟨fun mv en s hpg h => ?rails, fun mv s hpg hlo hhi => ?dip, fun s haux => ?aux⟩
  case rails =>
    obtain ⟨u, pins, out, hlost, heq⟩ := mainLoss_eq (setSupply s mv en)
    have hkeeps := hlost.keeps pins out
    obtain ⟨-, ⟨down, hhub⟩, -, -, -, -, hdram, hspad, hbbuf, hpegs, hrings, hparts, hgraphs, htasks, hportA, hportB⟩ := hlost
    exact ⟨_, (exec_mainPowerLoss hpg h).trans (congrArg _ heq), congrArg Hub.mainPg hhub, congrArg Hub.stage hhub,
      (congrArg Hub.romOnly hhub :), hkeeps, congrArg Hub.millivolts hhub, congrArg Hub.pwrEn hhub, congrArg Hub.vise hhub,
      hdram, hspad, hbbuf, hpegs, hrings, hparts, hgraphs, htasks, hportA, hportB⟩
  case dip =>
    obtain ⟨u, pins, out, hlost, heq⟩ := mainLoss_eq (setSupply s mv s.hub.pwrEn)
    have hkeeps := hlost.keeps pins out
    obtain ⟨-, ⟨down, hhub⟩, -, -, -, -, hdram, hspad, hbbuf, hpegs, hrings, hparts, hgraphs, htasks, -⟩ := hlost
    exact ⟨_, (exec_mainInputDipTimeout hpg hlo hhi).trans (congrArg _ heq), congrArg Hub.mainPg hhub, congrArg Hub.stage hhub,
      (congrArg Hub.romOnly hhub :), hkeeps, congrArg Hub.millivolts hhub, hdram, hspad, hbbuf, hpegs, hrings, hparts, hgraphs, htasks⟩
  case aux =>
    exact ⟨coldState s, congrArg _ (if_pos haux), rfl, rfl, rfl, rfl, rfl, rfl, rfl, rfl, rfl, rfl, rfl, rfl, rfl, rfl, rfl, rfl, rfl,
      rfl, rfl, rfl, rfl, rfl⟩

end Sys2Proof.Claims
end
